-- ==== Sys2Proof/Word.lean ====
section
/-! DEFINITION. The word types of the LX1 model (R3, R4 of 00_scope.md): bytes, byte strings, the bit patterns of the float
formats, item keys and handles. Frame numbers and counts are natural numbers: R19 says that frame numbers do not wrap. -/

namespace Sys2Proof

/-- One byte. -/
abbrev Byte := BitVec 8

/-- A byte string as it lies in memory, lowest address first (R4: little-endian at every width). -/
abbrev Bytes := List Byte

/-- An fp32 bit pattern. -/
abbrev F32 := BitVec 32

/-- A 16-bit float bit pattern (bf16 or fp16). -/
abbrev F16 := BitVec 16

/-- An item key (R67). -/
abbrev Key := BitVec 64

/-- A channel or object handle (R327, R332). -/
abbrev Handle := BitVec 32

/-- A table by number: pairs of a number and a value, numbers strictly rising. -/
abbrev Tbl (α : Type) := List (Nat × α)

end Sys2Proof
end

