-- ==== Sys2Proof/Machine/Parts.lean ====
section
/-! DEFINITION. The parts that commands, messages and State are made of: what travels between nodes (R101 to R113, R200 to R218, R394),
channels and their commands, indexes, allow-sets, tables, and the work that a node holds for them. -/

namespace Sys2Proof

/-- A candidate, re-rank or ranked entry (R107), with the payload and record data that travel beside a ranked one. -/
structure Cand where
  key      : Key
  ordinal  : Nat
  orderKey : Nat
  region   : Nat
  list     : Nat
  slot     : Nat
  score    : F32
  exact    : Bool
  est      : Bool
  tie      : Bool
  rescored : Bool
  noPay    : Bool
  owner    : Nat
  payload  : Bytes
  deriving DecidableEq, Repr, Inhabited

/-- A filter of a SEARCH (R93, R95): none, facet terms (mask, value), or an allow-set handle. -/
inductive Filter where
  | none
  | facet (terms : List (Nat × Nat))
  | allow (set : Handle)
  deriving DecidableEq, Repr, Inhabited

/-- The SCATTER message of R101. `routes` gives each route position its region and the region's rank RR (R150). -/
structure Scatter where
  home     : Nat
  seq      : Nat
  snapshot : Nat
  slot     : Nat
  object   : Handle
  routes   : List (Nat × Nat × Nat)
  np       : Nat
  c        : Nat
  filter   : Filter
  query    : List F16
  deriving DecidableEq, Repr, Inhabited

/-- The candidates of one owner for one query (R106): per route position whether all its lists were scanned (R114). -/
structure CandList where
  home      : Nat
  seq       : Nat
  owner     : Nat
  covered   : List (Nat × Bool)
  unscanned : Nat
  media     : Bool
  cutOff    : Bool
  cands     : List Cand
  deriving DecidableEq, Repr, Inhabited

/-- The re-rank request of R106, with the K, W and payload wish that RANK needs (R113). -/
structure Rerank where
  home    : Nat
  seq     : Nat
  owner   : Nat
  k       : Nat
  w       : Nat
  payload : Bool
  span    : Nat
  /-- Entries of a holder whose output was lost, ranked anew by the other one (R399). -/
  again   : Bool
  entries : List Cand
  deriving DecidableEq, Repr, Inhabited

/-- The local top-k of one owner (R113). -/
structure Local where
  home   : Nat
  seq    : Nat
  owner  : Nat
  media  : Bool
  cutOff : Bool
  late   : Bool
  reranked  : Nat
  estimated : Nat
  tied   : Bool
  top    : List Cand
  deriving DecidableEq, Repr, Inhabited

/-- The body of an update on its way to its holders (R74, R201, R212, R215, R347). -/
inductive UpdBody where
  /-- A stored vector, in the layout of R72 without payload and row sum. -/
  | upsert (key : Key) (facet : Nat) (vec : Bytes) (payload : Bytes) (prior target : Nat)
  | delete (key : Key) (prior : Nat)
  | setEdit (set : Handle) (edits : List (Nat × Key × Nat × Bool))
  | apply (lr : F32) (contribs : List (Nat × Nat × List F32))
  | replace (stateReset : Bool) (rows : List (Nat × Bytes))
  | bound (key : Key) (row : Nat) (vec : Bytes) (prior target : Nat)
  deriving DecidableEq, Repr, Inhabited

/-- An update message: its home, admission sequence there, admission frame, and body. -/
structure Upd where
  home   : Nat
  seq    : Nat
  frame  : Nat
  slot   : Nat
  object : Handle
  /-- For the generation that a BUILD has made and that is not in force yet (R87). -/
  next   : Bool
  body   : UpdBody
  deriving DecidableEq, Repr, Inhabited

/-- An announcement of R394, R62, R191 or R283: what changes at step 4 of the commit window of the frame
of the announcement. -/
inductive Announce where
  | route (slot : Nat) (object : Handle) (number : Nat) (entry : Nat)
  | hotMap (slot : Nat) (object : Handle) (row : Nat) (entry : Nat)
  | holding (from_ node slot : Nat) (object : Handle) (number : Nat) (state : Nat)
  deriving DecidableEq, Repr, Inhabited

/-- An item slot (R66, R67). `dead` is the frame whose commit window published its tombstone. -/
structure Slot where
  key    : Key
  facet  : Nat
  row    : Nat
  norm   : F16
  pub    : Nat
  sketch : Nat
  folio  : Nat
  record : Nat
  rowsum : Int
  dead   : Option Nat
  /-- The frames in which the primary published the slot and its tombstone: a buddy may trail (R50, R69). -/
  due     : Nat
  deadDue : Nat
  /-- Sketch, NORM and the frame that replaced them, for 8 frames (R216). -/
  older  : List (Nat × F16 × Nat)
  deriving DecidableEq, Repr, Inhabited

/-- One list's extent or one batch of records or rows on the move (R90, R218, R397). -/
inductive Move where
  | centroids (slot : Nat) (object : Handle) (region : Nat) (lists : List (Nat × List F16))
  | extent (slot : Nat) (object : Handle) (region list : Nat) (version mainSlots : Nat)
      (centroid : List F16) (slots : List Slot)
  | records (slot : Nat) (object : Handle) (region : Nat) (recs : List (Nat × Nat × Bytes))
  /-- Rows of a shard, or hot rows, copied up to a row. -/
  | rows (slot : Nat) (object : Handle) (number upto : Nat) (rows : List (Nat × Nat × Bytes))
  | forward (slot : Nat) (object : Handle) (rows : List (Nat × F32 × List F32))
  | accepted (id : Nat)
  /-- Items on their way to build staging (R85): region, key, facet, stored vector, payload. -/
  | staging (slot : Nat) (object : Handle) (items : List (Nat × Key × Nat × Bytes × Bytes))
  | trained (slot : Nat) (object : Handle) (region : Nat) (lists : List (List F16))
  deriving DecidableEq, Repr, Inhabited

end Sys2Proof

namespace Sys2Proof.Machine

/-! ### Channels, rings and commands -/

/-- A channel's state (R333); EMPTY is the absence of a channel. -/
inductive ChState where
  | active | detached | faulted | retired
  deriving DecidableEq, Repr

/-- A ring pair (R337, R339, R340, R342). `unread` counts completion entries written and not reported consumed. -/
structure Ring where
  sqAddr  : Nat
  cqAddr  : Nat
  log2    : Nat
  vector  : Nat
  intEn   : Bool
  sqTail  : Nat
  sqHead  : Nat
  cqTail  : Nat
  cqHead  : Nat
  phase   : Bool
  unread  : Nat
  intDue  : Bool
  dead    : Bool
  deriving DecidableEq, Repr

/-- The bucket settings (R341, R350). -/
structure Bucket where
  cir      : Nat
  cbs      : Nat
  pir      : Nat
  pbs      : Nat
  overhead : Nat
  deriving DecidableEq, Repr

/-- The RWA values of a channel (R40). -/
structure Rwa where
  swapped  : Bool
  partGran : Nat
  slipGran : Nat
  deriving DecidableEq, Repr

/-- An update of a channel that completes at visibility, until it is durable (R348): its landing and admission sequence, the
frame in which its completion at durability would be written where that frame is known, and the replicas whose checkpoint
pass an APPLY still waits for (R209). -/
structure Vol where
  land   : Nat
  seq    : Nat
  due    : Option Nat
  expect : List Nat
  deriving DecidableEq, Repr

/-- A channel (R335 to R338, R248, R355). Shares and their use stand in the order of R56. -/
structure Chan where
  fn         : Nat
  gen        : Nat
  st         : ChState
  rings      : List Ring
  rwa        : Rwa
  pend       : Rwa
  fetchSpan  : Nat
  encrypt    : Bool
  partSectors : Nat
  deferMax   : Nat
  police     : Bool
  bucket     : Bucket
  bucketNext : Bucket
  cTok       : Nat
  pTok       : Nat
  policed    : BitVec 32
  discards   : BitVec 32
  refusedW   : Bool
  sealedAt   : List Nat
  openAt     : List Nat
  openUsed   : Nat
  flashGran  : Nat
  /-- The runs of logical folio numbers that it holds (R277). -/
  flashAt    : List Nat
  easelSlots : Nat
  gateGran   : Nat
  shares     : List Nat
  homeUsed   : List Nat
  ownUsed    : List Nat
  /-- Charges of accepted re-issues by frame (R108). -/
  reissues   : List (Nat × List Nat)
  faultAt    : List Nat
  faults     : Nat
  lastCause  : Nat
  /-- The KEY_ID of the channel key installed in the attachment (R381, R383), the key, and the KEY_ID and check value stored at the
  first one. -/
  key        : Option Nat
  keyBytes   : Bytes
  checkValue : Option (Nat × Nat)
  /-- Updates that completed at visibility and are not yet durable (R348). -/
  volatile   : List Vol
  /-- Sector-memory partition and slipcase contents (R46 to R48), sector s at addresses s × 2^24 on, and what the swap pool holds of
  the slipcase: sector, granule offset, cells. -/
  part       : List Host.Cell
  slipcase   : List Host.Cell
  pool       : List (Nat × Nat × List Host.Cell)
  deriving DecidableEq, Repr

/-- A completion that is due (R342, R22). -/
structure Done where
  status    : Nat
  frame     : Nat
  result    : Nat
  detail    : Nat
  detailBuf : Nat
  data      : List (Nat × Bytes)
  deriving DecidableEq, Repr

/-- What a home holds of a SEARCH or FETCH on its way (R97 to R116). -/
structure Query where
  np      : Nat
  wEff    : Nat
  query   : List F16
  deliv   : List F16
  route   : List Nat
  /-- Owners with the route positions that each serves (R101), and those that no SCATTER window has sent to yet. -/
  owners  : List (Nat × List Nat)
  todo    : List Nat
  cands   : List CandList
  set     : List Cand
  tie0    : Bool
  /-- Re-rank lists sent, by owner (R106, R399). -/
  sent    : List (Nat × List Cand)
  locals  : List Local
  rec?    : Option (Nat × Bool × Nat × Bytes × Bytes)
  cut     : Bool
  /-- Owners whose input was lost and replayed from the other holder (R399). -/
  lost    : List Nat
  widened : Bool
  /-- Frames of replay (R398), and how far the query has come: 0 admitted, 1 routed, 2 scattered, 3 nominated. -/
  delay   : Nat
  step    : Nat
  deriving DecidableEq, Repr

/-- A command that has landed on a ring and is not completed (R21, R58, R96). `land` numbers the landings; `elig` is its
first eligible frame; `adm` its admission frame. -/
structure Cmd where
  land     : Nat
  slot     : Nat
  ring     : Nat
  pos      : Nat
  /-- When it landed, in ns of frame time (R314). -/
  at_      : Nat
  op       : Nat
  cid      : Nat
  object   : Handle
  entry    : Bytes
  bufs     : Option (List Bytes)
  elig     : Nat
  passed   : Bool
  deferred : Nat
  adm    : Option Nat
  /-- The mode of the admission frame: exact (R55). -/
  exact    : Bool
  seq      : Nat
  q        : Option Query
  /-- Holders' reports of an update (owner, status, accepted, dropped, found), holders expected, and its target region. -/
  reports  : List (Nat × Nat × Nat × Nat × Nat)
  expect   : List Nat
  target   : Nat
  clipped  : Nat
  durables : List Nat
  rows     : List (Nat × Bytes)
  done     : Option Done
  /-- The address of its completion entry once written in this frame (R318). -/
  wrote    : Option Nat
  deriving DecidableEq, Repr

/-! ### Indexes -/

/-- A list's extent as it stood before the commit window of a frame: the list's centroid, the extent's first line, the slots of its main
area and all its slots (R53, R68, R80). -/
structure Extent where
  frame     : Nat
  centroid  : List F16
  firstLine : Nat
  mainSlots : Nat
  slots     : List Slot
  deriving DecidableEq, Repr

/-- A list of a region (R68): its centroid with CC (R183), its slots, main area first, and the extents it superseded. -/
structure IList where
  centroid  : List F16
  firstLine : Nat
  mainSlots : Nat
  slots     : List Slot
  heat      : Nat
  scanned   : Nat
  tipinFull : Bool
  older     : List Extent
  deriving DecidableEq, Repr

/-- The attributes of an index (R63). -/
structure IndexAttr where
  regions    : Nat
  listsInit  : Nat
  dim        : Nat
  fmt        : Nat
  metric     : Nat
  sketchBits : Nat
  seed       : Nat
  payloadLen : Nat
  rows       : Nat
  tipin      : Nat
  splitAt    : Nat
  mergeAt    : Nat
  heatShift  : Nat
  exactQuery : Bool
  deriving DecidableEq, Repr

/-- One generation of an index's structures (R60, R85, R87). `blank` is set until a BUILD: REGIONS, LISTS_INIT, DIM and TIPIN_LINES, for
the regions and lists that are not listed, whose centroids are zero as the units are at first (R226; log entry 15). -/
structure IndexGen where
  blank     : Option (Nat × Nat × Nat × Nat)
  centroids : Tbl (List F16)
  lists     : Tbl (Tbl IList)
  deriving DecidableEq, Repr

/-- An index (R60 to R78, R87). `rowsUsed` are the local rows assigned (R70); `tombUnits` the open units of its tombstone
set (R77, R232); `tombLog` the tombstones of the last 8 frames (row, frame). -/
structure Index where
  attr      : IndexAttr
  route     : List Nat
  cur       : IndexGen
  /-- The generation replaced at the commit window of P, held for R53. -/
  old       : Option (Nat × IndexGen)
  /-- A built generation and its PUBLISH frame P (R87). -/
  next      : Option (Nat × IndexGen)
  rowsUsed  : List Nat
  rowsFreeable : List (Nat × Nat)
  tombUnits : List Nat
  /-- Rows tombstoned, as the index checkpoint and the journalled tombstones and releases since have them (R237). -/
  tombRows  : List Nat
  tombLog   : List (Nat × Nat)
  dropped   : Option Nat
  deriving DecidableEq, Repr

/-- An allow-set (R83, R84, R234, R235). `ops` and `sets` of a derived set; `fresh` until its first combination or zeroing. -/
structure AllowSet where
  index   : Handle
  derived : Bool
  ops     : List Nat
  sets    : List Handle
  units   : List Nat
  stamp   : Nat
  fresh   : Bool
  dirty   : List Nat
  /-- INIT steps that each near-bank unit has made for a new base set in this frame (R235), and the rows of a base set, as the index
  checkpoint and the journalled edits, copies and clears since have them (R237). -/
  inits   : Nat
  rows    : List Nat
  /-- Bits of a base set before a change (frame, row, bit), for the versions that R53 keeps. -/
  bitLog  : List (Nat × Nat × Bool)
  dropped : Option Nat
  deriving DecidableEq, Repr

/-- A rescoring graph (R137, R138): the image in force, those it replaced and when, oldest first (R53), and those that wait for their A',
the earliest first. -/
structure Graph where
  image   : Bytes
  older   : List (Nat × Bytes)
  next    : List (Nat × Bytes)
  deriving DecidableEq, Repr

/-- A palette generation (R303). -/
structure Palette where
  gen    : Nat
  code   : Nat
  dim    : Nat
  limit  : Nat
  scales : List F32
  pub    : Nat
  deriving DecidableEq, Repr

/-- A palette stream (R302, R304, R310). -/
structure Stream where
  slot    : Nat
  object  : Handle
  kind    : Nat
  cur     : Option Palette
  prev    : Option Palette
  next    : Option Palette
  clipped : Nat
  deriving DecidableEq, Repr

/-! ### Tables -/

/-- The attributes of a table (R188). -/
structure TableAttr where
  rows      : Nat
  dim       : Nat
  fmt       : Nat
  optim     : Nat
  stFmt     : Nat
  mu        : F32
  beta1     : F32
  beta2     : F32
  eps       : F32
  shardRows : Nat
  initUniform : Bool
  initSeed  : Nat
  initScale : F32
  gradP4    : Bool
  ckpt      : Nat
  heatShift : Nat
  bound     : Handle
  keyBase   : Nat
  deriving DecidableEq, Repr

/-- A row that has been changed: its image, the frame of that version, the versions it superseded (frame, image). -/
structure Row where
  image : Bytes
  frame : Nat
  older : List (Nat × Bytes)
  deriving DecidableEq, Repr

/-- A write-behind capture (R217): row, version frame c, image, whether its record is written. -/
structure Capture where
  row     : Nat
  frame   : Nat
  image   : Bytes
  written : Bool
  deriving DecidableEq, Repr

/-- A table (R188 to R193, R209, R217). Rows not listed hold the value of R192. -/
structure Table where
  attr     : TableAttr
  route    : List Nat
  hot      : Tbl Nat
  rows     : Tbl Row
  heat     : Tbl Nat
  counts   : Tbl Nat
  top      : Tbl (List Nat)
  /-- Checkpointed images by row (frame, image); the running pass (start frame, rows to write); the last pass's start. -/
  saved    : Tbl (Nat × Bytes)
  pass     : Option (Nat × List Nat)
  changed  : List Nat
  closed   : Nat
  /-- Rows changed since their last capture, captures pending, the row captured last. -/
  capElig  : List Nat
  captures : List Capture
  /-- Of a bound table, by row: the region of the item of its key (R215); rows changed by the last publication. -/
  items    : Tbl Nat
  fresh    : List Nat
  dropped  : Option Nat
  deriving DecidableEq, Repr

/-! ### Owner-side work and updates -/

/-- One query's part in the frame's passes over a list (R155 to R159): the easel entry of the window that took it, the query (channel
slot, home, sequence), the list (object, region, list), C, KC, b, the list's lines, and for each core its batch cycles and the words that its slots offer, in slot order. -/
structure ScanPart where
  entry : Nat
  slot  : Nat
  query : Nat × Nat
  list  : Nat × Nat × Nat
  c     : Nat
  kc    : Nat
  b     : Nat
  lines : Nat
  batch : List Nat
  words : List (List Nat)
  deriving DecidableEq, Repr

/-- What an owner holds of a query it serves (R101 to R113). -/
structure OwnerQ where
  sc      : Scatter
  frame   : Nat
  /-- Per route position, the lists chosen by ROUTE_2 in ascending comparison word; empty until then. -/
  chosen  : List (Nat × List Nat)
  sketch  : Nat
  routed  : Bool
  scanned : Bool
  rerank  : Option Rerank
  /-- The first FETCH frame of the re-rank list, frames of replay included. -/
  fetchAt : Nat
  cutOff  : Bool
  media   : Bool
  /-- Re-rank entries planned for reading and the outcome of each read: 0 outstanding, 1 read, 2 late, 3 uncorrectable. -/
  reads   : List (Cand × Nat)
  beyond  : List Cand
  planned : Bool
  ranked  : List Cand
  layer   : Nat
  rows    : List (Key × List F32)
  deriving DecidableEq, Repr

/-- A FETCH at its owner (R346): request and read state. -/
structure OwnerF where
  home     : Nat
  seq      : Nat
  slot     : Nat
  object   : Handle
  snapshot : Nat
  key      : Key
  region   : Nat
  vec      : Bool
  span     : Nat
  /-- Its first FETCH frame; 0 asked, 1 reading, 2 read, 3 late, 4 uncorrectable, 5 not read (R110, R273). -/
  fetchAt  : Nat
  state    : Nat
  deriving DecidableEq, Repr

/-- What step 2 of the commit window publishes (R24, R25). `hold` is the frame whose commit window publishes it. -/
inductive Stage where
  | slot (chan : Nat) (object : Handle) (region list : Nat) (s : Slot)
      (rec : Bytes) (copyRow : Option Nat)
  | tomb (chan : Nat) (object : Handle) (region list : Nat) (key : Key)
  | bit (chan : Nat) (set : Handle) (region : Nat) (key : Key) (b : Bool)
  /-- `put`: set by a REPLACE_ROWS (some false) or a bound UPSERT (some true), and so journalled (R208, R209). -/
  | row (chan : Nat) (object : Handle) (row : Nat) (image : Bytes) (put : Option Bool)
  | rewrite (chan : Nat) (object : Handle) (region list : Nat) (key : Key) (sketch : Nat) (norm : F16) (rowsum : Int)
  /-- A record of a slot written again elsewhere (R217, R264): its new place. -/
  | locator (chan : Nat) (object : Handle) (region list : Nat) (key : Key) (folio record : Nat)
  deriving DecidableEq, Repr

structure StagedItem where
  hold : Nat
  home : Nat
  seq  : Nat
  /-- The frame in which the primary publishes it (R50). -/
  due  : Nat
  /-- For the generation that is not in force yet, and the admission frame of its update (R87). -/
  next : Bool
  adm  : Nat
  item : Stage
  deriving DecidableEq, Repr

/-- An update published here that is still to be reported durable (R208, R209): its publication frame, and whether it waits for
a checkpoint pass of its table. -/
structure Dur where
  frame  : Nat
  home   : Nat
  seq    : Nat
  slot   : Nat
  object : Handle
  apply  : Bool
  deriving DecidableEq, Repr

/-- A list operation scheduled by R79: 0 compact, 1 split, 2 merge. At a holder that is not the primary `event` is the frame in which
the primary published it. -/
structure ListOp where
  slot   : Nat
  object : Handle
  region : Nat
  list   : Nat
  kind   : Nat
  frame  : Nat
  into   : Nat
  event  : Option Nat
  ready  : Option (List (Nat × IList))
  deriving DecidableEq, Repr

/-- A holding's state (R394): 0 IN_STEP, 1 OUT_OF_STEP, 2 ACTING. -/
structure Holding where
  node   : Nat
  slot   : Nat
  object : Handle
  number : Nat
  state  : Nat
  deriving DecidableEq, Repr

/-- A migration, rebuild or restore copy (R89 to R92, R218, R397). `what`: 0 region, 1 shard, 2 hot rows, 3 rebuild. -/
structure Mig where
  id       : Nat
  what     : Nat
  slot     : Nat
  object   : Handle
  number   : Nat
  role     : Nat
  dest     : Nat
  peer     : Nat
  folios   : Nat
  start    : Nat
  rows     : List Nat
  source   : Bool
  accepted : Bool
  /-- List centroids sent; lists whose extent is copied; records of the list at work, or rows of the shard, copied. -/
  table    : Bool
  extents  : List Nat
  done     : Nat
  /-- Combined steps of frame f to be forwarded (R218): row, rate, sum. -/
  fwd      : List (Nat × F32 × List F32)
  /-- Records or rows copied in a frame, and whether the move ends early. -/
  sent     : Nat × Nat
  cancel   : Bool
  /-- The frame c of the last copy. -/
  ended    : Option Nat
  /-- Sealed bytes that the destination reserves (R90), and bytes that the source has sent in a frame (R92). -/
  space    : Nat
  bytes    : Nat × Nat
  deriving DecidableEq, Repr

/-- A BUILD (R85 to R87): its last phase, whether that is at work, its work left and total, the samples of TRAIN_REGIONS or the items
of LOAD, and the generation under construction with its staged items (region, key, facet, stored vector, payload). -/
structure Build where
  slot   : Nat
  object : Handle
  phase  : Nat
  iter   : Nat
  since  : Nat
  left   : Nat
  total  : Nat
  gen    : IndexGen
  staged : List (Nat × Key × Nat × Bytes × Bytes)
  sample : Bytes
  items  : List (Key × Nat × Bytes × Bytes)
  running : Bool
  deriving DecidableEq, Repr

/-- What a logical folio is (R243): 0 record folio, 1 table folio; its owner and object, its first row, the records written, and the frame
in which a record folio was closed. -/
structure Folio where
  kind   : Nat
  slot   : Nat
  object : Handle
  first  : Nat
  used   : Nat
  closed : Option Nat
  deriving DecidableEq, Repr

/-- What a shadow holds of its target when it begins to run (R409), after the commit window of a frame: the channel and object settings, every holding, and the work in
progress, without which no digest of the frames that follow could agree (DESIGN CHOICE, log entry 93). `seq` and `land` are the numbers
of the next admission and landing. -/
structure ShadowCopy where
  frame   : Nat
  seq     : Nat
  land    : Nat
  chans   : Tbl Chan
  work    : List Cmd
  ownerQs : List OwnerQ
  ownerFs : List OwnerF
  updIn   : List (Nat × Upd)
  heldUpd : List (Nat × Upd)
  staged  : List StagedItem
  durs    : List Dur
  listOps : List ListOp
  indexes : Tbl Index
  sets    : Tbl AllowSet
  tables  : Tbl Table
  graphs  : Tbl Graph
  streams : List Stream
  builds  : List Build
  holdings : List Holding
  cells   : List Host.Cell
  recs    : Tbl Bytes
  keys    : Tbl Key
  folios  : Tbl Folio
  open_   : Tbl (Nat × Nat)
  deriving DecidableEq, Repr, Inhabited

end Sys2Proof.Machine
end

