-- ==== Sys2Proof/Syntax.lean ====
section
/-! DEFINITION. The commands of the LX1 node: one constructor of `Instr` for each row of spec/opcode_table.json, with the
operands that reach the node with it. What the node reads from outside itself (a parameter block, a submission entry, a host
buffer, a packet, the outcome of a physical check) is an operand; everything else is in State. -/

namespace Sys2Proof

/-- A mailbox command as GO starts it (R322, R324): the issuing function, the core cycle of the frame at which GO arrives
(R462), the contents of MB_CMD, and what the node reads from host memory for it. -/
structure Go where
  fn     : Nat
  cycle  : Nat
  tag    : Nat
  chan   : Handle
  pbAddr : Nat
  pbLen  : Nat
  /-- ARGS, 44 bytes from offset 0x14 (R326). -/
  args   : Bytes
  /-- The parameter block or image as read, PB_LEN bytes. -/
  pb     : Bytes
  /-- The first further buffer that the arguments or the block name (a route table, relay table, sample or row list). -/
  ext1   : Bytes
  /-- The second one (the spare-group table of ARRAY_JOIN). -/
  ext2   : Bytes
  /-- `some o`: the host port's read of the block failed, and o is the lowest byte of the failing request (R458). -/
  fail   : Option Nat
  /-- The same for the two further buffers. -/
  fail1  : Option Nat
  fail2  : Option Nat
  deriving DecidableEq, Repr, Inhabited

/-- The payload of a fabric packet or message, by its KIND (R286). KINDs 0 and 1 have rows of their own. -/
inductive Msg where
  | scatter (m : Scatter)
  | cands (m : CandList)
  | rerank (m : Rerank)
  | locals (m : Local)
  | fetchReq (home seq slot : Nat) (object : Handle) (snapshot : Nat) (key : Key) (region : Nat) (vec : Bool) (span : Nat)
  | fetchRec (home seq : Nat) (status : Nat) (found : Bool) (facet : Nat) (payload vec : Bytes)
  | lookupReq (home seq slot : Nat) (object : Handle) (snapshot : Nat) (fmt : Nat) (rows : List (Nat × Nat))
  | lookupRows (home seq owner : Nat) (cut : Bool) (rows : List (Nat × Bytes))
  | update (u : Upd)
  | report (home seq owner : Nat) (status : Nat) (accepted dropped found : Nat)
  | ack (owner slot : Nat) (object : Handle) (region frame : Nat)
  | receipt (owner slot : Nat) (object : Handle) (region frame : Nat) (counts : List (Nat × Nat)) (digest : Nat)
  | announce (frame : Nat) (a : Announce)
  | durable (home seq owner : Nat)
  /-- An index event (R69, R78): the operation of R79 to R82 on a list, the frames in which it was scheduled and published. -/
  | event (slot : Nat) (object : Handle) (region list kind into e0 e : Nat)
  /-- The allow-set bits of an item that an UPSERT moves to a region of other owners (R76): target region, key, sets with their bits. -/
  | bits (slot : Nat) (object : Handle) (region : Nat) (key : Key) (next : Bool) (adm : Nat) (sets : List (Handle × Bool))
  /-- A bound item that moves to a region of other owners (R216): the update's home and sequence, target region, key, facet, vector, payload
  and the sets with their bits. -/
  | moved (home seq slot : Nat) (object : Handle) (region prior : Nat) (key : Key) (adm facet : Nat) (vec payload : Bytes)
      (sets : List (Handle × Bool))
  /-- Where the item of a bound row is now (R215): table, row and region. -/
  | itemAt (slot : Nat) (object : Handle) (row region : Nat)
  /-- An UPSERT refused at its target's owner: the tombstones that it staged elsewhere are withdrawn (R70, R78). -/
  | withdraw (home seq slot : Nat) (object : Handle)
  | move (dst : Nat) (m : Move)
  | resend (object : Handle) (gen : Nat) (groups : List Nat)
  /-- What a target copies and mirrors to its shadow (R408, R409), each with its frame: a packet consumed at a cycle, with its SRC, groups,
  generation and length check; an admitted command with the buffers that it read; the outcome of a FETCH entry (1 read, 2 late, 3
  uncorrectable, 5 not read); the number of these in a frame, at its end; and the copy, with the messages that wait for owner stages or
  for their frame. -/
  | mirrorPacket (frame cycle src : Nat) (m : Msg) (groups : List (Nat × Bool)) (gen : Option (Nat × Nat)) (lenOk : Bool)
  | mirrorCmd (frame : Nat) (c : Machine.Cmd)
  | mirrorFetch (frame home seq slot : Nat) (key : Key) (outcome : Nat)
  | mirrorEnd (frame count : Nat)
  | shadowCopy (c : Machine.ShadowCopy)
  | shadowInbox (frame : Nat) (m : Msg)
  | shadowOutbox (frame dst slot : Nat) (m : Msg)
  deriving DecidableEq, Repr, Inhabited

/-- A packet header (R285). -/
structure Header where
  cls    : Nat
  kind   : Nat
  src    : Nat
  dst    : Nat
  hops   : Nat
  len    : Nat
  slot   : Nat
  fn     : Nat
  node   : Bool
  frame  : Nat
  seq    : Nat
  deriving DecidableEq, Repr, Inhabited

/-- A packet with its message. `groups` gives, for a palette message, each group's number and whether its CRC-16 and codes
are good (R309); `gen` its PAL_GEN and `lenOk` the outcome of check 2. -/
structure Packet where
  hdr    : Header
  msg    : Msg
  groups : List (Nat × Bool)
  gen    : Option (Nat × Nat)
  lenOk  : Bool
  /-- Bytes of the palette stream that the message carries (R308); 0 for none. -/
  stream : Nat := 0
  deriving DecidableEq, Repr, Inhabited

/-- An order record of a heartbeat (R402): kind 1 TAKEOVER, 2 ROLLBACK, 3 CONFIRM, 4 PROMOTE, 5 VACATE. -/
structure Order where
  kind    : Nat
  subject : Nat
  phys    : Nat
  issuer  : Nat
  frame   : Nat
  deriving DecidableEq, Repr, Inhabited

/-- A miss report of a heartbeat (R402). -/
structure MissReport where
  witness : Nat
  missing : Nat
  frame   : Nat
  deriving DecidableEq, Repr, Inhabited

/-- An Ulla heartbeat (R402). -/
structure Heartbeat where
  sender      : Nat
  locked      : Bool
  selfSuspect : Bool
  fenced      : Bool
  shadowing   : Bool
  frame       : Nat
  frameDigest : Nat
  entryDigest : Nat
  faulted     : Nat
  orders      : List Order
  reports     : List MissReport
  deriving DecidableEq, Repr, Inhabited

/-- A host-port access that ended in error (R359, R458): a submission entry's read, a completion's, result's or report's
write, a read of a buffer that a command names (field offset, byte offset), an event record's write, or a read of a
mailbox parameter block. -/
inductive AccessFail where
  | entryRead (ring : Nat)
  | write (ring : Nat)
  | buffer (ring pos field byte : Nat)
  | event (fn : Nat)
  | mailbox (fn byte : Nat)
  deriving DecidableEq, Repr, Inhabited

/-- What the checks of a frame and of its commit window found: the stage codes of engines still busy at step 1 and whether one was
still busy at step 2 (R44); arrays (as a mask of bits 4 s + a) and tiles (as 100 × sector + tile) whose known-answer pass failed, and
the commands whose work a failed tile had done (slot, home, sequence; R185, R388); arrays with a residue or parity failure, the commands with rows in the units that those arrays lost (R185), and tiles
with an uncorrectable SRAM word (R389); SRAM faults in partitions (slot and address, R359 cause 4); whether a word of control-complex
SRAM was uncorrectable or a device-section write failed read-back (R391). -/
structure CwIn where
  busy      : List Nat
  stuck     : Bool
  arrayFail : Nat
  tileFail  : List Nat
  tileWork  : List (Nat × Nat × Nat)
  residue   : List Nat
  arrayWork : List (Nat × Nat × Nat)
  tileWords : List Nat
  partFail  : List (Nat × Nat)
  selfFail  : Bool
  deriving DecidableEq, Repr, Inhabited

/-- A die profile (R252), times in ns. -/
structure Profile where
  planes   : Nat
  page     : Nat
  spare    : Nat
  pages    : Nat
  qlc      : Bool
  tR       : Nat
  tRSlc    : Nat
  tSus     : Nat
  tProgSlc : Nat
  tProg    : Nat
  tBers    : Nat
  peLimit  : Nat
  rdLimit  : Nat
  retry    : Nat
  deriving DecidableEq, Repr, Inhabited

/-- What enumeration and training find on a flash channel (R251 to R253): chip enables, LUNs of each, the profile in the firmware image that
the JEDEC IDs of its dies match, whether every die has the required features, and the highest rate in MT/s that passed training. -/
structure FlashFound where
  ces      : Nat
  luns     : Nat
  profile  : Option Profile
  features : Bool
  rate     : Option Nat
  deriving DecidableEq, Repr, Inhabited

/-- Outcomes of the steps of a start (R433, R434), as the ROM and the media give them. -/
structure StartIn where
  /-- The failure cause of the first failing step, or none (R435). `tileBist` names the failing physical tiles as (sector,
  position 0 to 104). -/
  fail        : Option Nat
  arrayBist   : Nat
  tileBist    : List (Nat × Nat)
  /-- Whether the regulator's VOUT_MODE reports the linear format (R413). -/
  linear      : Bool
  /-- Stacks that trained, and the capacity found in each, in GiB (R2). -/
  stackCount  : Nat
  stackGib    : Nat
  /-- DRAM pseudo-channels that failed in step 4. -/
  badPseudo   : List Nat
  /-- The populated flash channels by number. -/
  flash       : List (Nat × FlashFound)
  mapFound    : Bool
  lanes       : List Nat
  neighbours  : List Nat
  linkDelays  : List Nat
  timeNs      : Nat
  heardFrame  : Option (Nat × Nat)
  deriving DecidableEq, Repr, Inhabited

/-- A near-bank operation (R227). -/
inductive NbOp where
  | copy | init (p : BitVec 64) | and | or | xor | andnot | not
  deriving DecidableEq, Repr, Inhabited

/-- The outcome of a flash read (R256): data, with each codeword that needed a step beyond 0 as (codeword, step that decoded it, retry levels
read), uncorrectable, or late. -/
inductive ReadOutcome where
  | data (climbs : List (Nat × Nat × Nat))
  | uncorrectable
  | late
  deriving DecidableEq, Repr, Inhabited

/-- What an uncorrectable word of DRAM belongs to (R392): of an index its region centroids, sketch matrix or graph weights, the list centroids
or the key directory of a region, a list's extent; a table row; or what no command names. -/
inductive LostPart where
  | regions | sketch | weights | lists (region : Nat) | keys (region : Nat) | extent (region list : Nat) | row (row : Nat) | other
  deriving DecidableEq, Repr, Inhabited

/-- A word that the SEC-DED path finds uncorrectable (R223, R392): its DA, and the object with the part of it that stands there. -/
structure LostWord where
  da     : Nat
  object : Handle
  part   : LostPart
  deriving DecidableEq, Repr, Inhabited

/-- What a window's reads of DRAM meet (R223): words corrected, and words that are uncorrectable. -/
structure ReadFaults where
  corrected : Nat
  words     : List LostWord
  deriving DecidableEq, Repr, Inhabited

/-- Reads that meet no fault. -/
def ReadFaults.sound : ReadFaults := { corrected := 0, words := [] }

/-- A window whose work reads the stacks: the number of its easel entry, and what its reads meet. -/
structure ReadWindow where
  entry  : Nat
  faults : ReadFaults
  deriving DecidableEq, Repr, Inhabited

/-- The bytes of a register write, low word first, and W1C bits of the written words that the node sets in the same cycle (R7). -/
structure RegBits where
  value : BitVec 64
  sets  : BitVec 64
  deriving DecidableEq, Repr, Inhabited

/-- What training at the exit of STANDBY finds (R251, R282, R418): the lanes of each port, and the rate in MT/s of each flash channel or that
none passed. -/
structure Trained where
  lanes : List Nat
  flash : List (Nat × Option Nat)
  deriving DecidableEq, Repr, Inhabited

/-- A scrub visit's outcome (R238): sound, corrected words, uncorrectable, or (open row) twins that differ. -/
inductive ScrubOutcome where
  | sound | corrected (n : Nat) | uncorrectable | twinsDiffer
  deriving DecidableEq, Repr, Inhabited

/-- The commands of the node, one per row of spec/opcode_table.json, in the table's order. -/
inductive Instr where
  -- mailbox commands (R325)
  | identify (g : Go)
  | channelCreate (g : Go)
  | channelDestroy (g : Go)
  | channelReset (g : Go)
  | easelLoad (g : Go)
  | easelArm (g : Go)
  | easelArmCancel (g : Go)
  | gatesLoad (g : Go)
  | indexCreate (g : Go)
  | indexDrop (g : Go)
  | tableCreate (g : Go)
  | tableDrop (g : Go)
  | allowsetCreate (g : Go)
  | graphLoad (g : Go)
  | paletteSet (g : Go)
  | buildTrainRegions (g : Go)
  | buildLoad (g : Go)
  | buildTrainLists (g : Go)
  | buildPlace (g : Go)
  | buildPublish (g : Go)
  | migrateRegion (g : Go)
  | migrateShard (g : Go)
  | migrateHotRows (g : Go)
  | powerSetActive (g : Go)
  | powerSetActiveLow (g : Go)
  | powerSetIdle (g : Go)
  | powerSetStandby (g : Go)
  | powerSetOffReady (g : Go)
  | powerSetService (g : Go)
  | sectorGate (g : Go)
  | modeSet (g : Go)
  | attestReport (g : Go)
  /-- `key`: the crypto block's answer, the unwrapped key, or none when decapsulation or the tag fails (R381). -/
  | keyInstallChannel (g : Go) (key : Option Bytes)
  | keyInstallPort (g : Go) (key : Option Bytes)
  | keyInstallIde (g : Go) (key : Option Bytes)
  | ownerTake (g : Go)
  | arrayJoin (g : Go)
  | arrayLeave (g : Go)
  /-- The checks of R408 that need the partner: the target is the link partner on P6 or P7, its relay table names the port,
  it is already shadowed, one of its channels has FLASH_ENCRYPT. -/
  | shadowStart (g : Go) (relayNames shadowed encrypt : Bool)
  | sparePromote (g : Go)
  | takeoverConfirm (g : Go)
  | statsRead (g : Go)
  | logRead (g : Go)
  | fwStage (g : Go)
  | fwActivateWarm (g : Go)
  | fwActivateCold (g : Go)
  | mbUnlistedCode (g : Go) (code : Nat)
  | overrun (fn : Nat)
  | mbResp (fn : Nat)
  -- doorbells (R339): the writing function, the cycle, the access size in bytes, the value written
  | doorbellSubmissionTail (fn cycle size : Nat) (value : BitVec 64)
  | doorbellCompletionHead (fn cycle size : Nat) (value : BitVec 64)
  -- ring commands: slot, ring, the 64-byte entry as read, and the host buffers if their reads are complete
  | search (slot ring : Nat) (entry : Bytes) (bufs : Option (List Bytes))
  | lookup (slot ring : Nat) (entry : Bytes) (bufs : Option (List Bytes))
  | apply (slot ring : Nat) (entry : Bytes) (bufs : Option (List Bytes))
  | upsert (slot ring : Nat) (entry : Bytes) (bufs : Option (List Bytes))
  | delete (slot ring : Nat) (entry : Bytes)
  | fetch (slot ring : Nat) (entry : Bytes)
  | setEdit (slot ring : Nat) (entry : Bytes) (bufs : Option (List Bytes))
  | fence (slot ring : Nat) (entry : Bytes)
  | snapshot (slot ring : Nat) (entry : Bytes)
  | replaceRows (slot ring : Nat) (entry : Bytes) (bufs : Option (List Bytes))
  | stats (slot ring : Nat) (entry : Bytes)
  | invalidOpcode (slot ring : Nat) (entry : Bytes)
  | hostBufferReadDone (slot ring pos : Nat) (bufs : List Bytes)
  | hostAccessFailed (slot : Nat) (what : AccessFail)
  -- registers
  | rwaFieldWrite (fn slot off : Nat) (value : BitVec 32)
  | registerWrite (fn off size : Nat) (value : RegBits)
  | frameNumLoRead (fn cycle : Nat)
  | ntNsLoRead (fn cycle : Nat)
  | apertureRead (fn off len : Nat) (corrected : Nat) (uncorrectable : Bool)
  | apertureWrite (fn off len : Nat)
  -- windows: the number of the easel entry whose window runs
  | frameStart
  | admitWindow (e : Nat)
  | route1 (w : ReadWindow)
  | scatter (e : Nat)
  | route2 (w : ReadWindow)
  | scan (w : ReadWindow)
  | nominate (e : Nat)
  | fetchWindow (w : ReadWindow)
  | rank (e : Nat)
  | rescore (w : ReadWindow)
  | deliver (e : Nat)
  | lookupWindow (w : ReadWindow)
  | applyStage (w : ReadWindow)
  | updateStage (w : ReadWindow)
  | compact (e : Nat)
  | flashBackground (e : Nat)
  | migrateWindow (e : Nat)
  | buildWindow (e : Nat)
  | swapSave (e : Nat)
  | swapRestore (e : Nat) (uncorrectable : Bool)
  | setCombine (e : Nat)
  /-- The stage code, the easel entry (0xFFF for none, R460), the channel slot and the commands (home, sequence) whose work
  was unfinished. -/
  | stageCutOff (stage entry slot : Nat) (cmds : List (Nat × Nat))
  /-- The commands (slot, landing number) whose result writes the host port has not accepted. -/
  | resultWriteDeadline (cmds : List (Nat × Nat))
  | commitWindow (i : CwIn)
  | easelSwitch
  | modeSwitch
  | generationPublish (slot : Nat) (object : Handle)
  | graphPublish (slot : Nat) (object : Handle)
  | arrayLeaveEffect
  | versionRelease
  | checkpointPassStart (slot : Nat) (object : Handle)
  | captureDeadline (slot : Nat) (object : Handle)
  | migrationAcceptance (id : Nat) (accepted : Bool)
  | migrationFlip (id : Nat)
  | rebuildComplete (id : Nat)
  -- fabric
  /-- A packet at a port: whether its CRC is good, its tag (on an encrypted port), and the codewords that carried it, each as
  its number in the port's stream and its symbol errors (R284). -/
  | packetReceived (port : Nat) (p : Packet) (crcOk tagOk : Bool) (words : List (Nat × Nat))
  | negativeAck (port seq : Nat)
  | retransmitTimeout (port seq : Nat)
  | groupResendRequest (port : Nat) (dst : Nat) (object : Handle) (gen : Nat) (groups : List Nat)
  | controlSlot
  /-- The port, the four timestamps in ns, and the partner's advertisement: (PPS, GM_PRIORITY, ID, hops). -/
  | timeExchange (port : Nat) (t1 t2 t3 t4 : Nat) (pps prio gm hops : Nat)
  | ullaHeartbeat (port : Nat) (hb : Heartbeat) (crcOk : Bool)
  | missReport (port : Nat)
  | replicaAcknowledgement (owner slot : Nat) (object : Handle) (region frame : Nat)
  | replicaReceipt (owner slot : Nat) (object : Handle) (region frame : Nat) (counts : List (Nat × Nat)) (digest : Nat)
  | announcement (frame : Nat) (a : Announce)
  | durabilityReport (home seq owner : Nat)
  | orderInstall
  | rollback (subject : Nat)
  | shadowPassed
  | gmAdvertLoss
  /-- Offset of the edge from the nearest multiple of 10^9 ns, in ns. -/
  | ppsInEdge (offset : Int)
  | ppsTimeout
  | nodeUnlockedLimit
  -- media
  | flashReadComplete (id : Nat) (o : ReadOutcome)
  | flashProgramComplete (id : Nat) (ok : Bool)
  | flashEraseComplete (die block : Nat) (ok : Bool)
  /-- The rate in MT/s that training passes after the die's reset, none when it fails. -/
  | flashCommandTimeout (chan die : Nat) (rate : Option Nat)
  | patrolScrub (da : Nat) (o : ScrubOutcome)
  | nearBankRowStep (op : NbOp) (a b r : Nat) (allocator : Bool)
  | unitZeroed (u : Nat)
  -- power, start, pins and host link
  /-- BOOT_MODE, whether a sensor reads below 0 °C. -/
  | pwrgoodRise (bootMode : Nat) (cold : Bool)
  | pwrgoodFall
  | coldStart (i : StartIn)
  | warmStart (i : StartIn)
  | recovery
  | startFailure (cause : Nat)
  | startTimeLimit
  | temperatureHoldRelease
  | plossN
  | thermtripN (sensor : Nat)
  | thermalWarn (sensor milliC : Nat)
  | supplyDipStart (mv : Nat)
  | supplyDipEnd (mv : Nat)
  | supplyDipLong (mv : Nat)
  | resetThreshold (mv : Nat)
  | pmbAlertN (status : Nat)
  | pmbusFailure (code : Nat)
  | pmbusRetry (ok : Bool)
  /-- E_meas, E_leak and E_model in µJ over the 4,096 frames (R358). -/
  | energyCalibration (meas leak model : Nat)
  | voutSettled (mv : Nat)
  | standbyEntry
  /-- Lanes of the ports, and the rate that each flash channel's training passes, none where it fails (R251). -/
  | standbyExit (train : Trained)
  | offReadyFlush
  | perst
  | functionLevelReset (fn : Nat)
  | numvfsChange (n : Nat)
  | hostLinkDown
  | gateEntryOpen (port : Nat) (entry : Nat)
  /-- The SEQ values acknowledged, and the KEY_ID the partner announces. -/
  | linkControlSymbols (port : Nat) (acks : List Nat) (keyId : Option Nat) (partner : Nat)
  | pePerstNDeassert
  | retentionFlagClear (stack : Nat)
  | fwStageEnd (ok : Bool)
  | hostLinkUp (width rate : Nat)
  deriving DecidableEq, Repr

end Sys2Proof
end

