-- ==== Sys2Proof/Decode.lean ====
section
/-! DEFINITION. The command that a word spells. No row of spec/opcode_table.json gives bits (every command reaches the node
as a register access, a submission entry, a packet or an event with operands of its own), so no word spells one. -/

namespace Sys2Proof

/-- The command that the table's bits spell: none, since no row gives bits. -/
def decodeTableWord (_nbits _w : Nat) : Option Instr := none

end Sys2Proof
end

