-- ==== Sys2Proof/Config.lean ====
section
/-! DEFINITION. The free values of the model: what the spec leaves open or keeps inside silicon (R373, R376, R379, and log
entry 2). None of them has a body, so no proof can see a value. -/

namespace Sys2Proof.Config

/-- The bytes of the HSS signature with index q over a message (R373, R376): the identity key pair never leaves the
device. -/
opaque hssSign : Nat → Bytes → Bytes

/-- The ML-KEM-1024 encapsulation key of the key pair of an epoch (R379): drawn by the DRBG. -/
opaque kemKey : Nat → Bytes

/-- The identity certificate of the device (R374), written at manufacture. -/
opaque certificate : Nat → Bytes

/-- The digests of R377 of what the model does not hold as bytes, by a number that tells the measured contents apart: 16 × n + tag. -/
opaque measure : Nat → Nat

/-- The root of trust (R364): the digest of the vendor's LMS public key, held in mask ROM. -/
opaque rootOfTrust : Nat

/-- A value that the spec leaves open, by the number of values taken before it (log entry 2). -/
opaque freeValue : Nat → Nat

/-- Sealed bytes and items of a region that a node is to receive, by object key, region and start frame (R89, R90): the destination
cannot tell them from what it holds (log entry 84). -/
opaque regionBytes : Nat → Nat → Nat → Nat
opaque regionItems : Nat → Nat → Nat → Nat

/-- The header of a map folio but for its first entry and write frame, which the spec says it gives (R258), by those two. -/
opaque mapHeader : Nat → Nat → Bytes

/-- A journal entry body of less than 16 bytes under AES-256-XTS, which that mode does not define (R279): by key, tweak and body. -/
opaque shortXts : Bytes → Nat → Bytes → Bytes

/-- A byte of a SEALED or NODE row at a frame (R240): where in its units an object stands is not said. -/
opaque sealedByte : Nat → Nat → Nat

/-- Objects whose bytes lie in a row of a SEALED or NODE unit (R238), by DA and frame. -/
opaque objectsAt : Nat → Nat → List Nat

/-- What a message carries beside its candidate entries, as bytes, whose layout the spec does not give (log entry 91). -/
opaque payload : Msg → Bytes

/-- An element of a bound row that another node holds, by table, row, version and position: how RANK reads it there is not said (R217, log
entry 20). -/
opaque remoteRow : Nat → Nat → Nat → Nat → Nat

/-- The sign of the NaN that an fp32 operation gives on its operands' words (log entry 7): the spec names none. -/
opaque nanSign : Nat → Nat → Bool

end Sys2Proof.Config
end

