-- ==== Sys2Proof/Machine/Bytes.lean ====
section
/-! DEFINITION. Bytes, bit fields and tables by number: little-endian reads and writes (R4), fields NAME[high:low] (R3), and
the one form in which numbered things are kept. -/

namespace Sys2Proof.Machine

/-- The number that a little-endian byte string spells (R4). -/
def le : Bytes → Nat
  | [] => 0
  | b :: t => b.toNat + 256 * le t

/-- n bytes from offset o. -/
def slice (bs : Bytes) (o n : Nat) : Bytes := (bs.drop o).take n

/-- The number in n bytes at offset o; bytes beyond the string read as absent, hence zero. -/
def rd (bs : Bytes) (o n : Nat) : Nat := le (slice bs o n)

/-- Bits [lo + n - 1 : lo] of a number (R3). -/
def bitsOf (w lo n : Nat) : Nat := (w >>> lo) % 2 ^ n

/-- The field of n bits at bit lo of the little-endian word at offset o, for lo + n at most 64. -/
def fld (bs : Bytes) (o lo n : Nat) : Nat := bitsOf (rd bs o 8) lo n

/-- One bit as a truth value. -/
def flag (bs : Bytes) (o lo : Nat) : Bool := fld bs o lo 1 == 1

/-- The n-byte little-endian form of a number (R4). -/
def toLe : Nat → Nat → Bytes
  | 0, _ => []
  | n + 1, w => BitVec.ofNat 8 w :: toLe n (w / 256)

/-- All bytes zero. -/
def allZero (bs : Bytes) : Bool := bs.all (· == 0)

/-- Whether a bit of a mask is set. -/
def hasBit (m i : Nat) : Bool := (m >>> i) % 2 == 1

/-- A mask with bit i set. -/
def setBit (m i : Nat) : Nat := m ||| (1 <<< i)

/-- A mask with bit i clear. -/
def clearBit (m i : Nat) : Nat := if hasBit m i then m - (1 <<< i) else m

/-- How many of the bits 0 to n - 1 are set. -/
def popCount (n m : Nat) : Nat := ((List.range n).filter (hasBit m)).length

/-- The numbers of the bits set among bits 0 to n - 1, ascending. -/
def bitList (n m : Nat) : List Nat := (List.range n).filter (hasBit m)

/-- ⌈a ÷ b⌉. -/
def ceilDiv (a b : Nat) : Nat := (a + b - 1) / b

/-- The value at a number. -/
def tget {α : Type} (t : Tbl α) (k : Nat) : Option α :=
  match t with
  | [] => none
  | (j, v) :: r => if j = k then some v else tget r k

/-- The value at a number, or d. -/
def tgetD {α : Type} (t : Tbl α) (k : Nat) (d : α) : α := (tget t k).getD d

/-- The table with v at number k. -/
def tput {α : Type} (t : Tbl α) (k : Nat) (v : α) : Tbl α :=
  match t with
  | [] => [(k, v)]
  | (j, w) :: r => if k < j then (k, v) :: (j, w) :: r else if k = j then (k, v) :: r else (j, w) :: tput r k v

/-- The table without number k. -/
def tdel {α : Type} (t : Tbl α) (k : Nat) : Tbl α := t.filter fun p => p.1 != k

/-- The table with the value at k, if any, changed by f. -/
def tmap {α : Type} (t : Tbl α) (k : Nat) (f : α → α) : Tbl α :=
  match tget t k with
  | some v => tput t k (f v)
  | none => t

/-- A 32-bit counter by number, increased by n; it wraps at 2^32. -/
def tcount (t : Tbl (BitVec 32)) (k n : Nat) : Tbl (BitVec 32) := tput t k (tgetD t k 0 + BitVec.ofNat 32 n)

/-- The element of a list at a position, changed. -/
def setAt {α : Type} (l : List α) (i : Nat) (f : α → α) : List α :=
  match l, i with
  | [], _ => []
  | a :: r, 0 => f a :: r
  | a :: r, i + 1 => a :: setAt r i f

/-- Two lists of numbers added element by element. -/
def addL (a b : List Nat) : List Nat := List.zipWith (· + ·) a b

/-- Every number of the first list is at most the one of the second. -/
def leL (a b : List Nat) : Bool := (List.zipWith (fun x y => decide (x ≤ y)) a b).all id

/-- Insertion into a list that is ascending under `lt`; an equal element goes behind. -/
def insertBy {α : Type} (lt : α → α → Bool) (x : α) : List α → List α
  | [] => [x]
  | y :: r => if lt x y then x :: y :: r else y :: insertBy lt x r

/-- A stable sort. -/
def sortBy {α : Type} (lt : α → α → Bool) (l : List α) : List α := l.foldl (fun acc x => insertBy lt x acc) []

/-- The list without later repetitions. -/
def dedup [BEq α] (l : List α) : List α := l.foldl (fun acc x => if acc.contains x then acc else acc ++ [x]) []

/-- The smallest number from 0 that is not in an ascending list. -/
def lowestFree (used : List Nat) : Nat := used.foldl (fun n u => if u = n then n + 1 else n) 0

/-- Insertion of a number into an ascending list without repeats. -/
def insNat (n : Nat) : List Nat → List Nat
  | [] => [n]
  | m :: r => if n < m then n :: m :: r else if n = m then m :: r else m :: insNat n r

end Sys2Proof.Machine
end

