-- ==== Sys2Proof/Machine/Mem.lean ====
section
/-! DEFINITION. The stacks' DRAM as a canonical list of cells (R220): addresses strictly rising, no cell zero. What an
unlisted byte reads as is the zero of R226. Reads and writes of bytes, words and 1 KiB rows, the address map of R220, the
open addressing of R225, and the near-bank operations of R227. -/

namespace Sys2Proof.Machine

/-- What an unlisted byte reads as: every unit is zeroed at a cold start and before it is given out again (R226). -/
def memDefault : Byte := 0

/-- One byte read. -/
def memRead (m : List Host.Cell) (a : Nat) : Byte := tgetD m a memDefault

/-- One byte written, keeping the canonical form. -/
def memWrite (m : List Host.Cell) (a : Nat) (b : Byte) : List Host.Cell :=
  if b = memDefault then tdel m a else tput m a b

/-- The canonical form: addresses strictly rising and no entry equal to the default. -/
def memWf (m : List Host.Cell) : Bool :=
  match m with
  | [] => true
  | [c] => c.2 != memDefault
  | c :: d :: r => c.2 != memDefault && decide (c.1 < d.1) && memWf (d :: r)

/-- n bytes read from address a up. -/
def memReadN (m : List Host.Cell) (a n : Nat) : Bytes := (List.range n).map fun i => memRead m (a + i)

/-- A byte string written from address a up. -/
def memWriteN (m : List Host.Cell) (a : Nat) : Bytes → List Host.Cell
  | [] => m
  | b :: t => memWriteN (memWrite m a b) (a + 1) t

/-- A fields of a DRAM address (R220): stack, pseudo-channel, bank and bank row. -/
def daStack (da : Nat) : Nat := bitsOf da 10 3
def daPseudo (da : Nat) : Nat := bitsOf da 13 5
def daBank (da : Nat) : Nat := bitsOf da 18 4
def daRow (da : Nat) : Nat := da / 2 ^ 22

/-- The unit of a DRAM address (R222). -/
def daUnit (da : Nat) : Nat := da / 2 ^ 28

/-- The DA of usable offset o of open unit u (R225); its twin lies 0x1000 higher (R224). -/
def openDa (u o : Nat) : Nat := u * 2 ^ 28 + o / 4096 * 8192 + o % 4096

/-- The twin of a DA in an open unit (R224): bit 12 inverted. -/
def twinOf (da : Nat) : Nat := if hasBit da 12 then da - 0x1000 else da + 0x1000

/-- The first twin of a DA (R224). -/
def firstTwin (da : Nat) : Nat := if hasBit da 12 then da - 0x1000 else da

/-- Both twins of an open byte written (R224). -/
def twinWrite (m : List Host.Cell) (da : Nat) (b : Byte) : List Host.Cell :=
  memWrite (memWrite m (firstTwin da) b) (firstTwin da + 0x1000) b

/-- The 1 KiB row that holds a DA. -/
def rowOf (da : Nat) : Nat := da / 1024 * 1024

/-- The rows that a near-bank step names (R227). -/
def nbRows (op : NbOp) (a b r : Nat) : List Nat :=
  match op with
  | .copy | .not => [a, r]
  | .init _ => [r]
  | _ => [a, b, r]

/-- Whether rows lie in the banks 2j and 2j + 1 of one pseudo-channel of one stack (R227). -/
def oneUnit (rows : List Nat) : Bool :=
  match rows with
  | [] => true
  | x :: rest => rest.all fun y => daStack y == daStack x && daPseudo y == daPseudo x && daBank y / 2 == daBank x / 2

/-- The twins of a row are equal (R224, R236). -/
def twinsEqual (m : List Host.Cell) (da : Nat) : Bool :=
  memReadN m (rowOf (firstTwin da)) 1024 == memReadN m (rowOf (firstTwin da) + 0x1000) 1024

/-- The bit of local row r in an open bitmap over `units` (R225, R232): its DA and bit. -/
def bitDa (units : List Nat) (r : Nat) : Nat × Nat :=
  let o := r / 8192 * 1024 + r % 8192 / 8
  (openDa (units.getD (o / 2 ^ 27) 0) (o % 2 ^ 27), r % 8)

/-- The bit of a row as an open bitmap holds it. -/
def bitRead (m : List Host.Cell) (units : List Nat) (r : Nat) : Bool :=
  let p := bitDa units r
  hasBit (memRead m p.1).toNat p.2

/-- The bitmap with the bit of a row set to b, on both twins (R233). -/
def bitWrite (m : List Host.Cell) (units : List Nat) (r : Nat) (b : Bool) : List Host.Cell :=
  let p := bitDa units r
  let w := (memRead m p.1).toNat
  twinWrite m p.1 (BitVec.ofNat 8 (if b then setBit w p.2 else clearBit w p.2))

/-- Chunk i of an open object (R232): the DA of its first twin. -/
def chunkDa (units : List Nat) (i : Nat) : Nat := (bitDa units (i * 8192)).1

end Sys2Proof.Machine
end

