-- ==== Sys2Proof/Machine/State.lean ====
section
/-! DEFINITION. The state of one LX1 node as plain data: every register, table, queue, counter, mode and pin that the spec
gives it, the outputs it has produced, and the queue of waiting commands. State.reset is the machine after a cold start
that reached READY (R433), with nothing joined, loaded or created. -/

namespace Sys2Proof.Machine

/-! ### Frames, the easel and the gate lists -/

/-- The arguments of an accepted ARRAY_JOIN, in force from its first frame (R459, R326, R405). -/
structure Join where
  logicalId    : Nat
  frameLen     : Nat
  epoch        : Nat
  gmPriority   : Nat
  exact        : Bool
  buddyLag     : Nat
  takeoverHold : Nat
  shadowFrames : Nat
  relay        : List Nat
  groups       : List (Nat × Nat × Nat)
  deriving DecidableEq, Repr

/-- Frame numbering and the array settings (R18 to R23, R50, R55, R459). -/
structure FrameSt where
  num          : Nat
  cycle        : Nat
  len          : Nat
  epoch        : Nat
  exact        : Bool
  buddyLag     : Nat
  joined       : Bool
  logicalId    : Nat
  takeoverHold : Nat
  shadowFrames : Nat
  version      : Nat
  /-- The commit window of the frame has run. -/
  committed    : Bool
  /-- Easel entries whose window has run in this frame: a window opens once (R33). -/
  ran          : List Nat
  /-- How many frames this node publishes after a primary as buddy, for the updates of the frame: at most BUDDY_LAG (R50). -/
  lag          : Nat
  /-- FRAME_NUM_HI as latched, by function. -/
  hiLatch      : Tbl Nat
  cutoffs      : Tbl (BitVec 32)
  defers       : Tbl (BitVec 32)
  /-- MODE_SETs not yet in force, M ascending: M, exact, BUDDY_LAG. -/
  pendModes    : List (Nat × Bool × Nat)
  /-- An ARRAY_JOIN accepted: the frame whose commit window ends the node's own numbering, and its arguments (R459). -/
  join         : Option (Nat × Join)
  leave        : Option Nat
  /-- The first frame in which commands may be admitted (R459, R39). -/
  admitFrom    : Nat
  /-- The next admission sequence number (R101). -/
  seq          : Nat
  deriving DecidableEq, Repr

/-- An easel entry (R28). -/
structure EaselEntry where
  start   : Nat
  length  : Nat
  stage   : Nat
  sectors : Nat
  engines : Nat
  arrays  : Nat
  shape   : Nat
  flash   : Nat
  ports   : Nat
  channel : Nat
  arg     : Nat
  phases  : Nat
  deriving DecidableEq, Repr

/-- An easel image (R27). -/
structure Easel where
  frameLen  : Nat
  hyper     : Nat
  validLow  : Bool
  laneBasis : Nat
  sectorUse : Nat
  compileId : Nat
  digest    : Nat
  entries   : List EaselEntry
  deriving DecidableEq, Repr

/-- A gate entry (R291). -/
structure GateEntry where
  start : Nat
  dur   : Nat
  opens : Nat
  retry : Nat
  deriving DecidableEq, Repr

/-- A gate image (R290): the lists of ports P0 to P7. -/
structure Gates where
  hyper     : Nat
  laneBasis : Nat
  frameLen  : Nat
  digest    : Nat
  ports     : List (List GateEntry)
  deriving DecidableEq, Repr

/-- The easel in force, the standby image and its arm (A, D), and the gate lists (R34, R35, R294: none is the default list). -/
structure EaselSt where
  inForce      : Option Easel
  standby      : Option Easel
  arm          : Option (Nat × Nat)
  gates        : Option Gates
  gatesStandby : Option Gates
  /-- The first frame in which windows run: the hyperframe boundary after an exit from STANDBY (R39). -/
  resume       : Nat
  /-- A of the arm that switched last: frames A − 2 to A + 1 compare no digests (R403). -/
  lastA        : Option Nat
  deriving DecidableEq, Repr

/-! ### The mailbox -/

/-- A response (R323). -/
structure Resp where
  status      : Nat
  tag         : Nat
  code        : Nat
  handle      : Nat
  faultOffset : Nat
  frame       : Nat
  value       : Nat
  faultBuffer : Nat
  deriving DecidableEq, Repr

/-- One function's mailbox (R322 to R324). -/
structure Mailbox where
  code    : Nat
  tag     : Nat
  chan    : Handle
  pbAddr  : Nat
  pbLen   : Nat
  args    : Bytes
  busy    : Bool
  done    : Bool
  overrun : Bool
  resp    : Resp
  /-- The response of the command at work, once its work has ended. -/
  ready   : Option Resp
  /-- The command at work whose end is still to come: its code and the response it will give. -/
  waiting : Option Resp
  deriving DecidableEq, Repr

/-! ### Landings and channel changes -/

/-- An entry that a doorbell has landed and whose check is still to run (R339, R340). -/
structure Landing where
  land : Nat
  slot : Nat
  ring : Nat
  pos  : Nat
  at_  : Nat
  elig : Nat
  deriving DecidableEq, Repr

/-- A channel change that waits for step 5 of the commit window (R26, R360, R363, R463). -/
inductive ChanChange where
  | create (slot : Nat) (c : Chan) (fn : Nat)
  | destroy (slot : Nat) (fn : Nat)
  | reset (slot : Nat) (rings : List Ring) (fn : Nat)
  | fault (slot cause ring : Nat)
  | detach (slot : Nat)
  deriving DecidableEq, Repr

/-! ### DRAM -/

/-- The kind of a 256 MiB unit (R222). -/
inductive UnitKind where
  | free | zeroing | node | sealed (slot : Nat) | opened (slot : Nat)
  deriving DecidableEq, Repr

/-- The stacks (R220 to R238). Memory is a canonical list of cells; an unlisted byte reads as zero (R226). Units not listed
are FREE. -/
structure Dram where
  mem        : List Host.Cell
  units      : Tbl UnitKind
  kept       : List Nat
  nbRefused  : BitVec 32
  nbLog      : List (Nat × Nat)
  mismatches : BitVec 32
  /-- Suspect chunks (R236): object key, chunk, frame of detection. -/
  suspects   : List (Nat × Nat × Nat)
  /-- Frames and rows of uncorrectable words by pseudo-channel (R389). -/
  pcFails    : List (Nat × Nat × Nat)
  pcRetired  : List Nat
  corrected  : Nat
  /-- Chunks that the commit window's bit changes have read (R224, R233), and the DA of the next row of patrol scrub (R238). -/
  touched    : List (Nat × Nat)
  scrubAt    : Nat
  /-- Corrections in engine reads (R223), and the uncorrectable words that readers meet until they are restored (R392): slot (0xFFFF: the
  node's), the word, and the frame in which its copy completed. -/
  fixed      : Nat
  lost       : List (Nat × LostWord × Option Nat)
  deriving DecidableEq, Repr

/-- One function's aperture control block (R239). -/
structure Aperture where
  unitNo     : Nat
  openPath   : Bool
  lastStatus : Nat
  twinFail   : Bool
  failed     : Bool
  failOffset : Nat
  corrected  : BitVec 32
  discarded  : BitVec 32
  deriving DecidableEq, Repr

/-! ### Flash -/

/-- A folio map entry (R257). -/
structure MapEntry where
  slot  : Nat
  die   : Nat
  slc   : Bool
  state : Nat
  deriving DecidableEq, Repr

/-- A block (R257, R265, R268). -/
structure Block where
  erases  : Nat
  reads   : Nat
  /-- Folio places written since the last erase. -/
  next    : Nat
  retired : Bool
  /-- Places that read-back has verified since the block filled (R270). -/
  checked : List Nat
  deriving DecidableEq, Repr

/-- A quire stripe (R269, R271): group, page position in SLC-mode or native blocks, the dies of the group when it began, the pages written as
(die, block), the block none once it is erased, and whether the parity page is programmed. -/
structure Stripe where
  id     : Nat
  group  : Nat
  pos    : Nat
  slc    : Bool
  dies   : List Nat
  pages  : List (Nat × Option Nat)
  parity : Bool
  deriving DecidableEq, Repr

/-- A journal entry (R260, R421): type, channel slot, object, publication frame, body. `undo` is what the entry changed, for a stop
that comes before its program (R431): the MODEL's own field. -/
structure JEntry where
  typ    : Nat
  slot   : Nat
  object : Handle
  frame  : Nat
  body   : List Nat
  undo   : List Nat
  deriving DecidableEq, Repr

/-- A read outstanding on a die (R273, R274): the query (home, sequence), the entry's key, the die and the record's place. -/
structure FRead where
  id     : Nat
  slot   : Nat
  home   : Nat
  seq    : Nat
  key    : Key
  die    : Nat
  folio  : Nat
  isFetch : Bool
  /-- 0 for a command; 1 patrol read, 2 read-back of a closed block (R266, R270). -/
  back   : Nat
  /-- When it was issued, in ns of frame time (R314). -/
  at_      : Nat
  deriving DecidableEq, Repr

/-- A program outstanding (R263): what it writes. `kind`: 0 record folio, 1 journal, 2 fold, 3 map folio, 4 checkpoint rows,
5 write-behind record, 6 stop mark, 7 quire parity, 8 a folio rebuilt from its quire. `data` are the rows of a table folio as they were read
(row, frame, image), `ents` the entries of a map folio, `entries` those of a journal folio, whose SEQ is `row`. -/
structure FProg where
  id    : Nat
  kind  : Nat
  folio : Nat
  die   : Nat
  block : Nat
  slot  : Nat
  object : Handle
  row   : Nat
  frame : Nat
  tries : Nat
  at_   : Nat
  data  : List (Nat × Nat × Bytes)
  ents  : List (Nat × MapEntry)
  entries : List JEntry
  deriving DecidableEq, Repr

/-- The flash subsystem (R251 to R280). -/
structure Flash where
  live      : Nat
  /-- Channels that enumeration found populated: they rank the dies (R253). -/
  populated : Nat
  unused    : Nat
  dies      : Nat
  profile   : Profile
  /-- Die slots reassigned after a retirement (R276); others are round-robin (R262). -/
  dieSlot   : Tbl Nat
  deadDies  : List Nat
  map       : Tbl MapEntry
  recs      : Tbl Bytes
  blocks    : Tbl Block
  /-- Keys of records (R73), and what the logical folios are. -/
  keys      : Tbl Key
  folios    : Tbl Folio
  /-- Next record place of each index's open record folio, by object key: (folio, used). -/
  openFolio : Tbl (Nat × Nat)
  /-- Folios in the order in which their programs in SLC mode ended (R263). -/
  slcAge    : List Nat
  /-- Record folios that a published locator has left, and when (R264). -/
  left      : List (Nat × Nat)
  journal   : List JEntry
  /-- The next journal folio's SEQ, the die of the last one, and the journal folios written: SEQ, die, entries (R259, R261). -/
  jSeq      : Nat
  jDie      : Option Nat
  jFolios   : List (Nat × Nat × Nat)
  /-- Entries published and not yet programmed, and those programmed. -/
  jPending  : List JEntry
  heldKey   : List JEntry
  dirtyMap  : List (Nat × Nat)
  /-- The map entries in the map folios on flash, and each map folio's write frame (R258). -/
  mapSaved  : Tbl MapEntry
  mapWrites : Tbl Nat
  /-- The rate of each flash channel in MT/s (R251). -/
  rates     : Tbl Nat
  reads     : List FRead
  progs     : List FProg
  nextId    : Nat
  suspended : Bool
  timeouts  : List (Nat × Nat)
  lateReads : Tbl (BitVec 32)
  overCap   : Tbl (BitVec 32)
  retried   : Tbl (BitVec 32)
  uncorr    : Tbl (BitVec 32)
  spread    : Nat
  retiredBlocks : Nat
  slcUsed   : Nat
  freeMin   : Nat
  relocate  : List (Nat × Nat)
  /-- Dies that collect until GC_HIGH, and blocks (die, block) being erased (R265). -/
  collecting : List Nat
  erasing   : List (Nat × Nat)
  /-- When each erase was issued, by die × 2^22 + block (R314). -/
  eraseAt   : Tbl Nat
  /-- Quire stripes whose parity is not released, folios to be rebuilt from them, and the dies on which fill starts nothing (R267 to R271). -/
  stripes   : List Stripe
  rebuild   : List Nat
  barred    : List Nat
  /-- The bound row captured last (R217): table and row. -/
  capLast   : Nat × Nat
  slcPct    : Nat
  flashOp   : Nat
  wlSpread  : Nat
  gcLow     : Nat
  gcHigh    : Nat
  mapFlush  : Nat
  patrol    : Nat
  deriving DecidableEq, Repr

/-! ### Fabric and time -/

/-- A packet waiting at a port: its part (none for node traffic, else the channel slot), whether it is relayed, and when it
came. -/
structure Queued where
  part    : Option Nat
  relayed : Bool
  at_     : Nat
  pkt     : Packet
  deriving DecidableEq, Repr

/-- A fabric port (R281 to R288, R295, R311 to R315). -/
structure Port where
  lanes      : Nat
  neighbour  : Nat
  delay      : Nat
  retryMin   : Nat
  crcFails   : BitVec 32
  retries    : BitVec 32
  overflow   : BitVec 32
  drops      : BitVec 32
  authFails  : BitVec 32
  groupResends : BitVec 32
  key        : Option Nat
  keyNext    : Option Nat
  partnerKey : Option Nat
  keyIds     : List Nat
  nonceSide  : Nat
  nonce      : Nat
  txSeq      : Nat
  rxSeqs     : List Nat
  /-- Copies kept for resending: packet, resent already, waiting for the retry slot. -/
  kept       : List (Packet × Bool × Bool)
  queue      : List Queued
  /-- Bytes left of the open entry's retry slot, and the palette messages sent in this frame. -/
  retryLeft  : Nat
  palSent    : List Packet
  charges    : List (Nat × Nat)
  authAt     : List Nat
  /-- Bytes each channel has sent in this frame (R295). -/
  sent       : Tbl Nat
  deriving DecidableEq, Repr

/-- Network time (R296 to R301). -/
structure TimeSt where
  ns        : Nat
  frac      : Nat
  /-- Network time at time lock (R18, R299). -/
  lockNs    : Nat
  /-- NT_NS_HI and NT_FRAC as latched, by function. -/
  latch     : Tbl (Nat × Nat)
  locked    : Bool
  ppsLocked : Bool
  isGm      : Bool
  upPort    : Nat
  hops      : Nat
  gmId      : Nat
  priority  : Nat
  offsetPs  : Int
  gmChanges : BitVec 32
  goodRun   : Nat
  badRun    : Nat
  ppsRun    : Nat
  steer     : Int
  unlocked  : Nat
  /-- Advertisements by port: (PPS, priority, ID, hops), and frames since the grandmaster's was last heard. -/
  adverts   : Tbl (Nat × Nat × Nat × Nat)
  silent    : Nat
  deriving DecidableEq, Repr

/-! ### Membership -/

/-- A replica acknowledgement received (R395). -/
structure Ack where
  owner  : Nat
  slot   : Nat
  object : Handle
  region : Nat
  frame  : Nat
  deriving DecidableEq, Repr

/-- A receipt received (R396): for each home the number of updates, and the digest of their identifiers. -/
structure Receipt where
  owner  : Nat
  slot   : Nat
  object : Handle
  region : Nat
  frame  : Nat
  counts : List (Nat × Nat)
  digest : Nat
  deriving DecidableEq, Repr

/-- Shadowing (R408 to R411), at the shadow: target, port, copies complete, clean frames, digests awaited. -/
structure Shadow where
  target  : Nat
  port    : Nat
  copied  : Bool
  clean   : Nat
  passed  : Bool
  /-- What the target has mirrored and has not been run yet, in order of arrival, and the frame before the first one mirrored (R409). -/
  inputs  : List Msg
  since   : Nat
  deriving DecidableEq, Repr

/-- What a shadowed node holds (R409): its shadow and their port, the holdings copied, whether it mirrors, and of the frame's mirror the
bytes, the number of items and whether one did not fit. -/
structure Mirror where
  shadow : Nat
  port   : Nat
  done   : List Nat
  live   : Bool
  sent   : Nat
  count  : Nat
  full   : Bool
  deriving DecidableEq, Repr

/-- Ulla membership (R283, R391, R402 to R412). -/
structure Member where
  relay       : Tbl Nat
  groups      : List (Nat × Nat × Nat)
  miss        : Tbl Nat
  reports     : List MissReport
  orders      : List Order
  /-- Orders whose change has been installed, and the relay entries that a rollback restores (R406, R407). -/
  installed   : List Order
  savedRelay  : Tbl Nat
  suspects    : List Nat
  selfSuspect : Bool
  fenced      : Bool
  fencePend   : Bool
  /-- The landing number at which the node was fenced: commands landed before it complete ABANDONED (R391). -/
  fenceLand   : Nat
  /-- Senders of valid heartbeats that said SELF_SUSPECT, with the frame (R403). -/
  selfSaid    : List (Nat × Nat)
  heard       : List Nat
  silentAll   : Nat
  shadow      : Option Shadow
  mirror      : Option Mirror
  /-- A promotion accepted: place and effect frame (R412). -/
  promote     : Option (Nat × Nat)
  /-- Places taken over or vacated and not confirmed back. -/
  vacated     : List Nat
  holdings    : List Holding
  /-- Changes announced: the frame of the announcement and the change. -/
  announced   : List (Nat × Announce)
  /-- Those installed at the newest commit window, against which a late one of the same frame is held (R395). -/
  recent      : List (Nat × Announce)
  digest      : Nat
  /-- What the digest of the frame covers (R410): records published at step 2, messages of classes 2 to 4 originated with their DST, and
  completion entries (slot, ring, position, bytes). -/
  pubs        : List JEntry
  sends       : List (Nat × Msg)
  ends        : List (Nat × Nat × Nat × Bytes)
  /-- The target's digest in its last heartbeat, at a shadow (R410). -/
  targetDigest : Option Nat
  acks        : List Ack
  receipts    : List Receipt
  deriving DecidableEq, Repr

/-! ### Accounting, log and events -/

/-- A channel's counters (R355, R357). `cnt` are counters 0 to 7, `inc` the increments of the frame in progress. -/
structure Acct where
  cnt      : List Nat
  inc      : List Nat
  frac     : Nat
  first    : Nat
  last     : Nat
  admitted : Nat
  refused  : Nat
  fabRefused : Nat
  deriving DecidableEq, Repr

/-- A node log record (R331). DATA is the 256-bit number of its 32 bytes, little-endian. -/
structure LogRec where
  seq    : Nat
  frame  : Nat
  typ    : Nat
  chan   : Nat
  object : Nat
  d0     : Nat
  data   : Nat
  deriving DecidableEq, Repr

/-- An event record (R349); `fn` is the owning function of a channel event, none for a node event. -/
structure Event where
  code : Nat
  fn   : Option Nat
  chan : Nat
  frame : Nat
  d0   : Nat
  d1   : Nat
  d2   : Nat
  deriving DecidableEq, Repr

/-- One function's event ring registers (R349). -/
structure EvRing where
  base    : Nat
  log2    : Nat
  enable  : Bool
  head    : Nat
  tail    : Nat
  dropped : BitVec 32
  phase   : Bool
  deriving DecidableEq, Repr

/-- A queue histogram pair (R314): depth and delay buckets. -/
structure Histo where
  depth : Tbl Nat
  delay : Tbl Nat
  deriving DecidableEq, Repr

/-! ### Arrays, tiles and sectors -/

/-- Matrix arrays and tiles (R169, R170, R185, R186, R388, R389). Bit 4s + a is array a of sector s. -/
structure Units where
  arrExcluded : Nat
  arrRetired  : Nat
  arrChecks   : Tbl (BitVec 32)
  arrFails    : List (Nat × Nat)
  /-- Frames and tiles of uncorrectable SRAM words (R389). -/
  tileFails   : List (Nat × Nat)
  /-- Fenced tiles as 100 × sector + tile. -/
  fenced      : List Nat
  spares      : List Nat
  /-- The repair map: for each sector the physical tiles of its logical tiles, in order (R169). -/
  repair      : List (List Nat)
  excluded    : Nat
  sectorsOn   : Nat
  deriving DecidableEq, Repr

/-! ### Power, start, keys and colophon -/

/-- Whether the node runs (R426, R432, R435, R436, R449, R455). -/
inductive Run where
  | off | hold | starting (warm : Bool) | ready | recovery | stopped
  deriving DecidableEq, Repr

/-- Power and protective state (R413 to R430). `state`: 0 ACTIVE, 1 ACTIVE-LOW, 2 IDLE, 3 STANDBY, 4 OFF-READY; `want` is an
accepted change that waits, with the frame of acceptance: a power state, 5 or 6 the warm or cold start of an FW_ACTIVATE, 7 a
power-loss flush that waits for the end of a dip (R431). -/
structure Power where
  run      : Run
  state    : Nat
  want     : Option (Nat × Nat)
  service  : Nat
  /-- A change of the service state accepted in a frame, for step 5 of its commit window (R422). -/
  wantService : Option (Nat × Nat)
  testAsked : Bool
  degraded : Bool
  setpoint : Nat
  vlow     : Nat
  /-- The last READ_VOUT, in mV. -/
  vout     : Nat
  regAddr  : Nat
  /-- A dip: its first frame, lowest mV, frames touched; frames of the 100 µs after it; frames of held starts. -/
  dip      : Option (Nat × Nat)
  dipTail  : Nat
  heldStarts : List Nat
  hot      : Bool
  pmbusOk  : Bool
  /-- K by power state in units of 2^-10, and a new one for a state from the next frame on (R358). -/
  k        : List Nat
  kNext    : Option (Nat × Nat)
  drainFrom : Option Nat
  faultN   : Bool
  supplyWarnN : Bool
  thermtripN  : Bool
  plossN   : Bool
  perst    : Bool
  crs      : Bool
  deriving DecidableEq, Repr

/-- A staged firmware image (R370): whether its digest and the vendor's signature are good, and whether it is verified and in its
slot. -/
structure FwImage where
  version  : Nat
  digest   : Nat
  good     : Bool
  verified : Bool
  deriving DecidableEq, Repr

/-- The colophon, the firmware slots and the boot counters (R320, R365 to R371, R375, R421, R432). -/
structure Boot where
  variant    : Nat
  stepping   : Nat
  uid        : Nat
  fwVersion  : Nat
  fwDigest   : Nat
  slotInForce : Nat
  /-- FW_VERSION and DIGEST of the images in slots 0 and 1 and of the golden one (R365). -/
  images     : List (Nat × Nat)
  staged     : Option FwImage
  bootMode   : Nat
  warmFails  : Nat
  coldFails  : Nat
  goldenFails : Nat
  golden     : Bool
  startCold  : Bool
  devSeq     : Nat
  ownerHash  : Option Nat
  ownerSeq   : Nat
  /-- The reserved block of 1,024 signature indices, the log sector that records its use, and the bytes of the two log sectors that
  do not read 0xFF (R365, R375). -/
  sigBlock   : Nat
  sigSector  : Nat
  sigUsed    : List (List Nat)
  slotGen    : Tbl Nat
  /-- Log records to write at the next start that reaches the log: type, D0, DATA (R415, R435). -/
  heldCauses : List (Nat × Nat × Nat)
  /-- What the membership listen heard: a frame number and when, in ns of network time (R437). -/
  heard      : Option (Nat × Nat)
  /-- Retention flags of the stacks (R421). -/
  retention  : Nat
  deriving DecidableEq, Repr

/-- Node keys (R373, R379 to R383). -/
structure Keys where
  kemEpoch : Nat
  pufEpoch : Nat
  ide      : Tbl Nat
  deriving DecidableEq, Repr

/-- The host port (R316, R334, R353). -/
structure HostPort where
  linkUp   : Bool
  width    : Nat
  rate     : Nat
  vfs      : Nat
  fnDiscards : Tbl (BitVec 32)
  deriving DecidableEq, Repr

/-- What the node has put out (R116, R240, R317, R321, R285, R413): posted writes, read data, aborts, MSI-X vectors at the
host port; packets at fabric ports; PMBus commands. -/
inductive Out where
  | write (addr : Nat) (bytes : Bytes)
  | readData (fn off value : Nat)
  | readBytes (fn off : Nat) (bytes : Bytes)
  | abort (fn off : Nat)
  | msix (fn vector : Nat)
  | packet (port : Nat) (p : Packet)
  | heartbeat (port : Nat) (hb : Heartbeat)
  | timeSync (port : Nat) (pps prio gm hops : Nat)
  | nak (port seq : Nat)
  | acked (port seq : Nat)
  | pmbus (code value : Nat)
  deriving DecidableEq, Repr

/-- What a mailbox command has planned for a commit window (R325: Commit). -/
inductive Plan where
  | dropIndex (slot : Nat) (object : Handle)
  | dropTable (slot : Nat) (object : Handle)
  | createSet (slot : Nat) (object : Handle) (set : AllowSet)
  | palette (slot : Nat) (object : Handle) (kind : Nat) (p : Palette)
  | sectors (mask : Nat)
  deriving DecidableEq, Repr

/-- A plan, the frame whose commit window carries it out, and the function that asked. -/
structure Planned where
  frame : Nat
  fn    : Nat
  what  : Plan
  deriving DecidableEq, Repr

/-! ### The whole state -/

/-- The instructions of the test access port (R453). -/
inductive TapInstr where
  | bypass | idcode | samplePreload | extest | extestPulse | extestTrain
  deriving DecidableEq, Repr

/-- The state of the node. Objects of a channel are keyed by slot × 2^32 + handle. -/
structure State where
  /-- The instruction that the test access port holds (R453). -/
  tap      : TapInstr
  frame    : FrameSt
  easel    : EaselSt
  mbs      : Tbl Mailbox
  chans    : Tbl Chan
  changes  : List ChanChange
  planned  : List Planned
  landings : List Landing
  nextLand : Nat
  work     : List Cmd
  /-- Messages for owner stages that have no place of their own, with the frame of their arrival. -/
  inbox    : List (Nat × Msg)
  ownerQs  : List OwnerQ
  /-- The frame's SCAN work so far (R155). -/
  scanParts : List ScanPart
  ownerFs  : List OwnerF
  /-- Messages that leave at the start of a frame (R106, R113, R196, R346): the frame, the destination, the channel. -/
  outbox   : List (Nat × Nat × Nat × Msg)
  /-- Updates that reached this node as a holder, with the frame of arrival; bound-row updates carried to the UPDATE_STAGE of
  a frame (R216). -/
  updIn    : List (Nat × Upd)
  heldUpd  : List (Nat × Upd)
  staged   : List StagedItem
  /-- Updates that this holder took up since the last commit window, and whether they were not cut off here (R202, R395, R396). -/
  took     : List (Upd × Bool)
  durs     : List Dur
  listOps  : List ListOp
  indexes  : Tbl Index
  sets     : Tbl AllowSet
  tables   : Tbl Table
  graphs   : Tbl Graph
  streams  : List Stream
  migs     : List Mig
  builds   : List Build
  dram     : Dram
  aps      : Tbl Aperture
  flash    : Flash
  ports    : List Port
  time     : TimeSt
  member   : Member
  accts    : Tbl Acct
  nodeAcct : Acct
  log      : List LogRec
  logNext  : Nat
  events   : List Event
  evRings  : Tbl EvRing
  histos   : Tbl Histo
  units    : Units
  power    : Power
  boot     : Boot
  keys     : Keys
  host     : HostPort
  out      : List Out
  /-- The MODEL's own field: how many free values have been taken (log entry 2). -/
  freeTick : Nat
  /-- Commands that wait, first in, first out. -/
  pending  : List Instr
  deriving DecidableEq, Repr

/-- Why the machine stops with a fault. No meaning of this model raises one: every command has a next state (safe). -/
inductive Fault where
  /-- Raised by nobody: kept so that the type has a name for a state that no command leads to. Safe. -/
  | unreachable
  deriving DecidableEq, Repr

/-- Why a command is refused. -/
inductive Refusal where
  /-- A command of the table without a meaning yet, by its mnemonic: raised by Dispatch alone. Safe. -/
  | notModelled (mnemonic : String)
  deriving DecidableEq, Repr

/-! ### Reset -/

def FrameSt.reset : FrameSt :=
  { num := 0, cycle := 0, len := 200, epoch := 0, exact := false, buddyLag := 2, joined := false, logicalId := 0x3FF,
    takeoverHold := 100, shadowFrames := 1024, version := 0, committed := false, ran := [], lag := 0, hiLatch := [], cutoffs := [], defers := [],
    pendModes := [], join := none, leave := none, admitFrom := 0, seq := 0 }

def EaselSt.reset : EaselSt :=
  { inForce := none, standby := none, arm := none, gates := none, gatesStandby := none, resume := 0, lastA := none }

/-- 30 NODE units: the map and block table of R257 take about 7.5 GB (log entry 3). -/
def Dram.nodeUnits : Nat := 30

def Dram.reset : Dram :=
  { mem := [], units := (List.range Dram.nodeUnits).map fun u => (u, .node), kept := [], nbRefused := 0, nbLog := [],
    mismatches := 0, suspects := [], pcFails := [], pcRetired := [], corrected := 0, touched := [], scrubAt := 0, fixed := 0, lost := [] }

/-- The profile of the worked example of file 10: PLANES 4, tR 6 µs, tSUS 4 µs, SLC program 24 µs (log entry 3). -/
def Profile.reset : Profile :=
  { planes := 4, page := 16384, spare := 2048, pages := 1024, qlc := false, tR := 6000, tRSlc := 6000, tSus := 4000, tProgSlc := 24000,
    tProg := 2000000, tBers := 10000000, peLimit := 10000, rdLimit := 100000, retry := 8 }

def Flash.reset : Flash :=
  { live := 0xFFFFFF, populated := 0xFFFFFF, unused := 0, dies := 384, profile := Profile.reset, dieSlot := [], deadDies := [], map := [], recs := [],
    blocks := [], keys := [], folios := [], openFolio := [], slcAge := [], left := [], journal := [], jSeq := 0, jDie := none, jFolios := [], mapSaved := [],
    mapWrites := [], rates := (List.range 24).map (fun c => (c, 3600)), jPending := [], heldKey := [], dirtyMap := [], reads := [],
    progs := [], nextId := 0, suspended := false, timeouts := [], lateReads := [], overCap := [], retried := [], uncorr := [],
    spread := 0, retiredBlocks := 0, slcUsed := 0, freeMin := 0, relocate := [], collecting := [], erasing := [], eraseAt := [], stripes := [], rebuild := [], barred := [], capLast := (0, 0), slcPct := 4, flashOp := 10,
    wlSpread := 400, gcLow := 8, gcHigh := 16, mapFlush := 2048, patrol := 0 }

def Port.reset : Port :=
  { lanes := 0xF, neighbour := 0x3FF, delay := 0, retryMin := 0, crcFails := 0, retries := 0, overflow := 0, drops := 0,
    authFails := 0, groupResends := 0, key := none, keyNext := none, partnerKey := none, keyIds := [], nonceSide := 0,
    nonce := 0, txSeq := 0, rxSeqs := [], kept := [], queue := [], retryLeft := 0, palSent := [], charges := [], authAt := [], sent := [] }

/-- A node that has not joined is its own grandmaster (R297); the Reset column of R301 gives IS_GM and LOCKED 0. -/
def TimeSt.reset : TimeSt :=
  { ns := 0, frac := 0, lockNs := 0, latch := [], locked := false, ppsLocked := false, isGm := false, upPort := 15, hops := 0, gmId := 0,
    priority := 128, offsetPs := 0, gmChanges := 0, goodRun := 0, badRun := 0, ppsRun := 0, steer := 0, unlocked := 0,
    adverts := [], silent := 0 }

def Member.reset : Member :=
  { relay := [], groups := [], miss := [], reports := [], orders := [], installed := [], savedRelay := [], suspects := [], selfSuspect := false, fenced := false,
    fencePend := false, fenceLand := 0, selfSaid := [], heard := [], silentAll := 0, shadow := none, mirror := none, promote := none, vacated := [], holdings := [],
    announced := [], recent := [], digest := 0, pubs := [], sends := [], ends := [], targetDigest := none, acks := [], receipts := [] }

def Acct.zero : Acct :=
  { cnt := List.replicate 8 0, inc := List.replicate 8 0, frac := 0, first := 0, last := 0, admitted := 0, refused := 0,
    fabRefused := 0 }

def Units.reset : Units :=
  { arrExcluded := 0, arrRetired := 0, arrChecks := [], arrFails := [], tileFails := [], fenced := [], spares := List.replicate 16 5,
    repair := List.replicate 16 (List.range 100), excluded := 0, sectorsOn := 0xFFFF }

def Power.reset : Power :=
  { run := .ready, state := 0, want := none, service := 1, wantService := none, testAsked := false, degraded := false,
    setpoint := 750, vlow := 680, vout := 750, regAddr := 0x40, dip := none, dipTail := 0, heldStarts := [], hot := false,
    pmbusOk := true, k := List.replicate 5 1024, kNext := none, drainFrom := none, faultN := false, supplyWarnN := false, thermtripN := false,
    plossN := false, perst := false, crs := false }

def Boot.reset : Boot :=
  { variant := 1, stepping := 0xA0, uid := 0, fwVersion := 1, fwDigest := 0, slotInForce := 0, images := [(1, 0), (1, 0), (1, 0)], staged := none, bootMode := 0,
    warmFails := 0, coldFails := 0, goldenFails := 0, golden := false, startCold := false, devSeq := 1,
    ownerHash := none, ownerSeq := 0, sigBlock := 0, sigSector := 0, sigUsed := [[], []], slotGen := [], heldCauses := [], heard := none, retention := 0 }

/-- The machine after a cold start that reached READY (R433): nothing joined, loaded or created, flash formatted. -/
def State.reset : State :=
  { tap := .idcode, frame := FrameSt.reset, easel := EaselSt.reset, mbs := [], chans := [], changes := [], planned := [], landings := [], nextLand := 0,
    work := [], inbox := [], ownerQs := [], scanParts := [], ownerFs := [], outbox := [], updIn := [], heldUpd := [], staged := [], took := [], durs := [], listOps := [],
    indexes := [], sets := [], tables := [], graphs := [], streams := [], migs := [], builds := [], dram := Dram.reset,
    aps := [], flash := Flash.reset, ports := List.replicate 8 Port.reset, time := TimeSt.reset, member := Member.reset,
    accts := [], nodeAcct := Acct.zero, log := [], logNext := 0, events := [], evRings := [], histos := [],
    units := Units.reset, power := Power.reset, boot := Boot.reset, keys := { kemEpoch := 1, pufEpoch := 1, ide := [] },
    host := { linkUp := true, width := 8, rate := 128, vfs := 0, fnDiscards := [] }, out := [], freeTick := 0, pending := [] }

end Sys2Proof.Machine
end

