-- ==== Sys2Proof/Machine/Ops.lean ====
section
/-! DEFINITION. The operations that the meanings share: handles and lookups, checks in rows and the offset they name (R458),
the mailbox's life (R322 to R324), the log, events and counters (R331, R349, R355), completions (R340, R342), channel faults
and detaches (R334, R359 to R363), and free values. -/

namespace Sys2Proof.Machine

/-- The answer of every meaning: a next state. -/
abbrev Answer := Host.Outcome State Fault Refusal

/-- Whether the node runs: it has reached READY and nothing has stopped it (R433, R432). -/
def State.live (s : State) : Bool := s.power.run == .ready

/-- Whether a start is under way (R433, R434). -/
def State.isStarting (s : State) : Bool := match s.power.run with | .starting _ => true | _ => false

/-- A command's effect on a node that runs; on a node that is off, held, starting, stopped or in recovery nothing acts on
it (log entry 1). -/
def whenLive (f : State → State) (s : State) : Answer := .next (if s.live then f s else s)

/-- Whether the host port and the mailbox answer: the node runs, starts, or is in recovery (R433, R436). -/
def State.answers (s : State) : Bool := s.live || s.power.run == .recovery || s.isStarting

/-- A host access's effect on a node whose host port answers. -/
def whenAnswered (f : State → State) (s : State) : Answer := .next (if s.answers then f s else s)

/-- A command whose effect does not ask whether the node runs. -/
def always (f : State → State) (s : State) : Answer := .next (f s)

/-! ### Handles and numbers -/

/-- CW, the commit cycle (R20). -/
def State.cw (s : State) : Nat := (s.frame.len - 12) * 1750

/-- The cycle after which no completion is written (R22). -/
def State.r22 (s : State) : Nat := (s.frame.len - 20) * 1750

/-- The frame of acceptance of a mailbox command (R462). -/
def State.acceptFrame (s : State) (cycle : Nat) : Nat := if cycle < s.cw then s.frame.num else s.frame.num + 1

/-- The key of an object of a channel: handles are unique only within a channel (R327). -/
def objKey (slot : Nat) (h : Handle) : Nat := slot * 2 ^ 32 + h.toNat

/-- KIND of an object handle (R327). -/
def hKind (h : Handle) : Nat := h.toNat / 2 ^ 28

/-- NUMBER of an object handle. -/
def hNumber (h : Handle) : Nat := h.toNat % 4096

/-- The handle of the channel c in a slot (R332). -/
def chanHandle (slot : Nat) (c : Chan) : Handle := BitVec.ofNat 32 (c.fn * 2 ^ 24 + c.gen * 2 ^ 16 + slot)

/-- The handle of the channel in a slot, or 0. -/
def State.handleAt (s : State) (slot : Nat) : Nat :=
  match tget s.chans slot with
  | some c => (chanHandle slot c).toNat
  | none => 0

/-- The channel that a handle names, for a function that owns it or for the physical function (R325). -/
def State.chanOf (s : State) (fn : Nat) (h : Handle) : Option (Nat × Chan) :=
  match tget s.chans (h.toNat % 2 ^ 16) with
  | some c => if chanHandle (h.toNat % 2 ^ 16) c = h ∧ (fn = 0 ∨ c.fn = fn) then some (h.toNat % 2 ^ 16, c) else none
  | none => none

/-- The index that a handle names in a slot, not dropped. -/
def State.index? (s : State) (slot : Nat) (h : Handle) : Option Index :=
  match tget s.indexes (objKey slot h) with
  | some x => if x.dropped.isNone then some x else none
  | none => none

/-- The table that a handle names in a slot, not dropped. -/
def State.table? (s : State) (slot : Nat) (h : Handle) : Option Table :=
  match tget s.tables (objKey slot h) with
  | some x => if x.dropped.isNone then some x else none
  | none => none

/-- The allow-set that a handle names in a slot, not dropped. -/
def State.set? (s : State) (slot : Nat) (h : Handle) : Option AllowSet :=
  match tget s.sets (objKey slot h) with
  | some x => if x.dropped.isNone then some x else none
  | none => none

/-- The channel in a slot changed. -/
def State.mapChan (s : State) (slot : Nat) (f : Chan → Chan) : State := { s with chans := tmap s.chans slot f }

/-- A free value taken (log entry 2): the value and the state with the count advanced. -/
def State.free (s : State) : Nat × State := (Config.freeValue s.freeTick, { s with freeTick := s.freeTick + 1 })

/-! ### Checks in rows (R458) -/

/-- One row of checks: the status it gives, and per broken condition the offset of the field it names. -/
structure CheckRow where
  status : Nat
  broken : List (Bool × Nat)

/-- The status codes of R345 that the model forms. -/
def stOk : Nat := 0x00
def stShort : Nat := 0x01
def stApprox : Nat := 0x02
def stPartial : Nat := 0x03
def stAbandoned : Nat := 0x05
def stLate : Nat := 0x06
def stPoliced : Nat := 0x07
def stInvalid : Nat := 0x08
def stNoObject : Nat := 0x09
def stMedia : Nat := 0x0A
def stFault : Nat := 0x0B
def stKeyAbsent : Nat := 0x0C
def stMismatch : Nat := 0x0D
def stCutOff : Nat := 0x0E

/-- An INVALID row. -/
def inv (broken : List (Bool × Nat)) : CheckRow := { status := stInvalid, broken := broken }

/-- Stands for no offset: the condition is no field's, and the rule that states it names none (log entry 8). -/
def bareOffset : Nat := 2 ^ 32

/-- The first row with a broken condition decides: its status and the lowest offset among its broken fields (R458). -/
def decideRows : List CheckRow → Option (Nat × Nat)
  | [] => none
  | r :: rest =>
    match (r.broken.filter (·.1)).map (·.2) with
    | [] => decideRows rest
    | o :: os => some (r.status, if os.foldl min o = bareOffset then 0xFFFFFFFF else min (os.foldl min o) 0xFFFFFFFE)

/-- Named bits of a layout: (byte offset, low bit, width). -/
abbrev Layout := List (Nat × Nat × Nat)

/-- The mask of the bits that a layout names. -/
def layoutMask (l : Layout) : Nat := l.foldl (fun acc f => acc ||| ((2 ^ f.2.2 - 1) <<< (8 * f.1 + f.2.1))) 0

/-- The lowest bit of the reserved field that holds bit `p`: a reserved field begins where the named field before it ends, and
ends with that field's 32-bit word when it begins inside one; the words up to the next named field are one further field. -/
def reservedStart (l : Layout) (p : Nat) : Nat :=
  let ends := (l.map fun f => 8 * f.1 + f.2.1 + f.2.2).filter fun e => decide (e ≤ p)
  let e := ends.foldl max 0
  let up := (e + 31) / 32 * 32
  if up ≤ p then up else e

/-- The byte that names the lowest reserved field with a non-zero bit (R5, R458: the byte of the field's lowest bit): none when
every reserved bit is zero. -/
def strayByte (l : Layout) (bs : Bytes) : Option Nat :=
  let n := le bs
  let x := n - (n &&& layoutMask l)
  if x = 0 then none else some (reservedStart l ((x ^^^ (x - 1)).log2) / 8)

/-- The reserved-field condition of a row, for bytes that start at offset `base`. -/
def stray (base : Nat) (l : Layout) (bs : Bytes) : Bool × Nat :=
  match strayByte l bs with
  | none => (false, 0)
  | some b => (true, base + b)

/-! ### The log, events, counters and outputs -/

/-- Something put out. -/
def State.emit (s : State) (o : Out) : State := { s with out := s.out ++ [o] }

/-- A record of the node log (R331): the latest 65,536 are held. -/
def State.logAdd (s : State) (typ chan object d0 data : Nat) : State :=
  let r : LogRec := { seq := s.logNext, frame := s.frame.num, typ := typ, chan := chan, object := object, d0 := d0, data := data }
  { s with log := (s.log ++ [r]).drop (s.log.length + 1 - 65536), logNext := s.logNext + 1 }

/-- A fault record of R386: the channel and object that the fault touched, 0 when it touched not exactly one; unit kind, designator, action
and commands affected. The first-effect frame is this one. -/
def State.faultRecordOf (s : State) (chan object kind unit action affected : Nat) : State :=
  s.logAdd 0x0B chan object unit (kind + action * 2 ^ 8 + s.frame.num * 2 ^ 64 + affected * 2 ^ 128)

/-- The record of a fault that is no one channel's. -/
def State.faultRecord (s : State) (kind unit action affected : Nat) : State := s.faultRecordOf 0 0 kind unit action affected

/-- An event raised (R349); its record is written after the commit window. -/
def State.raise (s : State) (code : Nat) (fn : Option Nat) (chan d0 d1 d2 : Nat) : State :=
  { s with events := s.events ++
      [{ code := code, fn := fn, chan := chan, frame := s.frame.num, d0 := d0, d1 := d1, d2 := d2 }] }

/-- A node event. -/
def State.raiseNode (s : State) (code d0 d1 d2 : Nat) : State := s.raise code none 0 d0 d1 d2

/-- A channel event, for the owning function. -/
def State.raiseChan (s : State) (code slot d0 d1 d2 : Nat) : State :=
  match tget s.chans slot with
  | some c => s.raise code (some c.fn) (chanHandle slot c).toNat d0 d1 d2
  | none => s

/-- Work counted for a channel in the frame in progress (R355): counter number and amount. -/
def State.account (s : State) (slot i n : Nat) : State :=
  match tget s.accts slot with
  | some a => { s with accts := tput s.accts slot { a with inc := setAt a.inc i (· + n) } }
  | none => { s with nodeAcct := { s.nodeAcct with inc := setAt s.nodeAcct.inc i (· + n) } }

/-- A channel's counters that are counted at once (R355). -/
def State.mapAcct (s : State) (slot : Nat) (f : Acct → Acct) : State := { s with accts := tmap s.accts slot f }

/-- A posted write for a channel at the host port, counted in HOST_BYTES (R317, R355). -/
def State.hostWrite (s : State) (slot addr : Nat) (bs : Bytes) : State :=
  (s.emit (.write addr bs)).account slot 6 bs.length

/-! ### The mailbox (R322 to R324, R462) -/

def Resp.zero : Resp :=
  { status := 0, tag := 0, code := 0, handle := 0, faultOffset := 0, frame := 0, value := 0, faultBuffer := 0 }

def Mailbox.zero : Mailbox :=
  { code := 0, tag := 0, chan := 0, pbAddr := 0, pbLen := 0, args := List.replicate 44 0, busy := false, done := false,
    overrun := false, resp := Resp.zero, ready := none, waiting := none }

/-- The mailbox of a function. -/
def State.mb (s : State) (fn : Nat) : Mailbox := tgetD s.mbs fn Mailbox.zero

/-- The mailbox of a function set. -/
def State.setMb (s : State) (fn : Nat) (m : Mailbox) : State := { s with mbs := tput s.mbs fn m }

/-- How a mailbox command ends: `later`: its response waits for the end of its work (R325). -/
structure MbRes where
  status : Nat := 0
  handle : Nat := 0
  offset : Nat := 0xFFFFFFFF
  buf    : Nat := 0xFFFF
  value  : Nat := 0
  later  : Bool := false
  deriving DecidableEq, Repr, Inhabited

/-- A refusal with a status; INVALID names an offset, in the parameter block's buffer from 0x1000 up (R323, R458). -/
def MbRes.refuse (p : Nat × Nat) : MbRes :=
  if p.1 = stInvalid then
    { status := p.1, offset := p.2, buf := if 0x1000 ≤ p.2 ∧ p.2 ≤ 0xFFFFFFFE then 0x08 else 0xFFFF }
  else { status := p.1 }

/-- INVALID inside a buffer whose address field is at `buf`. -/
def MbRes.invalidIn (off buf : Nat) : MbRes := { status := stInvalid, offset := min off 0xFFFFFFFE, buf := buf }

/-- INVALID with no field to name; its FAULT_OFFSET and FAULT_BUFFER are free values (log entry 8). -/
def MbRes.invalidBare : MbRes := { status := stInvalid }

def MbRes.ok : MbRes := {}

/-- The response that an end gives (R323). -/
def MbRes.resp (r : MbRes) (code tag frame : Nat) : Resp :=
  { status := r.status, tag := tag, code := code, handle := r.handle, faultOffset := r.offset, frame := frame,
    value := r.value, faultBuffer := r.buf }

/-- The body of a mailbox command: from the state with MB_CMD copied, the state after its checks and work, and its end. -/
abbrev MbBody := State → State × MbRes

/-- MB_CMD as GO copies it (R324). -/
def Mailbox.start (m : Mailbox) (code : Nat) (g : Go) : Mailbox :=
  { m with code := code, tag := g.tag, chan := g.chan, pbAddr := g.pbAddr, pbLen := g.pbLen, args := g.args, busy := true,
           ready := none, waiting := none }

/-- A command at work settled: its response is ready, or waits. -/
def State.settleMb (s : State) (fn code tag frame : Nat) (r : MbRes) : State :=
  let m := s.mb fn
  if r.later then s.setMb fn { m with waiting := some (r.resp code tag frame) }
  else s.setMb fn { m with ready := some (r.resp code tag frame) }

/-- The offset that an INVALID names where no rule gives one: a free value, as is the buffer's (log entry 8). -/
def State.openOffset (s : State) (r : MbRes) : State × MbRes :=
  if r.status = stInvalid ∧ r.offset = 0xFFFFFFFF then
    let a := s.free
    let b := a.2.free
    (b.2, { r with offset := a.1 % 2 ^ 32, buf := b.1 % 2 ^ 16 })
  else (s, r)

/-- GO (R324): while BUSY is 1 it is ignored and sets OVERRUN; else the command starts, with BUSY = 1 until MB_RESP. In
recovery a command that recovery does not accept is refused (R436). -/
def goMb (inRecovery : Bool) (code : Nat) (g : Go) (body : MbBody) (s : State) : State :=
  if (s.mb g.fn).busy then s.setMb g.fn { s.mb g.fn with overrun := true }
  else
    let frame := s.acceptFrame g.cycle
    let s1 := s.setMb g.fn ((s.mb g.fn).start code g)
    if s.live || (inRecovery && s.power.run == .recovery) || (s.isStarting && (code == 0x01 || code == 0x71)) then
      let r := (body s1).1.openOffset (body s1).2
      r.1.settleMb g.fn code g.tag frame r.2
    else s1.settleMb g.fn code g.tag frame { status := stInvalid, offset := 0 }

/-- A mailbox command of a node that runs, starts (R433 step 2: only IDENTIFY and LOG_READ) or is in recovery; otherwise no mailbox
answers. -/
def mailbox (inRecovery : Bool) (code : Nat) (g : Go) (body : MbBody) (s : State) : Answer :=
  .next (if s.answers then goMb inRecovery code g body s else s)

/-- Checks first; when they pass, the work. -/
def checked (rows : List CheckRow) (work : MbBody) : MbBody := fun s =>
  match decideRows rows with
  | some p => (s, MbRes.refuse p)
  | none => work s

/-- A response that waited for the end of work becomes ready (R325), with changes. -/
def State.mbEnd (s : State) (fn : Nat) (f : Resp → Resp) : State :=
  match (s.mb fn).waiting with
  | some r => s.setMb fn { s.mb fn with ready := some (f r), waiting := none }
  | none => s

/-- Every waiting response of a command code becomes ready. -/
def State.mbEndCode (s : State) (code : Nat) : State :=
  { s with mbs := s.mbs.map fun p =>
      match p.2.waiting with
      | some r => if r.code = code then (p.1, { p.2 with ready := some r, waiting := none }) else p
      | none => p }

end Sys2Proof.Machine

namespace Sys2Proof

/-- A field of ARGS by its MB_CMD offset (R326). -/
def Go.arg (g : Go) (o lo n : Nat) : Nat   := Machine.fld g.args (o - 0x14) lo n

/-- A 64-bit field of ARGS. -/
def Go.arg64 (g : Go) (o : Nat) : Nat   := Machine.rd g.args (o - 0x14) 8

/-- The reserved bits of ARGS: those that the command's fields do not name (R5, R326; DEDUCED, log entry 9). -/
def Go.strayArgs (g : Go) (l : Machine.Layout) : Bool × Nat := Machine.stray 0 ((0, 0, 160) :: l) (List.replicate 0x14 0 ++ g.args)

/-- The checks of a parameter block's address, of its read (R458) and of its fixed length (R457). -/
def Go.pbRows (g : Go) (len : Nat) : List Machine.CheckRow :=
  [Machine.inv [(decide (g.pbLen < len), 0x10)],
   Machine.inv [(g.pbAddr == 0 || g.pbAddr % 64 != 0, 0x08)],
   Machine.inv [(g.fail.isSome, 0x1000 + g.fail.getD 0)]]

/-- The checks of a buffer that the command writes. -/
def Go.outRows (g : Go) (len : Nat) : List Machine.CheckRow :=
  [Machine.inv [(decide (g.pbLen < len), 0x10), (g.pbAddr == 0 || g.pbAddr % 64 != 0, 0x08)]]

/-- Only the physical function may issue the command (R325); no field breaks this condition (log entry 8). -/
def Go.pfOnly (g : Go) : Machine.CheckRow := Machine.inv [(g.fn != 0, Machine.bareOffset)]

end Sys2Proof

namespace Sys2Proof.Machine

/-- A channel handle that must name a channel of the issuer, not RETIRED (R325, R333). -/
def withChan (g : Go) (f : Nat → Chan → MbBody) : MbBody := fun s =>
  match s.chanOf g.fn g.chan with
  | none => (s, { status := stNoObject })
  | some (slot, c) => if c.st = .retired then (s, MbRes.refuse (stInvalid, 0x04)) else f slot c s

/-! ### Capacities (R56, R57, R272) -/

/-- The node's capacities per frame in the order of R56: queries, probes, updates, APPLY rows, LOOKUP rows, read units. -/
def State.caps (s : State) : List Nat :=
  let sc := fun n => if 200 ≤ s.frame.len then n else n * s.frame.len / 200 / 16 * 16
  [sc 8192, sc 65536, sc 2048, sc 65536, sc 262144,
   if 200 ≤ s.frame.len then 16 * s.flash.dies else 16 * s.frame.len / 200 * s.flash.dies]

/-! ### Completions (R340, R342, R360) -/

/-- The command changed wherever it stands in the work list. -/
def State.mapCmd (s : State) (land : Nat) (f : Cmd → Cmd) : State :=
  { s with work := s.work.map fun c => if c.land = land then f c else c }

/-- The 32 bytes of a completion entry (R342). -/
def completionBytes (c : Cmd) (d : Done) (sqHead : Nat) (phase : Bool) : Bytes :=
  toLe 2 c.cid ++ toLe 1 d.status ++ [if phase then 0x80 else 0] ++ toLe 2 sqHead ++ toLe 2 c.ring ++
  toLe 6 d.frame ++ toLe 2 0 ++ toLe 8 d.result ++ toLe 4 d.detail ++ toLe 1 d.detailBuf ++ toLe 3 0

/-- The ring after one completion entry is written (R342). -/
def Ring.advance (r : Ring) : Ring :=
  { r with cqTail := (r.cqTail + 1) % 2 ^ r.log2, phase := if r.cqTail + 1 = 2 ^ r.log2 then !r.phase else r.phase,
           unread := r.unread + 1, intDue := true }

/-- A channel fault queued for step 5 of the commit window (R26, R360). -/
def State.fault (s : State) (slot cause ring : Nat) : State := { s with changes := s.changes ++ [.fault slot cause ring] }

/-- A command leaves the work list. -/
def State.dropCmd (s : State) (land : Nat) : State := { s with work := s.work.filter fun c => c.land != land }

/-- Whether completions of a channel are written (R333): not when it is DETACHED. -/
def ChState.writes : ChState → Bool
  | .detached => false
  | _ => true

/-- The completion of a command written (R342), its result data before it (R116, R317): nothing for a DETACHED channel or
for a ring named by a fault (R334, R360); an entry that would overwrite an unconsumed one faults the channel (R340). -/
def State.write (s : State) (c : Cmd) (d : Done) : State :=
  match tget s.chans c.slot with
  | none => s.dropCmd c.land
  | some ch =>
    match ch.rings[c.ring]? with
    | none => s.dropCmd c.land
    | some r =>
      if !ch.st.writes || r.dead then s.dropCmd c.land
      else if 2 ^ r.log2 ≤ r.unread then (s.dropCmd c.land).fault c.slot 1 c.ring
      else
        let s1 := d.data.foldl (fun acc p => acc.hostWrite c.slot p.1 p.2) s
        let a := r.cqAddr + 32 * r.cqTail
        let d1 := { d with frame := c.adm.getD s.frame.num }
        let s2 := s1.hostWrite c.slot a (completionBytes c d1 ((c.pos + 1) % 2 ^ r.log2) r.phase)
        let s3 := s2.mapChan c.slot fun x => { x with rings := setAt x.rings c.ring Ring.advance }
        let s4 := { s3 with member := { s3.member with ends := s3.member.ends ++
          [(c.slot, c.ring, c.pos, completionBytes c d1 ((c.pos + 1) % 2 ^ r.log2) r.phase)] } }
        s4.mapCmd c.land fun x => { x with wrote := some a, done := some d1 }

/-- A command that has not completed: no completion of it is written. -/
def Cmd.open (c : Cmd) : Bool := c.wrote.isNone

/-- Whether the present cycle lies before the cycle of R22. -/
def State.early (s : State) : Bool := decide (s.frame.cycle ≤ s.r22) && !s.frame.committed

/-- Whether every update of a channel that landed before a landing number would be complete at durability by now (R348). -/
def State.volatileDue (s : State) (slot land : Nat) : Bool :=
  match tget s.chans slot with
  | some c => c.volatile.all fun v => decide (land ≤ v.land) || v.due.any (fun x => decide (x ≤ s.frame.num))
  | none => true

/-- Frames in which every command that landed before a FENCE on its channel has completed (R348). -/
def State.fenceDue (s : State) (f : Cmd) : Bool :=
  f.op == 0x08 && f.open && f.done.isNone && f.passed && decide (f.elig ≤ s.frame.num) &&
  s.work.all (fun c => c.slot != f.slot || decide (f.land ≤ c.land) || !c.open) &&
  (!flag f.entry 8 0 || s.volatileDue f.slot f.land)

/-- FENCEs of a channel that are due are written, in landing order (R348). -/
def State.fences (s : State) : State :=
  if s.early then
    (s.work.filter fun c => c.op == 0x08).foldl (fun acc f =>
      match acc.work.find? (fun c => c.land == f.land) with
      | some c => if acc.fenceDue c then
          acc.write c { status := stOk, frame := acc.frame.num, result := 0, detail := 0, detailBuf := 0, data := [] } else acc
      | none => acc) s
  else s

/-- A command's outcome settled (R22): written now when it is due and the cycle of R22 has not passed, else in the frame
it is due in, or the next one. -/
def State.settle (s : State) (land due : Nat) (d : Done) : State :=
  match s.work.find? (fun c => c.land == land) with
  | none => s
  | some c =>
    if c.wrote.isSome then s
    else if decide (due ≤ s.frame.num) && s.early then (s.write c d).fences
    else s.mapCmd land fun x => { x with done := some d, elig := max due (if s.early then 0 else s.frame.num + 1) }

/-- Outcomes that waited and are due now are written, in landing order. -/
def State.writeDue (s : State) : State :=
  (s.work.filter fun c => c.open && c.done.isSome && decide (c.elig ≤ s.frame.num)).foldl (fun acc c =>
    match c.done with
    | some d => acc.write c d
    | none => acc) s |>.fences

/-- RESULT of a command that does not end OK (R343): the PRIOR_REGION of an UPSERT, else 0. -/
def Cmd.failResult (c : Cmd) : Nat := if c.op = 0x04 then rd c.entry 0x28 4 else 0

/-- A plain outcome of an admitted command. -/
def Cmd.outcome (c : Cmd) (s : State) (status : Nat) : Done :=
  { status := status, frame := c.adm.getD s.frame.num, result := c.failResult, detail := 0, detailBuf := 0, data := [] }

/-! ### Detach and fault (R334, R353, R360) -/

/-- What is left of a ring whose settings are lost (R438). -/
def Ring.lost : Ring :=
  { sqAddr := 0, cqAddr := 0, log2 := 0, vector := 0, intEn := false, sqTail := 0, sqHead := 0, cqTail := 0, cqHead := 0,
    phase := true, unread := 0, intDue := false, dead := false }

/-- A channel becomes DETACHED: landed commands not admitted are dropped, the admitted ones run on without completions,
the key is discarded; a FAULTED or RETIRED channel keeps its state (R334). -/
def State.detach (s : State) (slot : Nat) : State :=
  match tget s.chans slot with
  | none => s
  | some c =>
    let st := match c.st with | .active => ChState.detached | x => x
    { s with chans := tput s.chans slot { c with st := st, rings := c.rings.map fun _ => Ring.lost, key := none, keyBytes := [] },
             landings := s.landings.filter fun l => l.slot != slot,
             work := s.work.filter fun w => w.slot != slot || w.adm.isSome }

/-- Every channel, or those of one function, becomes DETACHED. -/
def State.detachAll (s : State) (fn : Option Nat) : State :=
  (s.chans.filter fun p => match fn with | none => true | some f => p.2.fn == f).foldl (fun acc p => acc.detach p.1) s

end Sys2Proof.Machine
end

