-- ==== Sys2Proof/Machine/FlashMap.lean ====
section
/-! DEFINITION. The folio map and the logical folios of the flash (R257, R258, R264, R277). -/

namespace Sys2Proof.Machine

/-! ### Logical folios (R257, R277) -/

/-- The flash part changed. -/
def State.mapFlash (s : State) (f : Flash → Flash) : State := { s with flash := f s.flash }

/-- The number of a map entry (R257). -/
def MapEntry.bits (m : MapEntry) : Nat := m.slot + m.die * 2 ^ 22 + (if m.slc then 2 ^ 31 else 0) + m.state * 2 ^ 32

/-- The entry that a number is, none where it is unmapped. -/
def MapEntry.ofBits (n : Nat) : Option MapEntry :=
  if bitsOf n 32 2 = 0 then none
  else some { slot := n % 2 ^ 22, die := bitsOf n 22 9, slc := bitsOf n 31 1 == 1, state := bitsOf n 32 2 }

/-- An entry of the node in the journal (R260). -/
def State.nodeEntry (s : State) (typ : Nat) (body : List Nat) : State :=
  s.mapFlash fun f => { f with jPending := f.jPending ++ [{ typ := typ, slot := 0, object := 0, frame := s.frame.num, body := body, undo := [] }] }

/-! ### The journal -/

/-- A journal entry kept (R260): held while its channel's key is not installed (R280), else waiting for its program. `undo` is what it
changed. -/
def State.keepEntry (s : State) (typ slot : Nat) (h : Handle) (body undo : List Nat) : State :=
  let e : JEntry := { typ := typ, slot := slot, object := h, frame := s.frame.num, body := body, undo := undo }
  let held := match tget s.chans slot with | some c => c.encrypt && c.key.isNone | none => false
  if held then { s with flash := { s.flash with heldKey := s.flash.heldKey ++ [e] } }
  else { s with flash := { s.flash with jPending := s.flash.jPending ++ [e] } }

/-- The entry of a publication; one of step 2 is covered by the frame digest (R410). -/
def State.journalUndo (s : State) (typ slot : Nat) (h : Handle) (body undo : List Nat) : State :=
  let e : JEntry := { typ := typ, slot := slot, object := h, frame := s.frame.num, body := body, undo := undo }
  let s1 := if s.frame.cycle = s.cw + 875 then { s with member := { s.member with pubs := s.member.pubs ++ [e] } } else s
  s1.keepEntry typ slot h body undo

/-- An entry with nothing of before to keep. -/
def State.journal (s : State) (typ slot : Nat) (h : Handle) (body : List Nat) : State := s.journalUndo typ slot h body []

/-- A map entry set: its map folio is dirty from the commit window on, and the change is journalled (R258, R260). -/
def State.setMap (s : State) (folio : Nat) (e : Option MapEntry) : State :=
  let mf := folio / 13094
  let s1 := s.mapFlash fun f =>
    { f with map := (match e with | some m => tput f.map folio m | none => tdel f.map folio),
             dirtyMap := if f.dirtyMap.any fun d => d.1 == mf then f.dirtyMap else f.dirtyMap ++ [(mf, s.frame.num)] }
  s1.nodeEntry 6 [folio, match e with | some m => m.bits | none => 0]

/-- A logical folio that holds nothing more: unmapped, with its records and keys (R264). -/
def State.dropFolio (s : State) (n : Nat) : State :=
  let s1 := if (tget s.flash.map n).isSome then s.setMap n none else s
  s1.mapFlash fun f =>
    { f with folios := tdel f.folios n, recs := f.recs.filter (fun r => r.1 / 2048 != n),
             keys := f.keys.filter (fun r => r.1 / 2048 != n), openFolio := f.openFolio.filter fun o => o.2.1 != n }

/-- Logical folio numbers in use. -/
def Flash.numbers (f : Flash) : List Nat := f.map.map (·.1) ++ f.folios.map (·.1)

/-- The lowest unused number of a granule of 1,048,576 (R277). -/
def freeNumber (used : List Nat) (run : Nat) : Option Nat :=
  let n := lowestFree ((used.filter fun u => u / 2 ^ 20 == run).map (· % 2 ^ 20))
  if n < 2 ^ 20 then some (run * 2 ^ 20 + n) else none

/-- The number of a channel's next logical folio: the lowest unused one of its granules; a channel whose granules are full, or that has
none, takes the lowest unused number of all (DESIGN CHOICE, log entry 13). -/
def State.newFolio (s : State) (slot : Nat) : Nat :=
  let used := s.flash.numbers
  match (match tget s.chans slot with | some c => c.flashAt | none => []).findSome? (freeNumber used) with
  | some n => n
  | none => lowestFree used

/-- The logical folios of a channel slot. -/
def State.foliosOf (s : State) (slot : Nat) : List Nat := (s.flash.folios.filter fun p => p.2.slot == slot).map (·.1)

end Sys2Proof.Machine
end

