-- ==== Sys2Proof/Machine/Float.lean ====
section
/-! DEFINITION. The arithmetic of R123 and the conversions of R124: binary32 operations rounded once to nearest, ties to even,
subnormals kept, computed exactly over dyadic numbers and rounded at the end. -/

namespace Sys2Proof.Machine

/-- A float's value: a NaN or an infinity with its sign, or (-1)^neg × m × 2^e. -/
inductive FVal where
  | nan (neg : Bool)
  | inf (neg : Bool)
  | fin (neg : Bool) (m : Nat) (e : Int)
  deriving DecidableEq, Repr

/-- A binary format: exponent and mantissa bits, bias; `top` is the largest finite magnitude code; `sat`: beyond it a value
saturates instead of becoming an infinity (R124); `inf` and `nan` are the magnitude codes of infinity and quiet NaN. -/
structure Fmt where
  eb  : Nat
  mb  : Nat
  bias : Nat
  top : Nat
  sat : Bool
  inf : Nat
  nan : Nat

def fmt32 : Fmt := { eb := 8, mb := 23, bias := 127, top := 0x7F7FFFFF, sat := false, inf := 0x7F800000, nan := 0x7FC00000 }
def fmtBf16 : Fmt := { eb := 8, mb := 7, bias := 127, top := 0x7F7F, sat := false, inf := 0x7F80, nan := 0x7FC0 }
def fmtFp16 : Fmt := { eb := 5, mb := 10, bias := 15, top := 0x7BFF, sat := false, inf := 0x7C00, nan := 0x7E00 }
def fmtE4m3 : Fmt := { eb := 4, mb := 3, bias := 7, top := 0x7E, sat := true, inf := 0x80, nan := 0x7F }
def fmtE5m2 : Fmt := { eb := 5, mb := 2, bias := 15, top := 0x7B, sat := true, inf := 0x7C, nan := 0x7F }

/-- The sign bit's weight. -/
def Fmt.signBit (f : Fmt) : Nat := 2 ^ (f.eb + f.mb)

/-- The value of a code. -/
def fval (f : Fmt) (w : Nat) : FVal :=
  let neg := decide (w / f.signBit % 2 = 1)
  let a := w % f.signBit
  if a = f.inf then .inf neg
  else if f.top < a then .nan neg
  else
    let x := a / 2 ^ f.mb
    let m := a % 2 ^ f.mb
    if x = 0 then .fin neg m (1 - (f.bias : Int) - f.mb) else .fin neg (m + 2 ^ f.mb) ((x : Int) - f.bias - f.mb)

/-- A magnitude with the sign set. -/
def withSign (f : Fmt) (neg : Bool) (a : Nat) : Nat := if neg then a + f.signBit else a

/-- (m, plus something below one unit when `sticky`) × 2^e rounded to nearest, ties to even. -/
def roundTo (f : Fmt) (neg : Bool) (m : Nat) (e : Int) (sticky : Bool := false) : Nat :=
  if m = 0 then withSign f neg 0
  else
    let q : Int := max ((m.log2 : Int) + e - f.mb) (1 - (f.bias : Int) - f.mb)
    let mant : Nat :=
      if q ≤ e then m <<< (e - q).toNat
      else
        let s := (q - e).toNat
        let hi := m >>> s
        let rem := m % 2 ^ s
        let half := 2 ^ (s - 1)
        if half < rem ∨ (rem = half ∧ (sticky = true ∨ hi % 2 = 1)) then hi + 1 else hi
    let code := (q + f.mb + f.bias - 1).toNat * 2 ^ f.mb + mant
    withSign f neg (if f.top < code then (if f.sat then f.top else f.inf) else code)

/-- The code of a value. -/
def fcode (f : Fmt) : FVal → Nat
  | .nan neg => withSign f neg f.nan
  | .inf neg => withSign f neg (if f.sat then f.top else f.inf)
  | .fin neg m e => roundTo f neg m e

/-- Exact sum of two finite values; an exact zero of unlike signs is +0. -/
def addFin (n1 : Bool) (m1 : Nat) (e1 : Int) (n2 : Bool) (m2 : Nat) (e2 : Int) : FVal :=
  let e := min e1 e2
  let a : Int := ((m1 <<< (e1 - e).toNat : Nat) : Int) * (if n1 then -1 else 1)
  let b : Int := ((m2 <<< (e2 - e).toNat : Nat) : Int) * (if n2 then -1 else 1)
  let c := a + b
  if c = 0 then .fin (n1 && n2) 0 e else .fin (decide (c < 0)) c.natAbs e

/-- Exact sum of values. -/
def vadd : FVal → FVal → FVal
  | .nan n, _ => .nan n
  | _, .nan n => .nan n
  | .inf a, .inf b => if a = b then .inf a else .nan false
  | .inf a, _ => .inf a
  | _, .inf b => .inf b
  | .fin n1 m1 e1, .fin n2 m2 e2 => addFin n1 m1 e1 n2 m2 e2

/-- Exact product of values. -/
def vmul : FVal → FVal → FVal
  | .nan n, _ => .nan n
  | _, .nan n => .nan n
  | .inf a, .inf b => .inf (a != b)
  | .inf a, .fin n m _ => if m = 0 then .nan false else .inf (a != n)
  | .fin n m _, .inf b => if m = 0 then .nan false else .inf (b != n)
  | .fin n1 m1 e1, .fin n2 m2 e2 => .fin (n1 != n2) (m1 * m2) (e1 + e2)

def vneg : FVal → FVal
  | .nan n => .nan !n
  | .inf n => .inf !n
  | .fin n m e => .fin (!n) m e

/-- The value of an fp32 word. -/
def f32 (a : F32) : FVal := fval fmt32 a.toNat
/-- A value rounded to fp32. -/
def toF32 (v : FVal) : F32 := BitVec.ofNat 32 (fcode fmt32 v)

/-- The constants +0.0, 1.0 and 2.0. -/
def f0 : F32 := 0
def f1 : F32 := 0x3F800000
def f2 : F32 := 0x40000000

def isNan (a : F32) : Bool := match f32 a with | .nan _ => true | _ => false
def isFinite (a : F32) : Bool := match f32 a with | .fin _ _ _ => true | _ => false

/-- The result of an operation on two words: a NaN is quiet and its sign free (log entry 7). -/
def fres (a b : F32) : FVal → F32
  | .nan _ => if Config.nanSign a.toNat b.toNat then 0xFFC00000 else 0x7FC00000
  | v => toF32 v

def fadd (a b : F32) : F32 := fres a b (vadd (f32 a) (f32 b))
def fneg (a : F32) : F32 := a ^^^ 0x80000000
def fsub (a b : F32) : F32 := fres a b (vadd (f32 a) (vneg (f32 b)))
def fmul (a b : F32) : F32 := fres a b (vmul (f32 a) (f32 b))
/-- fused(c + a × b): the product exact, one rounding (R123). -/
def ffma (c a b : F32) : F32 := fres a b (vadd (f32 c) (vmul (f32 a) (f32 b)))

/-- Division, rounded once: 64 bits of quotient below the point of the mantissas and a sticky bit. -/
def fdiv (a b : F32) : F32 :=
  match f32 a, f32 b with
  | .nan n, _ => fres a b (.nan n)
  | _, .nan n => fres a b (.nan n)
  | .inf n, .inf _ => fres a b (.nan n)
  | .inf n, .fin n2 _ _ => toF32 (.inf (n != n2))
  | .fin n _ _, .inf n2 => toF32 (.fin (n != n2) 0 0)
  | .fin n1 m1 e1, .fin n2 m2 e2 =>
    if m2 = 0 then (if m1 = 0 then fres a b (.nan n1) else toF32 (.inf (n1 != n2)))
    else if m1 = 0 then toF32 (.fin (n1 != n2) 0 0)
    else BitVec.ofNat 32 (roundTo fmt32 (n1 != n2) ((m1 <<< 64) / m2) (e1 - e2 - 64) ((m1 <<< 64) % m2 != 0))

/-- ⌊√x⌋ for x < 4^n, found from the high bit down. -/
def isqrtN : Nat → Nat → Nat → Nat
  | 0, _, acc => acc
  | n + 1, x, acc => if (acc + 2 ^ n) * (acc + 2 ^ n) ≤ x then isqrtN n x (acc + 2 ^ n) else isqrtN n x acc

/-- ⌊√x⌋. -/
def isqrt (x : Nat) : Nat := isqrtN (x.log2 / 2 + 1) x 0

/-- Square root, rounded once; of a number below zero a NaN. -/
def fsqrt (a : F32) : F32 :=
  match f32 a with
  | .nan n => fres a a (.nan n)
  | .inf n => if n then fres a a (.nan n) else a
  | .fin n m e =>
    if m = 0 then a
    else if n then fres a a (.nan n)
    else
      let m' := if e % 2 = 0 then m <<< 64 else m <<< 65
      let e' := if e % 2 = 0 then e - 64 else e - 65
      let r := isqrt m'
      BitVec.ofNat 32 (roundTo fmt32 false r (e' / 2) (r * r != m'))

/-- A float's value as an order number: finite values and infinities in ascending order, zeros equal. -/
def fkey (a : F32) : Int := if a.toNat ≥ 0x80000000 then -((a.toNat - 0x80000000 : Nat) : Int) else (a.toNat : Int)

/-- a < b, false when either is a NaN. -/
def flt (a b : F32) : Bool := !isNan a && !isNan b && decide (fkey a < fkey b)

/-- a = b as values. -/
def feq (a b : F32) : Bool := !isNan a && !isNan b && decide (fkey a = fkey b)

/-- max(+0.0, x); a NaN stays a NaN. -/
def fmax0 (x : F32) : F32 := if isNan x then x else if flt f0 x then x else f0

/-- R122: −0.0 becomes +0.0, a NaN becomes +infinity. -/
def normScore (a : F32) : F32 := if isNan a then 0x7F800000 else if a = 0x80000000 then 0 else a

/-- An exact integer rounded to fp32 (R124). -/
def ofInt (i : Int) : F32 := BitVec.ofNat 32 (roundTo fmt32 (decide (i < 0)) i.natAbs 0)

/-- Conversions of narrow formats to fp32, all exact (R124). -/
def ofCode (f : Fmt) (w : Nat) : F32 := toF32 (fval f w)
def ofBf16 (w : F16) : F32 := ofCode fmtBf16 w.toNat
def ofFp16 (w : F16) : F32 := ofCode fmtFp16 w.toNat

/-- Whether m × 2^e is beyond the largest finite value of a format. -/
def beyondTop (f : Fmt) (m : Nat) (e : Int) : Bool :=
  match fval f f.top with
  | .fin _ mt et => decide (mt <<< (et - min e et).toNat < m <<< (e - min e et).toNat)
  | _ => false

/-- fp32 to a narrow format (R124): rounded to nearest; in a format that does not saturate, a value beyond the largest finite
value is an infinity, also where rounding would take it back to that value (R127: NORM is an infinity above 65,504). -/
def toCode (f : Fmt) (a : F32) : Nat :=
  match f32 a with
  | .fin neg m e => if !f.sat && beyondTop f m e then withSign f neg f.inf else roundTo f neg m e
  | v => fcode f v
def toBf16 (a : F32) : F16 := BitVec.ofNat 16 (toCode fmtBf16 a)
def toFp16 (a : F32) : F16 := BitVec.ofNat 16 (toCode fmtFp16 a)

/-- A finite value rounded to the nearest integer, ties to even. -/
def roundInt (neg : Bool) (m : Nat) (e : Int) : Int :=
  let a : Nat :=
    if 0 ≤ e then m <<< e.toNat
    else
      let s := (-e).toNat
      let hi := m >>> s
      let rem := m % 2 ^ s
      let half := 2 ^ (s - 1)
      if half < rem ∨ (rem = half ∧ hi % 2 = 1) then hi + 1 else hi
  if neg then -(a : Int) else a

/-- Clamped to −128 … 127. -/
def clamp8 (i : Int) : Int := max (-128) (min 127 i)

/-- round_even of an fp32 value, an infinity clamping by its sign; none for a NaN, whose code is 0 with a NaN mark
(R124). -/
def roundEven (a : F32) : Option Int :=
  match f32 a with
  | .nan _ => none
  | .inf n => some (if n then -2 ^ 200 else 2 ^ 200)
  | .fin n m e => some (roundInt n m e)

/-- A two's-complement number in a byte. -/
def sbyte (b : Byte) : Int := b.toInt

/-- ⌊x⌋ of a finite value, an infinity far beyond every clamp. -/
def ffloor (a : F32) : Int :=
  match f32 a with
  | .nan _ => 0
  | .inf n => if n then -2 ^ 200 else 2 ^ 200
  | .fin n m e =>
    let i : Int := if 0 ≤ e then (m <<< e.toNat : Nat) else (m >>> (-e).toNat : Nat)
    let exact := 0 ≤ e ∨ m % 2 ^ (-e).toNat = 0
    if n then (if exact then -i else -i - 1) else i

/-- ⌊π × 2^160⌋. -/
def piFix : Nat := 0x3243F6A8885A308D313198A2E03707344A4093822

/-- The cosine series: terms left, the next k, the present term and x², all over 2^160. -/
def cosSeries : Nat → Nat → Int → Int → Int
  | 0, _, _, _ => 0
  | n + 1, k, term, x2 =>
    term + cosSeries n (k + 2) (-(term * x2 / 2 ^ 160 / (((k + 1) * (k + 2) : Nat) : Int))) x2

/-- cos(π × h ÷ b) correctly rounded for 0 ≤ h ≤ b (R134): 160 bits of series settle every entry, since the cosine of no such
angle but 0, 60, 90, 120 and 180 degrees is rational and b is a power of two. -/
def cosEntry (b h : Nat) : F32 :=
  if h = 0 then f1
  else if 2 * h = b then f0
  else if h = b then fneg f1
  else
    let k := if b < 2 * h then b - h else h
    let x : Int := (piFix * k / b : Nat)
    let c := cosSeries 30 0 (2 ^ 160) (x * x / 2 ^ 160)
    BitVec.ofNat 32 (roundTo fmt32 (decide (b < 2 * h)) c.toNat (-160) true)

end Sys2Proof.Machine
end

