-- ==== Sys2Proof/Machine/Hash.lean ====
section
/-! DEFINITION. The fixed functions over bytes that the spec names: SHA-256 and HMAC-free digests (R27, R86, R303), CRC-32 and
CRC-16 (R259, R285, R308), AES-256 on one block (R381), LMS signature checks (R364, R369: RFC 8554), and the
Philox-4×32-10 generator (R131, written out in the spec). SHA-256, AES and LMS follow their published standards (log
entry 6). -/

namespace Sys2Proof.Machine

/-! ### SHA-256 -/

/-- The low 32 bits of a number. -/
def w32 (n : Nat) : Nat := n % 2 ^ 32

def rotr32 (x n : Nat) : Nat := w32 ((x >>> n) ||| (x <<< (32 - n)))

def shaK : List Nat :=
  [0x428a2f98, 0x71374491, 0xb5c0fbcf, 0xe9b5dba5, 0x3956c25b, 0x59f111f1, 0x923f82a4, 0xab1c5ed5] ++
  [0xd807aa98, 0x12835b01, 0x243185be, 0x550c7dc3, 0x72be5d74, 0x80deb1fe, 0x9bdc06a7, 0xc19bf174] ++
  [0xe49b69c1, 0xefbe4786, 0x0fc19dc6, 0x240ca1cc, 0x2de92c6f, 0x4a7484aa, 0x5cb0a9dc, 0x76f988da] ++
  [0x983e5152, 0xa831c66d, 0xb00327c8, 0xbf597fc7, 0xc6e00bf3, 0xd5a79147, 0x06ca6351, 0x14292967] ++
  [0x27b70a85, 0x2e1b2138, 0x4d2c6dfc, 0x53380d13, 0x650a7354, 0x766a0abb, 0x81c2c92e, 0x92722c85] ++
  [0xa2bfe8a1, 0xa81a664b, 0xc24b8b70, 0xc76c51a3, 0xd192e819, 0xd6990624, 0xf40e3585, 0x106aa070] ++
  [0x19a4c116, 0x1e376c08, 0x2748774c, 0x34b0bcb5, 0x391c0cb3, 0x4ed8aa4a, 0x5b9cca4f, 0x682e6ff3] ++
  [0x748f82ee, 0x78a5636f, 0x84c87814, 0x8cc70208, 0x90befffa, 0xa4506ceb, 0xbef9a3f7, 0xc67178f2]

def shaInit : List Nat :=
  [0x6a09e667, 0xbb67ae85, 0x3c6ef372, 0xa54ff53a, 0x510e527f, 0x9b05688c, 0x1f83d9ab, 0x5be0cd19]

/-- The number that a big-endian byte string spells. -/
def be (bs : Bytes) : Nat := bs.foldl (fun n b => n * 256 + b.toNat) 0

/-- The n-byte big-endian form of a number. -/
def toBe (n w : Nat) : Bytes := (toLe n w).reverse

/-- The next word of the message schedule; the window holds the last 16 words, oldest first. -/
def shaNextW (w : List Nat) : Nat :=
  let a := w.getD 1 0
  let b := w.getD 14 0
  let s0 := rotr32 a 7 ^^^ rotr32 a 18 ^^^ (a >>> 3)
  let s1 := rotr32 b 17 ^^^ rotr32 b 19 ^^^ (b >>> 10)
  w32 (w.getD 0 0 + s0 + w.getD 9 0 + s1)

/-- The rounds: one per constant left; the state is (a, …, h) as a list. -/
def shaRounds : List Nat → List Nat → List Nat → List Nat
  | [], _, st => st
  | k :: ks, w, st =>
    match st with
    | [a, b, c, d, e, f, g, h] =>
      let s1 := rotr32 e 6 ^^^ rotr32 e 11 ^^^ rotr32 e 25
      let ch := (e &&& f) ^^^ ((0xFFFFFFFF ^^^ e) &&& g)
      let t1 := h + s1 + ch + k + w.getD 0 0
      let s0 := rotr32 a 2 ^^^ rotr32 a 13 ^^^ rotr32 a 22
      let mj := (a &&& b) ^^^ (a &&& c) ^^^ (b &&& c)
      shaRounds ks (w.drop 1 ++ [shaNextW w]) [w32 (t1 + s0 + mj), a, b, c, w32 (d + t1), e, f, g]
    | _ => st

def shaBlock (st : List Nat) (blk : Bytes) : List Nat :=
  let w := (List.range 16).map fun i => be (slice blk (4 * i) 4)
  (List.zipWith (fun x y => w32 (x + y)) st (shaRounds shaK w st))

/-- The blocks of a padded message; `n` bounds their number. -/
def shaBlocks : Nat → List Nat → Bytes → List Nat
  | 0, st, _ => st
  | n + 1, st, bs => if bs.isEmpty then st else shaBlocks n (shaBlock st (bs.take 64)) (bs.drop 64)

/-- SHA-256 as 32 bytes. -/
def sha256 (m : Bytes) : Bytes :=
  let padded := m ++ [0x80] ++ List.replicate ((119 - m.length % 64) % 64) 0 ++ toBe 8 (8 * m.length)
  ((shaBlocks (padded.length / 64 + 1) shaInit padded).map (toBe 4)).flatten

/-- A digest as the number its bytes spell, little-endian. -/
def digest (m : Bytes) : Nat := le (sha256 m)

/-! ### Cyclic checks -/

/-- One bit step of the reflected CRC-32 of IEEE 802.3. -/
def crc32Bit (c : Nat) : Nat := if c % 2 == 1 then (c / 2) ^^^ 0xEDB88320 else c / 2

/-- CRC-32 of IEEE 802.3 (R259, R285). -/
def crc32 (bs : Bytes) : Nat :=
  (bs.foldl (fun c b => Nat.repeat crc32Bit 8 (c ^^^ b.toNat)) 0xFFFFFFFF) ^^^ 0xFFFFFFFF

def crc16Bit (c : Nat) : Nat := if c ≥ 0x8000 then ((c * 2) % 2 ^ 16) ^^^ 0x1021 else c * 2

/-- CRC-16, polynomial 0x1021, initial value 0xFFFF, no reflection, no final XOR (R308). -/
def crc16 (bs : Bytes) : Nat := bs.foldl (fun c b => Nat.repeat crc16Bit 8 (c ^^^ (b.toNat <<< 8))) 0xFFFF

/-! ### Philox-4×32-10 (R131) -/

/-- One round: hi and lo of the two products, with the key. -/
def philoxRound (k0 k1 : Nat) : Nat × Nat × Nat × Nat → Nat × Nat × Nat × Nat
  | (c0, c1, c2, c3) =>
    let p0 := 0xD2511F53 * c0
    let p1 := 0xCD9E8D57 * c2
    ((p1 >>> 32) ^^^ c1 ^^^ k0, w32 p1, (p0 >>> 32) ^^^ c3 ^^^ k1, w32 p0)

/-- The rounds left, the key advancing between them. -/
def philoxLoop : Nat → Nat → Nat → Nat × Nat × Nat × Nat → Nat × Nat × Nat × Nat
  | 0, _, _, c => c
  | n + 1, k0, k1, c => philoxLoop n (w32 (k0 + 0x9E3779B9)) (w32 (k1 + 0xBB67AE85)) (philoxRound k0 k1 c)

/-- The four output words of the generator for key (k0, k1) and a counter. -/
def philox (k0 k1 c0 c1 c2 c3 : Nat) : List Nat :=
  let (a, b, c, d) := philoxLoop 10 k0 k1 (c0, c1, c2, c3)
  [a, b, c, d]

/-! ### AES-256, one block -/

/-- Multiplication by x in GF(2^8). -/
def gfX (a : Nat) : Nat := let b := a * 2; if b ≥ 256 then (b % 256) ^^^ 0x1B else b

/-- Multiplication in GF(2^8): n bits of b left. -/
def gfMulN : Nat → Nat → Nat → Nat
  | 0, _, _ => 0
  | n + 1, a, b => (if b % 2 == 1 then a else 0) ^^^ gfMulN n (gfX a) (b / 2)

def gfMul (a b : Nat) : Nat := gfMulN 8 a b

/-- The inverse in GF(2^8), a^254 (0 for 0). -/
def gfInv (a : Nat) : Nat :=
  let a2 := gfMul a a
  let a4 := gfMul a2 a2
  let a8 := gfMul a4 a4
  let a16 := gfMul a8 a8
  let a32 := gfMul a16 a16
  let a64 := gfMul a32 a32
  let a128 := gfMul a64 a64
  gfMul a2 (gfMul a4 (gfMul a8 (gfMul a16 (gfMul a32 (gfMul a64 a128)))))

def rotl8 (x n : Nat) : Nat := (x * 2 ^ n) % 256 + x / 2 ^ (8 - n)

/-- The S-box. -/
def aesSub (a : Nat) : Nat :=
  let b := gfInv a
  b ^^^ rotl8 b 1 ^^^ rotl8 b 2 ^^^ rotl8 b 3 ^^^ rotl8 b 4 ^^^ 0x63

def xorL (a b : List Nat) : List Nat := List.zipWith (fun x y => x ^^^ y) a b

/-- The key schedule of AES-256: n words left; the window holds the last eight words, i is the word's number. -/
def aesExpand : Nat → Nat → Nat → List (List Nat) → List (List Nat)
  | 0, _, _, _ => []
  | n + 1, i, rc, win =>
    let t := win.getD 7 []
    let t' := if i % 8 == 0 then
        xorL ((t.drop 1 ++ t.take 1).map aesSub) [rc, 0, 0, 0]
      else if i % 8 == 4 then t.map aesSub else t
    let w := xorL (win.getD 0 []) t'
    w :: aesExpand n (i + 1) (if i % 8 == 0 then gfX rc else rc) (win.drop 1 ++ [w])

/-- The 60 words of the key schedule. -/
def aesKeys (key : Bytes) : List (List Nat) :=
  let k := key.map BitVec.toNat
  let first := (List.range 8).map fun i => (k.drop (4 * i)).take 4
  first ++ aesExpand 52 8 1 first

/-- Shift rows of a block held column by column. -/
def aesShift (s : List Nat) : List Nat :=
  (List.range 16).map fun p => s.getD ((p + 4 * (p % 4)) % 16) 0

/-- Mix one column. -/
def aesMixCol (c : List Nat) : List Nat :=
  (List.range 4).map fun i =>
    gfMul 2 (c.getD i 0) ^^^ gfMul 3 (c.getD ((i + 1) % 4) 0) ^^^ c.getD ((i + 2) % 4) 0 ^^^ c.getD ((i + 3) % 4) 0

def aesMix (s : List Nat) : List Nat := ((List.range 4).map fun j => aesMixCol ((s.drop (4 * j)).take 4)).flatten

/-- The rounds of AES-256 with the round keys left. -/
def aesRounds : List (List Nat) → List Nat → List Nat
  | [], s => s
  | [k], s => xorL (aesShift (s.map aesSub)) k
  | k :: ks, s => aesRounds ks (xorL (aesMix (aesShift (s.map aesSub))) k)

/-- AES-256 of one 16-byte block under a 32-byte key. -/
def aes256 (key block : Bytes) : Bytes :=
  let ks := aesKeys key
  let rk := fun r => ((ks.drop (4 * r)).take 4).flatten
  ((aesRounds ((List.range 14).map fun r => rk (r + 1)) (xorL (block.map BitVec.toNat) (rk 0))).map (BitVec.ofNat 8))

/-! ### LMS signatures (R364: RFC 8554, LMS_SHA256_M32_H20 with LMOTS_SHA256_N32_W8) -/

/-- The chain of one LM-OTS element: n steps from position j. -/
def otsChain (idq : Bytes) (i : Nat) : Nat → Nat → Bytes → Bytes
  | 0, _, x => x
  | n + 1, j, x => otsChain idq i n (j + 1) (sha256 (idq ++ toBe 2 i ++ toBe 1 j ++ x))

/-- The public-key candidate of an LM-OTS signature: C, then 34 elements of 32 bytes. -/
def otsCandidate (ident : Bytes) (q : Nat) (msg c y : Bytes) : Bytes :=
  let idq := ident ++ toBe 4 q
  let h := sha256 (idq ++ [0x81, 0x81] ++ c ++ msg)
  let sum := (h.map fun b => 255 - b.toNat).sum
  let digits := h.map BitVec.toNat ++ [sum / 256, sum % 256]
  let z := (List.range 34).map fun i =>
    let a := digits.getD i 0
    otsChain idq i (255 - a) a (slice y (32 * i) 32)
  sha256 (idq ++ [0x80, 0x80] ++ z.flatten)

/-- From a leaf to the root along the path left. -/
def lmsRoot (ident : Bytes) : List Bytes → Nat → Bytes → Bytes
  | [], _, t => t
  | p :: ps, n, t =>
    let up := n / 2
    let m := if n % 2 == 1 then p ++ t else t ++ p
    lmsRoot ident ps up (sha256 (ident ++ toBe 4 up ++ [0x83, 0x83] ++ m))

/-- Whether a 1,772-byte signature of a message is good under a 56-byte public key. -/
def lmsVerify (pk msg sig : Bytes) : Bool :=
  let ident := slice pk 8 16
  let q := be (slice sig 0 4)
  let kc := otsCandidate ident q msg (slice sig 8 32) (slice sig 40 1088)
  let node := 2 ^ 20 + q
  let leaf := sha256 (ident ++ toBe 4 node ++ [0x82, 0x82] ++ kc)
  let path := (List.range 20).map fun i => slice sig (1132 + 32 * i) 32
  pk.length == 56 && sig.length == 1772 && be (slice pk 0 4) == 8 && be (slice pk 4 4) == 4 &&
    be (slice sig 4 4) == 4 && be (slice sig 1128 4) == 8 && decide (q < 2 ^ 20) &&
    lmsRoot ident path node leaf == slice pk 24 32

/-- Whether a signature block (R369) holds a good entry of a role whose public key hashes to `root`. -/
def sigBlockOk (role root : Nat) (msg blk : Bytes) : Bool :=
  rd blk 0 4 == 0x53494731 && decide (1 ≤ rd blk 4 1) && decide (rd blk 4 1 ≤ 2) &&
    (List.range (rd blk 4 1)).any fun i =>
      let e := blk.drop (16 + 1840 * i)
      rd e 0 1 == role && rd e 4 4 == 1772 && digest (slice e 8 56) == root &&
        lmsVerify (slice e 8 56) msg (slice e 0x40 1772)

end Sys2Proof.Machine
end

