-- ==== Sys2Proof/Machine/Score.lean ====
section
/-! DEFINITION. Scores to the bit: lane-order dot products (R128), sketches (R131 to R133), estimated and exact scores (R129,
R130, R134, R135), centroid scores (R183), palettes (R305 to R307), table initial values and optimiser steps (R192, R204). -/

namespace Sys2Proof.Machine

/-! ### Dot products -/

/-- One lane: the fused sum over the elements l, l + 32, … of the vectors; n elements are left. -/
def laneSum : Nat → List F32 → List F32 → F32 → F32
  | 0, _, _, acc => acc
  | n + 1, u, v, acc =>
    match u, v with
    | a :: _, b :: _ => laneSum n (u.drop 32) (v.drop 32) (ffma acc a b)
    | _, _ => acc

/-- One level of the fixed tree: lane l takes lane l + width. -/
def laneFold (w : Nat) (acc : List F32) : List F32 := List.zipWith fadd (acc.take w) (acc.drop w)

/-- dot(u, v) in lane order (R128). -/
def dot (u v : List F32) : F32 :=
  let lanes := (List.range 32).map fun l => laneSum (u.length / 32 + 1) (u.drop l) (v.drop l) f0
  ([16, 8, 4, 2, 1].foldl (fun acc w => laneFold w acc) lanes).getD 0 f0

/-- D(a, b): the fused sum over ascending k of the arrays (R133, R173). -/
def seqDot (u v : List F32) : F32 := (u.zip v).foldl (fun acc p => ffma acc p.1 p.2) f0

/-! ### Stored vectors (R72, R126; VEC_FORMAT 0 fp16, 1 bf16, 2 int8, 3 fp8 E4M3) -/

/-- The 16-bit words of a byte string. -/
def words16 : Bytes → List F16
  | a :: b :: r => (BitVec.ofNat 16 (a.toNat + 256 * b.toNat)) :: words16 r
  | _ => []

/-- The 32-bit words of a byte string. -/
def words32 : Bytes → List F32
  | a :: b :: c :: d :: r => (BitVec.ofNat 32 (le [a, b, c, d])) :: words32 r
  | _ => []

/-- The bytes of 16-bit words. -/
def bytes16 (l : List F16) : Bytes := l.flatMap fun w => toLe 2 w.toNat
/-- The bytes of 32-bit words. -/
def bytes32 (l : List F32) : Bytes := l.flatMap fun w => toLe 4 w.toNat

/-- V, the bytes of a stored vector (R72). -/
def vecBytes (fmt dim : Nat) : Nat := if fmt ≤ 1 then 2 * dim else if fmt = 2 then dim + 4 else dim

/-- The scale of a stored int8 vector. -/
def vecScale (dim : Nat) (v : Bytes) : F32 := BitVec.ofNat 32 (rd v dim 4)

/-- Element values x_j in fp32 (R126). -/
def vecElems (fmt dim : Nat) (v : Bytes) : List F32 :=
  match fmt with
  | 0 => (words16 (v.take (2 * dim))).map ofFp16
  | 1 => (words16 (v.take (2 * dim))).map ofBf16
  | 2 => (v.take dim).map fun c => fmul (vecScale dim v) (ofInt (sbyte c))
  | _ => (v.take dim).map fun c => ofCode fmtE4m3 c.toNat

/-- fp32 elements stored in a format (R124): the codes of the formats other than int8. -/
def vecStore (fmt : Nat) (xs : List F32) : Bytes :=
  match fmt with
  | 0 => bytes16 (xs.map toFp16)
  | 1 => bytes16 (xs.map toBf16)
  | _ => xs.map fun x => BitVec.ofNat 8 (toCode fmtE4m3 x)

/-- The values used for sketching (R126): rounded to bf16. -/
def sketchElems (fmt dim : Nat) (v : Bytes) : List F32 := (vecElems fmt dim v).map fun x => ofBf16 (toBf16 x)

/-- ROWSUM (R127): the exact sum of int8 codes, else zero. -/
def rowSum (fmt dim : Nat) (v : Bytes) : Int := if fmt = 2 then ((v.take dim).map sbyte).sum else 0

/-- NORM as fp16 (R127). -/
def normOf (fmt dim : Nat) (v : Bytes) : F16 := toFp16 (fsqrt (dot (vecElems fmt dim v) (vecElems fmt dim v)))

/-- Whether a stored vector passes the checks of R127 (METRIC 0 IP, 1 COS, 2 L2SQ). -/
def vecOk (fmt dim metric : Nat) (v : Bytes) : Bool :=
  (vecElems fmt dim v).all isFinite &&
  (fmt != 2 || (isFinite (vecScale dim v) && flt f0 (vecScale dim v))) &&
  (normOf fmt dim v).toNat % 0x8000 < 0x7C00 &&
  (metric != 1 || (normOf fmt dim v).toNat != 0)

/-! ### Sketches (R131 to R133) -/

/-- Whether element n of the sketch matrix is +1 (R132). -/
def gSign (seed n : Nat) : Bool :=
  hasBit ((philox (seed % 2 ^ 32) (seed / 2 ^ 32) (n / 128) 0 0 0).getD (n / 32 % 4) 0) (n % 32)

/-- y of R133 for row i: the element signs from linear number n on. -/
def sketchSum (seed : Nat) : Nat → List F32 → F32 → F32
  | _, [], y => y
  | n, v :: r, y => sketchSum seed (n + 1) r (ffma y (if gSign seed n then f1 else fneg f1) v)

/-- The sketch of b bits as a number whose bit i is bit i of R133. -/
def sketchOf (seed b : Nat) (v : List F32) : Nat :=
  (List.range b).foldl (fun acc i => if flt (sketchSum seed (i * v.length) v f0) f0 then acc else setBit acc i) 0

/-! ### Scores -/

/-- The order key of a score (R148). -/
def orderKey (s : F32) : Nat :=
  let u := (normScore s).toNat
  if u < 0x80000000 then u + 0x80000000 else 0xFFFFFFFF - u

/-- The comparison word (R149). -/
def cmpWord (ok ordinal : Nat) : Nat := ok * 2 ^ 32 + ordinal

/-- The comparison word of a selection that keeps the largest scores (R149). -/
def cmpWordLargest (ok ordinal : Nat) : Nat := (0xFFFFFFFF - ok) * 2 ^ 32 + ordinal

/-- The estimated score of a slot (R135) from QQ, the slot's NORM and the Hamming distance h of b bits. -/
def estScore (metric b : Nat) (qq : F32) (norm : F16) (h : Nat) : F32 :=
  let qn := fsqrt qq
  let xn := ofFp16 norm
  let t := cosEntry b h
  normScore (match metric with
    | 0 => fneg (fmul (fmul qn xn) t)
    | 1 => fsub f1 t
    | _ => fmax0 (fsub (fadd qq (fmul xn xn)) (fmul f2 (fmul (fmul qn xn) t))))

/-- Least and greatest of a list of fp32 values. -/
def fminL (l : List F32) : F32 := l.foldl (fun a x => if flt x a then x else a) (l.headD f0)
def fmaxL (l : List F32) : F32 := l.foldl (fun a x => if flt a x then x else a) (l.headD f0)

/-- A rounded value shifted by a zero point and clamped to int8 (R124); a NaN gives code 0. -/
def codeOf (x : F32) (z : Int) : Int := match roundEven x with | none => 0 | some i => clamp8 (i + z)

/-- IP(q, x) for an int8 stored vector (R130). -/
def ipInt8 (q : List F32) (dim : Nat) (v : Bytes) (rowsum : Int) : F32 :=
  let sx := vecScale dim v
  let c := (v.take dim).map sbyte
  let lo := fminL q
  let hi := fmaxL q
  if feq hi lo then fmul lo (fmul sx (ofInt rowsum))
  else
    let sq := fdiv (fsub hi lo) (ofInt 255)
    let zq := match roundEven (fdiv lo sq) with | none => (0 : Int) | some i => clamp8 (-128 - i)
    let a := q.map fun x => codeOf (fdiv x sq) zq
    let d := (List.zipWith (fun p r => p * r) a c).sum
    fmul (ofInt (d - zq * rowsum)) (fmul sq sx)

/-- The exact score of a stored vector (R129, R130), normalised. -/
def exactScore (fmt metric dim : Nat) (q : List F32) (qq : F32) (v : Bytes) (rowsum : Int) (norm : F16) : F32 :=
  let x := vecElems fmt dim v
  let ip := if fmt = 2 then ipInt8 q dim v rowsum else dot q x
  let xx := if fmt = 2 then
      fmul (fmul (vecScale dim v) (vecScale dim v)) (ofInt ((v.take dim).map fun c => sbyte c * sbyte c).sum)
    else dot x x
  normScore (match metric with
    | 0 => fneg ip
    | 1 => fsub f1 (fdiv ip (fmul (fsqrt qq) (ofFp16 norm)))
    | _ => fmax0 (fsub (fadd qq xx) (fmul f2 ip)))

/-- A centroid score (R183), normalised; q and c in fp32, QQ in lane order (R125), CC in array order. -/
def centroidScore (metric : Nat) (q : List F32) (c : List F32) : F32 :=
  let d := seqDot q c
  let qq := dot q q
  let cc := seqDot c c
  let cn := fsqrt cc
  normScore (match metric with
    | 0 => fneg d
    | 1 => if feq cn f0 then 0x7F800000 else fsub f1 (fdiv d (fmul (fsqrt qq) cn))
    | _ => fmax0 (fsub (fadd qq cc) (fmul f2 d)))

/-- fp32 mean of vectors, summed in order, rounded to bf16 (R81, R86). -/
def meanBf16 (dim : Nat) (vs : List (List F32)) : List F16 :=
  let sum := vs.foldl (fun acc v => List.zipWith fadd acc v) (List.replicate dim f0)
  sum.map fun x => toBf16 (fdiv x (ofInt vs.length))

/-! ### Palettes (R305 to R307) -/

/-- A compressed vector: zero point, codes; with the number of values clipped (R306). -/
def palCompress (p4 : Bool) (scales : List F32) (v : List F32) : Nat × List Nat × Nat :=
  let top : Int := if p4 then 15 else 255
  let mid : Int := if p4 then 8 else 128
  let u := v.mapIdx fun j x => fdiv x (scales.getD (j / 32) f1)
  let s := fadd (fminL u) (fmaxL u)
  let m : Int := if isFinite s then (roundEven (fdiv s f2)).getD 0 else 0
  let z := max 0 (min top (mid - m))
  let t := u.map fun x => (roundEven x).getD 0 + z
  (z.toNat, t.map fun i => (max 0 (min top i)).toNat, (t.filter fun i => i < 0 || top < i).length)

/-- Expansion (R307) to fp32. -/
def palExpand (scales : List F32) (z : Nat) (codes : List Nat) : List F32 :=
  codes.mapIdx fun j (c : Nat) => fmul (ofInt ((c : Int) - (z : Int))) (scales.getD (j / 32) f1)

/-- The round trip that every vector of a stream takes (R302, R201): the expansion and the values clipped. -/
def palTrip (p4 : Bool) (scales : List F32) (v : List F32) : List F32 × Nat :=
  let c := palCompress p4 scales v
  (palExpand scales c.1 c.2.1, c.2.2)

/-- VS, the bytes of a compressed vector (R305). -/
def palBytes (p4 : Bool) (dim : Nat) : Nat := if p4 then dim / 2 + 2 else dim + 2

/-- The wire form of a compressed vector (R305). -/
def palWire (p4 : Bool) (dim z : Nat) (codes : List Nat) : Bytes :=
  BitVec.ofNat 8 z :: BitVec.ofNat 8 (dim / 32 - 1 + if p4 then 128 else 0) ::
  (if p4 then (List.range (dim / 2)).map fun j => BitVec.ofNat 8 (codes.getD (2 * j) 0 + 16 * codes.getD (2 * j + 1) 0)
   else codes.map fun c => BitVec.ofNat 8 c)

/-! ### Rows of tables (R189, R192, R204; ROW_FORMAT 0 fp32, 1 bf16, 2 fp16) -/

/-- Element size of a row format. -/
def rowES (fmt : Nat) : Nat := if fmt = 0 then 4 else 2

/-- Elements of a row's vector or state in a format. -/
def rowElems (fmt : Nat) (bs : Bytes) : List F32 :=
  match fmt with
  | 0 => words32 bs
  | 1 => (words16 bs).map ofBf16
  | _ => (words16 bs).map ofFp16

/-- fp32 values stored in a row format (R124). -/
def rowStore (fmt : Nat) (xs : List F32) : Bytes :=
  match fmt with
  | 0 => bytes32 xs
  | 1 => bytes16 (xs.map toBf16)
  | _ => bytes16 (xs.map toFp16)

/-- State size A (R189; OPTIMISER 0 SGD, 1 MOMENTUM, 2 ADAGRAD_ROW, 3 ADAGRAD_ELEM, 4 ADAM). -/
def stateBytes (optim stFmt dim : Nat) : Nat :=
  match optim with
  | 0 => 0
  | 1 => dim * rowES stFmt
  | 2 => 8
  | 3 => dim * rowES stFmt
  | _ => 8 + 2 * dim * rowES stFmt

/-- ROW_STRIDE (R189). -/
def rowStride (fmt optim stFmt dim : Nat) : Nat := ceilDiv (dim * rowES fmt + stateBytes optim stFmt dim) 64 * 64

/-- Element n = r × DIM + j of a table of INIT = UNIFORM (R192). -/
def initElem (seed : Nat) (scale : F32) (n : Nat) : F32 :=
  let w := (philox (seed % 2 ^ 32) (seed / 2 ^ 32) (n / 4 % 2 ^ 32) (n / 2 ^ 34) 0 0).getD (n % 4) 0
  let i : Int := if w < 2 ^ 31 then w else (w : Int) - 2 ^ 32
  fmul (fmul (ofInt i) 0x30000000) scale

/-- m × 2^e, plus something below one unit when inexact, to the power of the bits left: squarings and products keep 512
bits. -/
def powStep (x y : Nat × Int × Bool) : Nat × Int × Bool :=
  let m := x.1 * y.1
  let e := x.2.1 + y.2.1
  let cut := m.log2 - 511
  (m >>> cut, e + cut, x.2.2 || y.2.2 || m % 2 ^ cut != 0)

/-- x^t by the n bits of t from the low one up. -/
def powN : Nat → Nat → (Nat × Int × Bool) → (Nat × Int × Bool) → Nat × Int × Bool
  | 0, _, _, acc => acc
  | n + 1, t, x, acc => powN n (t / 2) (powStep x x) (if t % 2 = 1 then powStep acc x else acc)

/-- The correctly rounded 1 − β^t for 0 ≤ β < 1 (R204). -/
def oneMinusPow (beta : F32) (t : Nat) : F32 :=
  match f32 beta with
  | .fin _ m e =>
    if m = 0 then (if t = 0 then f0 else f1)
    else
      let p := powN 33 t (m, e, false) (1, 0, false)
      if p.2.1 + p.1.log2 < -200 then f1
      else
        let k := (-p.2.1).toNat
        let d := 2 ^ k - p.1 - (if p.2.2 then 1 else 0)
        BitVec.ofNat 32 (roundTo fmt32 false d (-(k : Int)) p.2.2)
  | _ => f1

/-- What a step needs of its table (R188). -/
structure StepCfg where
  dim   : Nat
  fmt   : Nat
  optim : Nat
  stFmt : Nat
  mu    : F32
  beta1 : F32
  beta2 : F32
  eps   : F32

/-- One step of R204 on a row image with combined gradient G and learning rate η. -/
def optStep (c : StepCfg) (img : Bytes) (g : List F32) (eta : F32) : Bytes :=
  let v := c.dim * rowES c.fmt
  let w := rowElems c.fmt (slice img 0 v)
  let stride := rowStride c.fmt c.optim c.stFmt c.dim
  let pad := fun (bs : Bytes) => bs ++ List.replicate (stride - bs.length) 0
  let n := c.dim * rowES c.stFmt
  match c.optim with
  | 0 => pad (rowStore c.fmt (List.zipWith (fun x y => fsub x (fmul eta y)) w g))
  | 1 =>
    let m := List.zipWith (fun a y => fadd (fmul c.mu a) y) (rowElems c.stFmt (slice img v n)) g
    pad (rowStore c.fmt (List.zipWith (fun x y => fsub x (fmul eta y)) w m) ++ rowStore c.stFmt m)
  | 2 =>
    let s := fadd (BitVec.ofNat 32 (rd img v 4)) (fdiv (dot g g) (ofInt c.dim))
    let d := fadd (fsqrt s) c.eps
    pad (rowStore c.fmt (List.zipWith (fun x y => fsub x (fdiv (fmul eta y) d)) w g) ++ toLe 4 s.toNat)
  | 3 =>
    let s := List.zipWith (fun a y => fadd a (fmul y y)) (rowElems c.stFmt (slice img v n)) g
    let upd := List.zipWith (fun y a => fdiv (fmul eta y) (fadd (fsqrt a) c.eps)) g s
    pad (rowStore c.fmt (List.zipWith fsub w upd) ++ rowStore c.stFmt s)
  | _ =>
    let t := min (rd img v 4 + 1) (2 ^ 32 - 1)
    let m := List.zipWith (fun a y => fadd (fmul c.beta1 a) (fmul (fsub f1 c.beta1) y))
      (rowElems c.stFmt (slice img (v + 8) n)) g
    let s := List.zipWith (fun a y => fadd (fmul c.beta2 a) (fmul (fsub f1 c.beta2) (fmul y y)))
      (rowElems c.stFmt (slice img (v + 8 + n) n)) g
    let c1 := oneMinusPow c.beta1 t
    let c2 := oneMinusPow c.beta2 t
    let upd := List.zipWith (fun a b => fdiv (fmul eta (fdiv a c1)) (fadd (fsqrt (fdiv b c2)) c.eps)) m s
    pad (rowStore c.fmt (List.zipWith fsub w upd) ++ toLe 4 t ++ toLe 4 0 ++ rowStore c.stFmt m ++ rowStore c.stFmt s)

end Sys2Proof.Machine
end

