-- ==== Sys2Proof/Machine/Select.lean ====
section
/-! DEFINITION. Selection (R149 to R166): comparison words, keep lists, cuts, the collapse of duplicate keys, the tied flag,
k-means, rescoring graphs (R138 to R143), and the cycle formulas of the scan cores, mergers and matrix arrays (R154 to R159,
R176). -/

namespace Sys2Proof.Machine

/-! ### Keep lists and cuts -/

/-- The first n words in ascending order. -/
def bestWords (n : Nat) (ws : List Nat) : List Nat := (sortBy (fun a b => decide (a < b)) ws).take n

/-- What a core holds while it selects (R153). -/
structure KeepState where
  keep  : List Nat
  stage : List Nat
  deriving DecidableEq, Repr

/-- The threshold below which a word enters. -/
def KeepState.threshold (kc : Nat) (k : KeepState) : Nat :=
  if k.keep.length = kc then k.keep.getD (kc - 1) 0 else 0xFFFFFFFFFFFFFFFF

/-- merge_batch of R153. -/
def KeepState.merge (kc : Nat) (k : KeepState) : KeepState := { keep := bestWords kc (k.keep ++ k.stage), stage := [] }

/-- One word offered (R153). -/
def KeepState.offer (kc : Nat) (k : KeepState) (w : Nat) : KeepState :=
  if w < k.threshold kc then
    if k.stage.length + 1 = 8 then KeepState.merge kc { k with stage := k.stage ++ [w] } else { k with stage := k.stage ++ [w] }
  else k

/-- A pass over the words of a core's slots, with the merge at its end (R153). -/
def keepList (kc : Nat) (ws : List Nat) : List Nat :=
  (KeepState.merge kc (ws.foldl (KeepState.offer kc) { keep := [], stage := [] })).keep

/-- The choice of the n best of numbered things by (score, ordinal) (R149): the ordinals chosen, best first. -/
def chooseBest (n : Nat) (l : List (Nat × F32)) : List Nat :=
  ((sortBy (fun a b => decide (a.1 < b.1)) (l.map fun p => (cmpWord (orderKey p.2) p.1, p.1))).take n).map (·.2)

/-- The ordinal of the largest score, ties to the lower ordinal (R149). -/
def chooseLargest (l : List (Nat × F32)) : Option Nat :=
  ((sortBy (fun a b => decide (a.1 < b.1)) (l.map fun p => (cmpWordLargest (orderKey p.2) p.1, p.1))).head?).map (·.2)

/-! ### Candidate entries -/

/-- The class of an entry (R162): with a graph, 0 when rescored, else 1. -/
def Cand.cls (graph : Bool) (c : Cand) : Nat := if graph && !c.rescored then 1 else 0

/-- The comparison word of an entry (R149). -/
def Cand.word (c : Cand) : Nat := cmpWord c.orderKey c.ordinal

/-- Entry order: ranking pair (R162), then the lower owner (R149). -/
def candLt (graph : Bool) (a b : Cand) : Bool :=
  decide (Cand.cls graph a < Cand.cls graph b) ||
  (Cand.cls graph a == Cand.cls graph b &&
    (decide (Cand.word a < Cand.word b) || (Cand.word a == Cand.word b && decide (a.owner < b.owner))))

/-- better(e, d) of R164. -/
def candBetter (graph : Bool) (e d : Cand) : Bool :=
  if e.exact != d.exact then e.exact
  else if e.owner != d.owner then decide (e.owner < d.owner)
  else decide (Cand.cls graph e < Cand.cls graph d) ||
    (Cand.cls graph e == Cand.cls graph d && decide (Cand.word e < Cand.word d))

/-- One entry meets the entries kept so far (R164). -/
def collapseOne (graph : Bool) (out : List Cand) (e : Cand) : List Cand :=
  match out.find? (fun d => d.key == e.key) with
  | some d => if candBetter graph e d then out.filter (fun x => x.key != e.key) ++ [e] else out
  | none => out ++ [e]

/-- Sorted entries with equal keys collapsed (R164). -/
def collapse (graph : Bool) (es : List Cand) : List Cand :=
  (sortBy (candLt graph) es).foldl (collapseOne graph) []

/-- Same order key, and with a graph the same class (R165). -/
def sameRank (graph : Bool) (a b : Cand) : Bool := a.orderKey == b.orderKey && Cand.cls graph a == Cand.cls graph b

/-- The tied flag of a cut to n of collapsed entries `out`, given the last entries of the input lists that carried a tied
flag (R165). -/
def tiedFlag (graph : Bool) (n : Nat) (out : List Cand) (tiedLasts : List Cand) : Bool :=
  match out[n - 1]? with
  | none => false
  | some l => (out.drop n).any (sameRank graph l) || tiedLasts.any (sameRank graph l)

/-- A cut with collapse: the first n entries and the tied flag. -/
def cut (graph : Bool) (n : Nat) (es : List Cand) (tiedLasts : List Cand) : List Cand × Bool :=
  ((collapse graph es).take n, tiedFlag graph n (collapse graph es) tiedLasts)

/-- A cut without collapse (R161). -/
def cutPlain (n : Nat) (es : List Cand) : List Cand := (sortBy (candLt false) es).take n

/-! ### k-means (R86) -/

/-- The nearest centroid of a sample, ties to the lowest number, with its score. -/
def nearest (metric : Nat) (cs : List (List F32)) (x : List F32) : Nat × F32 :=
  let sc := cs.mapIdx fun j c => (j, centroidScore metric x c)
  let j := (chooseBest 1 sc).headD 0
  (j, (sc.getD j (0, f0)).2)

/-- Empty centroids in ascending order take the farthest unused samples. -/
def fillEmpty (samples : List (List F16)) (far : List (Nat × F32)) : Nat → List Nat → List (List F16) → List Nat →
    List (List F16)
  | 0, _, cs, _ => cs
  | n + 1, empties, cs, used =>
    match empties with
    | [] => cs
    | j :: r =>
      match chooseLargest (far.filter fun p => !used.contains p.1) with
      | some i => fillEmpty samples far n r (setAt cs j fun _ => samples.getD i []) (i :: used)
      | none => cs

/-- bf16 vectors in fp32. -/
def toVec (c : List F16) : List F32 := c.map ofBf16

/-- One Lloyd iteration. -/
def lloyd (metric dim : Nat) (samples : List (List F16)) (cs : List (List F16)) : List (List F16) :=
  let cf := cs.map toVec
  let asg := samples.map fun x => nearest metric cf (toVec x)
  let means := (List.range cs.length).map fun j =>
    let mem := (samples.zip asg).filter fun p => p.2.1 == j
    if mem.isEmpty then (cs.getD j []) else meanBf16 dim (mem.map fun p => toVec p.1)
  let empties := (List.range cs.length).filter fun j => !(asg.any fun a => a.1 == j)
  let far := (samples.zip asg).mapIdx fun i p => (i, centroidScore metric (toVec p.1) (toVec (means.getD p.2.1 [])))
  fillEmpty samples far empties.length empties means []

/-- k-means to k centroids by `iter` iterations (R86). -/
def kmeans (metric dim k iter : Nat) (samples : List (List F16)) : List (List F16) :=
  let start := (List.range k).map fun j => samples.getD (j * samples.length / k) []
  Nat.repeat (lloyd metric dim samples) iter start

/-! ### Splits (R81) -/

/-- The internal score of two item vectors in fp32, as centroid scores are formed. -/
def itemScore (metric : Nat) (x c : List F32) : F32 := centroidScore metric x c

/-- Which side of a split each vector takes: true for the cb side. -/
def splitSides (metric : Nat) (ca cb : List F32) (vs : List (List F32)) : List Bool :=
  vs.map fun v => decide (orderKey (itemScore metric v cb) < orderKey (itemScore metric v ca))

/-- One repetition of R81; a side without members keeps its centroid. -/
def splitStep (metric dim : Nat) (vs : List (List F32)) (c : List F32 × List F32) : List F32 × List F32 :=
  let sides := splitSides metric c.1 c.2 vs
  let a := (vs.zip sides).filter fun p => !p.2
  let b := (vs.zip sides).filter fun p => p.2
  (if a.isEmpty then c.1 else toVec (meanBf16 dim (a.map (·.1))), if b.isEmpty then c.2 else toVec (meanBf16 dim (b.map (·.1))))

/-- The two centroids of a split of a list with centroid c and live vectors vs in slot order (R81). -/
def splitCentroids (metric dim : Nat) (c : List F16) (vs : List (List F32)) : List F16 × List F16 :=
  let far := fun (from_ : List F32) =>
    (chooseLargest (vs.mapIdx fun i v => (i, itemScore metric v from_))).getD 0
  let a := vs.getD (far (toVec c)) []
  let b := vs.getD (far a) []
  let cs := Nat.repeat (splitStep metric dim vs) 8 (a, b)
  (cs.1.map toBf16, cs.2.map toBf16)

/-! ### Rescoring graphs (R138 to R143) -/

/-- A layer descriptor (R139). -/
structure Layer where
  outW  : Nat
  fmt   : Nat
  act   : Nat
  sIn   : F32
  zIn   : Int
  zW    : Int
  sW    : F32
  wOff  : Nat
  bOff  : Nat
  deriving DecidableEq, Repr

/-- Layer l of a graph image. -/
def layerOf (img : Bytes) (l : Nat) : Layer :=
  let o := 0x40 + 32 * l
  { outW := fld img o 0 13, fmt := fld img o 13 3, act := fld img o 16 3, sIn := BitVec.ofNat 32 (rd img (o + 4) 4),
    zIn := sbyte (BitVec.ofNat 8 (rd img (o + 8) 1)), zW := sbyte (BitVec.ofNat 8 (rd img (o + 9) 1)),
    sW := BitVec.ofNat 32 (rd img (o + 12) 4), wOff := rd img (o + 16) 8, bOff := rd img (o + 24) 8 }

/-- Bytes of a layer element. -/
def layerES (fmt : Nat) : Nat := if fmt ≤ 2 then 1 else 2

/-- The float format of a layer (R139: 1 E4M3, 2 E5M2, 3 bf16, 4 fp16). -/
def layerFmt (fmt : Nat) : Fmt := match fmt with | 1 => fmtE4m3 | 2 => fmtE5m2 | 3 => fmtBf16 | _ => fmtFp16

/-- Weight (k, n) as a code. -/
def weight (img : Bytes) (L : Layer) (k n : Nat) : Nat :=
  rd img (L.wOff + (k * L.outW + n) * layerES L.fmt) (layerES L.fmt)

/-- The activation table's function (R142). -/
def activate (img : Bytes) (t : Nat) (x : F32) : F32 :=
  if t = 7 then x
  else
    let o := 0x200 + 1088 * t
    let w := fun i => (BitVec.ofNat 32 (rd img (o + i) 4) : F32)
    let u := fmul (fsub x (w 0)) (w 4)
    if isNan u then u
    else
      let i := (max 0 (min 254 (ffloor u))).toNat
      let f := fsub u (ofInt i)
      fadd (w (0x40 + 4 * i)) (fmul f (fsub (w (0x44 + 4 * i)) (w (0x40 + 4 * i))))

/-- Output n of a layer on input row v (R141). -/
def layerOut (img : Bytes) (L : Layer) (v : List F32) (n : Nat) : F32 :=
  let bias : F32 := BitVec.ofNat 32 (rd img (L.bOff + 4 * n) 4)
  if L.fmt = 0 then
    let q := v.map fun x => roundEven (fdiv x L.sIn)
    if q.any (·.isNone) then 0x7FC00000
    else
      let a : List Int := q.map fun i => clamp8 (i.getD 0 + L.zIn)
      let d := (a.mapIdx fun k x => (x - L.zIn) * (sbyte (BitVec.ofNat 8 (weight img L k n)) - L.zW)).sum
      activate img L.act (fadd (fmul (ofInt d) (fmul L.sIn L.sW)) bias)
  else
    let f := layerFmt L.fmt
    let acc := (v.mapIdx fun k x => (ofCode f (toCode f x), ofCode f (weight img L k n))).foldl
      (fun s p => ffma s p.1 p.2) f0
    activate img L.act (fadd acc bias)

/-- A whole layer. -/
def layerRow (img : Bytes) (l : Nat) (v : List F32) : List F32 :=
  (List.range (layerOf img l).outW).map fun n => layerOut img (layerOf img l) v n

/-- A feature's value from a payload row (R140). -/
def featureOf (img payload : Bytes) (i : Nat) : F32 :=
  let e := rd img (0x140 + 2 * i) 2
  let o := e % 4096
  match bitsOf e 12 3 with
  | 0 => ofInt (rd payload o 1)
  | 1 => ofInt (sbyte (BitVec.ofNat 8 (rd payload o 1)))
  | 2 => ofFp16 (BitVec.ofNat 16 (rd payload o 2))
  | 3 => ofBf16 (BitVec.ofNat 16 (rd payload o 2))
  | _ => BitVec.ofNat 32 (rd payload o 4)

def graphLayers (img : Bytes) : Nat := fld img 4 16 4
def graphFeatures (img : Bytes) : Nat := fld img 4 20 7
def graphScoreIn (img : Bytes) : Bool := flag img 4 27
def graphLarger (img : Bytes) : Bool := flag img 4 28

/-- The input vector of layer 0 (R140). -/
def graphInput (img : Bytes) (q x : List F32) (payload : Bytes) (score : F32) : List F32 :=
  q ++ x ++ (List.range (graphFeatures img)).map (featureOf img payload) ++ (if graphScoreIn img then [score] else [])

/-- The ordering value of the last layer's output (R143). -/
def graphOrder (img : Bytes) (o : F32) : F32 := normScore (if graphLarger img && !isNan o then fneg o else o)

/-! ### Cycles -/

/-- Batch cycles of one keep list of n words staged (R154). -/
def batchCycles (kc staged : Nat) : Nat := ceilDiv staged 8 * (if kc ≤ 8 then 8 else 16)

/-- QB of R157. -/
def queriesPerPass (b kc : Nat) : Nat := min 64 (12288 / (b / 8 + 8 * kc + 64))

/-- A pass of q queries over a list of `lines` lines (R158). -/
def passCycles (lines q b batch : Nat) : Nat := 64 + lines * ceilDiv (q * b) 512 + batch

/-- One merge truncated to m (R159). -/
def mergeCycles (m : Nat) : Nat := 4 + ceilDiv m 32

/-- T of R176 for passes (L, S, G) and the shape's K_s + N_s. -/
def arrayCycles (drain : Nat) : List (Nat × Nat × Nat) → Nat
  | [] => 0
  | (l, s, g) :: r =>
    let rec go (s g : Nat) : List (Nat × Nat × Nat) → Nat
      | [] => s
      | (l', s', g') :: r' => max s (max l' g) + go s' g' r'
    l + go s g r + drain

end Sys2Proof.Machine
end

