-- ==== Sys2Proof/Machine/Grants.lean ====
section
/-! DEFINITION. Reservations (R248 to R250): units and granules free and granted, sector memory, flash and gate granules, what
objects draw on them (R71, R83, R190, R246), and the identity block (R320). -/

namespace Sys2Proof.Machine

/-- Units of the node (R222): 1,152 on the LX1-288, 576 on the LX1-144. -/
def State.totalUnits (s : State) : Nat := if s.boot.variant = 2 then 576 else 1152

/-- The kind of a unit; one not listed is FREE. -/
def State.unitKind (s : State) (u : Nat) : UnitKind := tgetD s.dram.units u .free

/-- A unit that can be granted: FREE, zeroed and not kept out of allocation (R222, R238). -/
def State.unitFree (s : State) (u : Nat) : Bool := s.unitKind u == .free && !s.dram.kept.contains u

/-- The first units of the free aligned groups of 4 (R249), ascending. -/
def State.freeGroups (s : State) : List Nat :=
  ((List.range (s.totalUnits / 4)).map (4 * ·)).filter fun u => [0, 1, 2, 3].all fun i => s.unitFree (u + i)

/-- The free units in descending order (R249). -/
def State.freeHigh (s : State) : List Nat := ((List.range s.totalUnits).filter s.unitFree).reverse

/-- OPEN units held. -/
def State.openCount (s : State) : Nat :=
  (s.dram.units.filter fun p => match p.2 with | .opened _ => true | _ => false).length

/-- NODE units. -/
def State.nodeUnits (s : State) : Nat := (s.dram.units.filter fun p => p.2 == .node).length

/-- Units that can still become OPEN (R222: at most 128 at any time). -/
def State.openFree (s : State) : Nat := min (128 - s.openCount) s.freeHigh.length

/-- Units set to a kind. -/
def State.setKinds (s : State) (us : List Nat) (k : UnitKind) : State :=
  { s with dram := { s.dram with units := us.foldl (fun t u => tput t u k) s.dram.units } }

/-- The channels and the creations accepted and not yet in force. -/
def State.holders (s : State) : List (Nat × Chan) :=
  s.chans ++ s.changes.filterMap fun c => match c with | .create n c _ => some (n, c) | _ => none

/-- Sum of a reservation over the channels. -/
def State.held (s : State) (f : Chan → Nat) : Nat := (s.holders.map fun p => f p.2).sum

/-- Sector-memory granules that partitions hold in a sector, in force or pending (R47, R341); `skip` is a slot left out. -/
def State.partHeld (s : State) (skip : Option Nat) (sector : Nat) : Nat :=
  (s.holders.map fun p =>
    if some p.1 = skip || !hasBit p.2.partSectors sector then 0
    else max (if p.2.rwa.swapped then 0 else p.2.rwa.partGran) (if p.2.pend.swapped then 0 else p.2.pend.partGran)).sum

/-- Whether g granules fit in every sector of a mask beside what the other channels hold. PART_SECTORS may name an excluded sector: R170 does
not refuse it (DESIGN CHOICE, log entry 78). -/
def State.partFits (s : State) (skip : Option Nat) (mask g : Nat) : Bool :=
  (bitList 16 mask).all fun x => decide (s.partHeld skip x + g ≤ 256)

/-- Flash granules that can be reserved (R277): raw capacity × (1 − SLC_PCT − FLASH_OP), less two copies of the map and
128 GiB, in granules of 64 GiB. The journal's size is not stated and nothing is deducted for it (log entry 10). -/
def State.flashTotal (s : State) : Nat :=
  let raw := s.flash.dies * 250000000000
  (raw * (100 - s.flash.slcPct - s.flash.flashOp) / 100 - 2 * (5 * (raw / 65536)) - 128 * 2 ^ 30) / 2 ^ 36

/-! ### Gate capacity (R292, R294, R295) -/

/-- The default list of a port (R294). -/
def defaultGate (frameLen : Nat) : List GateEntry := [{ start := 1000, dur := frameLen * 1000 - 1000, opens := 0x1C, retry := 4000 }]

/-- The gate list in force at a port. -/
def State.gateList (s : State) (p : Nat) : List GateEntry :=
  match s.easel.gates with
  | some g => g.ports.getD p []
  | none => defaultGate s.frame.len

/-- Frames per hyperframe of the gate lists in force, and the lanes they assume. -/
def State.gateHyper (s : State) : Nat := match s.easel.gates with | some g => g.hyper | none => 1
def State.gateLanes (s : State) : Nat := match s.easel.gates with | some g => g.laneBasis | none => 4

/-- Bytes that the entries of a port offer in frame i of the hyperframe (R292). -/
def gateFrameBytes (l : List GateEntry) (frameLen lanes i : Nat) : Nat :=
  ((l.filter fun e => decide (i * frameLen * 1000 ≤ e.start ∧ e.start < (i + 1) * frameLen * 1000)).map fun e =>
    (e.dur - e.retry) * 50 * lanes).sum

/-- A port's gate capacity in granules (R295). -/
def State.portGate (s : State) (p : Nat) : Nat :=
  let bs := (List.range s.gateHyper).map fun i => gateFrameBytes (s.gateList p) s.frame.len s.gateLanes i
  (bs.foldl min (bs.headD 0)) / 4096

/-- Whether a port is up: at least 3 lanes in service (R282). -/
def State.portUp (s : State) (p : Nat) : Bool :=
  match s.ports[p]? with | some x => decide (3 ≤ popCount 4 x.lanes) | none => false

/-- The node total of gate granules: the smallest over P0 to P5 and every other up port that the relay table names
(R295). -/
def State.gateTotal (s : State) : Nat :=
  let named := fun p => s.member.relay.any fun e => e.2 % 16 == p || e.2 / 16 % 16 == p
  let ps := (List.range 8).filter fun p => decide (p < 6) || (s.portUp p && named p)
  let cs := ps.map s.portGate
  cs.foldl min (cs.headD 0)

/-! ### What objects draw on a channel's reservations -/

/-- Rounded up to whole open units: units of a bitmap over some rows (R83, R232). -/
def bitmapUnits (rows : Nat) : Nat := ceilDiv (ceilDiv rows 8) (2 ^ 27)

/-- Rows of a shard, the last one perhaps short. -/
def shardLen (a : TableAttr) (i : Nat) : Nat := min a.shardRows (a.rows - i * a.shardRows)

/-- Shards of a table (R190). -/
def shardCount (a : TableAttr) : Nat := ceilDiv a.rows a.shardRows

/-- Fields of a route entry (R62). -/
def rtPrimary (e : Nat) : Nat := e % 1024
def rtBuddy (e : Nat) : Nat := e / 1024 % 1024
def rtDest (e : Nat) : Nat := e / 2 ^ 20 % 1024
def rtMigrating (e : Nat) : Bool := hasBit e 30
def rtRole (e : Nat) : Nat := e / 2 ^ 31 % 2

/-- Whether a node holds a role of a route entry. -/
def rtHolds (e n : Nat) : Bool := rtPrimary e == n || rtBuddy e == n

/-- ROW_STRIDE of a table (R189). -/
def tableStride (a : TableAttr) : Nat := rowStride a.fmt a.optim a.stFmt a.dim

/-- Whether a node holds a row's or region's entry of some table of entries. -/
def entryHeld (node : Nat) (t : Tbl Nat) (k : Nat) : Bool := match tget t k with | some e => rtHolds e node | none => false

/-- Rows of a table that a node holds (R190, R191): of the shards whose entry names it, but for rows that the hot-row map gives to others,
and the rows that the map gives to it. -/
def rowsHeld (node : Nat) (a : TableAttr) (route : List Nat) (hot : Tbl Nat) : Nat :=
  let ofShard := fun (r : Nat) => match route[r / a.shardRows]? with | some e => rtHolds e node | none => false
  (route.mapIdx fun i e => if rtHolds e node then shardLen a i else 0).sum +
    (hot.filter fun p => rtHolds p.2 node && !ofShard p.1).length - (hot.filter fun p => !rtHolds p.2 node && ofShard p.1).length

/-- Table space that a node holds of a table (R190). -/
def tableBytes (node : Nat) (a : TableAttr) (route : List Nat) (hot : Tbl Nat) : Nat := rowsHeld node a route hot * tableStride a

/-- Bytes of a stationary operand of k by n elements: whole blocks of 128 by 128 (R181). -/
def stationBytes (k n es : Nat) : Nat := ceilDiv k 128 * ceilDiv n 128 * (128 * 128 * es)

/-- Lines of a main area of n slots (R68). -/
def mainLines (n : Nat) : Nat := ceilDiv n 16

/-- Lines of an extent: its main area and its tip-in area. -/
def extentLines (tipin mainSlots : Nat) : Nat := mainLines mainSlots + tipin

/-- Bytes of a line: three planes of 16 slots (R65). -/
def lineBytes (sketchBits : Nat) : Nat := 16 * (sketchBits / 8 + 36)

/-- Sealed bytes of a region's lists (R60, R65, R68, R75, R183): the centroid table with CC and CN, the descriptors, the extents, those
not released yet too, and the key directory. -/
def regionSpace (a : IndexAttr) (ls : Tbl IList) : Nat :=
  stationBytes a.dim ls.length 2 + 40 * ls.length +
  (ls.map fun p => (extentLines a.tipin p.2.mainSlots + (p.2.older.map fun o => extentLines a.tipin o.mainSlots).sum) * lineBytes a.sketchBits +
    10 * p.2.slots.length).sum

/-- Sealed bytes of a region that nothing was put into. -/
def blankSpace (a : IndexAttr) : Nat :=
  stationBytes a.dim a.listsInit 2 + a.listsInit * (40 + a.tipin * lineBytes a.sketchBits)

/-- Sealed bytes of a generation at a node (R60, R85): the region centroid table and the regions held. -/
def genSpace (node : Nat) (a : IndexAttr) (route : List Nat) (x : IndexGen) : Nat :=
  stationBytes a.dim a.regions 2 + 8 * a.regions + (x.lists.map fun p => regionSpace a p.2).sum +
  (if x.blank.isSome then
     ((route.filter fun e => rtHolds e node).length - (x.lists.filter fun p => rtHolds (route.getD p.1 0) node).length) * blankSpace a
   else 0)

/-- Sealed bytes of an index's fixed structures: route table, sketch matrix, cosine table (R62, R131, R134, R181). -/
def indexBytes (a : IndexAttr) : Nat := 4 * a.regions + stationBytes a.dim a.sketchBits 2 + 4 * (a.sketchBits + 1)

/-- K_l, the input width of a layer (R139). -/
def layerIn (dim : Nat) (img : Bytes) (l : Nat) : Nat :=
  if l = 0 then 2 * dim + graphFeatures img + (if graphScoreIn img then 1 else 0) else (layerOf img (l - 1)).outW

/-- Sealed bytes of a graph (R144, R246): each layer's weights in whole folios of stationary blocks, its biases, and SB_n of an int8
layer. -/
def graphBytes (dim : Nat) (img : Bytes) : Nat :=
  ((List.range (graphLayers img)).map fun l =>
    let L := layerOf img l
    ceilDiv (stationBytes (layerIn dim img l) L.outW (layerES L.fmt)) 65536 * 65536 + 4 * L.outW + (if L.fmt = 0 then 4 * L.outW else 0)).sum

/-- Sealed bytes of a graph with those it replaced and those that wait (R137, R144). -/
def Graph.space (dim : Nat) (x : Graph) : Nat :=
  graphBytes dim x.image + (x.older.map fun o => graphBytes dim o.2).sum + (x.next.map fun o => graphBytes dim o.2).sum

/-- Bytes of a move's object that have come so far: the region's lists, of which its reservation holds no second copy. -/
def State.movedSpace (s : State) (m : Mig) : Nat :=
  match tget s.indexes (objKey m.slot m.object) with
  | some x => (match tget x.cur.lists m.number with | some ls => regionSpace x.attr ls | none => 0)
  | none => 0

/-- Sealed bytes that the objects of a slot draw (R249): of an index every generation (R85), a move's reservation at its destination
(R90), and a generation under construction. -/
def State.sealedUsed (s : State) (slot : Nat) : Nat :=
  let mine := fun (k : Nat) => k / 2 ^ 32 == slot
  let me := s.frame.logicalId
  ((s.indexes.filter fun p => mine p.1 && p.2.dropped.isNone).map fun p =>
      let x := p.2
      indexBytes x.attr + genSpace me x.attr x.route x.cur +
      (match x.old with | some o => genSpace me x.attr x.route o.2 | none => 0) +
      (match x.next, s.builds.find? (fun b => objKey b.slot b.object == p.1) with
       | some o, _ => genSpace me x.attr x.route o.2
       | none, some b => genSpace me x.attr x.route b.gen
       | none, none => 0)).sum +
  ((s.tables.filter fun p => mine p.1 && p.2.dropped.isNone).map fun p => tableBytes me p.2.attr p.2.route p.2.hot).sum +
  ((s.graphs.filter fun p => mine p.1).map fun p =>
      match tget s.indexes p.1 with
      | some x => if x.dropped.isNone then p.2.space x.attr.dim else 0
      | none => 0).sum +
  ((s.migs.filter fun m => m.slot == slot && !m.source).map fun m => m.space - s.movedSpace m).sum +
  (match tget s.chans slot with
   | some c => max (if c.rwa.swapped then c.rwa.slipGran else 0) (if c.pend.swapped then c.pend.slipGran else 0) * 2 ^ 20
   | none => 0)

/-- Sealed bytes that a channel still has. -/
def State.sealedLeft (s : State) (slot : Nat) (c : Chan) : Nat := c.sealedAt.length * 2 ^ 30 - s.sealedUsed slot

/-- An object that is not dropped, or whose last version is not released yet (R53). -/
def State.holdsUnits (s : State) (dropped : Option Nat) : Bool :=
  match dropped with | some d => decide (s.frame.version < d + 6) | none => true

/-- Open units of a channel that no object of it holds. -/
def State.openLeft (s : State) (slot : Nat) (c : Chan) : List Nat :=
  let used := (s.indexes.filter fun p => p.1 / 2 ^ 32 == slot && s.holdsUnits p.2.dropped).flatMap (fun p => p.2.tombUnits) ++
    (s.sets.filter fun p => p.1 / 2 ^ 32 == slot && s.holdsUnits p.2.dropped).flatMap (fun p => p.2.units) ++
    s.planned.flatMap (fun p => match p.what with | .createSet n _ x => if n = slot then x.units else [] | _ => [])
  c.openAt.filter fun u => !used.contains u

/-- Whether a NUMBER of a channel is taken by an index, table or allow-set, a dropped one included (R327). -/
def State.numberTaken (s : State) (slot n : Nat) : Bool :=
  s.indexes.any (fun p => p.1 / 2 ^ 32 == slot && p.1 % 4096 == n) ||
  s.tables.any (fun p => p.1 / 2 ^ 32 == slot && p.1 % 4096 == n) ||
  s.sets.any (fun p => p.1 / 2 ^ 32 == slot && p.1 % 4096 == n) ||
  s.planned.any (fun p => match p.what with | .createSet m h _ => m == slot && hNumber h == n | _ => false)

/-- Whether a handle is a good new handle of a kind in a channel (R327). -/
def State.newHandleOk (s : State) (slot : Nat) (h : Handle) (kind : Nat) : Bool :=
  hKind h == kind && h.toNat / 4096 % 2 ^ 16 == 0 && hNumber h != 0 && !s.numberTaken slot (hNumber h)

/-- Indexes, tables and graphs on the node (R329). -/
def State.objectCount (s : State) : Nat :=
  (s.indexes.filter fun p => p.2.dropped.isNone).length + (s.tables.filter fun p => p.2.dropped.isNone).length + s.graphs.length

/-! ### The identity block -/

/-- DEGRADED (R320): a DRAM pseudo-channel or a flash channel is retired. -/
def State.isDegraded (s : State) : Bool := s.power.degraded

/-- SPARE_TILES: unused spare tiles of sector s in bits [3s + 2 : 3s]. -/
def State.spareBits (s : State) : Nat := (s.units.spares.mapIdx fun i n => n * 2 ^ (3 * i)).sum

/-- The 256 bytes of the identity block as a function reads them (R320). -/
def State.identity (s : State) (fn : Nat) : Bytes :=
  toLe 4 0x4C584944 ++
  [BitVec.ofNat 8 s.boot.variant, BitVec.ofNat 8 s.boot.stepping] ++ toLe 2 s.boot.fwVersion ++
  toLe 4 (fn + s.host.vfs * 2 ^ 8) ++
  toLe 4 (s.units.excluded + s.units.sectorsOn * 2 ^ 16) ++
  toLe 8 s.spareBits ++
  toLe 4 s.flash.unused ++
  toLe 4 (s.frame.logicalId + s.power.state * 2 ^ 10 + s.power.service * 2 ^ 13 + (if s.isDegraded then 2 ^ 15 else 0)) ++
  s.caps.flatMap (toLe 4) ++
  toLe 4 (128 - s.holders.length) ++
  toLe 4 (s.freeGroups.length + s.openFree * 2 ^ 16) ++
  toLe 4 ((s.flashTotal - s.held (·.flashGran)) + (4096 - s.held (·.easelSlots)) * 2 ^ 16) ++
  toLe 4 (s.gateTotal - s.held (·.gateGran)) ++
  List.replicate 24 0 ++ toLe 16 s.boot.uid ++ List.replicate 144 0

end Sys2Proof.Machine
end

