-- ==== Sys2Proof/Machine/EaselCmds.lean ====
section
/-! DEFINITION. The easel and the gate lists: EASEL_LOAD with the checks of R32, R49, R170, R184, R221, R250 and R261, EASEL_ARM
and its cancellation (R35, R36), GATES_LOAD (R290 to R293), MODE_SET (R55), and the switches at step 6 (R35, R40) and at frame M
(R55). -/

namespace Sys2Proof.Machine

/-! ### Signatures (R369, R372, R457) -/

/-- The signature's condition on an image: when an owner has taken the device, the block at SIG_OFFSET must carry the
owner's signature (R372). -/
def State.ownerSigRow (s : State) (img : Bytes) (sigOff : Nat) : CheckRow :=
  match s.boot.ownerHash with
  | none => inv []
  | some h => inv [(sigOff == 0 || !sigBlockOk 2 h (img.take sigOff) (img.drop sigOff), 0x1000 + sigOff)]

/-! ### EASEL_LOAD -/

def easelHeaderLayout : Layout := [(0, 0, 64), (8, 0, 10), (8, 16, 8), (8, 24, 3), (12, 0, 16), (16, 0, 64), (24, 0, 256), (56, 0, 64)]
def easelEntryLayout : Layout :=
  [(0, 0, 21), (4, 0, 21), (4, 24, 8), (8, 0, 30), (12, 0, 32), (16, 0, 32), (20, 0, 16), (24, 0, 64)]

/-- An entry from its 32 bytes (R28). -/
def easelEntryOf (d : Bytes) : EaselEntry :=
  { start := fld d 0 0 21, length := fld d 4 0 21, stage := fld d 4 24 8, sectors := fld d 8 0 16, engines := fld d 8 16 8,
    arrays := fld d 8 24 4, shape := fld d 8 28 2, flash := fld d 12 0 24, ports := fld d 12 24 8, channel := rd d 16 4,
    arg := fld d 20 0 16, phases := rd d 24 8 }

/-- The bytes of entry i of an image. -/
def easelChunk (img : Bytes) (i : Nat) : Bytes := slice img (64 + 32 * i) 32

/-- An easel from an image (R27). -/
def easelOf (img : Bytes) : Easel :=
  { frameLen := fld img 8 0 10, hyper := fld img 8 16 7, validLow := flag img 8 23, laneBasis := fld img 8 24 3,
    sectorUse := fld img 12 0 16, compileId := rd img 16 8, digest := le (slice img 24 32),
    entries := (List.range (fld img 4 16 16)).map fun i => easelEntryOf (easelChunk img i) }

/-- The engines that a stage may claim, bit i for engine bit 16 + i (R30); none for a reserved code. -/
def stageEngines : Nat → Option Nat
  | 0x01 => some 0
  | 0x02 => some 0x02
  | 0x03 => some 0x80
  | 0x04 => some 0x02
  | 0x05 => some 0x31
  | 0x06 => some 0x81
  | 0x07 => some 0x40
  | 0x08 => some 0x05
  | 0x09 => some 0x02
  | 0x0A => some 0x81
  | 0x10 => some 0x05
  | 0x11 => some 0x0C
  | 0x12 => some 0x03
  | 0x20 => some 0x11
  | 0x21 => some 0x40
  | 0x22 => some 0x90
  | 0x23 => some 0x13
  | 0x30 => some 0x10
  | 0x31 => some 0x10
  | 0x32 => some 0x20
  | _ => none

/-- The slot that an entry names. -/
def EaselEntry.slot (e : EaselEntry) : Nat := e.channel % 2 ^ 16

/-- Work owned by the node (R28). -/
def EaselEntry.isNode (e : EaselEntry) : Bool := e.channel == 0xFF000000

/-- The largest STAGE_ARG of a stage (R30, R32): 7 for RESCORE, the granules left for a swap, else 0. -/
def argMax (s : State) (e : EaselEntry) : Nat :=
  if e.stage = 0x09 then 7
  else if e.stage = 0x30 ∨ e.stage = 0x31 then
    256 - (match tget s.chans e.slot with | some c => c.pend.slipGran | none => 0)
  else 0

/-- Whether the stage must claim arrays (R184). -/
def needsArrays (stage : Nat) : Bool := stage == 0x02 || stage == 0x04 || stage == 0x09

/-- Arrays that an entry names, as bits 4 s + a (R186). -/
def EaselEntry.arrayBits (e : EaselEntry) : Nat :=
  if hasBit e.engines 1 then ((bitList 16 e.sectors).map fun x => e.arrays <<< (4 * x)).foldl (· ||| ·) 0 else 0

/-- The conditions of one entry (R5, R28, R30, R32, R170, R184), with its fields' offsets. -/
def entryChecks (s : State) (hyper : Nat) (o : Nat) (d : Bytes) : List (Bool × Nat) :=
  let e := easelEntryOf d
  let eng := stageEngines e.stage
  [stray o easelEntryLayout d,
   (eng.isNone, o + 7),
   (eng.isSome && decide (argMax s e < e.arg), o + 20),
   (decide (e.length < 1) || decide (s.cw < e.start + e.length) ||
      (e.stage == 0x0A && decide (s.r22 < e.start + e.length)), o + 4),
   (e.phases == 0 || decide (2 ^ hyper ≤ e.phases), o + 24),
   ((match eng with | some m => (e.engines &&& m) != e.engines | none => false) ||
      (needsArrays e.stage && !hasBit e.engines 1), o + 10),
   (hasBit e.engines 1 != (e.arrays != 0) ||
      (e.arrayBits &&& (s.units.arrExcluded ||| s.units.arrRetired)) != 0, o + 11),
   ((!hasBit e.engines 1 && e.shape != 0) || e.shape == 3, o + 11),
   (!e.isNode && (e.channel / 2 ^ 16 % 256 != 0 || decide (127 < e.slot)), o + 16),
   (!e.isNode && decide (s.host.vfs < e.channel / 2 ^ 24), o + 16)]

/-- Two entries claim a common engine instance (R31). -/
def shareEngine (a b : EaselEntry) : Bool :=
  let both := fun i => hasBit a.engines i && hasBit b.engines i
  let sec := (a.sectors &&& b.sectors) != 0
  (sec && (both 0 || both 2 || both 3 || both 4)) || (sec && both 1 && (a.arrays &&& b.arrays) != 0) || both 5 ||
  (both 6 && (a.flash &&& b.flash) != 0) || (both 7 && (a.ports &&& b.ports) != 0)

/-- Two entries conflict (R31). -/
def conflicts (a b : EaselEntry) : Bool :=
  (a.phases &&& b.phases) != 0 && decide (a.start < b.start + b.length) && decide (b.start < a.start + a.length) &&
  shareEngine a b

/-- DRAM bytes per cycle that an entry's engines are charged (R221). -/
def dramCharge (e : EaselEntry) : Nat :=
  let n := popCount 16 e.sectors
  (if hasBit e.engines 1 then 64 * n * popCount 4 e.arrays else 0) + (if hasBit e.engines 2 then 64 * n else 0) +
  (if hasBit e.engines 4 then 293 * n else 0)

/-- The charges open at an entry's first cycle exceed 8,832 in some phase of it (R221). -/
def overCharged (es : List EaselEntry) (e : EaselEntry) : Bool :=
  (bitList 64 e.phases).any fun p =>
    decide (8832 < ((es.filter fun x => hasBit x.phases p && decide (x.start ≤ e.start) && decide (e.start < x.start + x.length)).map
      dramCharge).sum)

/-- The conditions between entries: conflicts (R32), DRAM charges (R221), easel slots (R250). -/
def pairChecks (s : State) (es : List EaselEntry) : List (Bool × Nat) :=
  es.mapIdx (fun i e => (((es.mapIdx fun j x => (j, x)).any fun p => decide (p.1 < i) && conflicts p.2 e), 0x1040 + 32 * i)) ++
  es.mapIdx (fun i e => (overCharged es e, 0x104A + 32 * i)) ++
  es.mapIdx (fun i e =>
    ((match tget s.chans e.slot with
      | some c => !e.isNode && decide (c.easelSlots < ((es.take (i + 1)).filter fun x => !x.isNode && x.slot == e.slot).length)
      | none => false), 0x1050 + 32 * i))

/-! Swapped residency (R49): times are counted over the hyperframe, which repeats. -/

/-- The windows of a hyperframe as (start time, entry number, entry). -/
def timedEntries (frameLen hyper : Nat) (es : List EaselEntry) : List (Nat × Nat × EaselEntry) :=
  (List.range hyper).flatMap fun p =>
    (es.mapIdx fun i e => (p * frameLen * 1750 + e.start, i, e)).filter fun x => hasBit x.2.2.phases p

/-- Time from a to b, forward round the hyperframe. -/
def forward (period a b : Nat) : Nat := (b + period - a) % period

/-- The smallest of some distances, with what lies there. -/
def nearestSwap (l : List (Nat × EaselEntry)) : Option (Nat × EaselEntry) :=
  l.foldl (fun acc x =>
    match acc with
    | none => some x
    | some y => if x.1 < y.1 then some x else acc) none

/-- In one sector, a window x of a swapped channel's entry e is not between a SWAP_RESTORE and the next SWAP_SAVE of the channel, or
another channel restores into an overlapping part of the pool between them. -/
def sectorSwapBroken (s : State) (period : Nat) (tl : List (Nat × Nat × EaselEntry)) (c : Chan) (x : Nat) (e : EaselEntry)
    (k : Nat) : Bool :=
  let mine := tl.filter fun y => y.2.2.slot == e.slot && hasBit y.2.2.sectors k
  let before := (mine.filter fun y => y.2.2.stage == 0x30 || y.2.2.stage == 0x31).map fun y => (forward period y.1 x, y.2.2)
  let after := (mine.filter fun y => y.2.2.stage == 0x30).map fun y => (forward period x y.1, y.2.2)
  match nearestSwap before, nearestSwap after with
  | some r, some w =>
    r.2.stage != 0x31 || decide (r.1 < r.2.length) || decide (w.1 < e.length) ||
    tl.any fun y => y.2.2.stage == 0x31 && y.2.2.slot != e.slot && hasBit y.2.2.sectors k &&
      (match tget s.chans y.2.2.slot with
        | some o => decide (y.2.2.arg < r.2.arg + c.pend.slipGran && r.2.arg < y.2.2.arg + o.pend.slipGran)
        | none => false) &&
      decide (forward period ((x + period - r.1) % period) y.1 < r.1 + w.1)
  | _, _ => true

/-- A stage window of a swapped channel that claims sector engines breaks a rule of R49 in one of its sectors. -/
def swapBroken (s : State) (period : Nat) (tl : List (Nat × Nat × EaselEntry)) (x : Nat × Nat × EaselEntry) : Bool :=
  let e := x.2.2
  match tget s.chans e.slot with
  | none => false
  | some c =>
    if e.isNode || !c.pend.swapped || e.stage == 0x30 || e.stage == 0x31 || e.engines % 32 == 0 then false
    else (bitList 16 e.sectors).any (sectorSwapBroken s period tl c x.1 e)

/-- The conditions of R49. -/
def swapChecks (s : State) (hyper : Nat) (es : List EaselEntry) : List (Bool × Nat) :=
  let tl := timedEntries s.frame.len hyper es
  tl.map fun x => (swapBroken s (hyper * s.frame.len * 1750) tl x, 0x1040 + 32 * x.2.1)

/-- JOURNAL_WINDOW_MIN in cycles (R261, R278). -/
def State.journalWindowMin (s : State) : Nat := ceilDiv ((s.flash.profile.tProgSlc + 10000) * 1750) 2000

/-- Some populated flash channel has too little FLASH_BACKGROUND in some phase (R261). -/
def journalShort (s : State) (hyper : Nat) (es : List EaselEntry) : Bool :=
  (List.range hyper).any fun p => (bitList 24 s.flash.live).any fun c =>
    decide (((es.filter fun e => e.stage == 0x21 && hasBit e.engines 6 && hasBit e.phases p && hasBit e.flash c).map
      (·.length)).sum < s.journalWindowMin)

/-- The conditions of the header (R27, R32, R170). -/
def easelHeaderChecks (s : State) (img : Bytes) (e : Easel) : List (Bool × Nat) :=
  [stray 0x1000 easelHeaderLayout (slice img 0 64),
   (rd img 0 4 != 0x45534C31, 0x1000), (rd img 4 2 != 1, 0x1004),
   (e.entries.length == 0 || decide (4096 < e.entries.length), 0x1006),
   (e.frameLen != s.frame.len, 0x1008),
   (e.hyper == 0 || decide (64 < e.hyper), 0x100A),
   (e.laneBasis != 3 && e.laneBasis != 4, 0x100B),
   ((e.entries.map (·.sectors)).foldl (· ||| ·) 0 != e.sectorUse || (e.sectorUse &&& s.units.excluded) != 0, 0x100C),
   (digest (slice img 64 (32 * e.entries.length)) != e.digest, 0x1018)]

/-- The image shorter than its header declares (R457). -/
def easelSizeRows (g : Go) : List CheckRow :=
  let img := g.pb
  let sig := rd img 0x38 4
  [inv [(g.pbLen < 64 + 32 * fld img 4 16 16, 0x1006)],
   inv [(sig != 0 && decide (g.pbLen < sig + rd img 0x3C 4), 0x1038)]]

/-- The one row of R32. -/
def easelRow (s : State) (img : Bytes) : CheckRow :=
  let e := easelOf img
  let h := if e.hyper = 0 ∨ 64 < e.hyper then 64 else e.hyper
  inv (easelHeaderChecks s img e ++
    (List.range e.entries.length).flatMap (fun i => entryChecks s h (0x1040 + 32 * i) (easelChunk img i)) ++
    pairChecks s e.entries ++ swapChecks s h e.entries ++ [(journalShort s h e.entries, 0xFFFFFFFE)])

/-- EASEL_LOAD: refused while an image is armed (R34); the image replaces the standby image. A shortage under R261 is no
field's: its FAULT_OFFSET is a free value (log entry 8). -/
def easelLoadBody (g : Go) : MbBody := fun s =>
  checked [g.pfOnly, inv [g.strayArgs []]] (fun s =>
    if s.easel.arm.isSome then (s, MbRes.invalidBare)
    else
      checked (g.pbRows 64 ++ easelSizeRows g) (fun s =>
        match decideRows [easelRow s g.pb, s.ownerSigRow g.pb (rd g.pb 0x38 4)] with
        | some (st, 0xFFFFFFFE) => (s, { status := st })
        | some p => (s, MbRes.refuse p)
        | none => ({ s with easel := { s.easel with standby := some (easelOf g.pb) } }, MbRes.ok)) s) s

def execEaselLoad (g : Go) (s : State) : Answer := mailbox false 0x0020 g (easelLoadBody g) s

/-! ### EASEL_ARM -/

def armLayout : Layout := [(0x14, 0, 5), (0x18, 0, 48)]

/-- HYPERFRAME_LEN of the easel in force, 1 when there is none (R23, R459). -/
def State.hyper (s : State) : Nat := match s.easel.inForce with | some e => e.hyper | none => 1

/-- The gate lists that will be in force after the switch differ from the easel in HYPERFRAME_LEN or LANE_BASIS; the
default list is compatible with every easel (R35, R293). -/
def gatesMismatch (s : State) (e : Easel) : Bool :=
  match s.easel.gatesStandby, s.easel.gates with
  | some g, _ => g.hyper != e.hyper || g.laneBasis != e.laneBasis
  | none, some g => g.hyper != e.hyper || g.laneBasis != e.laneBasis
  | none, none => false

/-- The refusals of R35 (and R8, R39): those with no field of their own name ACT_FRAME (DEDUCED, log entry 9). -/
def armChecks (g : Go) (s : State) : List (Bool × Nat) :=
  let d := g.arg 0x14 0 4
  let a := g.arg 0x18 0 48
  match s.easel.standby with
  | none => [g.strayArgs armLayout, (decide (8 < d), 0x14), (true, 0x18)]
  | some e =>
    [g.strayArgs armLayout, (decide (8 < d), 0x14),
     (s.easel.arm.isSome || a % s.hyper != 0 || a % e.hyper != 0 || decide (a ≤ s.frame.num + max (d + 1) 2) ||
      gatesMismatch s e || (e.sectorUse &&& s.units.sectorsOn) != e.sectorUse ||
      (s.power.state == 1 && !e.validLow) ||
      s.frame.pendModes.any (fun m => decide (a ≤ m.1) && m.1 % e.hyper != 0) ||
      (swapChecks s e.hyper e.entries).any (·.1), 0x18)]

/-- EASEL_ARM arms the standby image, which freezes the RWA fields (R8, R35); with CANCEL it cancels the arm (R36). -/
def armBody (g : Go) : MbBody := fun s =>
  if g.arg 0x14 4 1 = 1 then
    checked [g.pfOnly, inv [g.strayArgs armLayout]] (fun s =>
      match s.easel.arm with
      | none => (s, MbRes.ok)
      | some (a, _) =>
        if a ≤ s.frame.num + 1 then (s, MbRes.refuse (stInvalid, 0x14))
        else ({ s with easel := { s.easel with arm := none } }, MbRes.ok)) s
  else
    checked [g.pfOnly, inv (armChecks g s)] (fun s =>
      ({ s with easel := { s.easel with arm := some (g.arg 0x18 0 48, g.arg 0x14 0 4) } }, MbRes.ok)) s

def execEaselArm (g : Go) (s : State) : Answer := mailbox false 0x0021 g (armBody g) s

def execEaselArmCancel (g : Go) (s : State) : Answer := mailbox false 0x0021 g (armBody g) s

/-! ### GATES_LOAD -/

def gateHeaderLayout : Layout := [(0, 0, 55), (4, 24, 3), (8, 0, 10), (16, 0, 128), (32, 0, 256), (64, 0, 64)]
def gateEntryLayout : Layout := [(0, 0, 64), (8, 0, 8), (8, 16, 16)]

/-- Entries of port p in an image (R290), and how many come before them. -/
def gateCount (img : Bytes) (p : Nat) : Nat := rd img (16 + 2 * p) 2
def gateBefore (img : Bytes) (p : Nat) : Nat := ((List.range p).map (gateCount img)).sum

def gateEntryOf (d : Bytes) : GateEntry := { start := rd d 0 4, dur := rd d 4 4, opens := rd d 8 1, retry := fld d 8 16 16 }

/-- The list of port p. -/
def gatePortList (img : Bytes) (p : Nat) : List GateEntry :=
  (List.range (gateCount img p)).map fun i => gateEntryOf (slice img (128 + 16 * (gateBefore img p + i)) 16)

/-- Gate lists from an image. -/
def gatesOf (img : Bytes) : Gates :=
  { hyper := fld img 4 16 7, laneBasis := fld img 4 24 3, frameLen := fld img 8 0 10, digest := le (slice img 32 32),
    ports := (List.range 8).map (gatePortList img) }

/-- The conditions of entry i of port p (R291, R293). -/
def gateEntryChecks (s : State) (img : Bytes) (hyper p i : Nat) : List (Bool × Nat) :=
  let n := gateBefore img p + i
  let o := 0x1080 + 16 * n
  let d := slice img (128 + 16 * n) 16
  let e := gateEntryOf d
  let fl := s.frame.len * 1000
  let before := if i = 0 then none else (gatePortList img p)[i - 1]?
  [stray o gateEntryLayout d,
   ((match before with | some b => decide (e.start < b.start + b.dur) | none => false) || decide (hyper * fl < e.start + e.dur) ||
    decide (e.start % fl < 1000) || e.start / fl != (e.start + e.dur - 1) / fl, o),
   (decide (e.dur < 100), o + 4),
   (e.opens % 4 != 0 || decide (32 ≤ e.opens), o + 8),
   ((e.opens != 0 && decide (e.retry < (match s.ports[p]? with | some x => x.retryMin | none => 0))) || decide (e.dur ≤ e.retry),
    o + 10)]

/-- The one row of R293. -/
def gatesRow (s : State) (img : Bytes) : CheckRow :=
  let h := fld img 4 16 7
  let total := gateBefore img 8
  inv ([stray 0x1000 gateHeaderLayout (slice img 0 128), (rd img 0 4 != 0x47415431, 0x1000), (rd img 4 2 != 1, 0x1004),
      (h == 0 || decide (64 < h), 0x1006), (fld img 4 24 3 != 3 && fld img 4 24 3 != 4, 0x1007),
      (fld img 8 0 10 != s.frame.len, 0x1008), (digest (slice img 128 (16 * total)) != le (slice img 32 32), 0x1020)] ++
    ((List.range 8).map fun p => (decide (512 < gateCount img p), 0x1010 + 2 * p)) ++
    (List.range 8).flatMap fun p => (List.range (gateCount img p)).flatMap fun i => gateEntryChecks s img h p i)

/-- The image shorter than its counts declare (R457): the first COUNT_Pp whose part does not fit, then the signature. -/
def gatesSizeRows (g : Go) : List CheckRow :=
  let img := g.pb
  let sig := rd img 0x40 4
  [inv ((List.range 8).map fun p => (decide (g.pbLen < 128 + 16 * gateBefore img (p + 1)), 0x1010 + 2 * p)),
   inv [(sig != 0 && decide (g.pbLen < sig + rd img 0x44 4), 0x1040)]]

/-- GATES_LOAD: refused while an image is armed (R293); the lists replace the standby lists. -/
def gatesLoadBody (g : Go) : MbBody := fun s =>
  checked [g.pfOnly, inv [g.strayArgs []]] (fun s =>
    if s.easel.arm.isSome then (s, MbRes.invalidBare)
    else
      checked (g.pbRows 128 ++ gatesSizeRows g ++ [gatesRow s g.pb, s.ownerSigRow g.pb (rd g.pb 0x40 4)]) (fun s =>
        ({ s with easel := { s.easel with gatesStandby := some (gatesOf g.pb) } }, MbRes.ok)) s) s

def execGatesLoad (g : Go) (s : State) : Answer := mailbox false 0x0022 g (gatesLoadBody g) s

/-! ### MODE_SET -/

/-- HYPERFRAME_LEN of the easel in force in frame M as known now (R55). -/
def State.hyperAt (s : State) (m : Nat) : Nat :=
  match s.easel.arm, s.easel.standby with
  | some (a, _), some e => if a ≤ m then e.hyper else s.hyper
  | _, _ => s.hyper

/-- 0 selects a default. -/
def orDefault (n d : Nat) : Nat := if n = 0 then d else n

def modeSetBody (g : Go) : MbBody := fun s =>
  let m := g.arg 0x18 0 48
  let lag := orDefault (g.arg 0x14 8 5) 2
  checked [g.pfOnly,
      inv [g.strayArgs [(0x14, 0, 1), (0x14, 8, 5), (0x18, 0, 48)], (decide (16 < lag), 0x15),
           (m % s.hyperAt m != 0 || decide (m ≤ s.frame.num + 1), 0x18)]] (fun s =>
    let l := insertBy (fun a b => decide (a.1 < b.1)) (m, g.arg 0x14 0 1 == 1, lag)
      (s.frame.pendModes.filter fun p => p.1 != m)
    ({ s with frame := { s.frame with pendModes := l } }, MbRes.ok)) s

def execModeSet (g : Go) (s : State) : Answer := mailbox false 0x0048 g (modeSetBody g) s

/-- Every MODE_SET whose frame M has come takes force, in order (R55). -/
def State.applyModes (s : State) : State :=
  let due := s.frame.pendModes.filter fun p => decide (p.1 ≤ s.frame.num)
  let f0 := { s.frame with pendModes := s.frame.pendModes.filter fun p => decide (s.frame.num < p.1) }
  { s with frame := due.foldl (fun f p => { f with exact := p.2.1, buddyLag := p.2.2 }) f0 }

/-- The mode change of MODE_SET takes force at frame M (R55); FRAME_START has done it when it comes first. -/
def execModeSwitch (s : State) : Answer := whenLive State.applyModes s

/-! ### The switch -/

/-- The pending values of a channel take force; a partition or slipcase whose size or residency changes starts cleared
(R40). -/
def Chan.takePending (c : Chan) : Chan :=
  { c with rwa := c.pend
           part := if c.pend.swapped = c.rwa.swapped ∧ c.pend.partGran = c.rwa.partGran then c.part else []
           slipcase := if c.pend.swapped = c.rwa.swapped ∧ c.pend.slipGran = c.rwa.slipGran then c.slipcase else [] }

/-- At step 6 of the commit window of A − 1 the armed easel and gate lists take force, with every pending value (R35, R8). -/
def State.easelSwitch (s : State) : State :=
  match s.easel.arm with
  | none => s
  | some (a, _) =>
    if s.frame.num + 1 = a then
      let gates := match s.easel.gatesStandby with | some g => some g | none => s.easel.gates
      { s with easel := { s.easel with inForce := s.easel.standby, standby := none, arm := none, lastA := some a, gates := gates,
                                       gatesStandby := none },
               chans := s.chans.map fun p => (p.1, p.2.takePending) }
    else s

/-- The switch by its own event: at step 6 of the commit window of A − 1; COMMIT_WINDOW has done it when it comes first. -/
def execEaselSwitch (s : State) : Answer := whenLive State.easelSwitch s

end Sys2Proof.Machine
end

