-- ==== Sys2Proof/Machine/Objects.lean ====
section
/-! DEFINITION. The mailbox commands of objects: INDEX_CREATE (R60 to R64, R327), INDEX_DROP (R71), TABLE_CREATE (R188 to R192,
R213, R328), TABLE_DROP, ALLOWSET_CREATE (R83, R234), GRAPH_LOAD (R137 to R144), PALETTE_SET (R303, R304); and what they have
planned for a commit window. -/

namespace Sys2Proof.Machine

/-- The memory of some units zeroed, as INIT leaves it (R226, R227). -/
def zeroUnits (m : List Host.Cell) (us : List Nat) : List Host.Cell := m.filter fun c => !us.contains (daUnit c.1)

/-- A plan of a function for the commit window of a frame. -/
def State.plan (s : State) (frame fn : Nat) (w : Plan) : State :=
  { s with planned := s.planned ++ [{ frame := frame, fn := fn, what := w }] }

/-- The route table as read: one 32-bit entry per region or shard. -/
def routeOf (bs : Bytes) (n : Nat) : List Nat := (List.range n).map fun i => rd bs (4 * i) 4

/-- The first route entry that breaks R61 or has [31:20] non-zero, as its offset in the buffer. -/
def badRoute (bs : Bytes) (n : Nat) : Option Nat :=
  ((List.range n).find? fun i =>
    let e := rd bs (4 * i) 4
    decide (2 ^ 20 ≤ e) || rtPrimary e == rtBuddy e || decide (511 < rtPrimary e) || decide (511 < rtBuddy e)).map (4 * ·)

/-! ### INDEX_CREATE and INDEX_DROP -/

def indexLayout : Layout :=
  [(0, 0, 32), (4, 0, 19), (8, 0, 14), (8, 16, 16), (12, 0, 11), (12, 16, 7), (12, 24, 5), (16, 0, 64), (24, 0, 12), (28, 0, 17),
   (32, 0, 15), (40, 0, 64)]

/-- The attributes of a block, defaults taken (R63, R326, R327). -/
def indexAttrOf (b : Bytes) : IndexAttr :=
  { regions := fld b 4 0 19, listsInit := fld b 8 0 14, dim := 32 * fld b 8 16 8, fmt := fld b 8 24 2, metric := fld b 8 26 2,
    sketchBits := 2 ^ orDefault (fld b 8 28 4) 8, seed := rd b 16 8, payloadLen := fld b 12 0 11, rows := fld b 24 0 12 * 2 ^ 20,
    tipin := orDefault (fld b 12 16 7) 4, splitAt := orDefault (fld b 28 0 17) 8192, mergeAt := fld b 32 0 15,
    heatShift := orDefault (fld b 12 24 4) 10, exactQuery := flag b 12 28 }

/-- Local rows reserved by the indexes of the node (R64). -/
def State.rowsReserved (s : State) : Nat := ((s.indexes.filter fun p => p.2.dropped.isNone).map fun p => p.2.attr.rows).sum

/-- The one row of the attribute block (R63, R64, R327, R329, R83): a limit or reservation without a field of its own names
OBJECT, REGIONS or ROWS_RESERVED (DEDUCED, log entry 9). -/
def indexRow (s : State) (slot : Nat) (c : Chan) (b : Bytes) : CheckRow :=
  let a := indexAttrOf b
  inv [stray 0x1000 indexLayout (slice b 0 64),
    (!s.newHandleOk slot (BitVec.ofNat 32 (rd b 0 4)) 1 || decide (256 ≤ s.objectCount), 0x1000),
    (decide (a.regions < 1024) || decide (262144 < a.regions), 0x1004),
    (decide (a.listsInit < 64) || decide (8192 < a.listsInit), 0x1008),
    (a.dim == 0 || decide (4096 < a.dim), 0x100A),
    (a.metric == 3, 0x100B),
    (fld b 8 28 4 != 0 && (decide (fld b 8 28 4 < 7) || decide (11 < fld b 8 28 4)), 0x100B),
    (decide (1024 < a.payloadLen) || a.payloadLen % 4 != 0, 0x100C),
    (decide (64 < a.tipin), 0x100E),
    (a.rows == 0 || decide (3 * 2 ^ 30 < s.rowsReserved + a.rows) ||
      decide ((s.openLeft slot c).length < bitmapUnits a.rows), 0x1018),
    (decide (a.splitAt < 512) || decide (65536 < a.splitAt), 0x101C),
    (decide (a.splitAt / 4 < a.mergeAt), 0x1020),
    (rd b 40 8 == 0, 0x1028)]

/-- The sealed reservation holds the index as it is created, with the regions that its route table gives this node (R249); REGIONS is
named (DEDUCED, log entry 9). -/
def indexFits (s : State) (slot : Nat) (c : Chan) (a : IndexAttr) (route : List Nat) : Bool :=
  decide (indexBytes a + genSpace s.frame.logicalId a route
    { blank := some (a.regions, a.listsInit, a.dim, a.tipin), centroids := [], lists := [] } ≤ s.sealedLeft slot c)

/-- INDEX_CREATE: the index with its route table, its sketch matrix and cosine table (functions of the attributes, R132,
R134) and an empty tombstone set; its regions come with BUILD. -/
def indexCreateBody (g : Go) : MbBody := fun s =>
  checked [inv [g.strayArgs []]] (withChan g fun slot c =>
    checked (g.pbRows 64) fun s =>
      match decideRows [indexRow s slot c g.pb] with
      | some p => (s, MbRes.refuse p)
      | none =>
        let a := indexAttrOf g.pb
        match g.fail1.or (badRoute g.ext1 a.regions) with
        | some o => (s, MbRes.invalidIn (0x1000 + o) 0x1028)
        | none =>
        if !indexFits s slot c a (routeOf g.ext1 a.regions) then (s, MbRes.refuse (stInvalid, 0x1004))
        else
          let h : Handle := BitVec.ofNat 32 (rd g.pb 0 4)
          let us := (s.openLeft slot c).take (bitmapUnits a.rows)
          let x : Index :=
            { attr := a, route := routeOf g.ext1 a.regions, cur := { blank := some (a.regions, a.listsInit, a.dim, a.tipin), centroids := [], lists := [] }, old := none, next := none,
              rowsUsed := [], rowsFreeable := [], tombUnits := us, tombRows := [], tombLog := [], dropped := none }
          ({ s with indexes := tput s.indexes (objKey slot h) x, dram := { s.dram with mem := zeroUnits s.dram.mem us } },
           { handle := h.toNat })) s

def execIndexCreate (g : Go) (s : State) : Answer := mailbox false 0x0030 g (indexCreateBody g) s

/-- The OBJECT argument of a drop. -/
def Go.object (g : Go) : Handle := BitVec.ofNat 32 (rd g.args 0 4)

/-- INDEX_DROP takes effect at the commit window of its frame of acceptance (R325, R462). -/
def indexDropBody (g : Go) : MbBody := fun s =>
  checked [inv [g.strayArgs [(0x14, 0, 32)]]] (withChan g fun slot _ => fun s =>
    match s.index? slot (Go.object g) with
    | none => (s, { status := stNoObject })
    | some _ => (s.plan (s.acceptFrame g.cycle) g.fn (.dropIndex slot (Go.object g)), { later := true })) s

def execIndexDrop (g : Go) (s : State) : Answer := mailbox false 0x0031 g (indexDropBody g) s

/-! ### TABLE_CREATE and TABLE_DROP -/

def tableLayout : Layout :=
  [(0, 0, 32), (4, 0, 23), (8, 0, 21), (8, 24, 4), (12, 0, 16), (16, 0, 96), (28, 0, 64), (36, 0, 32), (40, 0, 64), (48, 0, 64),
   (56, 0, 64)]

/-- The attributes of a block, defaults taken (R188, R328). -/
def tableAttrOf (b : Bytes) : TableAttr :=
  { rows := 1024 * fld b 4 0 23, dim := 32 * fld b 8 0 8, fmt := fld b 8 8 2, optim := fld b 8 10 3, stFmt := fld b 8 13 1,
    mu := BitVec.ofNat 32 (rd b 16 4), beta1 := BitVec.ofNat 32 (rd b 20 4), beta2 := BitVec.ofNat 32 (rd b 24 4),
    eps := BitVec.ofNat 32 (orDefault (rd b 28 4) 0x322BCC77), shardRows := 2 ^ orDefault (fld b 8 16 5) 20,
    initUniform := flag b 8 14, initSeed := rd b 40 8, initScale := BitVec.ofNat 32 (orDefault (rd b 32 4) 0x3F800000),
    gradP4 := flag b 8 15, ckpt := orDefault (fld b 12 0 16) 5000, heatShift := orDefault (fld b 8 24 4) 10,
    bound := BitVec.ofNat 32 (rd b 36 4), keyBase := rd b 48 8 }

/-- A factor lies in [0, 1) (R188). -/
def factorOk (x : F32) : Bool := isFinite x && !flt x f0 && flt x f1

/-- Finite and above zero. -/
def positive (x : F32) : Bool := isFinite x && flt f0 x

/-- The binding breaks R213, apart from its key range. -/
def bindBroken (s : State) (slot : Nat) (a : TableAttr) : Bool :=
  a.bound != 0 &&
  (match s.index? slot a.bound with
    | none => true
    | some x => x.attr.dim != a.dim || x.attr.fmt == 2 ||
      s.tables.any fun p => p.1 / 2 ^ 32 == slot && p.2.dropped.isNone && p.2.attr.bound == a.bound)

/-- Table space of the node (R190). -/
def State.tableSpace (s : State) : Nat := (if s.boot.variant = 2 then 72 else 160) * 2 ^ 30

/-- Table space used. -/
def State.tableUsed (s : State) : Nat :=
  ((s.tables.filter fun p => p.2.dropped.isNone).map fun p => tableBytes s.frame.logicalId p.2.attr p.2.route p.2.hot).sum +
  ((s.migs.filter fun m => !m.source && (s.table? m.slot m.object).isSome).map (·.space)).sum

/-- The one row of the attribute block (R188 to R190, R213, R328, R329). -/
def tableRow (s : State) (slot : Nat) (b : Bytes) : CheckRow :=
  let a := tableAttrOf b
  inv [stray 0x1000 tableLayout (slice b 0 96),
    (!s.newHandleOk slot (BitVec.ofNat 32 (rd b 0 4)) 2 || decide (256 ≤ s.objectCount), 0x1000),
    (a.rows == 0 || decide (2 ^ 32 < a.rows) || decide (262144 < shardCount a), 0x1004),
    (a.dim == 0 || decide (4096 < a.dim) || decide (4096 < tableStride a), 0x1008),
    (a.fmt == 3, 0x1009), (decide (4 < a.optim), 0x1009),
    (decide (a.shardRows < 2 ^ 10) || decide (2 ^ 24 < a.shardRows), 0x100A),
    (decide (a.ckpt < 64), 0x100C),
    (!factorOk a.mu, 0x1010), (!factorOk a.beta1, 0x1014), (!factorOk a.beta2, 0x1018), (!positive a.eps, 0x101C),
    (!positive a.initScale, 0x1020), (bindBroken s slot a, 0x1024),
    (a.bound != 0 && decide (2 ^ 64 - 1 < a.keyBase + a.rows), 0x1030),
    (rd b 56 8 == 0, 0x1038)]

/-- Reservations once the route table is known; ROWS_K is named (DEDUCED, log entry 9). -/
def tableFits (s : State) (slot : Nat) (c : Chan) (a : TableAttr) (route : List Nat) : Bool :=
  let n := tableBytes s.frame.logicalId a route []
  decide (s.tableUsed + n ≤ s.tableSpace) && decide (n ≤ s.sealedLeft slot c)

/-- Journalled rows of an earlier table with the same handle concern no table (R327). -/
def State.forgetPuts (s : State) (slot : Nat) (h : Handle) : State :=
  { s with flash := { s.flash with journal := s.flash.journal.filter fun e => !(e.typ == 4 && e.slot == slot && e.object == h) } }

/-- TABLE_CREATE: the table with every row at the value of R192. -/
def tableCreateBody (g : Go) : MbBody := fun s =>
  checked [inv [g.strayArgs []]] (withChan g fun slot c =>
    checked (g.pbRows 96) fun s =>
      match decideRows [tableRow s slot g.pb] with
      | some p => (s, MbRes.refuse p)
      | none =>
        let a := tableAttrOf g.pb
        let n := shardCount a
        match g.fail1.or (badRoute g.ext1 n) with
        | some o => (s, MbRes.invalidIn (0x1000 + o) 0x1038)
        | none =>
          if !tableFits s slot c a (routeOf g.ext1 n) then (s, MbRes.refuse (stInvalid, 0x1004))
          else
            let h : Handle := BitVec.ofNat 32 (rd g.pb 0 4)
            let t : Table :=
              { attr := a, route := routeOf g.ext1 n, hot := [], rows := [], heat := [], counts := [], top := [], saved := [],
                pass := none, changed := [], closed := 0, capElig := [], captures := [], items := [], fresh := [], dropped := none }
            ({ s.forgetPuts slot h with tables := tput s.tables (objKey slot h) t }, { handle := h.toNat })) s

def execTableCreate (g : Go) (s : State) : Answer := mailbox false 0x0032 g (tableCreateBody g) s

def tableDropBody (g : Go) : MbBody := fun s =>
  checked [inv [g.strayArgs [(0x14, 0, 32)]]] (withChan g fun slot _ => fun s =>
    match s.table? slot (Go.object g) with
    | none => (s, { status := stNoObject })
    | some _ => (s.plan (s.acceptFrame g.cycle) g.fn (.dropTable slot (Go.object g)), { later := true })) s

def execTableDrop (g : Go) (s : State) : Answer := mailbox false 0x0033 g (tableDropBody g) s

/-! ### ALLOWSET_CREATE -/

def setLayout : Layout := [(0x14, 0, 64), (0x1C, 0, 6), (0x1C, 8, 1), (0x20, 0, 128)]

/-- Operators and operands of the arguments (R326). -/
def setOps (g : Go) : List Nat := [g.arg 0x1C 0 2, g.arg 0x1C 2 2, g.arg 0x1C 4 2]
def setOperands (g : Go) : List Handle := (List.range 4).map fun i => BitVec.ofNat 32 (g.arg (0x20 + 4 * i) 0 32)

/-- Operators before the first none. -/
def opCount (ops : List Nat) : Nat := (ops.takeWhile (· != 0)).length

/-- An operand names a derived set or a set of another index (R234); one that names no set is NO_OBJECT (R325). -/
def operandBad (s : State) (slot : Nat) (index h : Handle) : Bool :=
  match s.set? slot h with
  | some x => x.derived || x.index != index
  | none => false

/-- Allow-sets accepted and not yet made: they count among the 32 of R83. -/
def State.plannedSets (s : State) : Nat := (s.planned.filter fun p => match p.what with | .createSet .. => true | _ => false).length

/-- The conditions of R83, R234 and R326; the INVALID checks come before NO_OBJECT (DEDUCED, log entry 9). -/
def setRow (g : Go) (s : State) (slot : Nat) (c : Chan) : CheckRow :=
  let ops := setOps g
  let n := opCount ops
  let derived := g.arg 0x1C 8 1 == 1
  let idx : Handle := BitVec.ofNat 32 (g.arg 0x18 0 32)
  let short := match s.index? slot idx with
    | some x => decide ((s.openLeft slot c).length < bitmapUnits x.attr.rows)
    | none => false
  inv ([g.strayArgs setLayout, (!s.newHandleOk slot (Go.object g) 3 || decide (32 ≤ s.sets.length + s.plannedSets) || short, 0x14),
      (ops.drop n != List.replicate (3 - n) 0 || (!derived && n != 0), 0x1C)] ++
    (setOperands g).mapIdx fun i h =>
      (if derived && decide (i ≤ n) then operandBad s slot idx h else h != 0, 0x20 + 4 * i))

/-- ALLOWSET_CREATE: a base set, zeroed in the channel's next SET_COMBINE window, or a derived set over base sets (R234,
R235). -/
def allowsetCreateBody (g : Go) : MbBody := fun s =>
  withChan g (fun slot c s =>
    match decideRows [setRow g s slot c] with
    | some p => (s, MbRes.refuse p)
    | none =>
      let idx : Handle := BitVec.ofNat 32 (g.arg 0x18 0 32)
      match s.index? slot idx with
      | none => (s, { status := stNoObject })
      | some x =>
        let derived := g.arg 0x1C 8 1 == 1
        let ops := (setOps g).take (opCount (setOps g))
        let st : AllowSet :=
          { index := idx, derived := derived, ops := ops, sets := if derived then (setOperands g).take (ops.length + 1) else [],
            units := (s.openLeft slot c).take (bitmapUnits x.attr.rows), stamp := 0, fresh := true, dirty := [], inits := 0, rows := [], bitLog := [], dropped := none }
        if derived && ((setOperands g).take (ops.length + 1)).any (fun h => (s.set? slot h).isNone) then (s, { status := stNoObject })
        else (s.plan (s.acceptFrame g.cycle) g.fn (.createSet slot (Go.object g) st),
         { handle := (Go.object g).toNat, later := true })) s

def execAllowsetCreate (g : Go) (s : State) : Answer := mailbox false 0x0034 g (allowsetCreateBody g) s

/-! ### GRAPH_LOAD -/

def graphHeaderLayout : Layout := [(0, 0, 61), (8, 0, 3), (16, 0, 64), (24, 0, 256), (56, 0, 64)]
def layerLayout : Layout := [(0, 0, 19), (4, 0, 32), (8, 0, 16), (12, 0, 32), (16, 0, 128)]

/-- Bytes of a layer's weights and biases. -/
def weightLen (dim : Nat) (img : Bytes) (l : Nat) : Nat := layerIn dim img l * (layerOf img l).outW * layerES (layerOf img l).fmt
def biasLen (img : Bytes) (l : Nat) : Nat := 4 * (layerOf img l).outW

/-- The areas of an image: (descriptor field's offset, start, end) of every weight and bias area. -/
def graphAreas (dim : Nat) (img : Bytes) : List (Nat × Nat × Nat) :=
  (List.range (graphLayers img)).flatMap fun l =>
    let L := layerOf img l
    [(0x1050 + 32 * l, L.wOff, L.wOff + weightLen dim img l), (0x1058 + 32 * l, L.bOff, L.bOff + biasLen img l)]

/-- A weight code that is a NaN or an infinity. -/
def badWeight (fmt w : Nat) : Bool :=
  match fmt with
  | 0 => false
  | n => match fval (layerFmt n) w with | .fin _ _ _ => false | _ => true

/-- The first bad weight of a layer, as its image offset. -/
def firstBadWeight (dim : Nat) (img : Bytes) (l : Nat) : Option Nat :=
  let L := layerOf img l
  let es := layerES L.fmt
  ((List.range (layerIn dim img l * L.outW)).find? fun i => badWeight L.fmt (rd img (L.wOff + i * es) es)).map fun i =>
    L.wOff + i * es

/-- The conditions of layer l (R139, R144). -/
def layerChecks (dim : Nat) (img : Bytes) (l : Nat) : List (Bool × Nat) :=
  let L := layerOf img l
  let o := 0x1040 + 32 * l
  let d := slice img (0x40 + 32 * l) 32
  let q := L.fmt == 0
  let areas := graphAreas dim img
  let clash := fun (k : Nat) => match areas[k]? with
    | some a => decide (a.2.1 < 0x1300) || decide (rd img 16 8 < a.2.2) ||
        (areas.mapIdx fun j x => (j, x)).any fun p => p.1 != k && decide (p.2.2.1 < a.2.2) && decide (a.2.1 < p.2.2.2)
    | none => false
  [stray o layerLayout d,
   (L.outW == 0 || decide (4096 < L.outW) || (l + 1 == graphLayers img && L.outW != 1), o),
   (decide (4 < L.fmt), o + 1),
   (L.act != 7 && decide (fld img 8 0 3 ≤ L.act), o + 2),
   (if q then !positive L.sIn else L.sIn != 0, o + 4),
   (!q && rd d 8 1 != 0, o + 8), (!q && rd d 9 1 != 0, o + 9),
   (if q then !positive L.sW else L.sW != 0, o + 12),
   (L.wOff % 65536 != 0 || clash (2 * l), o + 16), (L.bOff % 64 != 0 || clash (2 * l + 1), o + 24),
   (match firstBadWeight dim img l with | some w => (true, 0x1000 + w) | none => (false, 0))]

/-- The conditions of feature entry i (R140). -/
def featureChecks (payloadLen : Nat) (img : Bytes) (i : Nat) : List (Bool × Nat) :=
  let e := rd img (0x140 + 2 * i) 2
  let t := bitsOf e 12 3
  let size := match t with | 0 => 1 | 1 => 1 | 2 => 2 | 3 => 2 | _ => 4
  let o := 0x1140 + 2 * i
  [(e % 4096 % size != 0 || decide (payloadLen < e % 4096 + size), o), (decide (4 < t) || decide (2 ^ 15 ≤ e), o + 1)]

/-- The first non-zero byte of a reserved range. -/
def nonZeroIn (img : Bytes) (o n : Nat) : Bool × Nat :=
  match (slice img o n).findIdx? (· != 0) with
  | some i => (true, 0x1000 + o + i)
  | none => (false, 0)

/-- The one row of R144; a reservation that cannot hold the graph names IMAGE_BYTES (DEDUCED, log entry 9). -/
def graphRow (s : State) (slot : Nat) (c : Chan) (a : IndexAttr) (img : Bytes) : CheckRow :=
  let n := graphLayers img
  let f := graphFeatures img
  let t := fld img 8 0 3
  inv ([stray 0x1000 graphHeaderLayout (slice img 0 64), (rd img 0 4 != 0x47524631, 0x1000), (rd img 4 2 != 1, 0x1004),
      (n == 0 || decide (8 < n), 0x1006), (decide (64 < f), 0x1006), (decide (4 < t), 0x1008),
      (decide (rd img 16 8 < 0x1300) || decide (s.sealedLeft slot c < graphBytes a.dim img), 0x1010),
      (digest (slice img 0x40 (rd img 16 8 - 0x40)) != le (slice img 24 32), 0x1018),
      nonZeroIn img (0x40 + 32 * n) (32 * (8 - n)), nonZeroIn img (0x140 + 2 * f) (2 * (64 - f)), nonZeroIn img 0x1C0 0x40,
      nonZeroIn img (0x200 + 1088 * t) (1088 * (4 - t))] ++
    ((List.range (min t 4)).map fun i => nonZeroIn img (0x200 + 1088 * i + 12) 0x34) ++
    (List.range (min n 8)).flatMap (layerChecks a.dim img) ++ (List.range (min f 64)).flatMap (featureChecks a.payloadLen img))

/-- The image shorter than its header declares (R457). -/
def graphSizeRows (g : Go) : List CheckRow :=
  let sig := rd g.pb 0x38 4
  [inv [(decide (g.pbLen < rd g.pb 16 8), 0x1010)],
   inv [(sig != 0 && decide (g.pbLen < sig + rd g.pb 0x3C 4), 0x1038)]]

/-- A graph waits for its activation frame beside the one in force and those that wait for other frames (R137). -/
def withNextGraph (t : Option Graph) (act : Nat) (img : Bytes) : Graph :=
  match t with
  | some x => { x with next := insertBy (fun a b => decide (a.1 < b.1)) (act, img) (x.next.filter fun n => n.1 != act) }
  | none => { image := [], older := [], next := [(act, img)] }

/-- GRAPH_LOAD: refused with INVALID when it does not reach the node before frame A' − 1 starts (R137). -/
def graphLoadBody (g : Go) : MbBody := fun s =>
  let act := g.arg 0x18 0 48
  checked [inv [g.strayArgs [(0x14, 0, 32), (0x18, 0, 48)], (decide (act ≤ s.frame.num + 1), 0x18)]]
    (withChan g fun slot c => fun s =>
      match s.index? slot (Go.object g) with
      | none => (s, { status := stNoObject })
      | some x =>
        checked (g.pbRows 64 ++ graphSizeRows g ++ [graphRow s slot c x.attr g.pb, s.ownerSigRow g.pb (rd g.pb 0x38 4)])
          (fun s =>
            let k := objKey slot (Go.object g)
            let img := g.pb.take (rd g.pb 16 8)
            ({ s with graphs := tput s.graphs k (withNextGraph (tget s.graphs k) act img) },
             { handle := 4 * 2 ^ 28 + hNumber (Go.object g) })) s) s

def execGraphLoad (g : Go) (s : State) : Answer := mailbox false 0x0035 g (graphLoadBody g) s

/-- Graphs whose frame A' is the next one are published; a graph replaced stays readable (R137, R53). -/
def Graph.publish (frame : Nat) (x : Graph) : Graph :=
  (x.next.filter fun n => decide (n.1 ≤ frame + 1)).foldl (fun y n => { y with image := n.2, older := y.older ++ [(frame, y.image)] })
    { x with next := x.next.filter (fun n => decide (frame + 1 < n.1)) }

/-- The graph of an index published at the commit window of A' − 1; COMMIT_WINDOW has done it when it comes first. -/
def execGraphPublish (slot : Nat) (object : Handle) (s : State) : Answer :=
  whenLive (fun s => { s with graphs := tmap s.graphs (objKey slot object) (Graph.publish s.frame.num) }) s

/-! ### PALETTE_SET -/

def paletteLayout : Layout := [(0, 0, 51), (8, 0, 48), (16, 0, 13), (20, 0, 24), (24, 0, 256), (56, 0, 64)]

/-- The scales of an image. -/
def palScales (img : Bytes) : List F32 := words32 (slice img 0x40 (fld img 16 0 13 / 8))

/-- The palette stream of an object and kind. -/
def State.stream? (s : State) (slot : Nat) (object : Handle) (kind : Nat) : Option Stream :=
  s.streams.find? fun x => x.slot == slot && x.object == object && x.kind == kind

/-- The image shorter than its header declares (R457). -/
def paletteSizeRows (g : Go) : List CheckRow :=
  let sig := rd g.pb 0x38 4
  [inv [(decide (g.pbLen < 64 + fld g.pb 16 0 13 / 8), 0x1010)],
   inv [(sig != 0 && decide (g.pbLen < sig + rd g.pb 0x3C 4), 0x1038)]]

/-- Rows 1 to 3 of R303. -/
def paletteRows (s : State) (slot : Nat) (img : Bytes) : List CheckRow :=
  let obj : Handle := BitVec.ofNat 32 (rd img 8 4)
  let kind := fld img 4 16 2
  let p4 := flag img 4 18
  let dim := fld img 16 0 13
  let idx := s.index? slot obj
  let tab := s.table? slot obj
  [inv ([stray 0x1000 paletteLayout (slice img 0 64), (rd img 0 4 != 0x50414C31, 0x1000), (rd img 4 2 != 1, 0x1004),
      (kind == 3, 0x1006), (rd img 12 2 == 0, 0x100C), (dim % 32 != 0 || decide (dim < 32) || decide (4096 < dim), 0x1010),
      (digest (slice img 0x40 (dim / 8)) != le (slice img 24 32), 0x1018)] ++
      (palScales img).mapIdx fun i x => (!positive x, 0x1040 + 4 * i)),
   { status := stNoObject, broken := [(idx.isNone && tab.isNone && (s.set? slot obj).isNone, 0)] },
   inv [((if kind = 2 then tab.isNone else idx.isNone), 0x1006),
      ((match tab with | some t => p4 != t.attr.gradP4 | none => p4), 0x1006),
      ((match idx, tab with | some x, _ => x.attr.dim != dim | none, some t => t.attr.dim != dim | none, none => false), 0x1010),
      ((match s.stream? slot obj kind with
        | some x => (match x.cur with | some p => p.gen == rd img 12 2 | none => false)
        | none => false), 0x100C)]]

/-- PALETTE_SET: published at the commit window that R50 gives for an update admitted in the frame of acceptance
(R304). -/
def paletteSetBody (g : Go) : MbBody := fun s =>
  checked [inv [g.strayArgs []]] (withChan g fun slot _ =>
    fun s => checked (g.pbRows 64 ++ paletteSizeRows g ++ paletteRows s slot g.pb ++ [s.ownerSigRow g.pb (rd g.pb 0x38 4)])
      (fun s =>
        let u := s.acceptFrame g.cycle
        let p : Palette :=
          { gen := rd g.pb 12 2, code := fld g.pb 4 18 1, dim := fld g.pb 16 0 13, limit := fld g.pb 20 0 24,
            scales := palScales g.pb, pub := 0 }
        (s.plan (if s.frame.exact then u + 2 else u + 1) g.fn
          (.palette slot (BitVec.ofNat 32 (rd g.pb 8 4)) (fld g.pb 4 16 2) p), { later := true })) s) s

def execPaletteSet (g : Go) (s : State) : Answer := mailbox false 0x0036 g (paletteSetBody g) s

/-- A generation published: the one before it is held too (R304). -/
def Stream.publish (x : Stream) (frame : Nat) (p : Palette) : Stream :=
  { x with cur := some { p with pub := frame }, prev := x.cur }

/-- The streams with a generation published. -/
def State.publishPalette (s : State) (slot : Nat) (object : Handle) (kind : Nat) (p : Palette) : State :=
  match s.stream? slot object kind with
  | some _ =>
    { s with streams := s.streams.map fun x =>
        if x.slot = slot ∧ x.object = object ∧ x.kind = kind then x.publish s.frame.num p else x }
  | none =>
    { s with streams := s.streams ++
        [{ slot := slot, object := object, kind := kind, cur := some { p with pub := s.frame.num }, prev := none, next := none,
           clipped := 0 }] }

/-! ### Plans carried out at a commit window -/

/-- A dropped index: its migrations end (R91); commands with an earlier snapshot still read it, and its NUMBER stays taken, until
its versions are released (R53, R71, R327). -/
def State.dropIndex (s : State) (slot : Nat) (h : Handle) : State :=
  let ended := s.migs.filter fun m => m.slot == slot && m.object == h && m.ended.isNone
  let s1 := ended.foldl (fun acc m => acc.logAdd 0x03 (acc.handleAt slot) h.toNat m.number 3) s
  { s1 with
    indexes := tmap s1.indexes (objKey slot h) fun x =>
      { x with dropped := some s.frame.num, next := none }
    migs := s1.migs.filter fun m => m.slot != slot || m.object != h
    builds := s1.builds.filter fun b => b.slot != slot || b.object != h
    listOps := s1.listOps.filter fun o => o.slot != slot || o.object != h }

/-- A dropped table. -/
def State.dropTable (s : State) (slot : Nat) (h : Handle) : State :=
  { s with
    tables := tmap s.tables (objKey slot h) fun x =>
      { x with dropped := some s.frame.num, captures := [], items := [], fresh := [], pass := none }
    migs := s.migs.filter fun m => m.slot != slot || m.object != h }

/-- One plan. -/
def State.carryOut (s : State) (p : Planned) : State :=
  (match p.what with
    | .dropIndex slot h => s.dropIndex slot h
    | .dropTable slot h => s.dropTable slot h
    | .createSet slot h x => { s with sets := tput s.sets (objKey slot h) x }
    | .palette slot h kind x => s.publishPalette slot h kind x
    | .sectors m => { s with units := { s.units with sectorsOn := m } }).mbEnd p.fn id

/-- Plans due at this commit window, in the order accepted; `step5` chooses those of step 5 (SECTOR_GATE) or the
published ones of step 2. -/
def State.carryOutDue (s : State) (step5 : Bool) : State :=
  let due := fun (p : Planned) => decide (p.frame ≤ s.frame.num) &&
    (match p.what with | .sectors _ => step5 | _ => !step5)
  (s.planned.filter due).foldl State.carryOut { s with planned := s.planned.filter fun p => !due p }

end Sys2Proof.Machine
end

