-- ==== Sys2Proof/Machine/Lists.lean ====
section
/-! DEFINITION. Reading and changing an index's lists: which generation and which extent a version sees (R53, R69, R80, R87),
which slots are visible (R77), local rows (R70), the tombstone set (R77), records (R72, R73) and table rows by version. -/

namespace Sys2Proof.Machine

/-! ### Versions -/

/-- The generation that a command admitted in frame g reads (R87). -/
def Index.genAt (x : Index) (g : Nat) : IndexGen :=
  match x.old with
  | some (p, o) => if g ≤ p then o else x.cur
  | none => x.cur

/-- A list's extent at version g: the one superseded first after g, else the present one (R53, R80). -/
def IList.extentAt (l : IList) (g : Nat) : Extent :=
  match l.older.find? fun o => decide (g < o.frame) with
  | some o => o
  | none => { frame := 0, centroid := l.centroid, firstLine := l.firstLine, mainSlots := l.mainSlots, slots := l.slots }

/-- A version after every superseded one: what is newest (R19: frame numbers have 48 bits). -/
def newestVersion : Nat := 2 ^ 48

/-- The slots of a list at version g. -/
def IList.slotsAt (l : IList) (g : Nat) : List Slot := (l.extentAt g).slots

/-- The number of an extent's i-th slot: line j holds slots 16 j to 16 j + 15, so that the tip-in area starts on a line of its own
(R65, R69). -/
def slotNumber (mainSlots i : Nat) : Nat := if i < mainSlots then i else 16 * mainLines mainSlots + (i - mainSlots)

/-- An extent's slots with their numbers; the numbers between the areas are padding (R65, R66). -/
def Extent.numbered (e : Extent) : List (Nat × Slot) := e.slots.mapIdx fun i sl => (slotNumber e.mainSlots i, sl)

/-- The slot with a number, none for padding and unfilled places. -/
def Extent.slot? (e : Extent) (n : Nat) : Option Slot := (e.numbered.find? fun p => p.1 == n).map (·.2)

/-- A slot is visible at version g: published by g and not tombstoned by g (R77). -/
def seenAt (sl : Slot) (g : Nat) : Bool :=
  decide (sl.pub ≤ g) && (match sl.dead with | some d => decide (g < d) | none => true)

/-- Sketch and NORM as version g sees them: the logged values for an older version (R216). -/
def valueAt (sl : Slot) (g : Nat) : Nat × F16 :=
  match sl.older.find? fun o => decide (g < o.2.2) with
  | some o => (o.1, o.2.1)
  | none => (sl.sketch, sl.norm)

/-- A list is present at version g when its extent was. -/
def IList.live (l : IList) : Nat := (l.slots.filter fun sl => sl.dead.isNone).length

/-- Slots used in the tip-in area (R68). -/
def IList.tipinUsed (l : IList) : Nat := l.slots.length - l.mainSlots

/-- Tombstoned slots in the extent. -/
def IList.tombstoned (l : IList) : Nat := (l.slots.filter fun sl => sl.dead.isSome).length

/-- A list without slots. -/
def IList.ofCentroid (c : List F16) : IList :=
  { centroid := c, firstLine := 0, mainSlots := 0, slots := [], heat := 0, scanned := 0, tipinFull := false, older := [] }

/-- The lists of a region; of a region not listed before a BUILD, LISTS_INIT empty ones with zero centroids (log entry 15). -/
def IndexGen.region (x : IndexGen) (r : Nat) : Tbl IList :=
  match tget x.lists r, x.blank with
  | some t, _ => t
  | none, some (_, n, d, tip) => (List.range n).map fun i =>
      (i, { IList.ofCentroid (List.replicate d 0) with firstLine := (r * n + i) * tip })
  | none, none => []

/-- The lists in use of a region at a version, with their centroids (R51, R68, R103). -/
def IndexGen.listsAt (x : IndexGen) (r g : Nat) : List (Nat × List F16) :=
  ((x.region r).map fun p => (p.1, (p.2.extentAt g).centroid)).filter fun p => !p.2.isEmpty

/-- A list changed. -/
def IndexGen.mapList (x : IndexGen) (r l : Nat) (f : IList → IList) : IndexGen :=
  match tget (x.region r) l with
  | some v => { x with lists := tput x.lists r (tput (x.region r) l (f v)) }
  | none => x

/-- The scores of the region centroids that can be among the n best of ROUTE_1 (R99, R150): every one listed, and of those not
listed, which are zero and so alike, the n with the lowest numbers. -/
def IndexGen.regionScores (x : IndexGen) (metric n : Nat) (q : List F32) : List (Nat × F32) :=
  let listed := x.centroids.map fun p => (p.1, centroidScore metric q (toVec p.2))
  match x.blank with
  | none => listed
  | some (regions, _, d, _) =>
    let zero := centroidScore metric q (toVec (List.replicate d 0))
    let free := (List.range (min regions (n + x.centroids.length))).filter fun r => (tget x.centroids r).isNone
    listed ++ (free.take n).map fun r => (r, zero)

/-- The generation that a command admitted in frame g reads, changed (R87). -/
def Index.mapAt (x : Index) (g : Nat) (f : IndexGen → IndexGen) : Index :=
  match x.old with
  | some (p, o) => if g ≤ p then { x with old := some (p, f o) } else { x with cur := f x.cur }
  | none => { x with cur := f x.cur }

/-! ### The line space (R68) -/

/-- The extents of a list, superseded ones too, as first line and length; a free list number has none. -/
def IList.spans (tipin : Nat) (l : IList) : List (Nat × Nat) :=
  (if l.centroid.isEmpty then [] else [(l.firstLine, extentLines tipin l.mainSlots)]) ++
  (l.older.filter fun o => !o.centroid.isEmpty).map fun o => (o.firstLine, extentLines tipin o.mainSlots)

/-- The extents of a generation; the lists of regions that no update or copy has touched stand where their numbers put them. -/
def IndexGen.spans (tipin : Nat) (x : IndexGen) : List (Nat × Nat) :=
  (match x.blank with | some (r, n, _, tip) => [(0, r * n * tip)] | none => []) ++ x.lists.flatMap fun r => r.2.flatMap fun p => p.2.spans tipin

/-- Every extent of an index in its line space. -/
def Index.spans (x : Index) : List (Nat × Nat) :=
  x.cur.spans x.attr.tipin ++ (match x.old with | some p => p.2.spans x.attr.tipin | none => []) ++
  (match x.next with | some p => p.2.spans x.attr.tipin | none => [])

/-- The lowest place of n lines that meets no span; the spec names no rule for the place (DESIGN CHOICE, log entry 56). -/
def lowestGap (n : Nat) (spans : List (Nat × Nat)) : Nat :=
  (sortBy (fun a b => decide (a.1 < b.1)) spans).foldl (fun (at_ : Nat) s => if at_ + n ≤ s.1 then at_ else max at_ (s.1 + s.2)) 0

/-- A list put in place. -/
def IndexGen.putList (x : IndexGen) (r l : Nat) (v : IList) : IndexGen :=
  { x with lists := tput x.lists r (tput (x.region r) l v) }

/-- A new extent of a list given its lines. -/
def Index.placeList (x : Index) (l : IList) : IList :=
  if l.centroid.isEmpty then { l with firstLine := 0 }
  else { l with firstLine := lowestGap (extentLines x.attr.tipin l.mainSlots) x.spans }

/-! ### The key directory (R75) -/

/-- The directory of a region: the keys of its live items and their local rows. -/
def IndexGen.directory (x : IndexGen) (r : Nat) : List (Key × Nat) :=
  (x.region r).flatMap fun p => (p.2.slots.filter fun sl => sl.dead.isNone).map fun sl => (sl.key, sl.row)

/-- Bytes of a region's directory: 8-byte entries, 1.25 for a slot of its extents. -/
def IndexGen.directoryBytes (x : IndexGen) (r : Nat) : Nat :=
  10 * ((x.region r).map fun p => p.2.slots.length).sum

/-- An index changed. -/
def State.mapIndex (s : State) (slot : Nat) (h : Handle) (f : Index → Index) : State :=
  { s with indexes := tmap s.indexes (objKey slot h) f }

/-- A table changed. -/
def State.mapTable (s : State) (slot : Nat) (h : Handle) (f : Table → Table) : State :=
  { s with tables := tmap s.tables (objKey slot h) f }

/-- The place of a key in a region at version g: list, slot number and slot; the key directory of R75. -/
def IndexGen.find (x : IndexGen) (r : Nat) (key : Key) (g : Nat) : Option (Nat × Nat × Slot) :=
  (x.region r).findSome? fun p =>
    (p.2.extentAt g).numbered.findSome? fun q =>
      if q.2.key = key ∧ seenAt q.2 g then some (p.1, q.1, q.2) else none

/-! ### Local rows and the tombstone set -/

/-- The lowest free local row, if one is below ROWS_RESERVED (R70). -/
def Index.freeRow (x : Index) : Option Nat :=
  let r := lowestFree x.rowsUsed
  if r < x.attr.rows then some r else none

/-- A row put into a set of rows, or taken out. -/
def putRow (rows : List Nat) (row : Nat) (b : Bool) : List Nat := if b then insNat row rows else rows.filter (· != row)

/-- The tombstone bit of a row set to b, on both twins (R77, R233). -/
def State.tombBit (s : State) (slot : Nat) (h : Handle) (row : Nat) (b : Bool) : State :=
  match s.index? slot h with
  | none => s
  | some x =>
    { s.mapIndex slot h (fun y => { y with tombRows := putRow y.tombRows row b }) with
      dram := { s.dram with mem := bitWrite s.dram.mem x.tombUnits row b } }

/-- The allow-sets of an index that stand, with their handles. -/
def State.setsOf (s : State) (slot : Nat) (h : Handle) : List (Handle × AllowSet) :=
  s.sets.filterMap fun p =>
    if p.1 / 2 ^ 32 = slot ∧ p.2.index = h ∧ p.2.dropped.isNone then some (BitVec.ofNat 32 (p.1 % 2 ^ 32), p.2) else none

/-! ### Records -/

/-- The number by which a record is kept: folio and index in it (R67, R73). -/
def recKey (folio record : Nat) : Nat := folio * 2048 + record

/-- Record size R and records per folio (R72, R73). -/
def recordSize (a : IndexAttr) : Nat := vecBytes a.fmt a.dim + a.payloadLen + 4
def recordsPerFolio (a : IndexAttr) : Nat := 65472 / (recordSize a + 8)

/-- Read units of a record (R97). -/
def recordUnits (a : IndexAttr) : Nat := ceilDiv (recordSize a) 2048

/-- A record's bytes (R72). -/
def recordOf (a : IndexAttr) (vec payload : Bytes) (rowsum : Int) : Bytes :=
  vec.take (vecBytes a.fmt a.dim) ++ payload.take a.payloadLen ++ toLe 4 ((rowsum % 2 ^ 32).toNat)

/-- The parts of a record. -/
def recVec (a : IndexAttr) (r : Bytes) : Bytes := r.take (vecBytes a.fmt a.dim)
def recPayload (a : IndexAttr) (r : Bytes) : Bytes := slice r (vecBytes a.fmt a.dim) a.payloadLen

/-- The record of a slot; one of an unmapped folio reads as zeros (R257). -/
def State.record (s : State) (a : IndexAttr) (sl : Slot) : Bytes :=
  tgetD s.flash.recs (recKey sl.folio sl.record) (List.replicate (recordSize a) 0)

/-- A record placed in its index's open record folio, in order; a full one is closed and a new one opened (R73, R262). -/
def State.placeRecord (s : State) (slot : Nat) (h : Handle) (a : IndexAttr) (key : Key) (r : Bytes) : (Nat × Nat) × State :=
  let k := objKey slot h
  let p := match tget s.flash.openFolio k with
    | some (f, used) => if used < recordsPerFolio a then (f, used) else (s.newFolio slot, 0)
    | none => (s.newFolio slot, 0)
  let full := p.2 + 1 == recordsPerFolio a
  let fo : Folio := { kind := 0, slot := slot, object := h, first := 0, used := p.2 + 1, closed := if full then some s.frame.num else none }
  (p, s.mapFlash fun f =>
    { f with recs := tput f.recs (recKey p.1 p.2) r, keys := tput f.keys (recKey p.1 p.2) key, folios := tput f.folios p.1 fo,
             openFolio := if full then tdel f.openFolio k else tput f.openFolio k (p.1, p.2 + 1) })

/-! ### Table rows -/

/-- Row r as it was set at creation (R192): the initial vector, zero state and zero padding. -/
def initRow (a : TableAttr) (r : Nat) : Bytes :=
  let v := if a.initUniform then
      rowStore a.fmt ((List.range a.dim).map fun j => initElem a.initSeed a.initScale (r * a.dim + j))
    else List.replicate (a.dim * rowES a.fmt) 0
  v ++ List.replicate (tableStride a - v.length) 0

/-- A row's image at version g. -/
def Table.rowAt (t : Table) (r g : Nat) : Bytes :=
  match tget t.rows r with
  | none => initRow t.attr r
  | some w =>
    match w.older.find? fun o => decide (g < o.1) with
    | some o => o.2
    | none => w.image

/-- The newest image of a row. -/
def Table.rowNow (t : Table) (r : Nat) : Bytes :=
  match tget t.rows r with
  | some w => w.image
  | none => initRow t.attr r

/-- The route entry of a row: its hot-map entry, else its shard's (R191). -/
def Table.entry (t : Table) (r : Nat) : Nat :=
  match tget t.hot r with
  | some e => e
  | none => t.route.getD (r / t.attr.shardRows) 0

/-- The nodes that an update of a region, shard or row goes to (R74, R90, R201, R218). -/
def rtTargets (e : Nat) : List Nat := dedup ([rtPrimary e, rtBuddy e] ++ (if rtMigrating e then [rtDest e] else []))

end Sys2Proof.Machine
end

