-- ==== Sys2Proof/Machine/Checks.lean ====
section
/-! DEFINITION. The landing checks of the ring commands (R93 to R96, R127, R194, R195, R199, R200, R211, R343 to R348, R461,
R458), their charges (R97, R195, R200, R211, R344, R346, R347) and their policed lengths (R343). -/

namespace Sys2Proof.Machine

/-- A check row with the entry field that names the buffer it looks into. -/
abbrev BufRow := CheckRow × Nat

/-- The first row with a broken condition: status, offset, and the buffer's field when the offset lies in a buffer. -/
def decideBuf : List BufRow → Option (Nat × Nat × Nat)
  | [] => none
  | r :: rest =>
    match decideRows [r.1] with
    | some p => some (p.1, p.2, if 0x1000 ≤ p.2 then r.2 else 0)
    | none => decideBuf rest

/-! ### Layouts -/

def commonLayout : Layout := [(0, 0, 8), (0, 16, 16), (4, 0, 32)]
def searchLayout : Layout :=
  commonLayout ++ [(8, 0, 64), (0x10, 0, 64), (0x18, 0, 32), (0x1C, 0, 6), (0x1C, 16, 9), (0x20, 0, 10), (0x20, 16, 13),
    (0x24, 0, 7), (0x24, 8, 9), (0x28, 0, 64)]
def lookupLayout : Layout :=
  commonLayout ++ [(8, 0, 64), (0x10, 0, 64), (0x18, 0, 32), (0x1C, 0, 17), (0x20, 0, 2)]
def applyLayout : Layout :=
  commonLayout ++ [(8, 0, 64), (0x10, 0, 64), (0x18, 0, 64), (0x20, 0, 32), (0x24, 0, 17), (0x28, 0, 3)]
def upsertLayout : Layout :=
  commonLayout ++ [(8, 0, 64), (0x10, 0, 64), (0x18, 0, 64), (0x20, 0, 64), (0x28, 0, 32), (0x2C, 0, 3)]
def deleteLayout : Layout := commonLayout ++ [(8, 0, 64), (0x10, 0, 32), (0x14, 0, 1)]
def fetchLayout : Layout :=
  commonLayout ++ [(8, 0, 64), (0x10, 0, 64), (0x18, 0, 32), (0x1C, 0, 32), (0x20, 0, 1)]
def setEditLayout : Layout := commonLayout ++ [(8, 0, 64), (0x10, 0, 13)]
def replaceLayout : Layout := commonLayout ++ [(8, 0, 64), (0x10, 0, 64), (0x18, 0, 14)]

/-- OBJECT is reserved where the opcode names none (R343). -/
def fenceLayout : Layout := [(0, 0, 8), (0, 16, 16), (8, 0, 1)]
def snapshotLayout : Layout := [(0, 0, 8), (0, 16, 16)]
def statsLayout : Layout := [(0, 0, 8), (0, 16, 16), (8, 0, 64), (0x10, 0, 32), (0x18, 0, 9), (0x1C, 0, 32)]

/-! ### Fields -/

def entryObject (e : Bytes) : Handle := BitVec.ofNat 32 (rd e 4 4)
def entryKey (e : Bytes) : Key := BitVec.ofNat 64 (rd e 8 8)
def entryAddr (e : Bytes) (o : Nat) : Nat := rd e o 8

/-- The key of padding entries, which no item may have (R166). -/
def padKey : Key := 0xFFFFFFFFFFFFFFFF

def seP (e : Bytes) : Nat := fld e 0x1C 0 6
def seNP (e : Bytes) : Nat := fld e 0x1C 16 9
def seC (e : Bytes) : Nat := fld e 0x20 0 10
def seW (e : Bytes) : Nat := fld e 0x20 16 13
def seK (e : Bytes) : Nat := fld e 0x24 0 7
def seQFormat (e : Bytes) : Nat := fld e 0x24 8 2
def seFilterKind (e : Bytes) : Nat := fld e 0x24 10 2
def seTermCount (e : Bytes) : Nat := fld e 0x24 12 3
def seWiden (e : Bytes) : Bool := flag e 0x24 15
def seWantPayload (e : Bytes) : Bool := flag e 0x24 16

/-- W_EFF (R97). -/
def seWEff (e : Bytes) : Nat := min (seW e) (seP e * seC e)

/-- COUNT of a LOOKUP, APPLY, SET_EDIT or REPLACE_ROWS. -/
def rowCount (op : Nat) (e : Bytes) : Nat :=
  match op with
  | 0x02 => fld e 0x1C 0 17
  | 0x03 => fld e 0x24 0 17
  | 0x07 => fld e 0x10 0 12
  | _ => fld e 0x18 0 12

/-- DURABLE of an update's entry (R199, R211, R344, R347). -/
def wantsDurable (op : Nat) (e : Bytes) : Bool :=
  match op with
  | 0x03 => flag e 0x28 2
  | 0x04 => flag e 0x2C 2
  | 0x05 => flag e 0x14 0
  | 0x07 => flag e 0x10 12
  | 0x0A => flag e 0x18 13
  | _ => false

/-- Whether the opcode is an update (R50). -/
def isUpdate (op : Nat) : Bool := op == 0x03 || op == 0x04 || op == 0x05 || op == 0x07 || op == 0x0A

/-- PRIOR_REGION of an UPSERT, DELETE or FETCH. -/
def priorRegion (op : Nat) (e : Bytes) : Nat :=
  match op with
  | 0x04 => rd e 0x28 4
  | 0x05 => rd e 0x10 4
  | _ => rd e 0x1C 4

/-- OUT_STRIDE of a LOOKUP (R198): OUT_FORMAT 0 is the row format. -/
def outFormat (t : TableAttr) (f : Nat) : Nat :=
  match f with
  | 1 => 0
  | 2 => 1
  | _ => t.fmt
def outStride (t : TableAttr) (f : Nat) : Nat := ceilDiv (t.dim * rowES (outFormat t f)) 64 * 64

/-- The result size of a SEARCH (R114). -/
def searchPo (k : Nat) : Nat := ceilDiv (32 + 16 * k) 64 * 64
def searchSize (e : Bytes) (payloadLen : Nat) : Nat :=
  if seWantPayload e then searchPo (seK e) + seK e * payloadLen else 32 + 16 * seK e

/-- Buffer number i of a command's buffers. -/
def bufAt (bufs : List Bytes) (i : Nat) : Bytes := bufs.getD i []

/-! ### SEARCH (R96) -/

/-- The elements of a host vector in a host format: 0 fp32, 1 bf16, 2 fp16. -/
def hostElemSize (f : Nat) : Nat := if f = 0 then 4 else 2
def hostElems (f : Nat) (bs : Bytes) : List F32 :=
  match f with
  | 0 => words32 bs
  | 1 => (words16 bs).map ofBf16
  | _ => (words16 bs).map ofFp16

/-- A NaN or an infinity is named by its element's first byte. -/
def badElems (es : Nat) (xs : List F32) : List (Bool × Nat) :=
  match xs.findIdx? (fun x => !isFinite x) with
  | some j => [(true, 0x1000 + j * es)]
  | none => []

/-- Order 1, the conditions of the entry alone. -/
def searchFields (e : Bytes) : List (Bool × Nat) :=
  let fk := seFilterKind e
  let tc := seTermCount e
  let arg := rd e 0x28 8
  [stray 0 searchLayout e,
   (seP e == 0 || decide (32 < seP e), 0x1C),
   (seNP e == 0 || decide (256 < seNP e), 0x1E),
   (decide (seC e < 16) || decide (512 < seC e), 0x20),
   (decide (4096 < seW e), 0x22),
   (seK e == 0 || decide (64 < seK e), 0x24),
   (seQFormat e == 3 || fk == 3 || (fk == 1 && (tc == 0 || decide (4 < tc))) || (fk != 1 && tc != 0), 0x25),
   (entryAddr e 8 == 0 || entryAddr e 8 % 64 != 0, 0x08),
   (entryAddr e 0x10 % 64 != 0, 0x10),
   ((fk == 1 && (arg == 0 || arg % 64 != 0)) || (fk == 2 && arg / 2 ^ 32 != 0) ||
     (fk != 1 && fk != 2 && arg != 0), 0x28)]

/-- The facet terms of a term block (R95). -/
def termsOf (tc : Nat) (b : Bytes) : List (Nat × Nat) := (List.range tc).map fun i => (rd b (16 * i) 8, rd b (16 * i + 8) 8)

/-- Order 1, the term block: a value outside its mask, a reserved term that is not zero (R95). -/
def termChecks (e b : Bytes) : List (Bool × Nat) :=
  if seFilterKind e = 1 then
    (List.range 4).flatMap fun i =>
      let m := rd b (16 * i) 8
      let v := rd b (16 * i + 8) 8
      if i < seTermCount e then [(v &&& m != v, 0x1000 + 16 * i + 8)]
      else [(m != 0, 0x1000 + 16 * i), (v != 0, 0x1000 + 16 * i + 8)]
  else []

/-- Order 2: the index, and the allow-set over it. -/
def searchNoObject (s : State) (slot : Nat) (e : Bytes) : Bool :=
  match s.index? slot (entryObject e) with
  | none => true
  | some _ =>
    seFilterKind e == 2 &&
      (match s.set? slot (BitVec.ofNat 32 (rd e 0x28 4)) with
       | some x => x.index != entryObject e
       | none => true)

/-- The channel's key is needed and not installed here (R96, R461). -/
def keyAbsent (c : Chan) : Bool := c.encrypt && c.key.isNone

def keyRow (c : Chan) : CheckRow := { status := stKeyAbsent, broken := [(keyAbsent c, 0)] }

/-- An item palette applies to the vectors of an index (R302). -/
def State.itemPalette (s : State) (slot : Nat) (h : Handle) (a : IndexAttr) : Bool :=
  a.fmt != 2 && (match s.stream? slot h 1 with | some x => x.cur.isSome | none => false)

/-- Whether a palette of a kind is installed for an object. -/
def State.hasPalette (s : State) (slot : Nat) (h : Handle) (kind : Nat) : Bool :=
  match s.stream? slot h kind with
  | some x => x.cur.isSome
  | none => false

/-- Order 4. -/
def searchSizes (e : Bytes) (a : IndexAttr) : List (Bool × Nat) :=
  [(decide (seP e * seC e < seK e), 0x24), (seW e != 0 && decide (seW e < seK e), 0x22),
   (seWantPayload e && a.payloadLen == 0, 0x26), (decide (rd e 0x18 4 < searchSize e a.payloadLen), 0x18)]

/-- Order 5. -/
def searchVector (s : State) (slot : Nat) (e q : Bytes) (a : IndexAttr) : List (Bool × Nat) :=
  let es := hostElemSize (seQFormat e)
  let xs := hostElems (seQFormat e) (q.take (a.dim * es))
  [(!a.exactQuery && !s.hasPalette slot (entryObject e) 0, 0x04), (a.metric == 1 && xs.all (fun x => feq x f0), 0x1000)] ++
    badElems es xs

/-- The charges of a SEARCH with NP lists per region (R97), in the order of R56. -/
def searchCharges (exact : Bool) (e : Bytes) (a : IndexAttr) (np : Nat) : List Nat :=
  let u := recordUnits a
  [1, (if exact then 2 else 1) * seP e * np, 0, 0, 0,
   if seW e ≠ 0 then seWEff e * u else if seWantPayload e then seK e * u else 0]

/-- Order 6: a single charge beyond the whole share. -/
def searchShare (s : State) (c : Chan) (e : Bytes) (a : IndexAttr) : List (Bool × Nat) :=
  let ch := searchCharges s.frame.exact e a (seNP e)
  let tooBig := fun i => decide (c.shares.getD i 0 < ch.getD i 0)
  [(tooBig 0, 0x00), (tooBig 1, 0x1E), (tooBig 5, if seW e ≠ 0 then 0x22 else 0x24)]

def searchRows (s : State) (slot : Nat) (c : Chan) (e : Bytes) (bufs : List Bytes) : List BufRow :=
  [(inv (searchFields e ++ termChecks e (bufAt bufs 1)), 0x28),
   ({ status := stNoObject, broken := [(searchNoObject s slot e, 0)] }, 0), (keyRow c, 0)] ++
  (match s.index? slot (entryObject e) with
   | some x => [(inv (searchSizes e x.attr), 0), (inv (searchVector s slot e (bufAt bufs 0) x.attr), 0x08),
                (inv (searchShare s c e x.attr), 0)]
   | none => [])

/-! ### Index commands (R344, R346, R347) -/

/-- A row for a command on an index: its own fields and those that need the index, NO_OBJECT, the key. -/
def indexRows (s : State) (slot : Nat) (c : Chan) (e : Bytes) (fields : List (Bool × Nat))
    (more : IndexAttr → List (Bool × Nat)) : List BufRow :=
  match s.index? slot (entryObject e) with
  | some x => [(inv (fields ++ more x.attr), 0), (keyRow c, 0)]
  | none => [(inv fields, 0), ({ status := stNoObject, broken := [(true, 0)] }, 0)]

/-- Bytes of an UPSERT's vector as the host gives it (V_in of R343). -/
def vinBytes (a : IndexAttr) (vf : Nat) : Nat := if vf = 3 then vecBytes a.fmt a.dim else a.dim * hostElemSize vf

/-- The host vector of an UPSERT in fp32. -/
def hostVec (a : IndexAttr) (vf : Nat) (bs : Bytes) : List F32 :=
  if vf = 3 then vecElems a.fmt a.dim bs else hostElems vf (bs.take (a.dim * hostElemSize vf))

/-- The stored vector of an UPSERT without an item palette: the host's bytes in the stored form, else converted (R124). -/
def storedVec (a : IndexAttr) (vf : Nat) (bs : Bytes) : Bytes :=
  if vf = 3 then bs.take (vecBytes a.fmt a.dim) else vecStore a.fmt (hostVec a vf bs)

/-- The element size of a vector in VFORMAT. -/
def vinElem (a : IndexAttr) (vf : Nat) : Nat := if vf = 3 then (if a.fmt = 0 ∨ a.fmt = 1 then 2 else 1) else hostElemSize vf

/-- The checks of R127 at landing. Conditions on the whole vector are looked at when every element is finite (DEDUCED, log
entry 9). -/
def vectorChecks (s : State) (slot : Nat) (h : Handle) (a : IndexAttr) (vf : Nat) (bs : Bytes) : List (Bool × Nat) :=
  let palette := s.itemPalette slot h a
  let st := storedVec a vf bs
  let es := vinElem a vf
  let scaleBad := a.fmt == 2 && !(isFinite (vecScale a.dim st) && flt f0 (vecScale a.dim st))
  let bad := if palette then badElems es (hostVec a vf bs)
             else if scaleBad then [(true, 0x1000 + a.dim)] else badElems es (vecElems a.fmt a.dim st)
  bad ++ [(bad.isEmpty && !palette && !vecOk a.fmt a.dim a.metric st, 0x1000)]

def upsertRows (s : State) (slot : Nat) (c : Chan) (e : Bytes) (bufs : List Bytes) : List BufRow :=
  let vf := fld e 0x2C 0 2
  let pr := priorRegion 4 e
  indexRows s slot c e
    [stray 0 upsertLayout e, (entryKey e == padKey, 0x08),
     (entryAddr e 0x18 == 0 || entryAddr e 0x18 % 64 != 0, 0x18), (entryAddr e 0x20 % 64 != 0, 0x20)]
    (fun a => [(pr != 0xFFFFFFFF && decide (a.regions ≤ pr), 0x28), (a.fmt == 2 && vf != 3, 0x2C),
               ((a.payloadLen == 0) != (entryAddr e 0x20 == 0), 0x20)]) ++
  (match s.index? slot (entryObject e) with
   | some x => [(inv (vectorChecks s slot (entryObject e) x.attr vf (bufAt bufs 0)), 0x18)]
   | none => [])

def deleteRows (s : State) (slot : Nat) (c : Chan) (e : Bytes) : List BufRow :=
  indexRows s slot c e [stray 0 deleteLayout e, (entryKey e == padKey, 0x08)]
    (fun a => [(decide (a.regions ≤ priorRegion 5 e), 0x10)])

/-- The result size of a FETCH (R346). -/
def fetchSize (a : IndexAttr) (want : Bool) : Nat :=
  if want then 64 + ceilDiv a.payloadLen 64 * 64 + vecBytes a.fmt a.dim else 64 + a.payloadLen

def fetchRows (s : State) (slot : Nat) (c : Chan) (e : Bytes) : List BufRow :=
  indexRows s slot c e [stray 0 fetchLayout e, (entryKey e == padKey, 0x08), (entryAddr e 0x10 % 64 != 0, 0x10)]
    (fun a => [(decide (a.regions ≤ priorRegion 6 e), 0x1C),
               (decide (rd e 0x18 4 < fetchSize a (flag e 0x20 0)), 0x18)])

/-- The items of a SET_EDIT: key, region, bit (R347). -/
def editItems (n : Nat) (b : Bytes) : List (Key × Nat × Bool) :=
  (List.range n).map fun i => (BitVec.ofNat 64 (rd b (16 * i) 8), rd b (16 * i + 8) 4, flag b (16 * i + 12) 0)

/-- The conditions of one edit item; a region that the index has not is out of range (DEDUCED, log entry 9). -/
def editChecks (n regions : Nat) (b : Bytes) : List (Bool × Nat) :=
  (List.range n).flatMap fun i =>
    [stray (0x1000 + 16 * i) [(0, 0, 64), (8, 0, 32), (12, 0, 1)] (slice b (16 * i) 16),
     (decide (regions ≤ rd b (16 * i + 8) 4), 0x1000 + 16 * i + 8)]

def setEditRows (s : State) (slot : Nat) (c : Chan) (e : Bytes) (bufs : List Bytes) : List BufRow :=
  let n := rowCount 7 e
  let fields := [stray 0 setEditLayout e, (entryAddr e 8 == 0 || entryAddr e 8 % 64 != 0, 0x08),
                 (n == 0 || decide (2048 < n), 0x10)]
  match s.set? slot (entryObject e) with
  | none => [(inv fields, 0), ({ status := stNoObject, broken := [(true, 0)] }, 0)]
  | some x =>
    [(inv (fields ++ [(x.derived, 0x04)]), 0), (keyRow c, 0)] ++
    (match s.index? slot x.index with
     | some ix => [(inv (editChecks n ix.attr.regions (bufAt bufs 0)), 0x08)]
     | none => [])

/-! ### Table commands (R194, R195, R199, R200, R211) -/

/-- The row numbers of a list of n. -/
def rowNumbers (n : Nat) (b : Bytes) : List Nat := (List.range n).map fun i => rd b (4 * i) 4

/-- The first row number at or above ROWS. -/
def badRow (rows n : Nat) (b : Bytes) : List (Bool × Nat) :=
  match (rowNumbers n b).findIdx? (fun r => decide (rows ≤ r)) with
  | some i => [(true, 0x1000 + 4 * i)]
  | none => []

/-- A row for a command on a table. -/
def tableRows (s : State) (slot : Nat) (e : Bytes) (fields : List (Bool × Nat)) (more : TableAttr → List (Bool × Nat))
    (after : TableAttr → List BufRow) : List BufRow :=
  match s.table? slot (entryObject e) with
  | some t => (inv (fields ++ more t.attr), 0) :: after t.attr
  | none => [(inv fields, 0), ({ status := stNoObject, broken := [(true, 0)] }, 0)]

def lookupRows (s : State) (slot : Nat) (e : Bytes) (bufs : List Bytes) : List BufRow :=
  let n := rowCount 2 e
  tableRows s slot e
    [stray 0 lookupLayout e, (entryAddr e 8 == 0 || entryAddr e 8 % 64 != 0, 0x08), (entryAddr e 0x10 % 64 != 0, 0x10),
     (n == 0 || decide (65536 < n), 0x1C), (fld e 0x20 0 2 == 3, 0x20)]
    (fun a => [(decide (rd e 0x18 4 < 64 + n * outStride a (fld e 0x20 0 2)), 0x18)])
    (fun a => [(inv (badRow a.rows n (bufAt bufs 0)), 0x08)])

/-- Gradient i of an APPLY in fp32. -/
def gradAt (a : TableAttr) (f : Nat) (b : Bytes) (i : Nat) : List F32 :=
  let n := a.dim * hostElemSize f
  hostElems f (slice b (i * n) n)

def applyRows (s : State) (slot : Nat) (c : Chan) (e : Bytes) (bufs : List Bytes) : List BufRow :=
  let n := rowCount 3 e
  let f := fld e 0x28 0 2
  tableRows s slot e
    [stray 0 applyLayout e, (entryAddr e 8 == 0 || entryAddr e 8 % 64 != 0, 0x08),
     (entryAddr e 0x10 == 0 || entryAddr e 0x10 % 64 != 0, 0x10), (entryAddr e 0x18 % 16 != 0, 0x18),
     (!isFinite (BitVec.ofNat 32 (rd e 0x20 4)), 0x20), (n == 0 || decide (65536 < n), 0x24), (f == 3, 0x28)]
    (fun _ => [])
    (fun a => [(keyRow c, 0), (inv (badRow a.rows n (bufAt bufs 0)), 0x08),
               (inv ((!s.hasPalette slot (entryObject e) 2, 0x04) ::
                      badElems (hostElemSize f) (hostElems f ((bufAt bufs 1).take (n * a.dim * hostElemSize f)))), 0x10)])

def replaceChecks (s : State) (slot : Nat) (c : Chan) (e : Bytes) (bufs : List Bytes) : List BufRow :=
  let n := rowCount 0x0A e
  tableRows s slot e
    [stray 0 replaceLayout e, (entryAddr e 8 == 0 || entryAddr e 8 % 64 != 0, 0x08),
     (entryAddr e 0x10 == 0 || entryAddr e 0x10 % 64 != 0, 0x10), (n == 0 || decide (2048 < n), 0x18)]
    (fun _ => [])
    (fun a => [(keyRow c, 0), (inv (badRow a.rows n (bufAt bufs 0)), 0x08)])

/-! ### FENCE, SNAPSHOT, STATS (R348) -/

def fenceRows (e : Bytes) : List BufRow := [(inv [stray 0 fenceLayout e], 0)]
def snapshotRows (e : Bytes) : List BufRow := [(inv [stray 0 snapshotLayout e], 0)]

/-- Bytes that a class of R330 needs for an object of a channel; none when SELECT names nothing. -/
def statsSize (s : State) (slot : Nat) (c : Chan) (cls : Nat) (sel : Handle) : Option Nat :=
  match cls with
  | 0 => if chanHandle slot c = sel then some 128 else none
  | 2 => (s.index? slot sel).map fun x => 8 * x.attr.regions
  | 3 => (s.table? slot sel).map fun t => 40 * shardCount t.attr
  | _ => if chanHandle slot c = sel then
      some (32 * ((s.builds.filter fun b => b.slot == slot && b.running).length + (s.migs.filter fun m => m.slot == slot && m.what != 3).length))
    else none

def statsRows (s : State) (slot : Nat) (c : Chan) (e : Bytes) : List BufRow :=
  let cls := fld e 0x18 0 8
  let sel := BitVec.ofNat 32 (rd e 0x1C 4)
  [(inv [stray 0 statsLayout e, (!(cls == 0 || cls == 2 || cls == 3 || cls == 4), 0x18)], 0),
   ({ status := stNoObject, broken := [((statsSize s slot c cls sel).isNone, 0)] }, 0),
   (inv [(decide (rd e 0x10 4 < (statsSize s slot c cls sel).getD 0), 0x10)], 0)]

/-! ### All commands -/

/-- Every check of a command, its buffers read. -/
def landingRows (s : State) (slot : Nat) (c : Chan) (op : Nat) (e : Bytes) (bufs : List Bytes) : List BufRow :=
  match op with
  | 0x01 => searchRows s slot c e bufs
  | 0x02 => lookupRows s slot e bufs
  | 0x03 => applyRows s slot c e bufs
  | 0x04 => upsertRows s slot c e bufs
  | 0x05 => deleteRows s slot c e
  | 0x06 => fetchRows s slot c e
  | 0x07 => setEditRows s slot c e bufs
  | 0x08 => fenceRows e
  | 0x09 => snapshotRows e
  | 0x0A => replaceChecks s slot c e bufs
  | 0x0B => statsRows s slot c e
  | _ => [(inv [(true, 0x00)], 0)]

/-- The conditions that do not read the command's buffers, decided while those are still read: the entry's fields, OBJECT and
the key (R461); of a SEARCH with filter terms only the fields, since its terms come before OBJECT (R96). -/
def entryRow (s : State) (slot : Nat) (c : Chan) (op : Nat) (e : Bytes) : List BufRow :=
  match op with
  | 0x01 => if seFilterKind e = 1 then [(inv (searchFields e), 0)] else (searchRows s slot c e []).take 3
  | _ => (landingRows s slot c op e []).take 2

/-- The charges of a command (R97, R195, R200, R211, R344, R346, R347), in the order of R56. -/
def State.charges (s : State) (exact : Bool) (slot op : Nat) (e : Bytes) : List Nat :=
  match op with
  | 0x01 => match s.index? slot (entryObject e) with
    | some x => searchCharges exact e x.attr (seNP e)
    | none => List.replicate 6 0
  | 0x02 => [0, 0, 0, 0, rowCount 2 e, 0]
  | 0x03 => [0, 0, 0, rowCount 3 e, 0, 0]
  | 0x04 | 0x05 => [0, 0, 1, 0, 0, 0]
  | 0x06 => match s.index? slot (entryObject e) with
    | some x => [0, 0, 0, 0, 0, recordUnits x.attr]
    | none => List.replicate 6 0
  | 0x07 => [0, 0, rowCount 7 e, 0, 0, 0]
  | 0x0A => [0, 0, rowCount 0x0A e, 0, 0, 0]
  | _ => List.replicate 6 0

/-- The policed bytes besides the entry (R343). -/
def State.policedBytes (s : State) (slot op : Nat) (e : Bytes) : Nat :=
  let ix := s.index? slot (entryObject e)
  let tb := s.table? slot (entryObject e)
  match op, ix, tb with
  | 0x01, some x, _ => x.attr.dim * hostElemSize (seQFormat e) + (if seFilterKind e = 1 then 64 else 0)
  | 0x02, _, _ => 4 * rowCount 2 e
  | 0x03, _, some t => 4 * rowCount 3 e + rowCount 3 e * t.attr.dim * hostElemSize (fld e 0x28 0 2)
  | 0x04, some x, _ => vinBytes x.attr (fld e 0x2C 0 2) + x.attr.payloadLen
  | 0x07, _, _ => 16 * rowCount 7 e
  | 0x0A, _, some t => 4 * rowCount 0x0A e + rowCount 0x0A e * tableStride t.attr
  | _, _, _ => 0

end Sys2Proof.Machine
end

