-- ==== Sys2Proof/Machine/Rings.lean ====
section
/-! DEFINITION. Rings: the doorbells (R339, R340, R21), the landing of ring commands with their checks and policing (R96, R350),
and host accesses that fail (R359, R458). -/

namespace Sys2Proof.Machine

/-! ### Doorbells -/

/-- A doorbell's fields (R339). -/
def dbIndex (v : Nat) : Nat := bitsOf v 0 16
def dbRing (v : Nat) : Nat := bitsOf v 16 4
def dbKind (v : Nat) : Nat := bitsOf v 20 1
def dbSlot (v : Nat) : Nat := bitsOf v 32 7
def dbGen (v : Nat) : Nat := bitsOf v 40 8
def dbReserved (v : Nat) : Bool := bitsOf v 21 11 != 0 || bitsOf v 39 1 != 0 || bitsOf v 48 16 != 0

/-- A discarded write, counted for the channel that SLOT and GEN name, else for the function (R339). -/
def State.discardDoorbell (s : State) (fn : Nat) (named : Option Nat) : State :=
  match named with
  | some slot => s.mapChan slot fun c => { c with discards := c.discards + 1 }
  | none => { s with host := { s.host with fnDiscards := tcount s.host.fnDiscards fn 1 } }

/-- The first frame whose start is at least 20 µs after a cycle of the present frame (R21). -/
def State.eligible (s : State) (cycle : Nat) : Nat :=
  if cycle + 35000 ≤ s.frame.len * 1750 then s.frame.num + 1 else s.frame.num + 2

/-- The entries from one submission index to another land together, in ring order (R340). -/
def State.landAll (s : State) (slot ring log2 from_ n elig at_ : Nat) : State :=
  let ls := (List.range n).map fun i =>
    ({ land := s.nextLand + i, slot := slot, ring := ring, pos := (from_ + i) % 2 ^ log2, at_ := at_, elig := elig } : Landing)
  { s with landings := s.landings ++ ls, nextLand := s.nextLand + n }

/-- A submission tail in order (R340): a tail that would pass the ring's head is discarded. -/
def State.submissionTail (s : State) (fn slot ring index cycle : Nat) (r : Ring) : State :=
  let size := 2 ^ r.log2
  let waiting := (r.sqTail + size - r.sqHead) % size
  let n := (index + size - r.sqTail) % size
  if size ≤ waiting + n then s.discardDoorbell fn (some slot)
  else
    (s.landAll slot ring r.log2 r.sqTail n (s.eligible cycle) (s.frame.num * s.frame.len * 1000 + cycle * 4 / 7)).mapChan slot fun c =>
      { c with rings := setAt c.rings ring fun x => { x with sqTail := index } }

/-- A completion head in order (R340): a head beyond what has been written is discarded. -/
def State.completionHead (s : State) (fn slot ring index : Nat) (r : Ring) : State :=
  let size := 2 ^ r.log2
  let n := (index + size - r.cqHead) % size
  if r.unread < n then s.discardDoorbell fn (some slot)
  else
    s.mapChan slot fun c =>
      { c with rings := setAt c.rings ring fun x => { x with cqHead := index, unread := x.unread - n } }

/-- A doorbell write (R339). -/
def State.doorbell (s : State) (fn cycle size v : Nat) : State :=
  if size ≠ 8 then s.discardDoorbell fn none
  else
    match tget s.chans (dbSlot v) with
    | none => s.discardDoorbell fn none
    | some c =>
      if c.fn ≠ fn ∨ c.gen ≠ dbGen v then s.discardDoorbell fn none
      else
        match c.rings[dbRing v]? with
        | none => s.discardDoorbell fn (some (dbSlot v))
        | some r =>
          if c.st ≠ .active ∨ dbReserved v ∨ 2 ^ r.log2 ≤ dbIndex v then s.discardDoorbell fn (some (dbSlot v))
          else if dbKind v = 0 then s.submissionTail fn (dbSlot v) (dbRing v) (dbIndex v) cycle r
          else s.completionHead fn (dbSlot v) (dbRing v) (dbIndex v) r

/-- DOORBELL_SUBMISSION_TAIL. -/
def execDoorbellSubmissionTail (fn cycle size : Nat) (value : BitVec 64) (s : State) : Answer :=
  whenLive (fun s => s.doorbell fn cycle size value.toNat) s

/-- DOORBELL_COMPLETION_HEAD. -/
def execDoorbellCompletionHead (fn cycle size : Nat) (value : BitVec 64) (s : State) : Answer :=
  whenLive (fun s => s.doorbell fn cycle size value.toNat) s

/-! ### Landing (R96, R195, R350) -/

/-- A command refused before admission: its completion is written in its first eligible frame (R96), and it counts in REFUSED
(R355). -/
def State.refuseCmd (s : State) (c : Cmd) (status offset buf : Nat) : State :=
  (s.mapAcct c.slot fun a => { a with refused := a.refused + 1 }).settle c.land c.elig
    { status := status, frame := c.elig, result := c.failResult, detail := if status = stInvalid then offset else 0,
      detailBuf := if status = stInvalid then buf else 0, data := [] }

/-- The two token buckets (R350): the command goes on to admission, or it is POLICED. -/
def State.police (s : State) (ch : Chan) (c : Cmd) : State :=
  if ch.police then
    let l := 64 + s.policedBytes c.slot c.op c.entry + ch.bucket.overhead
    if l ≤ ch.cTok ∧ l ≤ ch.pTok then
      (s.mapChan c.slot fun x => { x with cTok := x.cTok - l, pTok := x.pTok - l }).mapCmd c.land fun x => { x with passed := true }
    else (s.mapChan c.slot fun x => { x with policed := x.policed + 1 }).refuseCmd c stPoliced 0 0
  else s.mapCmd c.land fun x => { x with passed := true }

/-- Every check of a landed command whose buffers have been read, then the buckets. -/
def State.checkCmd (s : State) (ch : Chan) (c : Cmd) (bufs : List Bytes) : State :=
  match decideBuf (landingRows s c.slot ch c.op c.entry bufs) with
  | some r => s.refuseCmd c r.1 r.2.1 r.2.2
  | none => s.police ch c

/-- A landed entry becomes a command: the submission head passes it. -/
def State.takeEntry (s : State) (l : Landing) (op : Nat) (entry : Bytes) (bufs : Option (List Bytes)) : Cmd × State :=
  let c : Cmd :=
    { land := l.land, slot := l.slot, ring := l.ring, pos := l.pos, at_ := l.at_, op := op, cid := rd entry 2 2, object := entryObject entry,
      entry := entry, bufs := bufs, elig := l.elig, passed := false, deferred := 0, adm := none, exact := false, seq := 0,
      q := none, reports := [], expect := [], target := 0xFFFFFFFF, clipped := 0, durables := [], rows := [], done := none,
      wrote := none }
  let bytes := 64 + ((bufs.getD []).map (·.length)).sum
  (c, (({ s with landings := s.landings.filter fun x => x.land != l.land, work := s.work ++ [c] }).mapChan l.slot fun x =>
    { x with rings := setAt x.rings l.ring fun r => { r with sqHead := (l.pos + 1) % 2 ^ r.log2 } }).account l.slot 6 bytes)

/-- The next landed entry of a channel, when it stands on the ring: entries are tested in landing order (R350). -/
def State.nextLanding (s : State) (slot ring : Nat) : Option Landing :=
  match s.landings.find? fun l => l.slot == slot with
  | some l => if l.ring = ring then some l else none
  | none => none

/-- A command that had landed when its channel faulted, or its node was fenced, before its entry had been read: it completes without
checks, CHANNEL_FAULT (R360) or ABANDONED (R391). -/
def State.lostLanding (s : State) (ch : Chan) (l : Landing) : Option Nat :=
  if ch.st = .faulted ∨ ch.st = .retired then some stFault
  else if s.member.fenced ∧ l.land < s.member.fenceLand then some stAbandoned
  else none

/-- A ring command lands: its entry has been read, and its buffers when `bufs` gives them. -/
def State.land (s : State) (op slot ring : Nat) (entry : Bytes) (bufs : Option (List Bytes)) : State :=
  match s.nextLanding slot ring, tget s.chans slot with
  | some l, some ch =>
    let p := s.takeEntry l op entry bufs
    match s.lostLanding ch l, bufs with
    | some st, _ => p.2.settle l.land (s.frame.num + 1) (p.1.outcome s st)
    | none, some bs => p.2.checkCmd ch p.1 bs
    | none, none =>
      (match decideBuf (entryRow p.2 slot ch op entry) with
       | some r => p.2.refuseCmd p.1 r.1 r.2.1 r.2.2
       | none => p.2)
  | _, _ => s

/-- SEARCH (R96). -/
def execSearch (slot ring : Nat) (entry : Bytes) (bufs : Option (List Bytes)) (s : State) : Answer :=
  whenLive (fun s => s.land 0x01 slot ring entry bufs) s

/-- LOOKUP (R194, R195). -/
def execLookup (slot ring : Nat) (entry : Bytes) (bufs : Option (List Bytes)) (s : State) : Answer :=
  whenLive (fun s => s.land 0x02 slot ring entry bufs) s

/-- APPLY (R199, R200). -/
def execApply (slot ring : Nat) (entry : Bytes) (bufs : Option (List Bytes)) (s : State) : Answer :=
  whenLive (fun s => s.land 0x03 slot ring entry bufs) s

/-- UPSERT (R344, R127). -/
def execUpsert (slot ring : Nat) (entry : Bytes) (bufs : Option (List Bytes)) (s : State) : Answer :=
  whenLive (fun s => s.land 0x04 slot ring entry bufs) s

/-- DELETE (R344). -/
def execDelete (slot ring : Nat) (entry : Bytes) (s : State) : Answer :=
  whenLive (fun s => s.land 0x05 slot ring entry (some [])) s

/-- FETCH (R346). -/
def execFetch (slot ring : Nat) (entry : Bytes) (s : State) : Answer :=
  whenLive (fun s => s.land 0x06 slot ring entry (some [])) s

/-- SET_EDIT (R347). -/
def execSetEdit (slot ring : Nat) (entry : Bytes) (bufs : Option (List Bytes)) (s : State) : Answer :=
  whenLive (fun s => s.land 0x07 slot ring entry bufs) s

/-- FENCE (R348): it needs no admission, and is written as soon as what landed before it is. -/
def execFence (slot ring : Nat) (entry : Bytes) (s : State) : Answer :=
  whenLive (fun s => (s.land 0x08 slot ring entry (some [])).fences) s

/-- SNAPSHOT (R348). -/
def execSnapshot (slot ring : Nat) (entry : Bytes) (s : State) : Answer :=
  whenLive (fun s => s.land 0x09 slot ring entry (some [])) s

/-- REPLACE_ROWS (R211). -/
def execReplaceRows (slot ring : Nat) (entry : Bytes) (bufs : Option (List Bytes)) (s : State) : Answer :=
  whenLive (fun s => s.land 0x0A slot ring entry bufs) s

/-- STATS (R348). -/
def execStats (slot ring : Nat) (entry : Bytes) (s : State) : Answer :=
  whenLive (fun s => s.land 0x0B slot ring entry (some [])) s

/-- Any other opcode is refused at landing (R343). -/
def execInvalidOpcode (slot ring : Nat) (entry : Bytes) (s : State) : Answer :=
  whenLive (fun s => s.land 0x00 slot ring entry (some [])) s

/-- A command whose buffers are still read. -/
def State.reading (s : State) (slot ring pos : Nat) : Option Cmd :=
  s.work.find? fun c => c.slot == slot && c.ring == ring && c.pos == pos && c.bufs.isNone && c.done.isNone && c.open

/-- The buffers' reads are complete: the checks are made (R94, R195). -/
def State.bufferDone (s : State) (slot ring pos : Nat) (bufs : List Bytes) : State :=
  match s.reading slot ring pos, tget s.chans slot with
  | some c, some ch =>
    let s1 := (s.mapCmd c.land fun x => { x with bufs := some bufs }).account slot 6 ((bufs.map (·.length)).sum)
    s1.checkCmd ch { c with bufs := some bufs } bufs
  | _, _ => s

/-- HOST_BUFFER_READ_DONE. -/
def execHostBufferReadDone (slot ring pos : Nat) (bufs : List Bytes) (s : State) : Answer :=
  whenLive (fun s => s.bufferDone slot ring pos bufs) s

/-- A failed write is no completion written: when the ring had no other one in the frame its vector is not due (R321). -/
def State.unsignal (s : State) (slot ring : Nat) : State :=
  if (s.work.filter fun c => c.slot == slot && c.ring == ring && c.wrote.isSome).length ≤ 1 then
    s.mapChan slot fun c => { c with rings := setAt c.rings ring fun r => { r with intDue := false } }
  else s

/-- A host access that failed: an entry's read or a completion's, result's or report's write faults the channel (R359), a
buffer's read ends its command INVALID (R458), an event record's write drops the record (R349). The outcome of a parameter
block's read stands in the mailbox command itself (log entry 1). -/
def State.accessFailed (s : State) (slot : Nat) (what : AccessFail) : State :=
  match what with
  | .entryRead ring => if (tget s.chans slot).isSome then s.fault slot 2 ring else s
  | .write ring => if (tget s.chans slot).isSome then (s.unsignal slot ring).fault slot 2 ring else s
  | .buffer ring pos field byte =>
    (match s.reading slot ring pos with
     | some c => s.refuseCmd c stInvalid (min (0x1000 + byte) 0xFFFFFFFE) field
     | none => s)
  | .event fn => { s with evRings := tmap s.evRings fn fun r => { r with dropped := r.dropped + 1 } }
  | .mailbox _ _ => s

/-- HOST_ACCESS_FAILED. -/
def execHostAccessFailed (slot : Nat) (what : AccessFail) (s : State) : Answer :=
  whenLive (fun s => s.accessFailed slot what) s

end Sys2Proof.Machine
end

