-- ==== Sys2Proof/Machine/Accept.lean ====
section
/-! DEFINITION. What a node does with a message that has reached it (R101, R106, R113, R196, R201, R205, R346, R394 to R396,
R208): the place each message takes until its consuming window opens (R120). A message is kept once; a late one finds its
stage past and does nothing. -/

namespace Sys2Proof.Machine

/-- KIND and CLASS of a message (R286). -/
def msgKind : Msg → Nat × Nat
  | .scatter _ => (2, 2)
  | .cands _ => (4, 2)
  | .rerank _ => (5, 2)
  | .locals _ => (6, 2)
  | .fetchReq .. => (5, 2)
  | .fetchRec .. => (6, 2)
  | .lookupReq .. => (7, 2)
  | .lookupRows .. => (8, 2)
  | .update u =>
    match u.body with
    | .upsert .. => (10, 3)
    | .delete .. | .setEdit .. => (9, 3)
    | .apply .. => (12, 3)
    | .replace .. | .bound .. => (13, 3)
  | .bits .. | .withdraw .. | .moved .. => (9, 3)
  | .itemAt .. => (14, 3)
  | .report .. | .ack .. | .receipt .. | .announce .. | .durable .. | .event .. => (14, 3)
  | .move _ _ => (15, 4)
  | .resend .. => (16, 3)
  | .mirrorPacket .. | .mirrorCmd .. | .mirrorFetch .. | .mirrorEnd .. | .shadowCopy _ | .shadowInbox .. | .shadowOutbox .. => (15, 4)

/-- The 32 bytes of a candidate, re-rank or ranked entry (R107). -/
def candBytes (c : Cand) : Bytes :=
  toLe 8 c.key.toNat ++ toLe 4 c.ordinal ++ toLe 4 c.orderKey ++ toLe 4 (c.region % 2 ^ 18 + c.list % 2 ^ 13 * 2 ^ 18) ++
  toLe 4 (c.slot % 2 ^ 24) ++ toLe 4 c.score.toNat ++
  toLe 4 ((if c.exact then 1 else 0) + (if c.est then 2 else 0) + (if c.tie then 4 else 0) + (if c.rescored then 8 else 0) +
    (if c.noPay then 16 else 0) + c.owner % 1024 * 32)

/-- A message's payload as bytes: what the spec gives no layout for is a free value (log entry 91), then its candidate entries. -/
def payloadBytes : Msg → Bytes
  | .cands m => Config.payload (.cands { m with cands := [] }) ++ m.cands.flatMap candBytes
  | .rerank m => Config.payload (.rerank { m with entries := [] }) ++ m.entries.flatMap candBytes
  | .locals m => Config.payload (.locals { m with top := [] }) ++ m.top.flatMap candBytes ++ m.top.flatMap (·.payload)
  | m => Config.payload m

/-- Payload bytes of a message: 16 for its identification and each part at the width of its fields; the spec gives no layout
for most messages (DESIGN CHOICE, log entry 11). -/
def msgBytes : Msg → Nat
  | .scatter m => 32 + 8 * m.routes.length + m.query.length + 2
  | .cands m => 16 + 8 * m.covered.length + 32 * m.cands.length
  | .rerank m => 16 + 32 * m.entries.length
  | .locals m => 32 + (m.top.map fun c => 32 + c.payload.length).sum
  | .fetchReq .. => 48
  | .fetchRec _ _ _ _ _ p v => 32 + p.length + v.length
  | .lookupReq _ _ _ _ _ _ rows => 32 + 8 * rows.length
  | .lookupRows _ _ _ _ rows => 16 + (rows.map fun r => 4 + r.2.length).sum
  | .update u => 32 + (match u.body with
    | .upsert _ _ v p _ _ => 24 + v.length + p.length
    | .delete _ _ => 12
    | .setEdit _ es => 16 * es.length
    | .apply _ cs => (cs.map fun c => 8 + c.2.2.length + 2).sum
    | .replace _ rows => (rows.map fun r => 4 + r.2.length).sum
    | .bound _ _ v _ _ => 20 + v.length)
  | .report .. => 32
  | .ack .. => 32
  | .receipt _ _ _ _ _ cs _ => 40 + 4 * cs.length
  | .announce _ _ => 32
  | .durable .. => 16
  | .event .. => 32
  | .bits _ _ _ _ _ _ sets => 32 + 8 * sets.length
  | .withdraw .. | .itemAt .. => 32
  | .moved _ _ _ _ _ _ _ _ _ v p sets => 48 + v.length + p.length + 8 * sets.length
  | .move _ m => 32 + (match m with
    | .centroids _ _ _ ls => (ls.map fun l => 2 * l.2.length).sum
    | .extent _ _ _ _ _ _ c ss => 2 * c.length + 292 * ss.length
    | .records _ _ _ rs => (rs.map fun r => 8 + r.2.2.length).sum
    | .rows _ _ _ _ rs => (rs.map fun r => 8 + r.2.2.length).sum
    | .forward _ _ rs => (rs.map fun r => 8 + 4 * r.2.2.length).sum
    | .accepted _ => 0
    | .staging _ _ is => (is.map fun i => 20 + i.2.2.2.1.length + i.2.2.2.2.length).sum
    | .trained _ _ _ ls => (ls.map fun l => 2 * l.length).sum)
  | .resend _ _ gs => 16 + 4 * gs.length
  | .mirrorPacket _ _ _ m _ _ _ => 36 + msgBytes m
  | .mirrorCmd _ c => 64 + c.entry.length + ((c.bufs.getD []).map List.length).sum
  | .mirrorFetch .. => 32
  | .mirrorEnd .. => 16
  | .shadowCopy c => 64 + c.cells.length + (c.recs.map fun r => r.2.length).sum
  | .shadowInbox _ m | .shadowOutbox _ _ _ m => 16 + msgBytes m

/-- The admitted command with an admission sequence number changed; the numbers rise without restarting (log entry 5). -/
def State.mapSeq (s : State) (seq : Nat) (f : Cmd → Cmd) : State :=
  { s with work := s.work.map fun c => if c.seq = seq ∧ c.adm.isSome then f c else c }

/-- The query part of a command changed. -/
def Cmd.mapQ (c : Cmd) (f : Query → Query) : Cmd := { c with q := c.q.map f }

/-- A scattered query taken up at its owner; a second copy is dropped. -/
def State.acceptScatter (s : State) (m : Scatter) : State :=
  if s.ownerQs.any fun q => q.sc.home == m.home && q.sc.seq == m.seq && q.sc.slot == m.slot then s
  else
    let q : OwnerQ :=
      { sc := m, frame := s.frame.num, chosen := [], sketch := 0, routed := false, scanned := false, rerank := none, fetchAt := 0,
        cutOff := false, media := false, reads := [], beyond := [], planned := false, ranked := [], layer := 0, rows := [] }
    { s with ownerQs := s.ownerQs ++ [q] }

/-- An acknowledgement kept once (R395). -/
def State.acceptAck (s : State) (a : Ack) : State :=
  if s.member.acks.contains a then s else { s with member := { s.member with acks := s.member.acks ++ [a] } }

/-- A receipt kept once (R396). -/
def State.acceptReceipt (s : State) (r : Receipt) : State :=
  if s.member.receipts.contains r then s else { s with member := { s.member with receipts := s.member.receipts ++ [r] } }

/-- An announcement kept until step 4 of the commit window of its frame (R62, R394). -/
def State.acceptAnnounce (s : State) (frame : Nat) (a : Announce) : State :=
  if s.member.announced.contains (frame, a) then s
  else { s with member := { s.member with announced := s.member.announced ++ [(frame, a)] } }

/-- A replica's checkpoint pass has made an APPLY durable there (R209); after the last one it is durable from the next
frame. -/
def State.volDurable (s : State) (seq owner : Nat) : State :=
  let f := fun (v : Vol) =>
    if v.seq = seq ∧ v.due.isNone then
      (let rest := v.expect.filter (· != owner)
       if rest.isEmpty then { v with due := some (s.frame.num), expect := [] } else { v with expect := rest })
    else v
  { s with chans := s.chans.map fun p => (p.1, { p.2 with volatile := p.2.volatile.map f }) }

/-- Bits that came with an item are staged for the commit window of its slot (R76). -/
def State.acceptBits (s : State) (slot : Nat) (object : Handle) (region : Nat) (key : Key) (next : Bool) (adm : Nat)
    (sets : List (Handle × Bool)) : State :=
  let at_ := s.staged.find? fun y => match y.item with
    | .slot n o r _ sl _ _ => n == slot && o == object && r == region && sl.key == key
    | _ => false
  let now := s.frame.num + (if s.frame.committed then 1 else 0) + (if s.frame.exact then 1 else 0)
  let hold := match at_ with | some y => y.hold | none => now
  { s with staged := s.staged ++ sets.map fun p =>
      { hold := hold, due := hold, home := 0x3FF, seq := 2 ^ 32, next := next, adm := adm, item := .bit slot p.1 region key p.2 } }

/-- Tombstones of a refused UPSERT withdrawn (R70, R78). -/
def State.acceptWithdraw (s : State) (home seq slot : Nat) (object : Handle) : State :=
  { s with staged := s.staged.filter fun y => !(y.home == home && y.seq == seq && (match y.item with
      | .tomb n o _ _ _ => n == slot && o == object
      | _ => false)) }

/-- What a target mirrors waits at its shadow for the run of its frame (R409). -/
def State.mirrorIn (s : State) (m : Msg) : State :=
  { s with member := { s.member with shadow := s.member.shadow.map fun x => { x with inputs := x.inputs ++ [m] } } }

/-- The charges of re-issues already accepted for a frame (R108). -/
def Chan.reissued (c : Chan) (frame : Nat) : List Nat :=
  (c.reissues.filter fun r => r.1 == frame).foldl (fun a r => addL a r.2) (List.replicate 6 0)

/-- Whether a channel's work of the frame, and the re-issues that coming frames owe it, lie within its shares (R58, R108). -/
def Chan.inShares (c : Chan) : Bool := leL c.homeUsed c.shares && c.reissues.all fun r => leL (c.reissued r.1) c.shares

/-- A channel of a copy: nothing beyond its shares is taken over. -/
def Chan.copied (c : Chan) : Chan := if c.inShares then c else { c with homeUsed := List.replicate 6 0, reissues := [] }

/-- The copy of its target that a shadow begins to run with (R409), from the frame after its arrival's. -/
def State.takeCopy (s : State) (c : Machine.ShadowCopy) : State :=
  match s.member.shadow with
  | none => s
  | some x =>
    { s with
      frame := { s.frame with seq := c.seq }, nextLand := c.land
      chans := c.chans.map fun p => (p.1, p.2.copied), work := c.work, ownerQs := c.ownerQs, ownerFs := c.ownerFs, updIn := c.updIn, heldUpd := c.heldUpd
      staged := c.staged, durs := c.durs, listOps := c.listOps, indexes := c.indexes, sets := c.sets, tables := c.tables
      graphs := c.graphs, streams := c.streams, builds := c.builds, inbox := [], outbox := []
      dram := { s.dram with mem := c.cells.foldl (fun m p => memWrite m p.1 p.2) s.dram.mem }
      flash := { s.flash with recs := c.recs, keys := c.keys, folios := c.folios, openFolio := c.open_ }
      member := { s.member with holdings := c.holdings, shadow := some { x with copied := true, since := c.frame, inputs := [] } } }

/-- A message that has reached this node takes its place; a shadow's copy is taken up only from a packet (`State.consume`). -/
def State.accept (s : State) : Msg → State
  | .scatter m => s.acceptScatter m
  | .cands m =>
    s.mapSeq m.seq fun c => c.mapQ fun q =>
      if 3 ≤ q.step ∨ (q.cands.any fun x => x.owner == m.owner) then q else { q with cands := q.cands ++ [m] }
  | .rerank m =>
    { s with ownerQs := s.ownerQs.map fun q =>
        if q.sc.home = m.home ∧ q.sc.seq = m.seq ∧ q.rerank.isNone then
          { q with rerank := some m, fetchAt := s.frame.num + 1, planned := false, reads := [], beyond := [], ranked := [],
                   layer := 0, rows := [], cutOff := false, media := false }
        else q }
  | .locals m =>
    s.mapSeq m.seq fun c => c.mapQ fun q =>
      if (q.locals.filter fun x => x.owner == m.owner).length < (q.sent.filter fun x => x.1 == m.owner).length then
        { q with locals := q.locals ++ [m] }
      else q
  | .fetchReq home seq slot object snapshot key region vec span =>
    let q : OwnerF :=
      { home := home, seq := seq, slot := slot, object := object, snapshot := snapshot, key := key, region := region,
        vec := vec, span := span, fetchAt := s.frame.num + 1, state := 0 }
    { s with ownerFs := s.ownerFs ++ [q] }
  | .fetchRec _ seq status found facet payload vec =>
    s.mapSeq seq fun c => c.mapQ fun q => { q with rec? := some (status, found, facet, payload, vec) }
  | .lookupReq home seq slot object snapshot fmt rows =>
    { s with inbox := s.inbox ++ [(s.frame.num, .lookupReq home seq slot object snapshot fmt rows)] }
  | .lookupRows _ seq owner cut rows =>
    s.mapSeq seq fun c =>
      { c with rows := c.rows ++ rows,
               reports := c.reports ++ [(owner, if cut then stCutOff else stOk, rows.length, 0, 0)] }
  | .update u => { s with updIn := s.updIn ++ [(s.frame.num, u)] }
  | .report _ seq owner status accepted dropped found =>
    s.mapSeq seq fun c => { c with reports := c.reports ++ [(owner, status, accepted, dropped, found)] }
  | .ack owner slot object region frame =>
    s.acceptAck { owner := owner, slot := slot, object := object, region := region, frame := frame }
  | .receipt owner slot object region frame counts digest =>
    s.acceptReceipt { owner := owner, slot := slot, object := object, region := region, frame := frame, counts := counts,
                      digest := digest }
  | .announce frame a => s.acceptAnnounce frame a
  | .durable _ seq owner => (s.mapSeq seq fun c => { c with durables := insNat owner c.durables }).volDurable seq owner
  | .event slot object region list kind into e0 e =>
    { s with listOps := s.listOps ++
        [{ slot := slot, object := object, region := region, list := list, kind := kind, frame := e0, into := into, event := some e,
           ready := none }] }
  | .bits slot object region key next adm sets => s.acceptBits slot object region key next adm sets
  | .withdraw home seq slot object =>
    { s.acceptWithdraw home seq slot object with inbox := s.inbox ++ [(s.frame.num, .withdraw home seq slot object)] }
  | .moved home seq slot object region prior key adm facet vec payload sets =>
    { s with inbox := s.inbox ++ [(s.frame.num, .moved home seq slot object region prior key adm facet vec payload sets)] }
  | .itemAt slot object row region =>
    { s with tables := tmap s.tables (objKey slot object) fun t => { t with items := tput t.items row region } }
  | .move _ (.accepted id) =>
    { s with migs := s.migs.map fun m => if m.id = id ∧ m.source then { m with accepted := true } else m }
  | .move d m => { s with inbox := s.inbox ++ [(s.frame.num, .move d m)] }
  | .resend _ _ _ => s
  | .shadowCopy _ => s
  | .shadowInbox frame m => if s.member.shadow.isSome then { s with inbox := s.inbox ++ [(frame, m)] } else s
  | .shadowOutbox frame dst slot m => if s.member.shadow.isSome then { s with outbox := s.outbox ++ [(frame, dst, slot, m)] } else s
  | .mirrorPacket frame cycle src m groups gen lenOk => s.mirrorIn (.mirrorPacket frame cycle src m groups gen lenOk)
  | .mirrorCmd frame c => s.mirrorIn (.mirrorCmd frame c)
  | .mirrorFetch frame home seq slot key o => s.mirrorIn (.mirrorFetch frame home seq slot key o)
  | .mirrorEnd frame n => s.mirrorIn (.mirrorEnd frame n)

end Sys2Proof.Machine
end

