-- ==== Sys2Proof/Machine/Fabric.lean ====
section
/-! DEFINITION. The fabric: egress by the relay table (R283), packets and their checks (R285 to R288, R309, R312, R313), gate
granules and parts (R288, R292, R295), the retry slot (R287), and the commands PACKET_RECEIVED, NEGATIVE_ACK,
RETRANSMIT_TIMEOUT, GROUP_RESEND_REQUEST, GATE_ENTRY_OPEN and LINK_CONTROL_SYMBOLS. -/

namespace Sys2Proof.Machine

/-! ### Ports -/

/-- A port changed. -/
def State.mapPort (s : State) (p : Nat) (f : Port → Port) : State := { s with ports := setAt s.ports p f }

/-- A port by number. -/
def State.port (s : State) (p : Nat) : Port := s.ports.getD p Port.reset

/-- ENCRYPTED (R312): both ends hold the same key. -/
def Port.encrypted (p : Port) : Bool := p.key.isSome && p.partnerKey == p.key

/-- Time of the present cycle in ns, counted from frame 0. -/
def State.nowNs (s : State) : Nat := s.frame.num * s.frame.len * 1000 + s.frame.cycle * 4 / 7

/-- The port by which a packet for a logical ID leaves (R283). -/
def State.egress (s : State) (dst : Nat) : Option Nat :=
  let e := tgetD s.member.relay dst 0x00FF
  let p := e % 16
  let a := e / 16 % 16
  if p < 8 ∧ s.portUp p then some p else if p < 8 ∧ a < 8 ∧ s.portUp a then some a else none

/-- Groups of a palette stream of n bytes (R308). -/
def groupCount (n : Nat) : Nat := ceilDiv (ceilDiv n 64 * 64) 1024

/-- Bytes of group g of a palette stream of n bytes, its CRC-16 included (R308). -/
def groupBytes (n g : Nat) : Nat := min 1024 (ceilDiv n 64 * 64 - 1024 * g) + 2

/-- Bytes on the wire of so many groups of a palette stream, three to a packet behind its 16 bytes, at so many bytes of header, CRC and
tag per packet (R285, R308, R312). -/
def palWireBytes (extra n : Nat) (gs : List Nat) : Nat := (gs.map (groupBytes n)).sum + (16 + extra) * ceilDiv gs.length 3

/-- The vectors' part of a message that carries a palette stream, in the bytes that msgBytes counts for it. -/
def msgVectors : Msg → Nat
  | .scatter m => m.query.length + 2
  | .update u => (match u.body with
      | .upsert _ _ v _ _ _ => v.length
      | .apply _ cs => (cs.map fun c => c.2.2.length + 2).sum
      | _ => 0)
  | _ => 0

/-- Bytes of a packet's message on the wire: headers, CRCs and tags included (R285, R312); a message longer than 4,096
bytes takes several packets, counted together (log entry 11). What goes as a palette stream is counted as R308 lays it out. -/
def wireBytes (enc : Bool) (p : Packet) : Nat :=
  let extra := if enc then 36 else 20
  let n := msgBytes p.msg - (if p.stream = 0 then 0 else msgVectors p.msg)
  n + extra * max 1 (ceilDiv n 4096) + (if p.stream = 0 then 0 else palWireBytes extra p.stream (p.groups.map (·.1)))

/-- Bytes that a gate entry offers on a port (R292). -/
def Port.offers (p : Port) (e : GateEntry) : Nat := (e.dur - e.retry) * 50 * popCount 4 p.lanes

/-- A channel's part of an amount of bytes on a port, or the node's remainder (R288). -/
def State.partOf (s : State) (port total : Nat) (part : Option Nat) : Nat :=
  let gt := s.portGate port
  let share := fun (c : Chan) => if gt = 0 then 0 else total * c.gateGran / gt
  match part with
  | some n => match tget s.chans n with | some c => share c | none => 0
  | none => total - (s.chans.map fun p => share p.2).sum

/-- Bytes of the relay buffer that a part has (R288). -/
def State.bufferOf (s : State) (port : Nat) (part : Option Nat) : Nat :=
  match part with
  | none => 524288
  | some n =>
    let gt := s.portGate port
    match tget s.chans n with | some c => if gt = 0 then 0 else 3670016 * c.gateGran / gt | none => 0

/-- Some gate entry of the port opens the packet's class with a part that holds it (R288). -/
def State.fitsSomeEntry (s : State) (port : Nat) (part : Option Nat) (p : Packet) : Bool :=
  (s.gateList port).any fun e =>
    hasBit e.opens p.hdr.cls && decide (wireBytes (s.port port).encrypted p ≤ s.partOf port ((s.port port).offers e) part)

/-- A packet discarded at a port (R283, R288), counted for its channel too. -/
def State.dropAt (s : State) (port : Nat) (part : Option Nat) : State :=
  let s1 := s.mapPort port fun p => { p with drops := p.drops + 1 }
  match part with
  | some n => s1.mapAcct n fun a => { a with fabRefused := a.fabRefused + 1 }
  | none => s1

/-- A packet put into its part at an egress port: refused beyond the channel's granules (R295), beyond the relay buffer's
part, or when no entry can carry it (R288). -/
def State.enqueue (s : State) (port : Nat) (relayed : Bool) (p : Packet) : State :=
  let part := if p.hdr.node then none else some p.hdr.slot
  let n := wireBytes (s.port port).encrypted p
  let refusal := match part with
    | some c =>
      (match tget s.chans c with
        | some ch => decide (ch.gateGran * 4096 < tgetD (s.port port).sent c 0 + n)
        | none => true)
    | none => false
  let waiting := (((s.port port).queue.filter fun q => q.relayed && q.part == part).map fun q =>
    wireBytes (s.port port).encrypted q.pkt).sum
  if refusal then
    match part with
    | some c => s.mapAcct c fun a => { a with fabRefused := a.fabRefused + 1 }
    | none => s
  else if (relayed && decide (s.bufferOf port part < waiting + n)) || !s.fitsSomeEntry port part p then s.dropAt port part
  else
    let q : Queued := { part := part, relayed := relayed, at_ := s.nowNs, pkt := p }
    s.mapPort port fun x =>
      { x with queue := x.queue ++ [q],
               sent := match part with | some c => tput x.sent c (tgetD x.sent c 0 + n) | none => x.sent }

/-- The header of a message that this node originates (R285). -/
def State.header (s : State) (dst : Nat) (slot : Option Nat) (m : Msg) : Header :=
  let fn := match slot with | some n => (match tget s.chans n with | some c => c.fn | none => 0) | none => 0
  { cls := (msgKind m).2, kind := (msgKind m).1, src := s.frame.logicalId, dst := dst, hops := 15, len := min 4096 (msgBytes m),
    slot := slot.getD 0, fn := fn, node := slot.isNone, frame := s.frame.num % 2 ^ 32, seq := 0 }

/-- The palette part of a message: stream bytes, object and kind (R302, R308); none for a raw message. -/
def palStream (s : State) : Msg → Option (Nat × Nat × Handle × Nat)
  | .scatter m =>
    match s.index? m.slot m.object with
    | some x => if x.attr.exactQuery then none else some (m.slot, palBytes false x.attr.dim, m.object, 0)
    | none => none
  | .update u =>
    match u.body with
    | .upsert .. =>
      (match s.index? u.slot u.object with
        | some x => if x.attr.fmt = 2 then none else some (u.slot, palBytes false x.attr.dim, u.object, 1)
        | none => none)
    | .apply _ cs =>
      (match s.table? u.slot u.object with
        | some t => some (u.slot, cs.length * palBytes t.attr.gradP4 t.attr.dim, u.object, 2)
        | none => none)
    | _ => none
  | _ => none

/-- The generation that a stream compresses with in this frame (R304): the newest published before it. -/
def State.palGen (s : State) (slot : Nat) (object : Handle) (kind : Nat) : Option Palette :=
  match s.stream? slot object kind with
  | some x =>
    (match x.cur with
      | some p => if p.pub < s.frame.num ∨ s.frame.committed then some p else x.prev
      | none => none)
  | none => none

/-- A message as a packet of this node. -/
def State.packetOf (s : State) (dst : Nat) (slot : Option Nat) (m : Msg) : Packet :=
  match palStream s m with
  | some (n, bytes, object, kind) =>
    (match s.palGen n object kind with
      | some g => { hdr := s.header dst slot m, msg := m, groups := (List.range (groupCount bytes)).map fun i => (i, true),
                    gen := some (g.gen, kind), lenOk := true, stream := bytes }
      | none => { hdr := s.header dst slot m, msg := m, groups := [], gen := none, lenOk := true })
  | none => { hdr := s.header dst slot m, msg := m, groups := [], gen := none, lenOk := true }

/-- One packet leaves: it gets its link SEQ, a copy is kept (R287), an originated one is counted at its first hop (R355). -/
def State.putOut (s : State) (port : Nat) (q : Queued) : State :=
  let x := s.port port
  let pk : Packet := { q.pkt with hdr := { q.pkt.hdr with seq := x.txSeq } }
  let s1 := s.mapPort port fun y =>
    { y with txSeq := (y.txSeq + 1) % 2 ^ 32, nonce := if y.key.isSome then y.nonce + 1 else y.nonce,
             kept := y.kept ++ [(pk, false, false)],
             palSent := if pk.gen.isSome && !q.relayed then y.palSent ++ [pk] else y.palSent }
  let s2 := s1.emit (.packet port pk)
  match q.part, q.relayed with
  | some c, false => s2.account c 5 (wireBytes x.encrypted pk)
  | _, _ => s2

/-- The shadow of this node, when a logical ID is it (R409). -/
def State.mirrorTo (s : State) (dst : Nat) : Option Mirror := s.member.mirror.filter fun x => x.shadow == dst

/-- A packet on its way by the relay table; one without a port is discarded and counted at P0's PRIMARY (R283). What
goes to this node's shadow leaves by their port at once: class 4 is open there in all time outside the control slot (R409). -/
def State.forwardPacket (s : State) (relayed : Bool) (p : Packet) : State :=
  match s.mirrorTo p.hdr.dst with
  | some x => s.putOut x.port { part := none, relayed := relayed, at_ := s.nowNs, pkt := p }
  | none =>
    match s.egress p.hdr.dst with
    | some q => s.enqueue q relayed p
    | none =>
      let e := tgetD s.member.relay p.hdr.dst 0x00FF % 16
      s.dropAt (if e < 8 then e else 0) none

/-- A message sent to a logical ID: taken up here when it is this node's own (R283), else put out as a packet. -/
def State.send (s : State) (dst : Nat) (slot : Option Nat) (m : Msg) : State :=
  if dst = s.frame.logicalId then s.accept m
  else
    let s1 := if 2 ≤ (msgKind m).2 ∧ (msgKind m).2 ≤ 4 then { s with member := { s.member with sends := s.member.sends ++ [(dst, m)] } } else s
    s1.forwardPacket false (s1.packetOf dst slot m)

/-- A message to every node of the array but this one, and to this one (R394). -/
def State.sendAll (s : State) (m : Msg) : State :=
  ((List.range 576).filter fun d => d != s.frame.logicalId && (s.egress d).isSome).foldl (fun acc d => acc.send d none m)
    (s.accept m)

/-! ### The mirror of a shadowed node (R409) -/

/-- Bytes that a port mirrors in a frame: 40 MB at 200 µs (R411). -/
def State.mirrorRoom (s : State) : Nat := 200000 * s.frame.len

/-- The mirror changed. -/
def State.mapMirror (s : State) (f : Mirror → Mirror) : State :=
  { s with member := { s.member with mirror := s.member.mirror.map f } }

/-- A message that goes to the shadow. -/
def State.toShadow (s : State) (m : Msg) : State :=
  match s.member.mirror with
  | some x => s.forwardPacket false { hdr := s.header x.shadow none m, msg := m, groups := [], gen := none, lenOk := true }
  | none => s

/-- One input or outcome mirrored, while the frame's mirror fits the port. -/
def State.mirrorOut (s : State) (m : Msg) : State :=
  match s.member.mirror with
  | none => s
  | some x =>
    if !x.live || x.full then s
    else if s.mirrorRoom < x.sent + msgBytes m + 20 then s.mapMirror fun y => { y with full := true }
    else (s.mapMirror fun y => { y with sent := y.sent + msgBytes m + 20, count := y.count + 1 }).toShadow m

/-- A packet of classes 2 to 4 that this node consumes, mirrored. -/
def State.mirrorPacket (s : State) (p : Packet) : State :=
  if 2 ≤ p.hdr.cls ∧ p.hdr.cls ≤ 4 then
    s.mirrorOut (.mirrorPacket s.frame.num s.frame.cycle p.hdr.src p.msg p.groups p.gen p.lenOk)
  else s

/-! ### Gate entries -/

/-- Which waiting packets of one part fit, in the order of R288: lower class first, relayed packets first within it, then in
order of arrival; the first that does not fit ends the part (DEDUCED, log entry 12). -/
def takeFit (enc : Bool) (budget : Nat) : List Queued → List Queued
  | [] => []
  | q :: r => if wireBytes enc q.pkt ≤ budget then q :: takeFit enc (budget - wireBytes enc q.pkt) r else []

/-- The order of a part's packets. -/
def queuedBefore (a b : Queued) : Bool :=
  decide (a.pkt.hdr.cls < b.pkt.hdr.cls) ||
  (a.pkt.hdr.cls == b.pkt.hdr.cls && ((a.relayed && !b.relayed) || (a.relayed == b.relayed && decide (a.at_ < b.at_))))

/-- The port that carries only the traffic of a shadow (R409). -/
def State.shadowPort (s : State) : Option Nat := (s.member.mirror.map (·.port)).or (s.member.shadow.map (·.port))

/-- A gate entry opens: each part's packets leave within its bytes, node part first, then the channels in ascending slot
(R288); the retry slot's bytes are set (R292). In STANDBY, and at a fenced node,
classes 2 to 4 are closed (R294, R391); no entry opens the port of a shadow (R409). -/
def State.gateOpen (s : State) (port : Nat) (e : GateEntry) : State :=
  if !s.portUp port || decide (3 ≤ s.power.state) || s.member.fenced || s.shadowPort == some port then s
  else
    let x := s.port port
    let parts : List (Option Nat) := none :: s.chans.map fun p => some p.1
    let chosen := parts.flatMap fun pt =>
      takeFit x.encrypted (s.partOf port (x.offers e) pt)
        (sortBy queuedBefore (x.queue.filter fun q => q.part == pt && hasBit e.opens q.pkt.hdr.cls))
    let s1 := s.mapPort port fun y =>
      { y with queue := y.queue.filter fun q => !chosen.contains q,
               kept := [], retryLeft := e.retry * 50 * popCount 4 y.lanes }
    chosen.foldl (fun acc q => acc.putOut port q) s1

/-- The entry of a port's list that opens. -/
def execGateEntryOpen (port entry : Nat) (s : State) : Answer :=
  whenLive (fun s => match (s.gateList port)[entry]? with | some e => s.gateOpen port e | none => s) s

/-- A kept copy sent again in the retry slot, at most once; a copy that has been resent, or does not fit, is lost and
counted (R287). -/
def State.resendCopy (s : State) (port seq : Nat) : State :=
  let x := s.port port
  match x.kept.find? fun k => k.1.hdr.seq == seq with
  | none => s
  | some (pk, again, _) =>
    let n := wireBytes x.encrypted pk
    if again || decide (x.retryLeft < n) then
      s.mapPort port fun y => { y with overflow := y.overflow + 1, kept := y.kept.filter fun k => k.1.hdr.seq != seq }
    else
      let s1 := s.mapPort port fun y =>
        { y with retries := y.retries + 1, retryLeft := y.retryLeft - n, nonce := if y.key.isSome then y.nonce + 1 else y.nonce,
                 kept := y.kept.map fun k => if k.1.hdr.seq = seq then (k.1, true, k.2.2) else k }
      let s2 := s1.emit (.packet port pk)
      if pk.hdr.node || pk.hdr.src != s.frame.logicalId then s2 else s2.account pk.hdr.slot 5 n

/-- A negative acknowledgement (R287). -/
def execNegativeAck (port seq : Nat) (s : State) : Answer := whenLive (fun s => s.resendCopy port seq) s

/-- No acknowledgement within 2 × LINK_DELAY_NS + 100 ns (R287). -/
def execRetransmitTimeout (port seq : Nat) (s : State) : Answer := whenLive (fun s => s.resendCopy port seq) s

/-- The groups that a request names are sent again as a new packet with the same prefix (R309), on the port that sent the
message. -/
def State.resendGroups (s : State) (port dst : Nat) (object : Handle) (gen : Nat) (groups : List Nat) : State :=
  let x := s.port port
  match x.palSent.find? fun p => p.hdr.dst == dst && (match p.gen with | some g => g.1 == gen | none => false) &&
      (match p.msg with | .scatter m => m.object == object | .update u => u.object == object | _ => false) with
  | none => s
  | some p =>
    let gs := p.groups.filter fun g => groups.contains g.1
    let pk : Packet := { p with groups := gs, hdr := { p.hdr with seq := x.txSeq } }
    let n := palWireBytes (if x.encrypted then 36 else 20) p.stream (gs.map (·.1))
    if x.retryLeft < n then s.mapPort port fun y => { y with overflow := y.overflow + 1 }
    else
      let s1 := s.mapPort port fun y =>
        { y with txSeq := (y.txSeq + 1) % 2 ^ 32, groupResends := y.groupResends + BitVec.ofNat 32 gs.length,
                 retryLeft := y.retryLeft - n, nonce := if y.key.isSome then y.nonce + 1 else y.nonce }
      (s1.emit (.packet port pk)).account pk.hdr.slot 5 n

def execGroupResendRequest (port dst : Nat) (object : Handle) (gen : Nat) (groups : List Nat) (s : State) : Answer :=
  whenLive (fun s => s.resendGroups port dst object gen groups) s

/-- The partner's control symbols: copies acknowledged are released (R287), and the partner's KEY_ID and unique ID are noted
(R312, R382). -/
def execLinkControlSymbols (port : Nat) (acks : List Nat) (keyId : Option Nat) (partner : Nat) (s : State) : Answer :=
  whenLive (fun s =>
    s.mapPort port fun x =>
      { x with kept := x.kept.filter fun k => !acks.contains k.1.hdr.seq, partnerKey := keyId,
               nonceSide := if partner < s.boot.uid then 1 else 0 }) s

/-! ### Packets received -/

/-- Why a port that goes down does so, or a lane retires (LANE_RETIRED's cause, R311, R313): 0 CRC, 1 AUTH. -/
def State.laneDown (s : State) (port : Nat) (lanes : List Nat) (cause : Nat) : State :=
  let s1 := s.mapPort port fun x => { x with lanes := lanes.foldl clearBit x.lanes }
  lanes.foldl (fun acc l => acc.raiseNode 0x05 (port + l * 16) cause 0) s1

/-- The lane that carries codeword n of a port's stream: the lanes in service in rotation, starting at L0 (R284). -/
def laneOf (inService n : Nat) : Nat :=
  let up := bitList 4 inService
  up.getD (n % up.length) 0

/-- Whether RS(544,514) cannot correct a codeword of so many symbol errors: each corrects up to 15 (R284). -/
def uncorrectable (errs : Nat) : Bool := decide (15 < errs)

/-- The corrected symbols that a lane carried of a packet. -/
def correctedOn (inService : Nat) (words : List (Nat × Nat)) (l : Nat) : Nat :=
  ((words.filter fun w => laneOf inService w.1 == l).map (·.2)).sum

/-- The lanes charged with a CRC failure (R311): each lane that carried an uncorrectable codeword of the packet; with none, the
lane with the most corrected symbols in the packet, ties going to the lower lane. -/
def lanesCharged (inService : Nat) (words : List (Nat × Nat)) : List Nat :=
  let lost := dedup ((words.filter fun w => uncorrectable w.2).map fun w => laneOf inService w.1)
  let used := (List.range 4).filter fun l => words.any fun w => laneOf inService w.1 == l
  if !lost.isEmpty then lost
  else
    (used.find? fun l => used.all fun x => decide (correctedOn inService words x ≤ correctedOn inService words l)).toList

/-- A CRC failure: counted, charged to its lanes (R311) with a fault record of each (R386, R389), negatively acknowledged (R287). -/
def State.crcFail (s : State) (port seq : Nat) (words : List (Nat × Nat)) : State :=
  let ls := lanesCharged (s.port port).lanes words
  let s1 := s.mapPort port fun x =>
    { x with crcFails := x.crcFails + 1, charges := x.charges ++ ls.map fun l => (l, s.frame.num) }
  (ls.foldl (fun acc l => acc.faultRecord 10 (4 * port + l) 0 0) s1).emit (.nak port seq)

/-- A tag failure: discarded, counted, resent; the sixteenth within 64 frames takes the port down (R313), which loses its key (R383). -/
def State.authFail (s : State) (port seq : Nat) : State :=
  let at_ := ((s.port port).authAt.filter fun f => decide (s.frame.num < f + 64)) ++ [s.frame.num]
  let s1 := (s.mapPort port fun x => { x with authFails := x.authFails + 1, authAt := at_ }).emit (.nak port seq)
  if 16 ≤ at_.length then
    (s1.mapPort port fun x => { x with key := none, keyNext := none, partnerKey := none, nonce := 0 }).laneDown port [0, 1, 2, 3] 1
  else s1

/-- A header that is handled as a CRC failure (R286). -/
def badHeader (own : Nat) (h : Header) : Bool :=
  decide (16 < h.kind) || decide (4 < h.cls) || decide (4096 < h.len) || (h.hops == 0 && h.dst != own && h.dst != 0x3FF)

/-- Vectors of a palette message that touch a listed group and no bad one (R309); without groups every vector. -/
def goodVectors (vs n : Nat) (groups : List (Nat × Bool)) : List Nat :=
  (List.range n).filter fun i =>
    groups.isEmpty ||
    (let a := i * vs / 1024
     let b := ((i + 1) * vs - 1) / 1024
     let touched := groups.filter fun g => decide (a ≤ g.1) && decide (g.1 ≤ b)
     !touched.isEmpty && touched.all (·.2))

/-- The message less the vectors of discarded groups; none when nothing of it stands. -/
def keepGood (s : State) (groups : List (Nat × Bool)) (m : Msg) : Option Msg :=
  match m, palStream s m with
  | .update u, some _ =>
    (match u.body with
      | .apply lr cs =>
        let vs := match s.table? u.slot u.object with | some t => palBytes t.attr.gradP4 t.attr.dim | none => 1
        let good := goodVectors vs cs.length groups
        let kept := (cs.mapIdx fun i c => (i, c)).filterMap fun p => if good.contains p.1 then some p.2 else none
        if kept.isEmpty then none else some (.update { u with body := .apply lr kept })
      | _ => if groups.all (·.2) then some m else none)
  | _, _ => if groups.all (·.2) then some m else none

/-- The object and kind of a message's stream, for the resend request and the log. -/
def msgObject : Msg → Nat × Handle
  | .scatter m => (m.slot, m.object)
  | .update u => (u.slot, u.object)
  | _ => (0, 0)

/-- Whether the generation that a message names is held (R304, R309 check 5). -/
def State.genHeld (s : State) (slot : Nat) (object : Handle) (gen kind : Nat) : Bool :=
  match s.stream? slot object kind with
  | some x => [x.cur, x.prev].any fun p => match p with | some q => q.gen == gen | none => false
  | none => false

/-- A packet consumed here: the expander's checks (R309), then its message takes its place. -/
def State.consume (s : State) (port : Nat) (p : Packet) : State :=
  let o := msgObject p.msg
  match p.msg, p.gen with
  | .resend object gen groups, _ => s.resendGroups port p.hdr.src object gen groups
  | .shadowCopy c, _ => if p.lenOk then s.takeCopy c else s
  | m, none => if p.lenOk then s.accept m else s
  | m, some (g, kind) =>
    if !s.genHeld o.1 o.2 g kind then s.logAdd 0x05 (s.handleAt o.1) o.2.toNat (o.2.toNat + g * 2 ^ 32) kind
    else
      let bad := if p.lenOk then (p.groups.filter fun x => !x.2).map (·.1) else p.groups.map (·.1)
      let s1 := if bad.isEmpty then s else s.send p.hdr.src (some o.1) (.resend o.2 g bad)
      match if p.lenOk then keepGood s p.groups m else none with
      | some m' => s1.accept m'
      | none => s1

/-- PACKET_RECEIVED: the link's checks (R285 to R287, R312, R313), then relaying (R288) or consumption. A cut-through relay
sends a failed packet on with its CRC inverted, which every later hop discards (R287): nothing of it is put out here. -/
def State.receive (s : State) (port : Nat) (p : Packet) (crcOk tagOk : Bool) (words : List (Nat × Nat)) : State :=
  if !s.portUp port || decide (3 ≤ s.power.state) then s
  else if !crcOk || badHeader s.frame.logicalId p.hdr then s.crcFail port p.hdr.seq words
  else if (s.port port).encrypted && !tagOk then s.authFail port p.hdr.seq
  else
    let s1 := s.emit (.acked port p.hdr.seq)
    if (s.port port).rxSeqs.contains p.hdr.seq then s1
    else
      let s2 := s1.mapPort port fun x => { x with rxSeqs := (x.rxSeqs ++ [p.hdr.seq]).drop (x.rxSeqs.length + 1 - 4096) }
      if p.hdr.dst = s.frame.logicalId ∨ p.hdr.dst = 0x3FF then (s2.mirrorPacket p).consume port p
      else s2.forwardPacket true { p with hdr := { p.hdr with hops := p.hdr.hops - 1 } }

end Sys2Proof.Machine
end

