-- ==== Sys2Proof/Machine/Holdings.lean ====
section
/-! DEFINITION. Holdings and announcements: the states of R394, what an announcement changes at step 4 of a commit window (R24,
R62, R191, R394, R395), fault records (R386), and the commands ANNOUNCEMENT, REPLICA_ACKNOWLEDGEMENT, REPLICA_RECEIPT. -/

namespace Sys2Proof.Machine

/-! ### Holdings -/

/-- The state of a holding (R394): 0 IN_STEP (not listed), 1 OUT_OF_STEP, 2 ACTING. -/
def State.holdingState (s : State) (node slot : Nat) (object : Handle) (number : Nat) : Nat :=
  match s.member.holdings.find? fun h => h.node == node && h.slot == slot && h.object == object && h.number == number with
  | some h => h.state
  | none => 0

/-- A holding put into a state. -/
def State.putHolding (s : State) (node slot : Nat) (object : Handle) (number st : Nat) : State :=
  let rest := s.member.holdings.filter fun h =>
    !(h.node == node && h.slot == slot && h.object == object && h.number == number)
  { s with member := { s.member with holdings :=
      if st = 0 then rest
      else rest ++ [{ node := node, slot := slot, object := object, number := number, state := st }] } }

/-- The route of an object. -/
def State.routeOf? (s : State) (slot : Nat) (object : Handle) : Option (List Nat) :=
  match tget s.indexes (objKey slot object), tget s.tables (objKey slot object) with
  | some x, _ => some x.route
  | none, some t => some t.route
  | none, none => none

/-- The route entry of a region or shard. -/
def State.routeEntry (s : State) (slot : Nat) (object : Handle) (number : Nat) : Option Nat :=
  match s.routeOf? slot object with
  | some r => r[number]?
  | none => none

/-- The other holder of a region or shard. -/
def otherHolder (e node : Nat) : Nat := if rtPrimary e = node then rtBuddy e else rtPrimary e

/-- The designator of a holding (R389, kind 12). -/
def holdingUnit (slot : Nat) (object : Handle) (number : Nat) : Nat :=
  slot + object.toNat * 2 ^ 16 + number % 2 ^ 16 * 2 ^ 48

/-- A holding's change in force (R394): OUT_OF_STEP makes the other ACTING, IN_STEP returns both. -/
def State.setHolding (s : State) (node slot : Nat) (object : Handle) (number st : Nat) : State :=
  match s.routeEntry slot object number with
  | none => s
  | some e =>
    let o := otherHolder e node
    let s1 := s.putHolding node slot object number st
    if st = 1 then
      (if s.holdingState o slot object number = 1 then s1 else s1.putHolding o slot object number 2).faultRecordOf
        (s.handleAt slot) object.toNat 12 (holdingUnit slot object number) 3 0
    else if st = 0 then s1.putHolding o slot object number 0 else s1

/-- The regions and shards that a node holds: (slot, object, number), ascending. -/
def State.holdingsOf (s : State) (node : Nat) : List (Nat × Handle × Nat) :=
  let pick := fun (k : Nat) (route : List Nat) =>
    (route.mapIdx fun i e => (i, e)).filterMap fun p =>
      if rtHolds p.2 node then some (k / 2 ^ 32, (BitVec.ofNat 32 (k % 2 ^ 32) : Handle), p.1) else none
  let all := (s.indexes.filter fun p => p.2.dropped.isNone).flatMap (fun p => pick p.1 p.2.route) ++
    (s.tables.filter fun p => p.2.dropped.isNone).flatMap (fun p => pick p.1 p.2.route)
  sortBy (fun a b => decide (objKey a.1 a.2.1 < objKey b.1 b.2.1) ||
    (decide (objKey a.1 a.2.1 = objKey b.1 b.2.1) && decide (a.2.2 < b.2.2))) all

/-- The node that serves a region or shard to a home (R101, R394): the primary, or the ACTING holder. -/
def State.server (s : State) (slot : Nat) (object : Handle) (number e : Nat) : Nat :=
  if s.holdingState (rtPrimary e) slot object number = 1 then rtBuddy e else rtPrimary e

/-- Whether this node serves a holding: it is not OUT_OF_STEP here. -/
def State.serves (s : State) (slot : Nat) (object : Handle) (number : Nat) : Bool :=
  match s.routeEntry slot object number with
  | some e => rtHolds e s.frame.logicalId && s.holdingState s.frame.logicalId slot object number != 1
  | none => false

/-- Whether this node publishes a region's or shard's updates without lag: as primary or as ACTING (R50, R394). -/
def State.leads (s : State) (slot : Nat) (object : Handle) (number : Nat) : Bool :=
  match s.routeEntry slot object number with
  | some e => rtPrimary e == s.frame.logicalId || s.holdingState s.frame.logicalId slot object number == 2
  | none => false

/-! ### Announcements -/

/-- A change announced to every node in this frame (R62, R394). -/
def State.announce (s : State) (a : Announce) : State := s.sendAll (.announce s.frame.num a)

/-- A route change journalled (R260, type 0x05) with what it replaces: 0x10 for a region or shard, 0x11 for a hot row. -/
def State.journalRoute (s : State) (tag slot : Nat) (object : Handle) (number entry : Nat) (old : Option Nat) : State :=
  match old with
  | some o => if o = entry then s else s.keepEntry 0x05 slot object [tag, number, entry] [o]
  | none => s

/-- One announced change in force, and in the journal. -/
def State.installOne (s : State) : Announce → State
  | .route slot object number entry =>
    ((s.mapIndex slot object fun x => { x with route := setAt x.route number fun _ => entry }).mapTable slot object
      fun t => { t with route := setAt t.route number fun _ => entry }).journalRoute 0x10 slot object number entry
        (s.routeEntry slot object number)
  | .hotMap slot object row entry =>
    (s.mapTable slot object fun t => { t with hot := tput t.hot row entry }).journalRoute 0x11 slot object row entry
      ((s.table? slot object).map fun t => t.entry row)
  | .holding _ node slot object number st => s.setHolding node slot object number st

/-- Two holders that announce each other OUT_OF_STEP in one frame. -/
def eachOther (x y : Nat × Announce) : Bool :=
  x.1 == y.1 && match x.2, y.2 with
  | .holding a n slot object number 1, .holding b m slot' object' number' 1 =>
    slot == slot' && object == object' && number == number' && a == m && b == n && a != b
  | _, _ => false

/-- The logical ID that made an announcement about a holding. -/
def announcer : Announce → Nat
  | .holding a .. => a
  | _ => 0

/-- Of two holders that announce each other in one frame the announcement of the lower logical ID prevails (R395). -/
def overruled (l : List (Nat × Announce)) (a : Nat × Announce) : Bool :=
  l.any fun x => eachOther a x && decide (announcer x.2 < announcer a.2)

/-- Step 4 of the commit window: what was announced in this frame is installed (R24, R62, R394). -/
def State.install (s : State) : State :=
  let due := s.member.announced.filter fun a => decide (a.1 ≤ s.frame.num)
  let s1 := { s with member := { s.member with
    announced := s.member.announced.filter (fun a => decide (s.frame.num < a.1)), recent := due } }
  (due.filter fun a => !overruled due a).foldl (fun acc a => acc.installOne a.2) s1

/-- A change announced at a commit window reaches the other nodes after it, and is in force from the next frame all the same
(R395): it is installed on arrival. One that it overrules is undone first. -/
def State.installLateOne (s : State) (a : Nat × Announce) : State :=
  let undone := s.member.recent.filter fun x => eachOther a x && decide (announcer a.2 < announcer x.2)
  let s1 := undone.foldl (fun acc x => match x.2 with
    | .holding _ n slot object number _ => acc.setHolding n slot object number 0
    | _ => acc) s
  let s2 := if overruled s.member.recent a then s1 else s1.installOne a.2
  { s2 with member := { s2.member with recent := s2.member.recent ++ [a] } }

/-- Every announcement of a frame whose commit window is over. -/
def State.installLate (s : State) : State :=
  let late := s.member.announced.filter fun a => decide (a.1 ≤ s.frame.version)
  late.foldl State.installLateOne
    { s with member := { s.member with announced := s.member.announced.filter fun a => decide (s.frame.version < a.1) } }

/-- ANNOUNCEMENT: kept until step 4 of the commit window of its frame. -/
def execAnnouncement (frame : Nat) (a : Announce) (s : State) : Answer := whenLive (fun s => (s.acceptAnnounce frame a).installLate) s

/-- REPLICA_ACKNOWLEDGEMENT (R395). -/
def execReplicaAcknowledgement (owner slot : Nat) (object : Handle) (region frame : Nat) (s : State) : Answer :=
  whenLive (fun s => s.acceptAck { owner := owner, slot := slot, object := object, region := region, frame := frame }) s

/-- REPLICA_RECEIPT (R396). -/
def execReplicaReceipt (owner slot : Nat) (object : Handle) (region frame : Nat) (counts : List (Nat × Nat)) (digest : Nat)
    (s : State) : Answer :=
  whenLive (fun s => s.acceptReceipt { owner := owner, slot := slot, object := object, region := region, frame := frame,
                                       counts := counts, digest := digest }) s

end Sys2Proof.Machine
end

