-- ==== Sys2Proof/Machine/Moves.lean ====
section
/-! DEFINITION. Moving data: MIGRATE of regions, shards and hot rows (R89 to R92, R218), rebuild copies (R397), the MIGRATE
window, and the commands MIGRATION_ACCEPTANCE, MIGRATION_FLIP, REBUILD_COMPLETE. -/

namespace Sys2Proof.Machine

/-! ### The mailbox commands -/

def migrateLayout : Layout :=
  [(0x14, 0, 32), (0x18, 0, 3), (0x18, 8, 10), (0x1C, 0, 9), (0x20, 0, 32), (0x28, 0, 48), (0x30, 0, 64)]

/-- The number by which source and destination know one move: host and handles are the same on both. -/
def migId (what slot : Nat) (object : Handle) (role number : Nat) : Nat :=
  ((((what * 128 + slot) * 2 ^ 32 + object.toNat) * 2) + role) * 2 ^ 32 + number

/-- The holder of a role. -/
def roleHolder (e role : Nat) : Nat := if role = 0 then rtPrimary e else rtBuddy e

/-- A route entry with a role being moved to a destination (R62). -/
def entryMoving (e role dest : Nat) : Nat := e % 2 ^ 20 + dest * 2 ^ 20 + 2 ^ 30 + role * 2 ^ 31

/-- A route entry with the destination in the role and MIGRATING = 0. -/
def entryMoved (e role dest : Nat) : Nat :=
  if role = 0 then dest + rtBuddy e * 1024 else rtPrimary e + dest * 1024

/-- A route entry with no move. -/
def entryStill (e : Nat) : Nat := e % 2 ^ 20

/-- Moves that this node takes part in, in one direction. -/
def State.migCount (s : State) (source : Bool) : Nat := (s.migs.filter fun m => m.source == source && m.what != 3).length

/-- Hot rows as read from ROWS_ADDR. -/
def migRows (g : Go) : List Nat := (List.range (g.arg 0x20 0 32)).map fun i => rd g.ext1 (4 * i) 4

/-- The conditions of R89, R218 and R326, one row; limits without a field name OBJECT, NUMBER or DEST (DEDUCED, log entry
9). A destination reserves what the region, shard or rows take (R90, R218; log entry 84). -/
def migrateRow (g : Go) (s : State) (slot : Nat) (c : Chan) (what : Nat) (route : List Nat) (t : Option Table) : CheckRow :=
  let dest := g.arg 0x18 8 10
  let n := g.arg 0x20 0 32
  let me := s.frame.logicalId
  let rows := if what = 2 then migRows g else []
  let e := if what = 2 then (match t with | some x => x.entry (rows.headD 0) | none => 0) else route.getD n 0
  let stride := match t with | some x => tableStride x.attr | none => 0
  let space := match t with
    | some x => if what = 2 then rows.length * stride else shardLen x.attr n * stride
    | none => Config.regionBytes (objKey slot (Go.object g)) n (g.arg 0x28 0 48)
  let noRows := match t, s.index? slot (Go.object g) with
    | none, some x => decide (x.attr.rows < x.rowsUsed.length + Config.regionItems (objKey slot (Go.object g)) n (g.arg 0x28 0 48))
    | _, _ => false
  let hotFull := match t with
    | some x => what == 2 && decide (16384 < x.hot.length + ((dedup rows).filter fun r => (tget x.hot r).isNone).length)
    | none => false
  inv [g.strayArgs migrateLayout,
    (decide (4 ≤ s.migCount (me != dest)), 0x14),
    (g.arg 0x18 0 2 == 3, 0x18),
    (decide (511 < dest) || rtHolds e dest || (me != dest && roleHolder e (g.arg 0x18 2 1) != me), 0x19),
    (decide (256 < g.arg 0x1C 0 9), 0x1C),
    ((if what = 2 then n == 0 || decide (256 < n) else decide (route.length ≤ n) || rtMigrating e) ||
      hotFull || (me == dest && (noRows || decide (s.sealedLeft slot c < space) || (t.isSome && decide (s.tableSpace < s.tableUsed + space)))), 0x20),
    (decide (g.arg 0x28 0 48 ≤ s.frame.num + 2), 0x28),
    (if what = 2 then g.arg64 0x30 == 0 || g.arg64 0x30 % 64 != 0 else g.arg64 0x30 != 0, 0x30)]

/-- The first hot row that is no row of the table, is moving already, or has another holder in the role. -/
def badHotRow (s : State) (g : Go) (t : Table) : Option Nat :=
  let dest := g.arg 0x18 8 10
  ((migRows g).findIdx? fun r =>
    decide (t.attr.rows ≤ r) || rtMigrating (t.entry r) ||
    (s.frame.logicalId != dest && roleHolder (t.entry r) (g.arg 0x18 2 1) != s.frame.logicalId)).map (4 * ·)

/-- The move taken up: the destination tells the source that it accepts (R89). -/
def migrateWork (g : Go) (slot what : Nat) (e : Nat) (t : Option Table) : MbBody := fun s =>
  let dest := g.arg 0x18 8 10
  let rows := if what = 2 then migRows g else []
  let n := if what = 2 then rows.headD 0 else g.arg 0x20 0 32
  let role := g.arg 0x18 2 1
  let id := migId what slot (Go.object g) role n
  let src := roleHolder e role
  let source := s.frame.logicalId != dest
  let m : Mig :=
    { id := id, what := what, slot := slot, object := Go.object g, number := n, role := role, dest := dest,
      peer := if source then dest else src, folios := orDefault (g.arg 0x1C 0 9) 32, start := g.arg 0x28 0 48, rows := rows,
      source := source, accepted := !source, table := false, extents := [], done := 0, fwd := [], sent := (0, 0),
      cancel := false, ended := none, bytes := (0, 0),
      space := if source then 0 else match t with
        | some x => (if what = 2 then rows.length else shardLen x.attr n) * tableStride x.attr
        | none => Config.regionBytes (objKey slot (Go.object g)) n (g.arg 0x28 0 48) }
  let s1 := ({ s with migs := s.migs ++ [m] }).keepEntry 0x05 slot (Go.object g) [0x12, n, 0] []
  (if source then s1 else s1.send src (some slot) (.move src (.accepted id)), MbRes.ok)

/-- MIGRATE (R89, R218): index for a region, table for a shard or hot rows. -/
def migrateBody (g : Go) : MbBody := fun s =>
  withChan g (fun slot c s =>
    let what := g.arg 0x18 0 2
    let ix := s.index? slot (Go.object g)
    let tb := s.table? slot (Go.object g)
    if (if what = 0 then ix.isNone else tb.isNone) then (s, { status := stNoObject })
    else
      let route := if what = 0 then (match ix with | some x => x.route | none => [])
        else (match tb with | some x => x.route | none => [])
      let t := if what = 0 then none else tb
      match decideRows [migrateRow g s slot c what route t] with
      | some p => (s, MbRes.refuse p)
      | none =>
        match if what = 2 then g.fail1.or (match t with | some x => badHotRow s g x | none => none) else none with
        | some o => (s, MbRes.invalidIn (0x1000 + o) 0x30)
        | none =>
          migrateWork g slot what
            (if what = 2 then (match t with | some x => x.entry ((migRows g).headD 0) | none => 0)
             else route.getD (g.arg 0x20 0 32) 0) t s) s

def execMigrateRegion (g : Go) (s : State) : Answer := mailbox false 0x0038 g (migrateBody g) s

def execMigrateShard (g : Go) (s : State) : Answer := mailbox false 0x0038 g (migrateBody g) s

def execMigrateHotRows (g : Go) (s : State) : Answer := mailbox false 0x0038 g (migrateBody g) s

/-! ### What the source and the destination do in each frame -/

/-- A move forgotten, with its log record (R331 type 0x03): 0 done, 1 not started, 2 node failed, 3 dropped; and with its last step in the
journal (R260: the steps are 0 begun, 1 copied, 2 and up its outcome). -/
def State.logMove (s : State) (m : Mig) (outcome : Nat) : State :=
  if m.what = 3 then s
  else (s.logAdd 0x03 (s.handleAt m.slot) m.object.toNat m.number outcome).keepEntry 0x05 m.slot m.object [0x12, m.number, 2 + outcome] []

/-- The moves without one. -/
def State.dropMig (s : State) (m : Mig) : State :=
  { s with migs := s.migs.filter fun x => !(x.id == m.id && x.source == m.source) }

/-- A move changed. -/
def State.mapMig (s : State) (m : Mig) (f : Mig → Mig) : State :=
  { s with migs := s.migs.map fun x => if x.id = m.id ∧ x.source = m.source then f x else x }

/-- The entries that a move changes: one route entry, or one hot-map entry per row. -/
def State.moveEntries (s : State) (m : Mig) (f : Nat → Nat) : List Announce :=
  if m.what = 2 then
    match s.table? m.slot m.object with
    | some t => m.rows.map fun r => .hotMap m.slot m.object r (f (t.entry r))
    | none => []
  else
    match s.routeEntry m.slot m.object m.number with
    | some e => [.route m.slot m.object m.number (f e)]
    | none => []

/-- Announcements made once. -/
def State.announceAll (s : State) (l : List Announce) : State :=
  l.foldl (fun acc a => if acc.member.announced.contains (acc.frame.num, a) then acc else acc.announce a) s

/-- A region's or shard's data given up at a node that no longer holds it (R90). -/
def State.releaseHolding (s : State) (slot : Nat) (object : Handle) (number : Nat) : State :=
  if s.serves slot object number then s
  else
    match s.index? slot object with
    | some x =>
      let rows := ((x.cur.region number).flatMap fun p => p.2.slots.map (·.row))
      let s1 := s.mapIndex slot object fun y =>
        { y with cur := { y.cur with lists := tdel y.cur.lists number },
                 rowsUsed := y.rowsUsed.filter fun r => !rows.contains r }
      rows.foldl (fun acc r => acc.tombBit slot object r false) s1
    | none =>
      s.mapTable slot object fun t =>
        { t with rows := t.rows.filter fun p => p.1 / t.attr.shardRows != number || (tget t.hot p.1).isSome }

/-- Hot rows given up. -/
def State.releaseRows (s : State) (m : Mig) : State :=
  s.mapTable m.slot m.object fun t => { t with rows := t.rows.filter fun p => !m.rows.contains p.1 }

/-- The flip of a move in frame c + 1: the entry naming the destination, or the holding IN_STEP again, is announced by the
source (R90, R397). -/
def State.flip (s : State) (m : Mig) : State :=
  match m.ended with
  | some c =>
    if m.source && s.frame.num == c + 1 then
      if m.what = 3 ∧ (s.mirrorTo m.dest).isSome then s
      else if m.what = 3 then s.announceAll [.holding s.frame.logicalId m.dest m.slot m.object m.number 0]
      else s.announceAll (s.moveEntries m fun e => entryMoved e m.role m.dest)
    else s
  | none => s

/-- The node from which a move takes its role. -/
def Mig.from_ (m : Mig) (me : Nat) : Nat := if m.source then me else m.peer

/-- What the destination of a move that ends early received is released (R91). -/
def State.releaseReceived (s : State) (m : Mig) : State :=
  if m.source || m.what == 3 then s
  else if m.what = 2 then s.releaseRows m
  else s.releaseHolding m.slot m.object m.number

/-- One move at the start of a frame: the announcement of m − 1 or its failure (R89), the flip, the end of a cancelled move, whose
entry goes back to its old holder (R91). -/
def State.moveTick (s : State) (m : Mig) : State :=
  if m.cancel then
    (((s.announceAll (if m.what = 3 then [] else s.moveEntries m fun e => entryMoved (entryStill e) m.role (m.from_ s.frame.logicalId))).releaseReceived
      m).logMove m 2).dropMig m
  else if m.source && m.what != 3 && s.frame.num + 1 == m.start then
    if m.accepted then s.announceAll (s.moveEntries m fun e => entryMoving e m.role m.dest)
    else (s.logMove m 1).dropMig m
  else s.flip m

/-- Every move at the start of a frame. -/
def State.movesStart (s : State) : State := s.migs.foldl State.moveTick s

/-- Step 7: the source releases what it moved at c + 7 and logs the end; the destination's part ends with the flip (R90); a
rebuild ends with its announcement. -/
def State.moveEnd (s : State) (m : Mig) : State :=
  match m.ended with
  | some c =>
    if m.what = 3 then
      (if c + 1 ≤ s.frame.num then
        (if (s.mirrorTo m.dest).isSome then s.mapMirror fun x => { x with done := x.done ++ [m.id] } else s).dropMig m
      else s)
    else if m.source then
      if c + 7 ≤ s.frame.num then
        ((if m.what = 2 then s.releaseRows m else s.releaseHolding m.slot m.object m.number).logMove m 0).dropMig m
      else s
    else if c + 1 ≤ s.frame.num then (s.logMove m 0).dropMig m else s
  | none => s

def State.movesEnd (s : State) : State := s.migs.foldl State.moveEnd s

/-- An announced entry that ends a move of a node's (R91): the entry in force is MIGRATING and names the node as its destination, or as
the holder of a role. -/
def State.flipOf (s : State) (node : Nat) : Announce → Bool
  | .route slot object number entry =>
    (match s.routeEntry slot object number with
     | some e => rtMigrating e && !rtMigrating entry && (rtDest e == node || rtHolds e node)
     | none => false)
  | .hotMap slot object row entry =>
    (match s.table? slot object with
     | some t => rtMigrating (t.entry row) && !rtMigrating entry && (rtDest (t.entry row) == node || rtHolds (t.entry row) node)
     | none => false)
  | .holding .. => false

/-- Every move that a node takes part in and whose flip is not installed yet ends early (R91): an entry announced for it is not
installed. -/
def State.cancelMoves (s : State) (node : Nat) : State :=
  { s with
    migs := s.migs.map (fun m => if (m.dest = node ∨ m.peer = node ∨ s.frame.logicalId = node) ∧
        (match m.ended with | some c => decide (s.frame.num ≤ c + 1) | none => true) = true then { m with cancel := true } else m)
    member := { s.member with announced := s.member.announced.filter fun a => !s.flipOf node a.2 } }

/-! ### Copies -/

/-- Bytes that a window's sector movers and ports carry (R92, R221, R292). -/
def State.windowBytes (s : State) (e : EaselEntry) : Nat :=
  let ports := (bitList 8 e.ports).map fun p => if s.portUp p then 50 * popCount 4 (s.port p).lanes else 0
  min (293 * popCount 16 e.sectors * e.length) (ports.sum * e.length * 4 / 7)

/-- Bytes of a list's extent (R65, R68). -/
def extentBytes (a : IndexAttr) (l : IList) : Nat := extentLines a.tipin l.mainSlots * lineBytes a.sketchBits

/-- What the MIGRATE windows of a slot that are left in the frame can carry, this one first (R92). -/
def State.windowsLeft (s : State) (e : EaselEntry) : Nat :=
  match s.easel.inForce with
  | none => s.windowBytes e
  | some ea => max (s.windowBytes e) (((ea.entries.filter fun x => x.stage == 0x22 && hasBit x.phases (s.frame.num % ea.hyper) &&
      x.channel == e.channel && decide (e.start ≤ x.start)).map s.windowBytes).sum)

/-- Bytes of this frame's copies that run on into later windows. -/
def State.carried (s : State) : Nat :=
  (s.migs.map fun m => if m.bytes.1 = s.frame.num then m.bytes.2 else 0).foldl max 0

/-- What is left while lists are copied: bytes that have taken of the windows, bytes of this window and of all that are left, records of
the frame, and whether to go on. -/
structure CopyRun where
  st    : State
  mig   : Mig
  used  : Nat
  here  : Nat
  bytes : Nat
  recs  : Nat
  go    : Bool

/-- One list of a region: its extent whole, begun in this window and carried by those left in the frame, then the records of its live
slots (R90, R92). -/
def copyList (x : Index) (g : Nat) (r : CopyRun) (p : Nat × IList) : CopyRun :=
  if !r.go then r
  else
    let m := r.mig
    let ext := p.2.extentAt g
    let slots := ext.slots
    let n := extentLines x.attr.tipin ext.mainSlots * lineBytes x.attr.sketchBits
    let fresh := !m.extents.contains p.1
    if fresh && (decide (r.here ≤ r.used) || decide (r.bytes < r.used + n)) then { r with go := false }
    else
      let s1 := if fresh then
          r.st.send m.dest (some m.slot)
            (.move m.dest (.extent m.slot m.object m.number p.1 g ext.mainSlots ext.centroid slots))
        else r.st
      let done := if fresh then 0 else if m.extents.getLast? = some p.1 then m.done else slots.length
      let live := (ext.numbered.filter fun q => seenAt q.2 g).drop done
      let batch := live.take r.recs
      let s2 := if batch.isEmpty then s1
        else (s1.send m.dest (some m.slot)
          (.move m.dest (.records m.slot m.object m.number (batch.map fun q => (p.1, q.1, s1.record x.attr q.2))))).account m.slot 3
            (ceilDiv batch.length (recordsPerFolio x.attr) * 65536)
      { r with
        st := s2, used := if fresh then r.used + n else r.used, recs := r.recs - batch.length,
        go := decide (live.length ≤ batch.length),
        mig := { m with extents := if fresh then m.extents ++ [p.1] else m.extents,
                        done := if m.extents.getLast? = some p.1 || fresh then done + batch.length else m.done } }

/-- Records or rows that a move may still send in this frame. -/
def Mig.left (m : Mig) (frame perFolio : Nat) : Nat := m.folios * perFolio - (if m.sent.1 = frame then m.sent.2 else 0)

/-- The source's copying of a region in one window. -/
def State.copyRegion (s : State) (e : EaselEntry) (m : Mig) (x : Index) : State :=
  let g := s.frame.num - 1
  let lists := (x.cur.region m.number).filter fun p => !(p.2.extentAt g).centroid.isEmpty
  let s1 := if m.table then s
    else s.send m.dest (some m.slot)
      (.move m.dest (.centroids m.slot m.object m.number (lists.map fun p => (p.1, (p.2.extentAt g).centroid))))
  let left := m.left s.frame.num (recordsPerFolio x.attr)
  let r := lists.foldl (copyList x g) { st := s1, mig := { m with table := true }, used := s.carried, here := s.windowBytes e, bytes := s.windowsLeft e, recs := left, go := true }
  let sent := (if m.sent.1 = s.frame.num then m.sent.2 else 0) + (left - r.recs)
  r.st.mapMig m fun _ =>
    { r.mig with sent := (s.frame.num, sent), bytes := (s.frame.num, r.used),
                 ended := if r.go && lists.all fun p => r.mig.extents.contains p.1 then some s.frame.num else none }

/-- The source's copying of a shard, in table folios of 64 KiB, rows ascending (R218). -/
def State.copyShard (s : State) (m : Mig) (t : Table) : State :=
  let per := 65536 / max 1 (tableStride t.attr)
  let n := min (m.left s.frame.num per) (shardLen t.attr m.number - m.done)
  let lo := m.number * t.attr.shardRows + m.done
  let rows := (t.rows.filter fun p => decide (lo ≤ p.1) && decide (p.1 < lo + n)).map fun p =>
    (p.1, s.frame.num - 1, t.rowAt p.1 (s.frame.num - 1))
  (s.send m.dest (some m.slot) (.move m.dest (.rows m.slot m.object m.number (m.done + n) rows))).mapMig m fun y =>
    { y with done := m.done + n, sent := (s.frame.num, (if m.sent.1 = s.frame.num then m.sent.2 else 0) + n),
             ended := if shardLen t.attr m.number ≤ m.done + n then some s.frame.num else none }

/-- The source's copying of hot rows in frame f, and the forwarding of the frame's steps in f + 1 (R218). -/
def State.copyHot (s : State) (m : Mig) (t : Table) : State :=
  if s.frame.num = m.start ∧ !m.table then
    (s.send m.dest (some m.slot) (.move m.dest (.rows m.slot m.object m.number 0
      (m.rows.map fun r => (r, s.frame.num - 1, t.rowAt r (s.frame.num - 1)))))).mapMig m fun y =>
        { y with table := true, ended := some s.frame.num }
  else if s.frame.num = m.start + 1 ∧ !m.fwd.isEmpty then
    (s.send m.dest (some m.slot) (.move m.dest (.forward m.slot m.object m.fwd))).mapMig m fun y => { y with fwd := [] }
  else s

/-- The step of a move whose last copy is made, in the journal (R260). -/
def State.copiedStep (s : State) (m : Mig) : State :=
  if m.ended.isNone && m.what != 3 && s.migs.any fun x => x.id == m.id && x.source == m.source && x.ended.isSome then
    s.keepEntry 0x05 m.slot m.object [0x12, m.number, 1] []
  else s

/-- One move's copying at its source. -/
def State.copyPart (s : State) (e : EaselEntry) (m : Mig) : State :=
  if !m.source || m.cancel || decide (s.frame.num < m.start) then s
  else
    match m.what, s.index? m.slot m.object, s.table? m.slot m.object with
    | 2, _, some t => s.copyHot m t
    | 1, _, some t => if m.ended.isSome then s else s.copyShard m t
    | _, some x, _ => if m.ended.isSome then s else s.copyRegion e m x
    | _, none, some t => if m.ended.isSome then s else s.copyShard m t
    | _, _, _ => s

/-- The same with its step in the journal. -/
def State.copyMove (s : State) (e : EaselEntry) (m : Mig) : State := (s.copyPart e m).copiedStep m

/-! ### Arrivals -/

/-- Slots of a received extent with rows of this node, in slot order (R70): an item keeps its row where no other item of this node has
it, else it takes the lowest free one (DESIGN CHOICE, log entry 83); none when no row is left. -/
def rehome (rows : Nat) : List Slot → List Nat → Option (List Slot × List Nat)
  | [], used => some ([], used)
  | sl :: r, used =>
    let n := if used.contains sl.row || decide (rows ≤ sl.row) then lowestFree used else sl.row
    if rows ≤ n then none
    else (rehome rows r (insNat n used)).map fun t => ({ sl with row := n, folio := 0xFFFFFFFF, record := 0 } :: t.1, t.2)

/-- A move whose destination has no row left ends as if a node had failed (R70, R91; DESIGN CHOICE, log entry 83). -/
def State.noRowLeft (s : State) (slot : Nat) (object : Handle) (region : Nat) : State :=
  { s with migs := s.migs.map fun m =>
      if m.slot = slot ∧ m.object = object ∧ m.number = region ∧ !m.source then { m with cancel := true } else m }

/-- A received extent in place, in lines of this node, tombstones set in this node's bitmap (R90). Its HEAT starts at 0: the spec does
not say whether it comes along (DESIGN CHOICE, log entry 74). -/
def State.takeExtent (s : State) (slot : Nat) (object : Handle) (region list mainSlots : Nat) (c : List F16)
    (slots : List Slot) : State :=
  match s.index? slot object with
  | none => s
  | some x =>
    match rehome x.attr.rows slots x.rowsUsed with
    | none => s.noRowLeft slot object region
    | some r =>
      let il : IList := x.placeList { centroid := c, firstLine := 0, mainSlots := mainSlots, slots := r.1, heat := 0, scanned := 0,
                                      tipinFull := false, older := [] }
      let s1 := s.mapIndex slot object fun y => { y with cur := y.cur.putList region list il, rowsUsed := r.2 }
      let s2 := (r.1.filter fun sl => sl.dead.isSome).foldl (fun acc sl => acc.tombBit slot object sl.row true) s1
      { s2 with migs := s2.migs.map fun m =>
          if m.slot = slot ∧ m.object = object ∧ m.number = region ∧ !m.source then { m with extents := m.extents ++ [list] } else m }

/-- A received record in a new folio, its locator rewritten (R90). -/
def State.takeRecord (s : State) (slot : Nat) (object : Handle) (region : Nat) (r : Nat × Nat × Bytes) : State :=
  match s.index? slot object with
  | none => s
  | some x =>
    let key : Key := match (tget (x.cur.region region) r.1).bind fun l => (l.extentAt s.frame.version).slot? r.2.1 with | some sl => sl.key | none => 0
    let p := s.placeRecord slot object x.attr key r.2.2
    p.2.mapIndex slot object fun y =>
      { y with cur := y.cur.mapList region r.1 fun l =>
          { l with slots := l.slots.mapIdx fun i sl =>
              if slotNumber l.mainSlots i = r.2.1 then { sl with folio := p.1.1, record := p.1.2 } else sl } }

/-- A region's lists cleared before its copies arrive, with the centroid table (R90): a rebuild or move starts from the
beginning (R397). -/
def State.takeCentroids (s : State) (slot : Nat) (object : Handle) (region : Nat) (ls : List (Nat × List F16)) : State :=
  { s.mapIndex slot object fun y =>
      { y with cur := { y.cur with lists := tput y.cur.lists region (ls.map fun l => (l.1, IList.ofCentroid l.2)) },
               rowsUsed := y.rowsUsed.filter fun r => !((y.cur.region region).flatMap fun p => p.2.slots.map (·.row)).contains r } with
    migs := s.migs.map fun m =>
      if m.slot = slot ∧ m.object = object ∧ m.number = region ∧ !m.source then { m with extents := [], done := 0 } else m }

/-- A row's image put in place. -/
def Table.putRow (t : Table) (r frame : Nat) (img : Bytes) : Table :=
  { t with rows := tput t.rows r { image := img, frame := frame, older := [] } }

/-- What a MIGRATE window does with one arrival at a destination. Forwarded steps wait for APPLY_STAGE (R218). -/
def State.takeMove (s : State) : Move → State
  | .centroids slot object region ls => s.takeCentroids slot object region ls
  | .extent slot object region list _ mainSlots c slots => s.takeExtent slot object region list mainSlots c slots
  | .records slot object region recs => recs.foldl (fun acc r => acc.takeRecord slot object region r) s
  | .rows slot object number upto rows =>
    let s1 := rows.foldl (fun acc r => acc.mapTable slot object fun t => t.putRow r.1 r.2.1 r.2.2) s
    { s1 with migs := s1.migs.map fun m =>
        if m.slot = slot ∧ m.object = object ∧ m.number = number ∧ !m.source then { m with done := upto, table := true } else m }
  | .forward slot object rows =>
    { s with migs := s.migs.map fun m =>
        if m.slot = slot ∧ m.object = object ∧ m.what = 2 ∧ !m.source then { m with fwd := rows } else m }
  | .accepted _ | .staging .. | .trained .. => s

/-- The slot of a copy that a MIGRATE window consumes. -/
def moveSlot : Move → Option Nat
  | .centroids n .. | .extent n .. | .records n .. | .rows n .. | .forward n .. => some n
  | .accepted _ | .staging .. | .trained .. => none

/-- MIGRATE: arrivals of the channel are taken up, then its moves go on (R90, R92, R218, R397). -/
def State.migrateWindow (s : State) (e : EaselEntry) : State :=
  let mine := fun (n : Nat) => e.isNode || n == e.slot
  let isMine := fun (x : Nat × Msg) =>
    match x.2 with | .move _ m => (match moveSlot m with | some n => mine n | none => false) | _ => false
  let here := s.inbox.filter isMine
  let s1 := here.foldl (fun acc x => match x.2 with | .move _ m => acc.takeMove m | _ => acc)
    { s with inbox := s.inbox.filter fun x => !isMine x }
  let s2 := (s1.migs.filter fun m => mine m.slot).foldl (fun acc m => acc.copyMove e m) s1
  { s2 with migs := s2.migs.map fun m => { m with bytes := (s2.frame.num, s2.carried - s2.windowBytes e) } }

/-! ### Events -/

/-- MIGRATION_ACCEPTANCE (R89): the acceptance reaches the source, or its absence stops the move. -/
def execMigrationAcceptance (id : Nat) (accepted : Bool) (s : State) : Answer :=
  whenLive (fun s =>
    match s.migs.find? fun m => m.id == id && m.source && !m.accepted with
    | none => s
    | some m => if accepted then s.mapMig m fun x => { x with accepted := true } else (s.logMove m 1).dropMig m) s

/-- MIGRATION_FLIP (R90); FRAME_START has made the announcement when it comes first. -/
def execMigrationFlip (id : Nat) (s : State) : Answer :=
  whenLive (fun s => match s.migs.find? fun m => m.id == id && m.source with | some m => s.flip m | none => s) s

/-- What a shadow of this node begins with (R409). Commands that are not admitted here are not mirrored, so they are left out. -/
def State.shadowCopy (s : State) : Machine.ShadowCopy :=
  let units := s.sets.flatMap (fun p => p.2.units) ++ s.indexes.flatMap fun p => p.2.tombUnits
  { frame := s.frame.num, seq := s.frame.seq, land := s.nextLand, chans := s.chans, work := s.work.filter fun c => c.adm.isSome, ownerQs := s.ownerQs
    ownerFs := s.ownerFs, updIn := s.updIn, heldUpd := s.heldUpd, staged := s.staged, durs := s.durs, listOps := s.listOps
    indexes := s.indexes, sets := s.sets, tables := s.tables, graphs := s.graphs, streams := s.streams, builds := s.builds
    holdings := s.member.holdings, cells := s.dram.mem.filter fun c => units.contains (daUnit c.1)
    recs := s.flash.recs, keys := s.flash.keys, folios := s.flash.folios, open_ := s.flash.openFolio }

/-- Copies into one destination that are running (R397: at most 4). -/
def State.running (s : State) (dest : Nat) : Nat := (s.migs.filter fun m => m.what == 3 && m.dest == dest).length

/-- The holdings of this node whose copies to its shadow are still to begin: IN_STEP or ACTING ones, ascending (R409). -/
def State.toCopy (s : State) (x : Mirror) : List (Nat × Nat × Handle × Nat) :=
  let me := s.frame.logicalId
  ((s.holdingsOf me).filter fun h => s.holdingState me h.1 h.2.1 h.2.2 != 1).filterMap fun h =>
    let id := migId 3 h.1 h.2.1 2 h.2.2
    if x.done.contains id || s.migs.any (fun m => m.id == id) then none else some (id, h)

/-- Rebuild copies to a shadow (R397, R409), at most 4 at a time; after the last one the rest of the copy goes out and the mirror is
live from the next frame on. -/
def State.copyShadow (s : State) : State :=
  match s.member.mirror with
  | none => s
  | some x =>
    let todo := s.toCopy x
    if x.live then s
    else if todo.isEmpty && s.running x.shadow == 0 then
      let s1 := s.toShadow (.shadowCopy s.shadowCopy)
      let s2 := s.inbox.foldl (fun acc p => acc.toShadow (.shadowInbox p.1 p.2)) s1
      let s3 := s.outbox.foldl (fun acc p => acc.toShadow (.shadowOutbox p.1 p.2.1 p.2.2.1 p.2.2.2)) s2
      s3.mapMirror fun y => { y with live := true }
    else
      { s with migs := s.migs ++ (todo.take (4 - s.running x.shadow)).map fun h =>
          { id := h.1, what := 3, slot := h.2.1, object := h.2.2.1, number := h.2.2.2, role := 0, dest := x.shadow, peer := x.shadow,
            folios := 32, start := s.frame.num + 1, rows := [], source := true, accepted := true, table := false, extents := [],
            done := 0, fwd := [], sent := (0, 0), cancel := false, ended := none, space := 0, bytes := (0, 0) } }

/-- REBUILD_COMPLETE (R397); FRAME_START has made the announcement when it comes first. -/
def execRebuildComplete (id : Nat) (s : State) : Answer :=
  whenLive (fun s =>
    match s.migs.find? fun m => m.id == id && m.source && m.what == 3 with
    | some m => s.flip m
    | none => s) s

/-- Rebuild copies started for holdings OUT_OF_STEP (R397): at most 4 into one destination, ascending; at the source that is
ACTING and at the destination. -/
def State.startRebuilds (s : State) : State :=
  let me := s.frame.logicalId
  let outs := sortBy (fun a b => decide (objKey a.slot a.object < objKey b.slot b.object) ||
      (decide (objKey a.slot a.object = objKey b.slot b.object) && decide (a.number < b.number)))
    (s.member.holdings.filter fun h => h.state == 1 && !s.member.vacated.contains h.node && !s.member.suspects.contains h.node)
  outs.foldl (fun acc h =>
    match acc.routeEntry h.slot h.object h.number with
    | none => acc
    | some e =>
      let src := otherHolder e h.node
      let id := migId 3 h.slot h.object (if rtPrimary e = h.node then 0 else 1) h.number
      let running := acc.running h.node
      if (src != me && h.node != me) || decide (4 ≤ running) || (acc.migs.any fun m => m.id == id) ||
          acc.holdingState src h.slot h.object h.number != 2 ||
          (match tget acc.chans h.slot with | some c => c.st == .faulted | none => false) then acc
      else
        let m : Mig :=
          { id := id, what := 3, slot := h.slot, object := h.object, number := h.number, role := 0, dest := h.node,
            peer := if src = me then h.node else src, folios := 32, start := acc.frame.num + 1, rows := [],
            source := src == me, accepted := true, table := false, extents := [], done := 0, fwd := [], sent := (0, 0),
            cancel := false, ended := none, space := 0, bytes := (0, 0) }
        { acc with migs := acc.migs ++ [m] }) s

/-! ### Roles -/

/-- What this node does with an update of a region, shard or row (R50, R91, R394): publishes it first, trails as buddy,
takes it on a copy that is still arriving, or nothing. -/
inductive Role where
  | lead | trail | copying | none
  deriving DecidableEq, Repr

/-- The role by a route entry, for a holding's number. -/
def State.roleOf (s : State) (slot : Nat) (h : Handle) (number e : Nat) : Role :=
  let me := s.frame.logicalId
  if rtPrimary e = me ∨ rtBuddy e = me then
    if s.holdingState me slot h number = 1 then .copying
    else if s.server slot h number e = me then .lead
    else .trail
  else if rtMigrating e ∧ rtDest e = me then .copying
  else .none

/-- The role of this node for a region. -/
def State.regionRole (s : State) (slot : Nat) (h : Handle) (region : Nat) : Role :=
  match s.routeEntry slot h region with
  | some e => s.roleOf slot h region e
  | none => .none

end Sys2Proof.Machine
end

