-- ==== Sys2Proof/Machine/Renumber.lean ====
section
/-! DEFINITION. Frame stamps when the frame numbering changes (R18, R19, R459): what was published keeps its age. The spec does not
say what becomes of the stamps; counting them in the new numbering keeps every published thing visible (DEDUCED, log entry 30). -/

namespace Sys2Proof.Machine

/-- The stamps of a slot. -/
def Slot.rebase (f : Nat → Nat) (sl : Slot) : Slot :=
  { sl with pub := f sl.pub, dead := sl.dead.map f, due := f sl.due, deadDue := f sl.deadDue, older := sl.older.map fun o => (o.1, o.2.1, f o.2.2) }

/-- The stamps of a list. -/
def IList.rebase (f : Nat → Nat) (l : IList) : IList :=
  { l with slots := l.slots.map (Slot.rebase f), older := l.older.map fun o => { o with frame := f o.frame, slots := o.slots.map (Slot.rebase f) } }

/-- The stamps of a generation. -/
def IndexGen.rebase (f : Nat → Nat) (g : IndexGen) : IndexGen :=
  { g with lists := g.lists.map fun r => (r.1, r.2.map fun p => (p.1, IList.rebase f p.2)) }

/-- The stamps of an index. -/
def Index.rebase (f : Nat → Nat) (x : Index) : Index :=
  { x with cur := x.cur.rebase f, old := x.old.map fun o => (f o.1, o.2.rebase f), next := x.next.map fun o => (f o.1, o.2.rebase f),
           rowsFreeable := x.rowsFreeable.map fun r => (r.1, f r.2), tombLog := x.tombLog.map fun t => (t.1, f t.2),
           dropped := x.dropped.map f }

/-- The stamps of a table. -/
def Table.rebase (f : Nat → Nat) (t : Table) : Table :=
  { t with rows := t.rows.map fun r => (r.1, { r.2 with frame := f r.2.frame, older := r.2.older.map fun o => (f o.1, o.2) })
           saved := t.saved.map fun r => (r.1, (f r.2.1, r.2.2)), pass := t.pass.map fun p => (f p.1, p.2), closed := f t.closed
           captures := t.captures.map fun c => { c with frame := f c.frame }, dropped := t.dropped.map f }

/-- A journalled row that a later checkpoint has overtaken: it is never replayed (R210). -/
def State.overtaken (s : State) (e : JEntry) : Bool :=
  e.typ == 4 && (match tget s.tables (objKey e.slot e.object), e.body with
    | some t, [_, r, _] => (match tget t.saved r with | some v => decide (e.frame < v.1) | none => false)
    | _, _ => true)

/-- The stamps of the flash subsystem. -/
def Flash.rebase (f : Nat → Nat) (x : Flash) : Flash :=
  let j := fun (e : JEntry) => { e with frame := f e.frame }
  { x with journal := x.journal.map j, jPending := x.jPending.map j, heldKey := x.heldKey.map j,
           dirtyMap := x.dirtyMap.map (fun d => (d.1, f d.2)), progs := x.progs.map (fun p => { p with frame := f p.frame, entries := p.entries.map j }),
           mapWrites := x.mapWrites.map (fun d => (d.1, f d.2)), left := x.left.map (fun d => (d.1, f d.2)),
           folios := x.folios.map fun p => (p.1, { p.2 with closed := p.2.closed.map f }) }

/-- The stamps of the power part. -/
def Power.rebase (f : Nat → Nat) (p : Power) : Power :=
  { p with want := p.want.map fun w => (w.1, f w.2), wantService := p.wantService.map fun w => (w.1, f w.2),
           dip := p.dip.map fun d => (f d.1, d.2), drainFrom := p.drainFrom.map f, heldStarts := p.heldStarts.map f }

/-- Every stamp of the node that counts frames of its own numbering. -/
def State.rebase (f : Nat → Nat) (s : State) : State :=
  { s with
    indexes := s.indexes.map fun p => (p.1, p.2.rebase f)
    sets := s.sets.map fun p => (p.1, { p.2 with stamp := f p.2.stamp, bitLog := p.2.bitLog.map (fun b => (f b.1, b.2)), dropped := p.2.dropped.map f })
    tables := s.tables.map fun p => (p.1, p.2.rebase f)
    graphs := s.graphs.map fun p => (p.1, { p.2 with older := p.2.older.map (fun o => (f o.1, o.2)), next := p.2.next.map fun o => (f o.1, o.2) })
    streams := s.streams.map fun x =>
      let g := fun (p : Palette) => { p with pub := f p.pub }
      { x with cur := x.cur.map g, prev := x.prev.map g, next := x.next.map g }
    listOps := s.listOps.map fun o => { o with frame := f o.frame, event := o.event.map f }
    migs := s.migs.map fun m => { m with start := f m.start, ended := m.ended.map f, sent := (f m.sent.1, m.sent.2), bytes := (f m.bytes.1, m.bytes.2) }
    builds := s.builds.map fun b => { b with since := f b.since }
    durs := s.durs.map fun d => { d with frame := f d.frame }
    planned := s.planned.map fun p => { p with frame := f p.frame }
    dram := { s.dram with suspects := s.dram.suspects.map (fun q => (q.1, q.2.1, f q.2.2)), pcFails := s.dram.pcFails.map fun q => (f q.1, q.2) }
    flash := Flash.rebase f { s.flash with journal := s.flash.journal.filter fun e => !s.overtaken e }
    units := { s.units with arrFails := s.units.arrFails.map (fun q => (f q.1, q.2)), tileFails := s.units.tileFails.map fun q => (f q.1, q.2) }
    chans := s.chans.map fun p => (p.1, { p.2 with faultAt := p.2.faultAt.map f })
    ports := s.ports.map fun p => { p with charges := p.charges.map (fun c => (c.1, f c.2)), authAt := p.authAt.map f }
    easel := { s.easel with resume := f s.easel.resume }
    power := s.power.rebase f }

/-- The new number of a stamp when frame `last` is followed by frame `next`: as many frames ago as before. -/
def ageKept (last next f : Nat) : Nat := f + next - (last + 1)

end Sys2Proof.Machine
end

