-- ==== Sys2Proof/Machine/Time.lean ====
section
/-! DEFINITION. Network time: the choice of a grandmaster (R297), the time exchange and the lock (R298), PPS_IN (R300), and the
commands TIME_EXCHANGE, GM_ADVERT_LOSS, PPS_IN_EDGE and PPS_TIMEOUT. -/

namespace Sys2Proof.Machine

/-- Whether rank a is better than rank b: the triple (PPS, GM_PRIORITY, logical ID), lower first (R297). -/
def rankLt (a b : Nat × Nat × Nat) : Bool :=
  decide (a.1 < b.1) || (a.1 == b.1 && (decide (a.2.1 < b.2.1) || (a.2.1 == b.2.1 && decide (a.2.2 < b.2.2))))

/-- The node's own rank. -/
def State.ownRank (s : State) : Nat × Nat × Nat := (if s.time.ppsLocked then 0 else 1, s.time.priority, s.frame.logicalId)

/-- Whether a port of a lane mask is up. -/
def upMask (lanes : Nat) : Bool := decide (3 ≤ popCount 4 lanes)

/-- Advertisements that count: on up ports, with fewer than 15 hops. -/
def State.goodAdverts (s : State) : List (Nat × Nat × Nat × Nat × Nat) :=
  s.time.adverts.filter fun a => decide (a.2.2.2.2 < 15) && (match s.ports[a.1]? with | some p => upMask p.lanes | none => false)

/-- The best advertisement: best rank, then fewest hops, then lowest port. -/
def bestAdvert : List (Nat × Nat × Nat × Nat × Nat) → Option (Nat × Nat × Nat × Nat × Nat)
  | [] => none
  | a :: r =>
    match bestAdvert r with
    | none => some a
    | some b =>
      let ra := (a.2.1, a.2.2.1, a.2.2.2.1)
      let rb := (b.2.1, b.2.2.1, b.2.2.2.1)
      if rankLt rb ra || (ra == rb && (decide (b.2.2.2.2 < a.2.2.2.2))) then some b else some a

/-- Selection of the grandmaster (R297); a change of grandmaster is counted. A node that has not joined is its own. -/
def State.selectGm (s : State) : State :=
  let t := s.time
  let own : Nat × Nat := (s.frame.logicalId, 0)
  let pick : Nat × Nat × Nat × Bool :=
    match if s.frame.joined then bestAdvert s.goodAdverts else none with
    | some a =>
      if rankLt (a.2.1, a.2.2.1, a.2.2.2.1) s.ownRank then (a.1, a.2.2.2.2 + 1, a.2.2.2.1, false)
      else (15, own.2, own.1, true)
    | none => (15, own.2, own.1, true)
  { s with time := { t with upPort := pick.1, hops := pick.2.1, gmId := pick.2.2.1, isGm := pick.2.2.2,
                            gmChanges := if pick.2.2.1 = t.gmId then t.gmChanges else t.gmChanges + 1 } }

/-- The offset and the link delay of four timestamps, in half ns, as R298 writes them. -/
def exchangeOffset (t1 t2 t3 t4 : Nat) : Int := ((t2 : Int) - t1) - ((t3 : Int) - t4)
def exchangeDelay (t1 t2 t3 t4 : Nat) : Int := ((t4 : Int) - t1) - ((t3 : Int) - t2)

/-- The lock counters after an offset in half ns (R298): locked after 64 consecutive exchanges within 2 ns, unlocked after 4
consecutive ones beyond 5 ns. -/
def TimeSt.exchange (t : TimeSt) (off2 : Int) : TimeSt :=
  let good := if off2.natAbs ≤ 4 then t.goodRun + 1 else 0
  let bad := if 10 < off2.natAbs then t.badRun + 1 else 0
  { t with goodRun := good, badRun := bad, offsetPs := off2 * 500,
           locked := if 4 ≤ bad then false else if 64 ≤ good then true else t.locked }

/-- The frequency steer is free within 0.1 ppm of the frame, in ps per frame (R298: no law of steering is given; log entry
2). -/
def State.steerFree (s : State) : State :=
  let b := s.frame.len / 10
  let f := s.free
  { f.2 with time := { f.2.time with steer := ((f.1 % (2 * b + 1) : Nat) : Int) - b } }

/-- TIME_EXCHANGE: the partner's advertisement is kept, the port's link delay set, and on the upstream port the offset, the
steer and the lock (R297, R298). -/
def State.timeExchange (s : State) (port t1 t2 t3 t4 pps prio gm hops : Nat) : State :=
  let up := s.time.upPort
  let s1 := { s with
    ports := setAt s.ports port fun p => { p with delay := (exchangeDelay t1 t2 t3 t4 / 2).toNat % 65536 },
    time := { s.time with adverts := tput s.time.adverts port (pps, prio, gm, hops),
                          silent := if gm = s.time.gmId then 0 else s.time.silent } }
  let s2 := if port = up then
      State.steerFree { s1 with time := s1.time.exchange (exchangeOffset t1 t2 t3 t4) }
    else s1
  s2.selectGm

def execTimeExchange (port t1 t2 t3 t4 pps prio gm hops : Nat) (s : State) : Answer :=
  whenLive (fun s => if s.power.state = 4 then s else s.timeExchange port t1 t2 t3 t4 pps prio gm hops) s

/-- The grandmaster's advertisement has been missing for 3 frames: it is forgotten and the node re-selects, holding its
frequency (R300). -/
def State.advertLoss (s : State) : State :=
  State.selectGm { s with time := { s.time with adverts := s.time.adverts.filter fun a => a.2.2.2.1 != s.time.gmId, silent := 0 } }

def execGmAdvertLoss (s : State) : Answer := whenLive State.advertLoss s

/-- A rising edge of PPS_IN: PPS_LOCKED is set after 16 consecutive edges within 50 ns, cleared by one more than 1 µs off
(R300); a grandmaster steers by it. -/
def State.ppsEdge (s : State) (offset : Int) : State :=
  let run := if offset.natAbs ≤ 50 then s.time.ppsRun + 1 else 0
  let lock := if 1000 < offset.natAbs then false else if 16 ≤ run then true else s.time.ppsLocked
  let s1 := { s with time := { s.time with ppsRun := run, ppsLocked := lock } }
  (if s1.time.isGm then s1.steerFree else s1).selectGm

def execPpsInEdge (offset : Int) (s : State) : Answer := whenLive (fun s => s.ppsEdge offset) s

/-- No edge for 1.5 s (R300). -/
def execPpsTimeout (s : State) : Answer :=
  whenLive (fun s => State.selectGm { s with time := { s.time with ppsRun := 0, ppsLocked := false } }) s

end Sys2Proof.Machine
end

