-- ==== Sys2Proof/Machine/Members.lean ====
section
/-! DEFINITION. Ulla membership: heartbeats, misses and suspicion (R402, R403), self-suspicion (R391), orders and their
installation (R406, R407), shadowing (R408 to R411), promotion (R412), joining and leaving (R18, R405, R459); the commands
ARRAY_JOIN, ARRAY_LEAVE, SHADOW_START, SPARE_PROMOTE, TAKEOVER_CONFIRM, CONTROL_SLOT, ULLA_HEARTBEAT, MISS_REPORT, ORDER_INSTALL,
ROLLBACK, SHADOW_PASSED, NODE_UNLOCKED_LIMIT, ARRAY_LEAVE_EFFECT. -/

namespace Sys2Proof.Machine

/-! ### Suspicion -/

/-- The node suspects itself: FENCED from the next frame (R391), recorded as a fault with action 4 (R386). -/
def State.selfSuspect (s : State) (kind unit : Nat) : State :=
  if s.member.selfSuspect || s.member.fencePend then s
  else { s.faultRecord kind unit 4 0 with member := { s.member with fencePend := true } }

/-- From the frame after, the node is fenced: every command that has landed or been admitted here completes ABANDONED in
that frame, and nothing is published (R391). -/
def State.fenceNow (s : State) : State :=
  if s.member.fencePend then
    { s with member := { s.member with fencePend := false, selfSuspect := true, fenced := true, fenceLand := s.nextLand },
             updIn := [], heldUpd := [], staged := [],
             work := s.work.map fun c => if c.open && c.done.isNone then { c with done := some (c.outcome s stAbandoned),
                                                                                  elig := s.frame.num } else c }
  else s

/-- A logical ID becomes suspect: NODE_SUSPECT is raised (R403); this node itself is fenced. -/
def State.suspect (s : State) (x : Nat) : State :=
  if s.member.suspects.contains x then s
  else
    let s1 := { s with member := { s.member with suspects := insNat x s.member.suspects } }
    let s2 := s1.raiseNode 0x0A x 0 0
    if x = s.frame.logicalId then s2.selfSuspect 13 x else s2

/-- Whether a place has changed hands since a frame: what told of its former node no longer counts (R406, R412; DEDUCED, log entry 96). -/
def Member.renewed (m : Member) (x f : Nat) : Bool :=
  m.installed.any fun o => (o.kind == 1 || o.kind == 4) && o.subject == x && decide (f < o.frame % 2 ^ 32)

/-- The logical IDs that reports of two distinct witnesses, their own heartbeat of a frame before, or held orders make suspect (R403). -/
def suspectsOf (m : Member) (frame : Nat) : List Nat :=
  let rs := m.reports.filter fun r => !m.renewed r.missing r.frame
  ((dedup (rs.map (·.missing))).filter fun x => decide (2 ≤ (dedup ((rs.filter fun r => r.missing == x).map (·.witness))).length)) ++
  ((m.selfSaid.filter fun p => decide (p.2 < frame) && !m.renewed p.1 (p.2 % 2 ^ 32)).map (·.1)) ++
  ((m.orders.filter fun o => (o.kind == 1 || o.kind == 5) && !m.installed.contains o).map (·.subject))

/-- Old reports go, the 32 newest stay, and suspicion is judged (R403). -/
def State.judge (s : State) : State :=
  let rs := s.member.reports.filter fun r => decide ((s.frame.num % 2 ^ 32 + 2 ^ 32 - r.frame) % 2 ^ 32 ≤ 64)
  let s1 := { s with member := { s.member with reports := rs.drop (rs.length - 32) } }
  (suspectsOf s1.member s.frame.num).foldl State.suspect s1

/-- Which partner a port has. -/
def State.partner (s : State) (p : Nat) : Option Nat :=
  let n := (s.port p).neighbour
  if n < 576 then some n else none

/-- One port's heartbeat missed (R403): the first miss is a fault record, the third a report. -/
def State.missOne (s : State) (p : Nat) : State :=
  match s.partner p with
  | none => s
  | some n =>
    let k := tgetD s.member.miss n 0 + 1
    let s1 := { s with member := { s.member with miss := tput s.member.miss n k } }
    if k = 1 then s1.faultRecord 13 n 5 0
    else if k = 3 then
      { s1 with member := { s1.member with reports := s1.member.reports ++
          [{ witness := s.frame.logicalId, missing := n, frame := s.frame.num % 2 ^ 32 }] } }
    else s1

/-- Whether heartbeats of every port partner have been missed for 3 frames (R391). -/
def State.allSilent (s : State) : Bool :=
  let ns := ((List.range 8).filter s.portUp).filterMap s.partner
  !ns.isEmpty && ns.all fun n => decide (3 ≤ tgetD s.member.miss n 0)

/-- MISS_REPORT: the third consecutive miss of a port's partner adds a report; CONTROL_SLOT has added it when it comes
first. -/
def State.missReport (s : State) (p : Nat) : State :=
  match s.partner p with
  | none => s
  | some n =>
    if 3 ≤ tgetD s.member.miss n 0 ∧
        !(s.member.reports.any fun r => r.witness == s.frame.logicalId && r.missing == n) then
      State.judge { s with member := { s.member with reports := s.member.reports ++
        [{ witness := s.frame.logicalId, missing := n, frame := s.frame.num % 2 ^ 32 }] } }
    else s

def execMissReport (port : Nat) (s : State) : Answer := whenLive (fun s => s.missReport port) s

/-! ### Heartbeats -/

/-- ENTRY_DIGEST of the easel in force; zero when there is none. -/
def State.activeDigest (s : State) : Nat := match s.easel.inForce with | some e => e.digest | none => 0

/-- Slots FAULTED at this node. -/
def State.faultedMask (s : State) : Nat :=
  ((s.chans.filter fun p => p.2.st == .faulted).map fun p => 2 ^ p.1).sum

/-- The heartbeat of this frame (R402): at most 4 orders, the newest, and 32 reports. -/
def State.heartbeat (s : State) : Heartbeat :=
  let m := s.member
  { sender := s.frame.logicalId, locked := s.time.locked, selfSuspect := m.selfSuspect, fenced := m.fenced,
    shadowing := m.shadow.isSome, frame := s.frame.num, frameDigest := m.digest, entryDigest := s.activeDigest,
    faulted := s.faultedMask, orders := m.orders.drop (m.orders.length - 4), reports := m.reports }

/-- CONTROL_SLOT: the whole slot. Heartbeats received in it have come before it; misses are counted (R403), the reports
judged, the grandmaster's silence counted (R300), and the node's time exchange and heartbeat go out on every up port (R289,
R402). A node that has not joined sends no heartbeat (log entry 14). -/
def State.controlSlot (s : State) : State :=
  let up := (List.range 8).filter s.portUp
  let s0 := { s with time := { s.time with silent := s.time.silent + 1 } }
  let s1 := up.foldl (fun acc p => acc.emit (.timeSync p (if s.time.ppsLocked then 0 else 1) s.time.priority s.time.gmId
    s.time.hops)) s0
  if !s.frame.joined then s1
  else
    let s2 := ((up.filter fun p => !s.member.heard.contains p).foldl State.missOne s1).judge
    let s3 := if s2.allSilent then s2.selfSuspect 13 s.frame.logicalId else s2
    up.foldl (fun acc p => acc.emit (.heartbeat p s3.heartbeat)) { s3 with member := { s3.member with heard := [] } }

def execControlSlot (s : State) : Answer := whenLive State.controlSlot s

/-- A heartbeat is valid (R403): the digests need not agree in frames A − 2 to A + 1 of an arm. -/
def State.validBeat (s : State) (hb : Heartbeat) (crcOk : Bool) : Bool :=
  let close := fun (a : Nat) => decide (a ≤ s.frame.num + 2) && decide (s.frame.num ≤ a + 1)
  let near := (match s.easel.arm with | some (a, _) => close a | none => false) || s.easel.lastA.any close
  crcOk && hb.frame == s.frame.num && !hb.fenced && (hb.entryDigest == s.activeDigest || near)

/-- Orders merged: of two TAKEOVER or VACATE orders for one place the one with the lower ISSUER prevails (R406). Orders whose effect frames
lie 16 frames apart or more are of different failures of the place: the later one stands (DEDUCED, log entry 96). -/
def mergeOrder (l : List Order) (o : Order) : List Order :=
  let take := fun (k : Nat) => k == 1 || k == 5
  if l.contains o then l
  else if take o.kind then
    match l.find? fun x => take x.kind && x.subject == o.subject with
    | some x => if x.frame + 16 ≤ o.frame ∨ (o.frame < x.frame + 16 ∧ x.frame < o.frame + 16 ∧ o.issuer < x.issuer) then
        (l.filter fun y => y != x) ++ [o] else l
    | none => l ++ [o]
  else l ++ [o]

/-- Reports merged. -/
def mergeReport (l : List MissReport) (r : MissReport) : List MissReport := if l.contains r then l else l ++ [r]

/-- A link partner on P6 or P7 that says SHADOWING makes this node its target, one that no longer says so ends it (R408, R409, R411). A
node that shadows itself is no target. -/
def State.seenShadow (s : State) (port : Nat) (hb : Heartbeat) : State :=
  match s.member.mirror with
  | some x => if x.shadow = hb.sender ∧ !hb.shadowing then { s with member := { s.member with mirror := none } } else s
  | none =>
    if hb.shadowing ∧ (port = 6 ∨ port = 7) ∧ 512 ≤ hb.sender ∧ s.member.shadow.isNone then
      { s with member := { s.member with mirror := some { shadow := hb.sender, port := port, done := [], live := false, sent := 0,
                                                          count := 0, full := false } } }
    else s

/-- An order logged: TYPE 0x0C (R406). -/
def State.logOrder (s : State) (o : Order) : State :=
  s.logAdd 0x0C 0 0 o.subject (o.kind + o.phys * 2 ^ 8 + o.issuer * 2 ^ 18 + o.frame * 2 ^ 64)

/-- ULLA_HEARTBEAT (R403): a valid one clears its port's misses, its reports and orders are merged, each order new to the node is logged
(R406), and a sender that says SELF_SUSPECT is suspect from the next frame. -/
def State.takeBeat (s : State) (port : Nat) (hb : Heartbeat) (crcOk : Bool) : State :=
  if !s.frame.joined || !s.validBeat hb crcOk then s
  else
    let m := s.member
    let s1 := { s.mapPort port (fun p => { p with neighbour := hb.sender }) with
      member := { m with miss := tdel m.miss hb.sender, heard := insNat port m.heard,
                         reports := hb.reports.foldl mergeReport m.reports, orders := hb.orders.foldl mergeOrder m.orders,
                         targetDigest := match m.shadow with
                           | some sh => if sh.target = hb.sender then some hb.frameDigest else m.targetDigest
                           | none => m.targetDigest
                         selfSaid := if hb.selfSuspect then (m.selfSaid.filter fun (p : Nat × Nat) => p.1 != hb.sender) ++ [(hb.sender, s.frame.num)]
                           else m.selfSaid.filter fun (p : Nat × Nat) => p.1 != hb.sender } }
    ((((s1.member.orders.filter fun o => !m.orders.contains o).foldl State.logOrder s1)).seenShadow port hb).judge

def execUllaHeartbeat (port : Nat) (hb : Heartbeat) (crcOk : Bool) (s : State) : Answer :=
  whenLive (fun s => s.takeBeat port hb crcOk) s

/-- NODE_UNLOCKED_LIMIT: 4,096 frames unlocked make the node self-suspect (R391). -/
def execNodeUnlockedLimit (s : State) : Answer :=
  whenLive (fun s => if s.time.locked then s else s.selfSuspect 13 s.frame.logicalId) s

/-! ### Orders -/

/-- The group of a logical ID. -/
def State.groupOf (s : State) (x : Nat) : Option (Nat × Nat × Nat) :=
  s.member.groups.find? fun g => decide (g.1 ≤ x) && decide (x < g.1 + g.2.1)

/-- The leader of a group: its lowest ID neither suspect nor fenced (R406). -/
def State.leaderOf (s : State) (g : Nat × Nat × Nat) : Option Nat :=
  ((List.range g.2.1).map (g.1 + ·)).find? fun x =>
    !s.member.suspects.contains x && !(x == s.frame.logicalId && s.member.fenced)

/-- Whether a spare holds a place: by a TAKEOVER that no installed ROLLBACK has undone (R406, R407). -/
def Member.holdsPlace (m : Member) (spare : Nat) : Bool :=
  m.orders.any fun o => o.kind == 1 && o.phys == spare &&
    !(m.installed.any fun c => c.kind == 2 && c.subject == o.subject && c.phys == spare && decide (o.frame < c.frame))

/-- Whether a group's spare may take a place: healthy, holding none, reachable (R406). -/
def State.spareFree (s : State) (spare : Nat) : Bool :=
  !s.member.suspects.contains spare && !s.member.holdsPlace spare && tgetD s.member.relay spare 0x00FF % 16 != 15

/-- An order issued here. -/
def State.issue (s : State) (o : Order) : State :=
  { s.logOrder o with member := { s.member with orders := mergeOrder s.member.orders o } }

/-- H of R407 in frames. -/
def State.holdFrames (s : State) : Nat := ceilDiv (s.frame.takeoverHold * 1000) s.frame.len

/-- The leader's part of R406: an order for each suspect of its group without one that is still to be installed. The place that a failed
spare held is vacated: its TAKEOVER has had its effect (R407, concurrent faults). -/
def State.lead (s : State) : State :=
  if !s.frame.joined || s.member.fenced then s
  else
    s.member.suspects.foldl (fun acc x =>
      match acc.groupOf x with
      | none => acc
      | some g =>
        if acc.leaderOf g != some s.frame.logicalId || acc.member.vacated.contains x ||
            (acc.member.orders.any fun o => (o.kind == 1 || o.kind == 5) && o.subject == x && !acc.member.installed.contains o) then acc
        else
          let k := acc.spareFree g.2.2
          acc.issue { kind := if k then 1 else 5, subject := x, phys := if k then g.2.2 else 0, issuer := s.frame.logicalId,
                      frame := s.frame.num + 16 }) s

/-- A rollback is due for a takeover (R407): H + 16 frames after T, without a CONFIRM accepted before T + H. -/
def State.rollbackDue (s : State) (o : Order) : Bool :=
  o.kind == 1 && decide (o.frame + s.holdFrames + 16 ≤ s.frame.num) &&
  !(s.member.orders.any fun c => c.kind == 3 && c.subject == o.subject && decide (c.frame < o.frame + s.holdFrames)) &&
  !(s.member.orders.any fun c => c.kind == 2 && c.subject == o.subject)

/-- The leader issues ROLLBACK for a takeover of a subject (R407). -/
def State.rollback (s : State) (subject : Nat) : State :=
  match s.member.orders.find? fun o => o.subject == subject && s.rollbackDue o with
  | none => s
  | some o =>
    match s.groupOf subject with
    | none => s
    | some g =>
      if s.leaderOf g != some s.frame.logicalId || s.member.fenced then s
      else s.issue { kind := 2, subject := subject, phys := o.phys, issuer := s.frame.logicalId,
                     frame := o.frame + s.holdFrames + 32 }

/-- ROLLBACK by its own event; COMMIT_WINDOW has issued it when it comes first. -/
def execRollback (subject : Nat) (s : State) : Answer := whenLive (fun s => s.rollback subject) s

/-- Every rollback due. -/
def State.rollbacks (s : State) : State := (dedup (s.member.orders.map (·.subject))).foldl State.rollback s

/-- Every holding of a place OUT_OF_STEP, its partners ACTING (R406). -/
def State.outOfStep (s : State) (x : Nat) : State :=
  (s.holdingsOf x).foldl (fun acc h => acc.setHolding x h.1 h.2.1 h.2.2 1) s

/-- The relay entry of a place takes the value of another's, which becomes 0x00FF (R406, R412). -/
def moveRelay (t : Tbl Nat) (x phys : Nat) : Tbl Nat := tput (tput t x (tgetD t phys 0x00FF)) phys 0x00FF

/-- One order installed at step 4 of the commit window of T − 1 (R406, R407, R412). -/
def State.installOrder (s : State) (o : Order) : State :=
  let m := s.member
  let me := s.frame.logicalId
  let s0 := { s with member := { m with installed := m.installed ++ [o] } }
  match o.kind with
  | 1 =>
    let s1 := { s0 with member := { s0.member with
      savedRelay := tput m.savedRelay o.subject (tgetD m.relay o.subject 0x00FF), relay := moveRelay m.relay o.subject o.phys,
      promote := if o.phys = me then some (o.subject, o.frame) else m.promote,
      suspects := m.suspects.filter (· != o.subject) } }
    (((s1.outOfStep o.subject).cancelMoves o.subject).raiseNode 0x09 o.subject o.phys 0)
  | 5 =>
    let s1 := { s0 with member := { s0.member with vacated := insNat o.subject m.vacated } }
    (((s1.outOfStep o.subject).cancelMoves o.subject).raiseNode 0x09 o.subject o.subject 0)
  | 2 =>
    let back := tput (tput m.relay o.phys (tgetD m.relay o.subject 0x00FF)) o.subject (tgetD m.savedRelay o.subject 0x00FF)
    let s1 := { s0 with member := { s0.member with
      relay := back, vacated := insNat o.subject m.vacated, savedRelay := tdel m.savedRelay o.subject,
      promote := if me = o.subject then some (o.phys, o.frame) else m.promote } }
    let s2 := if me = o.subject then
        (s1.holdingsOf me).foldl (fun acc h =>
          (acc.mapIndex h.1 h.2.1 fun x => { x with cur := { x.cur with lists := tdel x.cur.lists h.2.2 }, rowsUsed := [] }).mapTable
            h.1 h.2.1 fun t => { t with rows := t.rows.filter fun p => p.1 / t.attr.shardRows != h.2.2 }) s1
      else s1
    s2.cancelMoves o.subject
  | 4 =>
    { s0 with member := { s0.member with
      relay := moveRelay m.relay o.subject o.phys, vacated := m.vacated.filter (· != o.subject),
      suspects := m.suspects.filter (· != o.subject),
      orders := m.orders.filter fun x => x == o || x.subject != o.subject,
      promote := if o.phys = me then some (o.subject, o.frame) else m.promote } }
  | _ => s0

/-- Orders whose effect frame is the next one, or has passed, and that are not installed. -/
def State.dueOrders (s : State) : List Order :=
  s.member.orders.filter fun o => o.kind != 3 && decide (o.frame ≤ s.frame.num + 1) && !s.member.installed.contains o

/-- ORDER_INSTALL, at step 4 of the commit window of T − 1; COMMIT_WINDOW has done it when it comes first. -/
def State.installOrders (s : State) : State := s.dueOrders.foldl State.installOrder s

def execOrderInstall (s : State) : Answer := whenLive State.installOrders s

/-- A shadow's copies, its target's channel keys among them, discarded with the shadowing itself (R408, R412). -/
def State.dropCopies (s : State) : State :=
  if (match s.member.shadow with | some x => x.copied | none => false) then
    { s with
      chans := [], work := [], ownerQs := [], ownerFs := [], updIn := [], heldUpd := [], staged := [], durs := [], listOps := [], indexes := []
      sets := [], tables := [], graphs := [], streams := [], builds := [], inbox := [], outbox := []
      dram := { s.dram with mem := [] }
      flash := { s.flash with recs := [], keys := [], folios := [], openFolio := [] }
      member := { s.member with holdings := [], shadow := none } }
  else { s with member := { s.member with shadow := none } }

/-- The end of shadowing, logged with its outcome (R411). -/
def State.shadowEnd (s : State) (outcome : Nat) : State :=
  match s.member.shadow with
  | none => s
  | some sh => (s.logAdd 0x0D 0 0 sh.clean outcome).dropCopies

/-- From its effect frame the node carries its new logical ID (R406, R412): a shadow's copies are discarded. -/
def State.takePlace (s : State) : State :=
  match s.member.promote with
  | none => s
  | some (x, f) =>
    if f ≤ s.frame.num then
      let s1 := s.shadowEnd 0
      { s1 with frame := { s1.frame with logicalId := x }, member := { s1.member with promote := none } }
    else s

/-! ### TAKEOVER_CONFIRM, SPARE_PROMOTE, SHADOW_START -/

/-- TAKEOVER_CONFIRM (R407): refused unless the order is held and T + H has not come. -/
def confirmBody (g : Go) : MbBody := fun s =>
  let x := g.arg 0x14 0 10
  let t := g.arg 0x18 0 48
  let held := s.member.orders.any fun o => o.kind == 1 && o.subject == x && o.frame == t
  checked [g.pfOnly, inv [g.strayArgs [(0x14, 0, 10), (0x18, 0, 48)], (!held, 0x14),
      (decide (t + s.holdFrames ≤ s.frame.num), 0x18)]] (fun s =>
    (s.issue { kind := 3, subject := x, phys := 0, issuer := s.frame.logicalId, frame := s.acceptFrame g.cycle }, MbRes.ok)) s

def execTakeoverConfirm (g : Go) (s : State) : Answer := mailbox false 0x0064 g (confirmBody g) s

/-- A place that SPARE_PROMOTE may name: vacant, or the SPARE_ID of a group whose spare holds a place or is absent (R412). -/
def State.placeOpen (s : State) (x : Nat) : Bool :=
  s.member.vacated.contains x ||
  s.member.groups.any fun g => g.2.2 == x &&
    (s.member.holdsPlace x || tgetD s.member.relay x 0x00FF % 16 == 15)

/-- SPARE_PROMOTE (R412): a PROMOTE order with its effect frame, at least 16 frames after acceptance. -/
def promoteBody (g : Go) : MbBody := fun s =>
  let x := g.arg 0x14 0 10
  let f := g.arg 0x18 0 48
  let passed := match s.member.shadow with | some sh => sh.passed | none => false
  checked [g.pfOnly, inv [g.strayArgs [(0x14, 0, 10), (0x18, 0, 48)], (!passed || !s.placeOpen x, 0x14),
      (decide (f < s.acceptFrame g.cycle + 16), 0x18)]] (fun s =>
    (s.issue { kind := 4, subject := x, phys := s.frame.logicalId, issuer := s.frame.logicalId, frame := f },
     { later := true })) s

def execSparePromote (g : Go) (s : State) : Answer := mailbox false 0x0063 g (promoteBody g) s

/-- The port on P6 or P7 whose partner is a target. -/
def State.auxPort (s : State) (target : Nat) : Option Nat := [6, 7].find? fun p => s.portUp p && s.partner p == some target

/-- SHADOW_START (R408): the checks that need the target are its operands. -/
def shadowBody (g : Go) (relayNames shadowed encrypt : Bool) : MbBody := fun s =>
  let t := g.arg 0x14 0 10
  let me := s.frame.logicalId
  let port := s.auxPort t
  let plain := match port with | some p => !(s.port p).encrypted | none => true
  let bad := port.isNone || relayNames || shadowed || !s.frame.joined || decide (me < 512) || s.member.fenced ||
    s.member.groups.any (fun x => x.2.2 == me) || (encrypt && plain)
  checked [g.pfOnly, inv [g.strayArgs [(0x14, 0, 10)], (bad, 0x14)]] (fun s =>
    ({ s with member := { s.member with shadow := some { target := t, port := port.getD 6, copied := false, clean := 0,
                                                         passed := false, inputs := [], since := 0 } } }, MbRes.ok)) s

def execShadowStart (g : Go) (relayNames shadowed encrypt : Bool) (s : State) : Answer :=
  mailbox false 0x0062 g (shadowBody g relayNames shadowed encrypt) s

/-- Comparison of the frame digests at a shadow (R410, R411): equal digests make a clean frame, different ones end the
shadowing; the target fenced or taken over ends it too. -/
def State.shadowCheck (s : State) : State :=
  match s.member.shadow with
  | none => s
  | some sh =>
    if s.member.suspects.contains sh.target || s.member.vacated.contains sh.target then s.shadowEnd 3
    else if !sh.copied || decide (s.frame.num ≤ sh.since + 1) then s
    else
      match s.member.targetDigest with
      | none => s
      | some d =>
        if d = s.member.digest then
          { s with member := { s.member with targetDigest := none, shadow := some { sh with clean := sh.clean + 1 } } }
        else s.shadowEnd 1

/-- SHADOW_PASSED: SHADOW_FRAMES consecutive clean frames (R411). -/
def State.shadowPassed (s : State) : State :=
  match s.member.shadow with
  | some sh =>
    if s.frame.shadowFrames ≤ sh.clean then { s with member := { s.member with shadow := some { sh with passed := true } } } else s
  | none => s

def execShadowPassed (s : State) : Answer := whenLive State.shadowPassed s

/-! ### Joining and leaving -/

/-- The relay table of a buffer (R283). -/
def relayOf (bs : Bytes) : Tbl Nat := (List.range 576).map fun i => (i, rd bs (2 * i) 2)

/-- The first relay entry with a reserved bit, or a port that is neither 0 to 7 nor 0xF. -/
def badRelay (bs : Bytes) : Option Nat :=
  ((List.range 576).find? fun i =>
    let e := rd bs (2 * i) 2
    let bad := fun (p : Nat) => decide (7 < p) && p != 15
    decide (255 < e) || bad (e % 16) || bad (e / 16)).map (2 * ·)

/-- The spare-group table, up to its entry of zero (R405): FIRST_ID, COUNT, SPARE_ID. -/
def groupsOf : Nat → Bytes → Nat → List (Nat × Nat × Nat × Nat)
  | 0, _, _ => []
  | n + 1, bs, i =>
    let e := rd bs (8 * i) 8
    if e = 0 then [] else (e % 1024, bitsOf e 16 7, bitsOf e 32 10, e) :: groupsOf n bs (i + 1)

/-- A spare-group entry breaks a range or a reserved bit. -/
def badGroup (x : Nat × Nat × Nat × Nat) : Bool :=
  decide (511 < x.1) || decide (x.2.1 < 8) || decide (64 < x.2.1) || decide (512 < x.1 + x.2.1) || decide (x.2.2.1 < 512) ||
  decide (575 < x.2.2.1) || x.2.2.2 != x.1 + x.2.1 * 2 ^ 16 + x.2.2.1 * 2 ^ 32

/-- The first entry of the spare-group table that breaks R405, as its offset. -/
def badGroups (bs : Bytes) : Option Nat :=
  let l := groupsOf 65 bs 0
  if l.isEmpty then some 0
  else if 64 < l.length then some 512
  else
    ((l.mapIdx fun i x => (i, x)).find? fun p =>
      badGroup p.2 ||
      (l.take p.1).any fun y => decide (y.1 < p.2.1 + p.2.2.1) && decide (p.2.1 < y.1 + y.2.1)).map fun p => 8 * p.1

def joinLayout : Layout :=
  [(0x14, 0, 10), (0x14, 16, 10), (0x18, 0, 64), (0x20, 0, 64), (0x28, 0, 14), (0x2C, 0, 32), (0x30, 0, 64)]

/-- Whether an epoch and a frame length (in µs) disagree with the frame number that the membership listen heard (R437). -/
def State.unlikeHeard (s : State) (epoch len : Nat) : Bool :=
  match s.boot.heard with
  | some (f, t) => !(decide (epoch + f * len * 1000 ≤ t) && decide (t < epoch + (f + 1) * len * 1000))
  | none => false

/-- ARRAY_JOIN (R18, R326, R405, R422, R437, R459): refused when the node is joined or in TEST, and when it disagrees with the
heartbeats heard. A FRAME_LEN below 200 µs shrinks the capacities under shares fixed before it; the spec names no refusal and no cut for
that, and the shares stand, so that their sum can exceed a capacity (DESIGN CHOICE, log entry 72). -/
def joinBody (g : Go) : MbBody := fun s =>
  let lag := orDefault (g.arg 0x28 9 5) 2
  checked [g.pfOnly] (fun s =>
    if s.frame.joined || s.frame.join.isSome || s.power.service == 3 then (s, MbRes.invalidBare)
    else
      checked [inv [g.strayArgs joinLayout, (decide (575 < g.arg 0x14 0 10), 0x14),
          (decide (g.arg 0x14 16 10 < 50) || decide (1000 < g.arg 0x14 16 10), 0x16),
          (s.unlikeHeard (g.arg64 0x18) (g.arg 0x14 16 10), 0x16),
          (g.arg64 0x20 == 0 || g.arg64 0x20 % 64 != 0, 0x20), (decide (16 < lag), 0x29),
          (g.arg64 0x30 == 0 || g.arg64 0x30 % 64 != 0, 0x30)]] (fun s =>
        match g.fail1, badRelay g.ext1, g.fail2.or (badGroups g.ext2) with
        | some o, _, _ => (s, MbRes.invalidIn (0x1000 + o) 0x20)
        | none, some o, _ => (s, MbRes.invalidIn (0x1000 + o) 0x20)
        | none, none, some o => (s, MbRes.invalidIn (0x1000 + o) 0x30)
        | none, none, none =>
          let j : Join :=
            { logicalId := g.arg 0x14 0 10, frameLen := g.arg 0x14 16 10, epoch := g.arg64 0x18, gmPriority := g.arg 0x28 0 8,
              exact := g.arg 0x28 8 1 == 1, buddyLag := lag, takeoverHold := orDefault (g.arg 0x2C 0 16) 100,
              shadowFrames := orDefault (g.arg 0x2C 16 16) 1024, relay := (relayOf g.ext1).map (·.2),
              groups := (groupsOf 64 g.ext2 0).map fun x => (x.1, x.2.1, x.2.2.1) }
          ({ s with frame := { s.frame with join := some (s.acceptFrame g.cycle, j) } }, { later := true })) s) s

def execArrayJoin (g : Go) (s : State) : Answer := mailbox false 0x0060 g (joinBody g) s

/-- Commands admitted before a change of frame numbering complete CUT_OFF in its first frame, and nothing else of them is
published (R459). Landed commands are eligible after that frame, which admits nothing. -/
def State.renumbered (s : State) : State :=
  let j := s.frame.num
  { s with
    frame := { s.frame with admitFrom := j + 1, pendModes := [] }
    updIn := []
    heldUpd := []
    staged := []
    ownerQs := []
    scanParts := []
    ownerFs := []
    outbox := []
    inbox := []
    chans := s.chans.map fun p => (p.1, { p.2 with volatile := [], reissues := [] })
    landings := s.landings.map fun l => { l with elig := j + 1 }
    work := s.work.map fun c =>
      if c.wrote.isSome then c
      else if c.adm.isSome then { c with done := some { c.outcome s stCutOff with frame := j }, elig := j }
      else { c with elig := if c.done.isSome then j else j + 1 } }

/-- An easel of another FRAME_LEN is discarded, with any standby image (R459). -/
def State.dropEasel (s : State) (len : Nat) : State :=
  match s.easel.inForce with
  | some e => if e.frameLen = len then s else { s with easel := { EaselSt.reset with gates := s.easel.gates } }
  | none =>
    match s.easel.standby with
    | some e => if e.frameLen = len then s else { s with easel := EaselSt.reset }
    | none => s

/-- The first frame of a numbering that starts at or after a time (R459). -/
def firstFrame (time epoch len : Nat) : Nat := ceilDiv (time - epoch) (len * 1000)

/-- Network time at the end of the present frame. -/
def State.frameEnd (s : State) : Nat := s.frame.epoch + (s.frame.num + 1) * s.frame.len * 1000

/-- The start of frame j of the array (R459). -/
def State.joinNow (s : State) (j : Join) : State :=
  let n := firstFrame s.frameEnd j.epoch j.frameLen
  let s1 := (s.dropEasel j.frameLen).rebase (ageKept s.frame.num n)
  let s2 := { s1 with
    frame := { s.frame with num := n, cycle := 0, len := j.frameLen, epoch := j.epoch, exact := j.exact, buddyLag := j.buddyLag,
                            joined := true, logicalId := j.logicalId, takeoverHold := j.takeoverHold,
                            shadowFrames := j.shadowFrames, join := none, committed := false, ran := [] }
    time := { s.time with priority := j.gmPriority }
    member := { Member.reset with relay := j.relay.mapIdx fun i e => (i, e), groups := j.groups } }
  (s2.renumbered.selectGm).mbEndCode 0x0060

/-- ARRAY_LEAVE (R18, R326): ACT_FRAME is the first frame outside the array. The spec names no refusal but that of a node that
has not joined (DEDUCED, log entry 14). -/
def leaveBody (g : Go) : MbBody := fun s =>
  checked [g.pfOnly, inv [g.strayArgs [(0x18, 0, 48)]]] (fun s =>
    if !s.frame.joined then (s, MbRes.invalidBare)
    else ({ s with frame := { s.frame with leave := some (g.arg 0x18 0 48) } }, { later := true })) s

def execArrayLeave (g : Go) (s : State) : Answer := mailbox false 0x0061 g (leaveBody g) s

/-- The node leaves at the end of a frame: 200 µs frames from its own time at time lock, no place, no fence, shadowing stopped
(R18, R391, R411); the next frame start begins its own numbering. -/
def State.leaveNow (s : State) : State :=
  let n := max 1 (firstFrame s.frameEnd s.time.lockNs 200)
  let s1 := ((s.shadowEnd 4).dropEasel 200).rebase (ageKept s.frame.num n)
  let s2 := { s1 with
    frame := { s1.frame with num := n, len := 200, epoch := s.time.lockNs, joined := false, logicalId := 0x3FF, leave := none,
                             committed := true }
    member := Member.reset }
  let s3 := s2.renumbered
  { s3 with frame := { s3.frame with num := n - 1 } }.mbEndCode 0x0061

/-- ARRAY_LEAVE_EFFECT, when ACT_FRAME is the next frame or has come (R18); FRAME_START has done it when it comes first. -/
def State.leaveDue (s : State) : State :=
  match s.frame.leave with
  | some a => if a ≤ s.frame.num + 1 then s.leaveNow else s
  | none => s

def execArrayLeaveEffect (s : State) : Answer := whenLive (fun s => if s.frame.committed then s.leaveDue else s) s

end Sys2Proof.Machine
end

