-- ==== Sys2Proof/Machine/Windows.lean ====
section
/-! DEFINITION. When a window runs (R26, R28, R29, R33, R39, R45), which stages a channel has in a frame (R460), cut-offs
(R42, R44), and how a command's data is found at the version it reads (R51, R53, R87). -/

namespace Sys2Proof.Machine

/-! ### Windows -/

/-- Whether a shadow runs its target's frames (R409): its windows then run in those runs. -/
def State.shadows (s : State) : Bool := match s.member.shadow with | some x => x.copied | none => false

/-- Whether windows run in the present frame: not in STANDBY or before the frame in which the easel resumes (R39), not while
fenced (R391), not in the commit window (R20), not at a shadow that runs its target's frames (R409). -/
def State.windowsOpen (s : State) : Bool :=
  !s.shadows && decide (s.power.state < 3) && !s.member.fenced && !s.frame.committed && decide (s.easel.resume ≤ s.frame.num)

/-- An entry takes part in a frame (R33). -/
def EaselEntry.takesPart (e : EaselEntry) (hyper frame : Nat) : Bool := hasBit e.phases (frame % hyper)

/-- The entry n of the easel in force, when its window opens in this frame with a stage: a window opens once. -/
def State.window? (s : State) (n stage : Nat) : Option EaselEntry :=
  match s.easel.inForce with
  | none => none
  | some ea =>
    match ea.entries[n]? with
    | none => none
    | some e =>
      if s.windowsOpen && e.stage == stage && e.takesPart ea.hyper s.frame.num && !s.frame.ran.contains n then some e
      else none

/-- A window runs to its last cycle (R45). -/
def State.enter (s : State) (n : Nat) (e : EaselEntry) : State :=
  { s with frame := { s.frame with cycle := max s.frame.cycle (e.start + e.length), ran := n :: s.frame.ran } }

/-- The entry names the function and slot of a channel (R29). -/
def EaselEntry.names (e : EaselEntry) (slot : Nat) (c : Chan) : Bool :=
  !e.isNode && e.slot == slot && e.channel / 2 ^ 24 == c.fn

/-- Whether the entry's channel has its windows: ACTIVE, or DETACHED with the work it had admitted (R26, R334). -/
def State.slotRuns (s : State) (e : EaselEntry) : Bool :=
  match tget s.chans e.slot with
  | some c => e.names e.slot c && (c.st == .active || c.st == .detached)
  | none => false

/-- The arrays that an entry names and that are in service. -/
def State.arraysOf (s : State) (e : EaselEntry) : Nat :=
  popCount 64 (EaselEntry.arrayBits e - (EaselEntry.arrayBits e &&& (s.units.arrExcluded ||| s.units.arrRetired)))

/-- Bytes of sector memory that a channel has in one of its sectors (R47, R48, R168, R184): its partition, none without PART_SECTORS;
of a swapped one the size of its slipcase. R168 names a range in a BUILD window's STAGE_ARG, which R30 and R32 do not give that stage
(DESIGN CHOICE, log entry 77). -/
def Chan.sectorBytes (c : Chan) : Nat :=
  (if c.rwa.swapped then c.rwa.slipGran else if c.partSectors = 0 then 0 else c.rwa.partGran) * 65536

/-- Whether an entry claims the engine instances that its stage's work needs (R12, R30, R45), an array of them in service (R187): without
them the work does not begin. Ports are looked at packet by packet, flash channels read by read. -/
def State.able (s : State) (e : EaselEntry) : Bool :=
  let sector := fun (bit : Nat) => hasBit e.engines bit && e.sectors != 0
  match e.stage with
  | 0x02 | 0x04 | 0x09 => s.arraysOf e != 0
  | 0x05 | 0x06 | 0x08 | 0x0A => sector 0
  | 0x10 => sector 2
  | 0x11 => sector 3
  | 0x12 => EaselEntry.arrayBits e == 0 || s.arraysOf e != 0
  | 0x20 => sector 0 && sector 4
  | 0x22 => sector 4
  | 0x32 => hasBit e.engines 5
  | _ => true

/-- The entry may use a fabric port (R28, R45). -/
def EaselEntry.claimsPort (e : EaselEntry) (port : Nat) : Bool := hasBit e.engines 7 && hasBit e.ports port

/-- A window of a channel's stage: idle when the entry is not due or its channel has no windows. -/
def inWindow (n stage : Nat) (f : EaselEntry → State → State) (s : State) : Answer :=
  whenLive (fun s =>
    match s.window? n stage with
    | none => s
    | some e => if (s.enter n e).slotRuns e && s.able e then f e (s.enter n e) else s.enter n e) s

/-- A window that also the node may own (R28). -/
def inNodeWindow (n stage : Nat) (f : EaselEntry → State → State) (s : State) : Answer :=
  whenLive (fun s =>
    match s.window? n stage with
    | none => s
    | some e => if (e.isNode || (s.enter n e).slotRuns e) && s.able e then f e (s.enter n e) else s.enter n e) s

/-- The entries of a stage that serve a slot in this frame. -/
def State.windowsOf (s : State) (slot stage : Nat) : List EaselEntry :=
  match s.easel.inForce, tget s.chans slot with
  | some ea, some c => ea.entries.filter fun e => e.stage == stage && e.names slot c && e.takesPart ea.hyper s.frame.num
  | _, _ => []

/-- Whether a channel has a window for a stage in this frame (R460). -/
def State.hasWindow (s : State) (slot stage : Nat) : Bool := s.windowsOpen && !(s.windowsOf slot stage).isEmpty

/-- Core cycles of a channel's work in a window whose length in cycles the spec does not give: a free value is counted in
CORE_CYCLES (R355, log entry 2). -/
def State.coreFree (s : State) (slot : Nat) : State := s.free.2.account slot 0 s.free.1

/-! ### Admitted work -/

/-- The frame in which an update's completion at visibility falls (R207). -/
def Cmd.visible (c : Cmd) : Nat := c.adm.getD 0 + (if c.exact then 3 else 2)

/-- The frame in which its completion at durability falls, apart from an APPLY's. -/
def Cmd.durableAt (c : Cmd) : Nat := c.adm.getD 0 + (if c.exact then 5 else 4)

/-- FETCH_SPAN of a channel. -/
def State.span (s : State) (slot : Nat) : Nat := match tget s.chans slot with | some c => c.fetchSpan | none => 1

/-- Frames of replay of a command (R398). -/
def Cmd.delay (c : Cmd) : Nat := match c.q with | some q => q.delay | none => 0

/-- The frame of DELIVER of a SEARCH (R119). -/
def State.deliverAt (s : State) (c : Cmd) : Nat := c.adm.getD 0 + 4 + s.span c.slot + c.delay

/-- The frame in which an admitted command's final stage is due (R42, R343). -/
def State.finalAt (s : State) (c : Cmd) : Nat :=
  match c.op with
  | 0x01 => s.deliverAt c
  | 0x02 => c.adm.getD 0 + 2 + c.delay
  | 0x06 => c.adm.getD 0 + 2 + s.span c.slot + c.delay
  | 0x09 | 0x0B => c.adm.getD 0 + 1
  | _ => c.visible

/-- An admitted command cut off: it does no more work, and completes CUT_OFF in the frame of its final stage (R42). -/
def State.cutCmd (s : State) (c : Cmd) : State :=
  (s.mapCmd c.land fun x => x.mapQ fun q => { q with cut := true }).settle c.land (s.finalAt c)
    (c.outcome s stCutOff)

/-- A command that consumes uncorrectable data completes MEDIA_ERROR (R117, R392). -/
def State.mediaCmd (s : State) (c : Cmd) : State :=
  (s.mapCmd c.land fun x => x.mapQ fun q => { q with cut := true }).settle c.land (s.finalAt c) (c.outcome s stMedia)

/-- The work of a slot at a stage, as admitted commands without an outcome, in ascending admission sequence. -/
def State.admitted (s : State) (slot : Nat) : List Cmd :=
  sortBy (fun a b => decide (a.seq < b.seq))
    (s.work.filter fun c => c.slot == slot && c.adm.isSome && c.done.isNone && c.open)

/-- A cut-off counted and raised: one event for a channel, stage and entry, and CUTOFF_COUNT of its function (R44). -/
def State.cutEvent (s : State) (slot stage entry n : Nat) : State :=
  match tget s.chans slot with
  | none => s
  | some c =>
    if n = 0 then s
    else
      let s1 := { s with frame := { s.frame with cutoffs := tcount s.frame.cutoffs c.fn n } }
      let d0 := stage + entry * 2 ^ 16
      let same := fun (v : Event) => v.code == 0x0B && v.frame == s.frame.num && v.chan == (chanHandle slot c).toNat && v.d0 == d0
      if s.events.any same then { s1 with events := s.events.map fun v => if same v then { v with d1 := v.d1 + n } else v }
      else s1.raiseChan 0x0B slot d0 n 0

/-! ### Objects at the version that a command reads -/

/-- An index that a command with snapshot g still reads: one dropped at the commit window of frame d serves commands with
snapshot up to d. -/
def State.indexAt (s : State) (slot : Nat) (h : Handle) (g : Nat) : Option Index :=
  match tget s.indexes (objKey slot h) with
  | some x => (match x.dropped with | some d => if g ≤ d then some x else none | none => some x)
  | none => none

/-- A table that a command with snapshot g still reads. -/
def State.tableAt (s : State) (slot : Nat) (h : Handle) (g : Nat) : Option Table :=
  match tget s.tables (objKey slot h) with
  | some x => (match x.dropped with | some d => if g ≤ d then some x else none | none => some x)
  | none => none

/-- An allow-set that a command with snapshot g still reads. -/
def State.setAtFrame (s : State) (slot : Nat) (h : Handle) (g : Nat) : Option AllowSet :=
  match tget s.sets (objKey slot h) with
  | some x => (match x.dropped with | some d => if g ≤ d then some x else none | none => some x)
  | none => none

/-- The graph that a command with snapshot g is rescored with (R137). -/
def State.graphAt (s : State) (slot : Nat) (h : Handle) (g : Nat) : Option Bytes :=
  match tget s.graphs (objKey slot h) with
  | none => none
  | some x =>
    let img := match x.older.find? fun o => decide (g < o.1) with | some o => o.2 | none => x.image
    if img.isEmpty then none else some img

/-- Whether a command comes before another in the order in which an owner takes the work of all homes (R102). -/
def probeBefore (num : Nat) (a b : Nat × Nat) : Bool :=
  let k := fun (p : Nat × Nat) => (p.1 + 512 - num % 512) % 512
  decide (k a < k b) || (decide (k a = k b) && decide (a.2 < b.2))

end Sys2Proof.Machine
end

