-- ==== Sys2Proof/Machine/Admit.lean ====
section
/-! DEFINITION. Admission at the home (R21, R35, R55, R56 to R59, R97, R98, R127, R195): deferral and LATE, the shares, and what
an admitted update sends in its admission frame (R74, R201, R212, R214, R347). -/

namespace Sys2Proof.Machine

/-! ### Sending updates -/

/-- The state with the changes announced for the next frame in force: the route table of g + 1 (R101, R201). -/
def State.nextRoutes (s : State) : State := s.install

/-- The nodes that report an update of a region or shard to its home: the node that serves it in bounded-loss mode, both
holders that are not OUT_OF_STEP in exact mode (R207, R394). -/
def State.reporters (r : State) (exact : Bool) (slot : Nat) (h : Handle) (number e : Nat) : List Nat :=
  if exact then [rtPrimary e, rtBuddy e].filter fun n => r.holdingState n slot h number != 1
  else [r.server slot h number e]

/-- The nodes that an update of some regions goes to, and those that report it. -/
def State.regionNodes (r : State) (exact : Bool) (slot : Nat) (h : Handle) (regions : List Nat) : List Nat × List Nat :=
  let es := (dedup regions).filterMap fun n => (r.routeEntry slot h n).map fun e => (n, e)
  (dedup (es.flatMap fun p => rtTargets p.2), dedup (es.flatMap fun p => r.reporters exact slot h p.1 p.2))

/-- The nodes that an update of some rows goes to, each with its rows' positions, and those that report it (R191, R201). -/
def State.rowNodes (r : State) (exact : Bool) (slot : Nat) (h : Handle) (t : Table) (rows : List Nat) :
    List (Nat × List Nat) × List Nat :=
  let ps := rows.mapIdx fun i x => (i, t.entry x, x / t.attr.shardRows)
  let nodes := dedup (ps.flatMap fun p => rtTargets p.2.1)
  (nodes.map fun n => (n, (ps.filter fun p => (rtTargets p.2.1).contains n).map (·.1)),
   dedup (ps.flatMap fun p => r.reporters exact slot h p.2.2 p.2.1))

/-- One update message to a node. -/
def State.sendUpd (s : State) (slot seq : Nat) (h : Handle) (dst : Nat) (body : UpdBody) : State :=
  s.send dst (some slot) (.update { home := s.frame.logicalId, seq := seq, frame := s.frame.num, slot := slot, object := h, next := false, body := body })

/-- An update for a built generation that is not in force yet, sent to some nodes: from frame P − 2 to frame P updates go to
both generations (R87). -/
def State.sendNext (s : State) (c : Cmd) (h : Handle) (x : Index) (nodes : List Nat) (body : UpdBody) : State :=
  match x.next with
  | some (p, _) =>
    if s.frame.num ≤ p ∧ p ≤ s.frame.num + 2 then
      nodes.foldl (fun acc n => acc.send n (some c.slot)
        (.update { home := acc.frame.logicalId, seq := c.seq, frame := acc.frame.num, slot := c.slot, object := h, next := true, body := body })) s
    else s
  | none => s

/-- Every node that holds part of an index. -/
def Index.nodes (x : Index) : List Nat := dedup (x.route.flatMap rtTargets)

/-- The table bound to an index of a slot, with the row of a key of its range (R213). -/
def State.boundRow (s : State) (slot : Nat) (h : Handle) (key : Key) : Option (Handle × Table × Nat) :=
  s.tables.findSome? fun p =>
    if p.1 / 2 ^ 32 = slot ∧ p.2.dropped.isNone ∧ p.2.attr.bound = h ∧ p.2.attr.keyBase ≤ key.toNat ∧
        key.toNat < p.2.attr.keyBase + p.2.attr.rows then
      some (BitVec.ofNat 32 (p.1 % 2 ^ 32), p.2, key.toNat - p.2.attr.keyBase)
    else none

/-- The name under which a node reports a bound UPSERT's row: beside its report of the item (R214). -/
def rowPart (n : Nat) : Nat := n + 1024

/-- An update of some regions sent to all its nodes; a key of a bound range also to the owners of its row, which report it too (R214). -/
def State.sendRegions (s : State) (c : Cmd) (h : Handle) (regions : List Nat) (body : UpdBody) (row : Option (Key × Bytes)) : State :=
  let r := s.nextRoutes
  let ns := r.regionNodes c.exact c.slot h regions
  let s1 := ns.1.foldl (fun acc n => acc.sendUpd c.slot c.seq h n body) s
  let bound := match row with
    | some kv => (r.boundRow c.slot h kv.1).map fun b => (b, kv)
    | none => none
  match bound with
  | none => s1.mapCmd c.land fun x => { x with expect := ns.2 }
  | some ((th, t, n), kv) =>
    let rs := r.rowNodes c.exact c.slot th t [n]
    (rs.1.foldl (fun acc p => acc.sendUpd c.slot c.seq th p.1 (.bound kv.1 n kv.2 (priorRegion 4 c.entry) c.target)) s1).mapCmd c.land fun x =>
      { x with expect := ns.2 ++ rs.2.map rowPart }

/-- A vector after the round trip of its stream, and the values clipped (R302, R306); raw where no palette applies. -/
def State.roundTrip (s : State) (slot : Nat) (h : Handle) (kind : Nat) (v : List F32) : List F32 × Nat :=
  match s.palGen slot h kind with
  | some p => palTrip (p.code == 1) p.scales v
  | none => (v, 0)

/-- Values clipped counted for a stream (R310). -/
def State.countClipped (s : State) (slot : Nat) (h : Handle) (kind n : Nat) : State :=
  { s with streams := s.streams.map fun x =>
      if x.slot = slot ∧ x.object = h ∧ x.kind = kind then { x with clipped := x.clipped + n } else x }

/-- An APPLY sends its contributions (R201): each compressed and expanded once. -/
def State.sendApply (s : State) (c : Cmd) (t : Table) : State :=
  let n := rowCount 3 c.entry
  let bufs := c.bufs.getD []
  let rows := rowNumbers n (bufAt bufs 0)
  let trips := (List.range n).map fun i => s.roundTrip c.slot c.object 2 (gradAt t.attr (fld c.entry 0x28 0 2) (bufAt bufs 1) i)
  let clipped := (trips.map (·.2)).sum
  let r := s.nextRoutes
  let tr := (r.tableAt c.slot c.object s.frame.num).getD t
  let ns := r.rowNodes c.exact c.slot c.object tr rows
  let lr : F32 := BitVec.ofNat 32 (rd c.entry 0x20 4)
  let s1 := ns.1.foldl (fun acc p =>
    acc.sendUpd c.slot c.seq c.object p.1
      (.apply lr (p.2.map fun i => (i, rows.getD i 0, (trips.getD i ([], 0)).1)))) s
  (s1.countClipped c.slot c.object 2 clipped).mapCmd c.land fun x => { x with expect := ns.2, clipped := clipped }

/-- A REPLACE_ROWS sends its images whole (R212). -/
def State.sendReplace (s : State) (c : Cmd) (t : Table) : State :=
  let n := rowCount 0x0A c.entry
  let bufs := c.bufs.getD []
  let rows := rowNumbers n (bufAt bufs 0)
  let st := tableStride t.attr
  let r := s.nextRoutes
  let tr := (r.tableAt c.slot c.object s.frame.num).getD t
  let ns := r.rowNodes c.exact c.slot c.object tr rows
  (ns.1.foldl (fun acc p =>
      acc.sendUpd c.slot c.seq c.object p.1
        (.replace (flag c.entry 0x18 12) (p.2.map fun i => (rows.getD i 0, slice (bufAt bufs 1) (i * st) st)))) s).mapCmd
    c.land fun x => { x with expect := ns.2 }

/-- A SET_EDIT sends each node the items of its regions (R347). -/
def State.sendEdits (s0 : State) (c : Cmd) (set : AllowSet) : State :=
  let s := match s0.index? c.slot set.index with
    | some x => s0.sendNext c set.index x x.nodes
        (.setEdit c.object ((editItems (rowCount 7 c.entry) (bufAt (c.bufs.getD []) 0)).mapIdx fun i y => (i, y)))
    | none => s0
  let items := (editItems (rowCount 7 c.entry) (bufAt (c.bufs.getD []) 0)).mapIdx fun i x => (i, x)
  let r := s.nextRoutes
  let ns := r.regionNodes c.exact c.slot set.index (items.map (·.2.2.1))
  (ns.1.foldl (fun acc n =>
      let mine := items.filter fun p =>
        match r.routeEntry c.slot set.index p.2.2.1 with | some e => (rtTargets e).contains n | none => false
      acc.sendUpd c.slot c.seq set.index n (.setEdit c.object (mine.map fun p => (p.1, p.2.1, p.2.2.1, p.2.2.2)))) s).mapCmd
    c.land fun x => { x with expect := ns.2 }

/-- The stored vector of an UPSERT: the host's vector in VEC_FORMAT, after the round trip of an item palette where one applies
(R302), with the values clipped. -/
def State.upsertVec (s : State) (c : Cmd) (a : IndexAttr) : Bytes × Nat :=
  let vf := fld c.entry 0x2C 0 2
  let b := bufAt (c.bufs.getD []) 0
  if s.itemPalette c.slot c.object a then
    let t := s.roundTrip c.slot c.object 1 (hostVec a vf b)
    (vecStore a.fmt t.1, t.2)
  else (storedVec a vf b, 0)

/-- The region of a vector: the one with the smallest comparison word of ROUTE_1 (R74, R150). -/
def IndexGen.target (x : IndexGen) (metric : Nat) (v : List F32) : Option Nat :=
  (chooseBest 1 (x.regionScores metric 1 v)).head?

/-- An UPSERT is routed in its admission frame (R74): the owners of its target region and of PRIOR_REGION receive it. An
expansion that fails R127 publishes nothing (R127). -/
def State.sendUpsert (s : State) (c : Cmd) (x : Index) : State :=
  let a := x.attr
  let v := s.upsertVec c a
  let prior := priorRegion 4 c.entry
  let s1 := s.countClipped c.slot c.object 1 v.2
  if s.itemPalette c.slot c.object a && !vecOk a.fmt a.dim a.metric v.1 then
    s1.settle c.land c.visible { c.outcome s1 stInvalid with result := prior, detail := 0x1000, detailBuf := 0x18 }
  else
    match (x.genAt s.frame.num).target a.metric (sketchElems a.fmt a.dim v.1) with
    | none => s1.cutCmd c
    | some r =>
      let c1 := { c with target := r }
      let body := fun (t : Nat) => UpdBody.upsert (entryKey c.entry) (rd c.entry 0x10 8) v.1 (bufAt (c.bufs.getD []) 1) 0xFFFFFFFF t
      let s2 := match x.next with
        | some (_, n) =>
          (match n.target a.metric (sketchElems a.fmt a.dim v.1) with
           | some t => s1.sendNext c c.object x x.nodes (body t)
           | none => s1)
        | none => s1
      (s2.mapCmd c.land fun y => { y with target := r, clipped := v.2 }).sendRegions c1 c.object
        (if prior = 0xFFFFFFFF then [r] else [r, prior])
        (.upsert (entryKey c.entry) (rd c.entry 0x10 8) v.1 (bufAt (c.bufs.getD []) 1) prior r) (some (entryKey c.entry, v.1))

/-! ### Admission -/

/-- What a home holds of a command whose stages are still to come. -/
def Query.init (np wEff : Nat) : Query :=
  { np := np, wEff := wEff, query := [], deliv := [], route := [], owners := [], todo := [], cands := [], set := [], tie0 := false,
    sent := [], locals := [], rec? := none, cut := false, lost := [], widened := false, delay := 0, step := 0 }

/-- Whether commands are admitted at all in this frame: not in a drain frame (R35, R419), nor before the frames of R39 and
R459. -/
def State.admitOpen (s : State) : Bool :=
  s.windowsOpen && decide (s.frame.admitFrom ≤ s.frame.num) &&
  (match s.easel.arm with | some (a, d) => !(decide (a ≤ s.frame.num + d) && decide (s.frame.num < a)) | none => true) &&
  (match s.power.drainFrom with | some f => decide (s.frame.num < f) | none => true)

/-- Frame M − 1 of a pending MODE_SET admits no update (R55). -/
def State.updateGap (s : State) : Bool := s.frame.pendModes.any fun p => p.1 == s.frame.num + 1

/-- A command deferred to the next frame, which counts, or LATE at its limit (R58, R59). -/
def State.deferCmd (s : State) (c : Cmd) : State :=
  match tget s.chans c.slot with
  | none => s
  | some ch =>
    if ch.deferMax ≤ c.deferred then s.refuseCmd c stLate 0 0
    else
      ({ s with frame := { s.frame with defers := tcount s.frame.defers ch.fn 1 } }).mapCmd c.land fun x =>
        { x with deferred := x.deferred + 1, elig := s.frame.num + 1 }

/-- The object of a command is gone. -/
def State.objectGone (s : State) (c : Cmd) : Bool :=
  match c.op with
  | 0x01 => (s.index? c.slot c.object).isNone ||
      (seFilterKind c.entry == 2 && (s.set? c.slot (BitVec.ofNat 32 (rd c.entry 0x28 4))).isNone)
  | 0x04 | 0x05 | 0x06 => (s.index? c.slot c.object).isNone
  | 0x02 | 0x03 | 0x0A => (s.table? c.slot c.object).isNone
  | 0x07 => (s.set? c.slot c.object).isNone
  | _ => false

/-- What an admitted command starts in its admission frame: an update but an UPSERT is sent (R201, R212, R347), SNAPSHOT has
its result (R348). -/
def State.begin (s : State) (c : Cmd) : State :=
  match c.op with
  | 0x03 => (match s.table? c.slot c.object with | some t => s.sendApply c t | none => s)
  | 0x05 =>
    let body := UpdBody.delete (entryKey c.entry) (priorRegion 5 c.entry)
    (match s.index? c.slot c.object with
     | some x => (s.sendNext c c.object x x.nodes body).sendRegions c c.object [priorRegion 5 c.entry] body none
     | none => s)
  | 0x07 => (match s.set? c.slot c.object with | some x => s.sendEdits c x | none => s)
  | 0x09 => s.settle c.land (s.frame.num + 1) { c.outcome s stOk with result := s.frame.num }
  | 0x0A => (match s.table? c.slot c.object with | some t => s.sendReplace c t | none => s)
  | _ => s

/-- A command admitted in this frame (R58, R97): charged, numbered (R101), counted. -/
def State.admitCmd (s : State) (c : Cmd) (charges : List Nat) : State :=
  let c1 := { c with adm := some s.frame.num, exact := s.frame.exact, seq := s.frame.seq,
                     q := if c.op = 0x01 then some (Query.init (seNP c.entry) (seWEff c.entry)) else some (Query.init 0 0) }
  let s1 := (s.mapChan c.slot fun x => { x with homeUsed := addL x.homeUsed charges }).mapAcct c.slot fun a =>
    { a with admitted := a.admitted + 1 }
  (({ s1 with frame := { s1.frame with seq := s1.frame.seq + 1 } }.mapCmd c.land fun _ => c1).mirrorOut (.mirrorCmd s.frame.num c)).begin c1

/-- What is left while a ring's commands are taken. -/
structure AdmitRun where
  st      : State
  stopped : Bool

/-- One command of a ring (R58): the first that does not fit defers every later one. An update held back in frame M − 1 of a MODE_SET (R55),
also one with late reads, counts no deferral and lets the commands after it pass: R59 does not say that it counts as one (DESIGN CHOICE,
log entry 73). -/
def State.admitOne (r : AdmitRun) (c : Cmd) : AdmitRun :=
  let s := r.st
  if s.updateGap && isUpdate c.op then r
  else if r.stopped then { r with st := s.deferCmd c }
  else if !c.passed then { st := s.deferCmd c, stopped := true }
  else if s.objectGone c then { r with st := s.refuseCmd c stNoObject 0 0 }
  else
    match tget s.chans c.slot with
    | none => r
    | some ch =>
      let charges := s.charges s.frame.exact c.slot c.op c.entry
      if leL (addL ch.homeUsed charges) ch.shares then { r with st := s.admitCmd c charges }
      else { st := s.deferCmd c, stopped := true }

/-- The commands of a ring that ask for admission in this frame, in ring order: those behind a FENCE of their ring wait without a count
until the frame after its completion (R348). -/
def State.asking (s : State) (slot ring : Nat) : List Cmd :=
  let mine := s.work.filter fun c => c.slot == slot && c.ring == ring && c.adm.isNone && c.done.isNone && c.open
  let fence := s.work.find? fun c => c.slot == slot && c.ring == ring && c.op == 0x08 && c.passed
  sortBy (fun a b => decide (a.land < b.land)) (mine.filter fun c =>
    c.op != 0x08 && decide (c.elig ≤ s.frame.num) && (c.passed || c.bufs.isNone) &&
    (match fence with | some f => decide (c.land < f.land) | none => true))

/-- Every ring of a channel in ascending order (R58). -/
def State.admitRings (s : State) (slot : Nat) : State :=
  match tget s.chans slot with
  | none => s
  | some c => (List.range c.rings.length).foldl (fun acc r =>
      ((acc.asking slot r).foldl State.admitOne { st := acc, stopped := false }).st) s

/-- The commands of a channel deferred in a frame without an ADMIT window for it (R58, R460). -/
def State.deferAll (s : State) (slot : Nat) : State :=
  match tget s.chans slot with
  | none => s
  | some c => (List.range c.rings.length).foldl (fun acc r =>
      (acc.asking slot r).foldl (fun a x => if a.updateGap && isUpdate x.op then a else a.deferCmd x) acc) s

/-- The commands of a channel whose buffers are still read when their first eligible frame starts are deferred, with every
later one of their ring (R94, R195). -/
def State.deferReading (s : State) (slot : Nat) : State :=
  match tget s.chans slot with
  | none => s
  | some c => (List.range c.rings.length).foldl (fun acc r =>
      match (acc.asking slot r).find? (fun x => !x.passed) with
      | none => acc
      | some w => ((acc.asking slot r).filter fun x => decide (w.land ≤ x.land)).foldl (fun a x =>
          if a.updateGap && isUpdate x.op then a else a.deferCmd x) acc) s

/-- ADMIT (R58): the channel is ACTIVE, and the frame admits. -/
def State.admitWindow (s : State) (e : EaselEntry) : State :=
  match tget s.chans e.slot with
  | some c => if c.st == .active && s.admitOpen then s.admitRings e.slot else s
  | none => s

/-- ADMIT. -/
def execAdmitWindow (n : Nat) (s : State) : Answer := inWindow n 0x01 (fun e s => s.admitWindow e) s

end Sys2Proof.Machine
end

