-- ==== Sys2Proof/Machine/Stacks.lean ====
section
/-! DEFINITION. Faults of the stacks: uncorrectable words and the retirement of a pseudo-channel (R223, R389, R390, R392), twin
mismatches and suspect chunks (R236, R237), near-bank refusals (R229). -/

namespace Sys2Proof.Machine

/-- The open object that holds a DA and the chunk there (R232): object key and chunk. -/
def chunkIn (units : List Nat) (da : Nat) : Option Nat :=
  match units.findIdx? (· == daUnit da) with
  | some i => let d := da % 2 ^ 28
              some (i * 2 ^ 17 + (d / 8192 * 4096 + d % 4096) / 1024)
  | none => none

def State.openObject (s : State) (da : Nat) : Option (Nat × Nat) :=
  match s.indexes.findSome? (fun p => (chunkIn p.2.tombUnits da).map fun i => (p.1, i)) with
  | some x => some x
  | none => s.sets.findSome? fun p => (chunkIn p.2.units da).map fun i => (p.1, i)

/-- Whether a chunk of an object is suspect (R236). -/
def State.isSuspect (s : State) (key chunk : Nat) : Bool := s.dram.suspects.any fun x => x.1 == key && x.2.1 == chunk

/-- The units, frames and rows that count toward a pseudo-channel's retirement (R389): three distinct rows within 4,096
frames. -/
def pcBad (l : List (Nat × Nat × Nat)) (pc frame : Nat) : Bool :=
  decide (3 ≤ (dedup ((l.filter fun x => x.2.1 == pc && decide (frame < x.1 + 4096)).map fun x => x.2.2)).length)

/-- An uncorrectable word counted toward its pseudo-channel; the third row retires it, which leaves the node DEGRADED and
self-suspect (R389, R390). -/
def State.countWord (s : State) (da : Nat) : State :=
  let pc := 32 * daStack da + daPseudo da
  let s1 := { s with dram := { s.dram with pcFails := s.dram.pcFails ++ [(s.frame.num, pc, rowOf da)] } }
  if pcBad s1.dram.pcFails pc s.frame.num && !s1.dram.pcRetired.contains pc then
    let s2 := { s1 with dram := { s1.dram with pcRetired := insNat pc s1.dram.pcRetired },
                        power := { s1.power with degraded := true } }
    (s2.faultRecord 5 pc 1 0).selfSuspect 5 pc
  else s1

/-- The channel that holds a unit. -/
def State.unitOwner (s : State) (u : Nat) : Option Nat :=
  match s.unitKind u with
  | .sealed n => some n
  | .opened n => some n
  | _ => none

/-- The objects that stand at a DA (R238, R392): an open object's is known, those of a SEALED or NODE row are free values. -/
def State.objectsHere (s : State) (da : Nat) : List Nat :=
  match s.openObject da with
  | some p => [p.1 % 2 ^ 32]
  | none => match Config.objectsAt da s.frame.num with | [] => [0] | l => l

/-- A word kept among those that every reader meets until it is restored (R392). When the other holder is OUT_OF_STEP, the holding is put
OUT_OF_STEP instead. -/
def State.keepLost (s : State) (slot : Nat) (w : LostWord) : State :=
  let me := s.frame.logicalId
  let number := match w.part with
    | .lists r | .keys r | .extent r _ => some r
    | .row r => (tget s.tables (objKey slot w.object)).map fun (t : Table) => r / t.attr.shardRows
    | _ => none
  let alone := match number.bind fun n => (s.routeEntry slot w.object n).map fun e => (n, e) with
    | some (n, e) => if rtHolds e me && s.holdingState (otherHolder e me) slot w.object n == 1 then some n else none
    | none => none
  match alone with
  | some n => s.announce (.holding me me slot w.object n 1)
  | none => { s with dram := { s.dram with lost := s.dram.lost ++ [(slot, w, none)] } }

/-- An uncorrectable word found at a DA (R223, R392): logged with the channel that holds it and with each object there. -/
def State.wordLost (s : State) (da : Nat) : State :=
  let n := s.unitOwner (daUnit da)
  let chan := match n with | some n => s.handleAt n | none => 0
  let s1 := (((s.objectsHere da).foldl (fun acc o => acc.logAdd 0x01 chan o da 1) s).faultRecord 4 da 0 0).countWord da
  if s1.unitKind (daUnit da) == .free || (s1.openObject da).isSome then s1
  else s1.keepLost (n.getD 0xFFFF) { da := da, object := 0, part := .other }

/-- An uncorrectable word that a window of a channel reads (R223, R392). -/
def State.wordMet (s : State) (slot : Nat) (w : LostWord) : State :=
  if s.dram.lost.any fun x => x.1 == slot && x.2.1 == w then s
  else (((s.logAdd 0x01 (s.handleAt slot) w.object.toNat w.da 1).faultRecordOf (s.handleAt slot) w.object.toNat 4 w.da 0 0).countWord w.da).keepLost slot w

/-- What a window's reads meet (R223). -/
def State.meetFaults (s : State) (slot : Nat) (rf : ReadFaults) : State :=
  rf.words.foldl (fun acc w => acc.wordMet slot w) { s with dram := { s.dram with fixed := s.dram.fixed + rf.corrected } }

/-- Whether a part of an object is uncorrectable at this node (R392). -/
def State.damaged (s : State) (slot : Nat) (object : Handle) (p : LostPart) : Bool :=
  s.dram.lost.any fun x => x.1 == slot && x.2.1.object == object && x.2.1.part == p

/-- Pieces of 64 KiB restored by a MIGRATE window (R392), at most 4 in a frame: a piece's words come back together at the commit window of
the frame. -/
def State.restorePieces (s : State) (mine : Nat → Bool) : State :=
  let f := s.frame.num
  let step := fun (r : List (Nat × LostWord × Option Nat) × List Nat) (x : Nat × LostWord × Option Nat) =>
    let piece := x.2.1.da / 65536
    if x.2.2.isSome ∨ (!mine x.1 ∧ x.1 ≠ 0xFFFF) then (r.1 ++ [x], r.2)
    else if r.2.contains piece then (r.1 ++ [(x.1, x.2.1, some f)], r.2)
    else if r.2.length < 4 then (r.1 ++ [(x.1, x.2.1, some f)], r.2 ++ [piece])
    else (r.1 ++ [x], r.2)
  let done := dedup ((s.dram.lost.filter fun x => x.2.2 == some f).map fun x => x.2.1.da / 65536)
  { s with dram := { s.dram with lost := (s.dram.lost.foldl step ([], done)).1 } }

/-- The commit window publishes what has been restored (R392). -/
def State.publishRestored (s : State) : State :=
  { s with dram := { s.dram with lost := s.dram.lost.filter fun x => x.2.2.isNone } }

/-- A read of an open chunk finds its twins different (R236): the event, the count, the chunk suspect, and one word counted toward the
pseudo-channel of its first twin (R389). -/
def State.twinMismatch (s : State) (da : Nat) : State :=
  match s.openObject da with
  | some (key, chunk) =>
    let s1 := { s with dram := { s.dram with
      suspects := if s.isSuspect key chunk then s.dram.suspects else s.dram.suspects ++ [(key, chunk, s.frame.num)],
      mismatches := s.dram.mismatches + 1 } }
    ((s1.raiseChan 0x08 (key / 2 ^ 32) (key % 2 ^ 32) chunk 0).faultRecordOf (s.handleAt (key / 2 ^ 32)) (key % 2 ^ 32) 6 (key % 2 ^ 32 + chunk * 2 ^ 32) 0 0).countWord (firstTwin da)
  | none => { s with dram := { s.dram with mismatches := s.dram.mismatches + 1 } }

/-- The open units of an object: an allow-set's, or an index's tombstone set's. -/
def State.unitsOf (s : State) (key : Nat) : List Nat :=
  match tget s.sets key with
  | some x => x.units
  | none => match tget s.indexes key with | some x => x.tombUnits | none => []

/-- A chunk read: its twins are compared (R224), and one whose twins differ becomes suspect (R236). -/
def State.readChunk (s : State) (key chunk : Nat) : State :=
  let da := chunkDa (s.unitsOf key) chunk
  if (s.unitsOf key).isEmpty || twinsEqual s.dram.mem da then s else s.twinMismatch da

/-- The read of a chunk whose bits the commit window changes (R224, R233): once in a commit window. -/
def State.touch (s : State) (key row : Nat) : State :=
  let chunk := row / 8192
  if s.dram.touched.contains (key, chunk) then s
  else { s with dram := { s.dram with touched := s.dram.touched ++ [(key, chunk)] } }.readChunk key chunk

/-- A chunk rebuilt (R237): no longer suspect, logged with its frame of detection. -/
def State.rebuilt (s : State) (key chunk : Nat) : State :=
  match s.dram.suspects.find? fun x => x.1 == key && x.2.1 == chunk with
  | some x =>
    let s1 := { s with dram := { s.dram with suspects := s.dram.suspects.filter fun y => !(y.1 == key && y.2.1 == chunk) } }
    s1.logAdd 0x07 (s.handleAt (key / 2 ^ 32)) (key % 2 ^ 32) chunk (x.2.2 % 2 ^ 48)
  | none => s

/-- A near-bank step refused (R229): counted, logged with its operation and row; the node becomes self-suspect (R391). -/
def State.nbRefuse (s : State) (op da : Nat) : State :=
  let s1 := { s with dram := { s.dram with nbRefused := s.dram.nbRefused + 1, nbLog := s.dram.nbLog ++ [(op, da)] } }
  (s1.logAdd 0x02 0 0 da op).selfSuspect 5 (32 * daStack da + daPseudo da)

end Sys2Proof.Machine
end

