-- ==== Sys2Proof/Machine/Arrays.lean ====
section
/-! DEFINITION. The matrix arrays' time (R173 to R178): how a window's jobs are divided among its arrays, the cycles T that
each array takes, the sub-jobs of a job whose partial sums do not fit its buffer (R184), and what is counted for a window in
ARRAY_CYCLES and DRAM_BYTES (R355). -/

namespace Sys2Proof.Machine

/-- A dot-product job (R172, R182): K, N columns, M rows, element bytes, whether the stationary operand comes from DRAM. -/
structure Job where
  k    : Nat
  n    : Nat
  m    : Nat
  e    : Nat
  dram : Bool
  /-- The command (home, sequence) of each row, in row order; empty for rows that no command answers for. -/
  ids  : List (Nat × Nat) := []
  deriving DecidableEq, Repr

/-- K_s and N_s of a shape (R174). -/
def shapeK (shape : Nat) : Nat := match shape with | 1 => 64 | 2 => 32 | _ => 128
def shapeN (shape : Nat) : Nat := match shape with | 1 => 256 | 2 => 512 | _ => 128

/-- Load cycles of a tile (R175). -/
def loadCycles (dram : Bool) (kp np e : Nat) : Nat := if dram then max (kp * e) (ceilDiv (kp * np * e) 64) else kp * e

/-- The passes of one unit: its K-chunks in order (R173, R176), each with L, S and G. -/
def unitPasses (shape : Nat) (j : Job) (np rows : Nat) : List (Nat × Nat × Nat) :=
  let ks := shapeK shape
  let nk := ceilDiv j.k ks
  (List.range nk).map fun i => (loadCycles j.dram (min ks (j.k - i * ks)) np j.e, rows * j.e, if i + 1 < nk then ks + 4 else 0)

/-- One array's part of a job: the commands of its rows and its passes. -/
abbrev ArrayUnit := List (Nat × Nat) × List (Nat × Nat × Nat)

/-- Rows of a row group that one sub-job takes (R184): partial sums are kept only between chunks, N_s × 4 B and 4 B for SA a row, in
what the channel has of the sector for each array. At least one row runs. -/
def subRows (shape room : Nat) (j : Job) (rows : Nat) : Nat :=
  if j.k ≤ shapeK shape then rows else min rows (max 1 (room / (4 * shapeN shape + 4)))

/-- The sub-jobs of a job (R178, R184), one when its buffer fits: each the units of the pairs of a column chunk and a row group, in
that order. -/
def jobParts (shape arrays room : Nat) (j : Job) : List (List ArrayUnit) :=
  if j.m = 0 ∨ j.n = 0 then []
  else
    let ns := shapeN shape
    let nc := ceilDiv j.n ns
    let rows := ceilDiv j.m (max 1 (arrays / nc))
    let groups := ceilDiv j.m rows
    let sub := subRows shape room j rows
    (List.range (ceilDiv rows sub)).map fun t =>
      (List.range nc).flatMap fun c => (List.range groups).map fun g =>
        let left := min rows (j.m - g * rows) - t * sub
        ((j.ids.drop (g * rows + t * sub)).take (min sub left), if left = 0 then [] else unitPasses shape j (min ns (j.n - c * ns)) (min sub left))

/-- What is left while a window's jobs are numbered: the next unit, the runs so far, whether the last run takes the next job. -/
structure UnitRun where
  next : Nat
  runs : List (List (Nat × ArrayUnit))
  more : Bool

/-- A job's units numbered on; jobs that fit run on in one run, every sub-job of a split one is a run of its own. -/
def UnitRun.job (shape arrays room : Nat) (r : UnitRun) (j : Job) : UnitRun :=
  let parts := (jobParts shape arrays room j).map fun p => p.mapIdx fun u x => (r.next + u, x)
  let next := r.next + (parts.headD []).length
  match parts, r.more, r.runs.getLast? with
  | [], _, _ => r
  | [p], true, some l => { next := next, runs := r.runs.dropLast ++ [l ++ p], more := true }
  | [p], _, _ => { next := next, runs := r.runs ++ [p], more := true }
  | _, _, _ => { next := next, runs := r.runs ++ parts, more := false }

/-- The runs of a window. -/
def windowRuns (shape arrays room : Nat) (jobs : List Job) : List (List (Nat × ArrayUnit)) :=
  (jobs.foldl (UnitRun.job shape arrays room) { next := 0, runs := [], more := false }).runs

/-- The units of an array in a run: unit u goes to array u mod A (R178). -/
def unitsOn (arrays a : Nat) (run : List (Nat × ArrayUnit)) : List ArrayUnit :=
  (run.filter fun u => u.1 % arrays == a && !u.2.2.isEmpty).map (·.2)

/-- T of one array over one run (R176). -/
def runCycles (shape : Nat) (us : List ArrayUnit) : Nat :=
  if us.isEmpty then 0 else arrayCycles (shapeK shape + shapeN shape) (us.flatMap (·.2))

/-- T of each array that runs at least one pass: the sum over its runs (R176, R178, R184). -/
def arrayTimes (shape arrays room : Nat) (jobs : List Job) : List Nat :=
  let runs := windowRuns shape arrays room jobs
  ((List.range arrays).map fun a => (runs.map fun r => runCycles shape (unitsOn arrays a r)).sum).filter (0 < ·)

/-- When the sums of each pass have left the output stage, from the cycle at which the first one streams (R176). -/
def passEnds (drain : Nat) : Nat → List (Nat × Nat × Nat) → List Nat
  | _, [] => []
  | t, [(_, s, _)] => [t + s + drain]
  | t, (_, s, g) :: (l, s', g') :: r => (t + s + drain) :: passEnds drain (t + max s (max l g)) ((l, s', g') :: r)

/-- The commands with a row in a unit of one run that is not finished by a cycle, for a run that starts at cycle t. -/
def runLate (shape length t : Nat) (us : List ArrayUnit) : List (Nat × Nat) :=
  let passes := us.flatMap fun u => u.2.map fun p => (u.1, p)
  let ends := passEnds (shapeK shape + shapeN shape) (t + (passes.head?.map fun p => p.2.1).getD 0) (passes.map (·.2))
  ((passes.zip ends).filter fun p => decide (length < p.2)).flatMap fun p => p.1.1

/-- The commands with a row in a unit that an array has not finished when the window ends (R184). -/
def lateIds (shape arrays room length : Nat) (jobs : List Job) : List (Nat × Nat) :=
  let runs := windowRuns shape arrays room jobs
  dedup ((List.range arrays).flatMap fun a =>
    (runs.foldl (fun (acc : Nat × List (Nat × Nat)) r =>
      let us := unitsOn arrays a r
      (acc.1 + runCycles shape us, acc.2 ++ runLate shape length acc.1 us)) (0, [])).2)

/-- Bytes that the channel of an entry has for the partial sums of one array (R170, R184): its partition, or swap range, of a sector
shared by the arrays named there. A sector outside PART_SECTORS holds nothing. -/
def State.bufferRoom (s : State) (e : EaselEntry) : Nat :=
  match tget s.chans e.slot with
  | some c =>
    if !c.rwa.swapped && (e.sectors &&& c.partSectors) != e.sectors then 0 else c.sectorBytes / max 1 (popCount 4 e.arrays)
  | none => 0

/-- A window's jobs counted for a channel (R355). -/
def State.arrayWork (s : State) (e : EaselEntry) (slot : Nat) (jobs : List Job) : State :=
  let t := (arrayTimes e.shape (s.arraysOf e) (s.bufferRoom e) jobs).sum
  let bytes := (jobs.map fun j => if j.dram && j.m != 0 then j.k * j.n * j.e else 0).sum
  (s.account slot 1 t).account slot 2 bytes

end Sys2Proof.Machine
end

