-- ==== Sys2Proof/Machine/Home.lean ====
section
/-! DEFINITION. The home's stages of a SEARCH (R99 to R101, R106 to R109, R114 to R118, R163, R398 to R400): ROUTE_1, SCATTER,
NOMINATE and DELIVER. -/

namespace Sys2Proof.Machine

/-- A command's query part changed. -/
def State.mapQuery (s : State) (land : Nat) (f : Query → Query) : State := s.mapCmd land fun c => c.mapQ f

/-- The SEARCHes of a slot that stand at a step in the present frame. -/
def State.searchesAt (s : State) (slot step offset : Nat) : List (Cmd × Query) :=
  (s.admitted slot).filterMap fun c =>
    match c.q with
    | some q => if c.op = 0x01 ∧ q.step = step ∧ !q.cut ∧ c.adm.getD 0 + offset + q.delay = s.frame.num then some (c, q) else none
    | none => none

/-! ### ROUTE_1 (R99) -/

/-- The query converted to bf16 (R99). -/
def bf16Query (a : IndexAttr) (c : Cmd) : List F16 :=
  let f := seQFormat c.entry
  (hostElems f ((bufAt (c.bufs.getD []) 0).take (a.dim * hostElemSize f))).map toBf16

/-- One SEARCH routed: the P regions with the smallest comparison words, best first. A re-issue reads the query held; one whose index has
been dropped since completes CUT_OFF, for which the spec names no outcome (DESIGN CHOICE, log entry 75). -/
def State.routeQuery (s : State) (c : Cmd) (q : Query) : State :=
  let g := c.adm.getD 0
  match s.indexAt c.slot c.object g with
  | none => s.cutCmd c
  | some x =>
    if s.damaged c.slot c.object .regions then s.mediaCmd c
    else
    let v := if q.query.isEmpty then bf16Query x.attr c else q.query
    let qf := toVec v
    let route := chooseBest (seP c.entry) ((x.genAt g).regionScores x.attr.metric (seP c.entry) qf)
    s.mapQuery c.land fun y => { y with query := v, route := route, step := 1 }

/-- The array jobs of ROUTE_1 (R182): one per index, with the frame's queries and UPSERT vectors. -/
def State.route1Jobs (s : State) (cs : List Cmd) : List Job :=
  (dedup (sortBy (fun a b => decide (a < b)) (cs.map fun c => c.object.toNat))).filterMap fun h =>
    match cs.find? fun c => c.object.toNat == h with
    | none => none
    | some c => (s.indexAt c.slot c.object s.frame.num).map fun x =>
        { k := x.attr.dim, n := x.attr.regions, m := (cs.filter fun d => d.object.toNat == h).length, e := 2, dram := true,
          ids := (cs.filter fun d => d.object.toNat == h).map fun d => (s.frame.logicalId, d.seq) }

/-- The commands that ROUTE_1 routes, in admission sequence: the frame's queries and UPSERTs (R182). -/
def State.route1Cmds (s : State) (slot : Nat) : List Cmd :=
  let us := (s.admitted slot).filter fun c =>
    c.op == 0x04 && c.adm == some s.frame.num && c.target == 0xFFFFFFFF && c.expect.isEmpty
  sortBy (fun a b => decide (a.seq < b.seq)) ((s.searchesAt slot 0 0).map (·.1) ++ us)

/-- ROUTE_1: the frame's queries are routed, and its UPSERTs sent. -/
def State.route1 (s : State) (e : EaselEntry) : State :=
  let qs := s.searchesAt e.slot 0 0
  let us := (s.admitted e.slot).filter fun c =>
    c.op == 0x04 && c.adm == some s.frame.num && c.target == 0xFFFFFFFF && c.expect.isEmpty
  let s1 := s.arrayWork e e.slot (s.route1Jobs (s.route1Cmds e.slot))
  let s2 := qs.foldl (fun acc p => acc.routeQuery p.1 p.2) s1
  us.foldl (fun acc c =>
    match acc.index? c.slot c.object with
    | some x => if acc.damaged c.slot c.object .regions then acc.mediaCmd c else acc.sendUpsert c x
    | none => acc.cutCmd c) s2

/-! ### SCATTER (R100, R101) -/

/-- The delivered query (R100): the round trip of the query palette, in bf16, or the bf16 query. -/
def State.delivered (s : State) (slot : Nat) (h : Handle) (a : IndexAttr) (v : List F16) : List F16 × Nat :=
  if a.exactQuery then (v, 0)
  else
    let t := s.roundTrip slot h 0 (toVec v)
    (t.1.map toBf16, t.2)

/-- RR of R150: a region's rank among the route's regions in ascending order. -/
def rankIn (l : List Nat) (x : Nat) : Nat := (l.filter fun y => decide (y < x)).length

/-- The filter of a SEARCH (R93, R95). -/
def filterOf (c : Cmd) : Filter :=
  match seFilterKind c.entry with
  | 1 => .facet (termsOf (seTermCount c.entry) (bufAt (c.bufs.getD []) 1))
  | 2 => .allow (BitVec.ofNat 32 (rd c.entry 0x28 4))
  | _ => .none

/-- The owners of a region for a query (R101, R394): in exact mode the holders that are not OUT_OF_STEP, else the one that
serves. -/
def State.ownersOf (s : State) (exact : Bool) (slot : Nat) (h : Handle) (region : Nat) : List Nat :=
  match s.routeEntry slot h region with
  | some e => s.reporters exact slot h region e
  | none => []

/-- Whether a window hands a message for a node to the port on its way (R45): this node's own parts need none. -/
def State.canSend (s : State) (e : EaselEntry) (dst : Nat) : Bool :=
  dst == s.frame.logicalId || (match s.egress dst with | some p => e.claimsPort p | none => true)

/-- One owner's part of a SEARCH handed on. -/
def State.scatterTo (s : State) (c : Cmd) (q : Query) (o : Nat × List Nat) : State :=
  s.send o.1 (some c.slot) (.scatter
    { home := s.frame.logicalId, seq := c.seq, snapshot := c.adm.getD 0, slot := c.slot, object := c.object,
      routes := o.2.map fun i => (i, q.route.getD i 0, rankIn q.route (q.route.getD i 0)),
      np := q.np, c := seC c.entry, filter := filterOf c, query := q.deliv })

/-- A SEARCH's parts that a window's ports can carry handed on; the others wait for another SCATTER window of the frame (R45), without
which their owners stay silent, as R30 has it. -/
def State.scatterSome (s : State) (e : EaselEntry) (c : Cmd) (q : Query) : State :=
  let now := q.owners.filter fun o => q.todo.contains o.1 && s.canSend e o.1
  now.foldl (fun acc o => acc.scatterTo c q o)
    (s.mapQuery c.land fun y => { y with todo := y.todo.filter fun o => !(now.any fun p => p.1 == o) })

/-- One SEARCH scattered to its owners, each with its route positions. -/
def State.scatterQuery (s : State) (e : EaselEntry) (c : Cmd) (q : Query) : State :=
  match s.indexAt c.slot c.object (c.adm.getD 0) with
  | none => s.cutCmd c
  | some x =>
    let d := s.delivered c.slot c.object x.attr q.query
    let pos := (q.route.mapIdx fun i r => (i, r)).map fun p => (p.1, p.2, s.ownersOf c.exact c.slot c.object p.2)
    let owners := sortBy (fun a b => decide (a < b)) (dedup (pos.flatMap fun p => p.2.2))
    let plan := owners.map fun o => (o, (pos.filter fun p => p.2.2.contains o).map (·.1))
    let q1 := { q with deliv := d.1, owners := plan, todo := owners, step := 2 }
    ((s.countClipped c.slot c.object 0 d.2).mapQuery c.land fun y =>
      { y with deliv := d.1, owners := plan, todo := owners, step := 2 }).scatterSome e c q1

/-- SCATTER: what a window before it had no port for, then the queries that come to SCATTER. -/
def State.scatterWindow (s : State) (e : EaselEntry) : State :=
  let s1 := (s.searchesAt e.slot 2 1).foldl (fun acc p => acc.scatterSome e p.1 p.2) s
  (s.searchesAt e.slot 1 1).foldl (fun acc p => acc.scatterQuery e p.1 p.2) s1

/-- SCATTER. -/
def execScatter (n : Nat) (s : State) : Answer := inWindow n 0x03 (fun e s => s.scatterWindow e) s

/-! ### NOMINATE (R106 to R108, R398 to R400) -/

/-- Whether owner data may still be read in frame f for snapshot g (R53). -/
def readable (g f : Nat) : Bool := decide (f ≤ g + 7)

/-- Whether a replay is used for an owner's missing input: not when it or its copy of the channel is known to have failed, so
that its holding is OUT_OF_STEP or announced so (R361, R394). -/
def State.replays (s : State) (c : Cmd) (q : Query) (o : Nat) : Bool :=
  let r := s.nextRoutes
  (q.owners.filter fun p => p.1 == o).any fun p => p.2.any fun i =>
    r.holdingState o c.slot c.object (q.route.getD i 0) != 1

/-- The other owner of a route position (R399). -/
def otherOwner (q : Query) (o i : Nat) : Option Nat := (q.owners.find? fun p => p.1 != o && p.2.contains i).map (·.1)

/-- The entries that a query's merge takes: those received, and for an owner whose list was lost the other holder's entries of
its regions with OWNER set to it (R399). -/
def nominated (q : Query) : List Cand :=
  let got := q.cands.flatMap (·.cands)
  let proxies := (q.lost.filter fun o => !(q.cands.any fun l => l.owner == o)).flatMap fun o =>
    (q.owners.filter fun p => p.1 == o).flatMap fun p => p.2.flatMap fun i =>
      match otherOwner q o i with
      | none => []
      | some b => ((q.cands.filter fun l => l.owner == b).flatMap (·.cands)).filterMap fun x =>
          if x.region = q.route.getD i 0 then some { x with owner := o } else none
  got ++ proxies

/-- Whom a re-rank entry is sent to: its OWNER, or the other holder when the owner's list was lost (R399). -/
def rerankTo (q : Query) (x : Cand) : Nat :=
  if q.lost.contains x.owner ∧ !(q.cands.any fun l => l.owner == x.owner) then
    match q.route.findIdx? (fun r => r == x.region) with
    | some i => (otherOwner q x.owner i).getD x.owner
    | none => x.owner
  else x.owner

/-- Whether re-rank requests are sent at all: with W = 0 only for payloads (R97, R115). -/
def wantsReads (c : Cmd) : Bool := seW c.entry != 0 || seWantPayload c.entry

/-- The re-rank requests of a query sent (R106). -/
def State.sendReranks (s : State) (c : Cmd) (again : Bool) (l : List (Nat × List Cand)) : State :=
  l.foldl (fun acc p =>
    acc.send p.1 (some c.slot) (.rerank
      { home := s.frame.logicalId, seq := c.seq, owner := p.1, k := seK c.entry, w := seW c.entry,
        payload := seWantPayload c.entry, span := s.span c.slot, again := again, entries := p.2 })) s

/-- A re-issue that fits (R108): its charge is taken from the shares two frames on, where it is admitted anew with NP doubled
(R109, R54). -/
def State.reissue (s : State) (c : Cmd) (q : Query) (a : IndexAttr) : Option State :=
  let np := min (2 * q.np) 256
  let f := s.frame.num + 2
  let ch := searchCharges c.exact c.entry a np
  match tget s.chans c.slot with
  | none => none
  | some x =>
    if seWiden c.entry && !q.widened && decide (q.np < np) && leL (addL (x.reissued f) ch) x.shares then
      let s1 := s.mapChan c.slot fun y => { y with reissues := y.reissues ++ [(f, ch)] }
      let q1 := { Query.init np q.wEff with query := q.query, widened := true }
      some (({ s1 with frame := { s1.frame with seq := s1.frame.seq + 1 } }).mapCmd c.land fun y =>
        { y with adm := some f, seq := s.frame.seq, q := some q1 })
    else none

/-- Whether the slot has another window of a stage in this frame, which has not run. -/
def State.moreWindows (s : State) (slot stage : Nat) : Bool :=
  match s.easel.inForce, tget s.chans slot with
  | some ea, some c => (ea.entries.mapIdx fun i e => (i, e)).any fun p =>
      p.2.stage == stage && p.2.names slot c && p.2.takesPart ea.hyper s.frame.num && !s.frame.ran.contains p.1
  | _, _ => false

/-- A query whose re-rank requests a NOMINATE window has no port for: it waits for another window of the frame, else it is cut off
(R30, R45). -/
def State.nominateLater (s : State) (n : Nat) (c : Cmd) : State :=
  if s.moreWindows c.slot 0x06 then s else (s.cutCmd c).cutEvent c.slot 0x06 n 1

/-- A query goes on from NOMINATE: the re-rank set and its requests, or a re-issue. -/
def State.nominateNow (s : State) (n : Nat) (e : EaselEntry) (c : Cmd) (q : Query) : State :=
  let es := nominated q
  let r := cut false (if seW c.entry = 0 then seK c.entry else q.wEff) es []
  let again := match s.indexAt c.slot c.object (c.adm.getD 0) with
    | some x => if (collapse false es).length < seK c.entry then s.reissue c q x.attr else none
    | none => none
  match again with
  | some s1 => s1
  | none =>
    let dsts := sortBy (fun a b => decide (a < b)) (dedup (r.1.map (rerankTo q)))
    let sent := if wantsReads c then dsts.map fun d => (d, r.1.filter fun x => rerankTo q x == d) else []
    if !(sent.all fun p => s.canSend e p.1) then s.nominateLater n c
    else (s.mapQuery c.land fun y => { y with set := r.1, tie0 := r.2, sent := sent, step := 3 }).sendReranks c false sent

/-- One query in NOMINATE: an owner's missing list is a lost input, for which the frame is replayed in exact mode (R400). -/
def State.nominateQuery (s : State) (n : Nat) (e : EaselEntry) (c : Cmd) (q : Query) : State :=
  if q.cands.any (·.cutOff) then s.cutCmd c
  else
    let missing := (q.owners.map (·.1)).filter fun o => !(q.cands.any fun l => l.owner == o) && !q.lost.contains o
    if c.exact && missing.any (s.replays c q) then
      if readable (c.adm.getD 0) (s.frame.num + 2 + s.span c.slot) then
        s.mapQuery c.land fun y => { y with lost := y.lost ++ missing, delay := y.delay + 1 }
      else s.cutCmd c
    else s.nominateNow n e c q

/-- NOMINATE: queries in ascending admission sequence (R108). -/
def State.nominateWindow (s : State) (n : Nat) (e : EaselEntry) : State :=
  ((s.searchesAt e.slot 2 2).foldl (fun acc p => acc.nominateQuery n e p.1 p.2) s).coreFree e.slot

/-- NOMINATE. -/
def execNominate (n : Nat) (s : State) : Answer := inWindow n 0x06 (fun e s => s.nominateWindow n e) s

/-! ### DELIVER (R114 to R118) -/

/-- The 16 bytes of a result entry (R115). -/
def resultEntry (tie : Bool) (c : Cand) : Bytes :=
  toLe 8 c.key.toNat ++ toLe 4 c.score.toNat ++
  toLe 4 ((if c.exact then 1 else 0) + (if c.exact then 0 else 2) + (if tie then 4 else 0) + (if c.rescored then 8 else 0) +
    (if c.noPay then 16 else 0) + c.owner % 1024 * 32)

/-- The 16 bytes of a padding entry. -/
def padEntry : Bytes := List.replicate 8 0xFF ++ toLe 4 0x7F800000 ++ toLe 4 0

/-- What the home has of a query when it delivers it (R114). -/
structure Outcome where
  entries   : List Cand
  tied      : Bool
  coverage  : Nat
  answered  : Bool
  reranked  : Nat
  estimated : Nat
  unscanned : Nat
  media     : Bool
  cutOff    : Bool
  deriving DecidableEq, Repr

/-- In exact mode an owner tells that it read late with a local result without entries (R398). -/
def notices (c : Cmd) (q : Query) : List Local := if c.exact then q.locals.filter (·.late) else []

/-- The local results that a delivery merges. -/
def results (c : Cmd) (q : Query) : List Local := if c.exact then q.locals.filter fun l => !l.late else q.locals

/-- The owners whose re-rank entries found no local result. -/
def silentOwners (c : Cmd) (q : Query) : List Nat :=
  dedup ((q.sent.filter fun p => decide (((results c q).filter fun l => l.owner == p.1).length <
      (q.sent.filter fun x => x.1 == p.1).length)).map (·.1))

/-- The merge of DELIVER (R114, R161, R164, R165). The regions of an owner that is silent in NOMINATE or DELIVER are
uncovered (R400). -/
def delivery (c : Cmd) (q : Query) (graph : Bool) : Outcome :=
  let silent := silentOwners c q
  let lost := ((q.sent.filter fun p => silent.contains p.1).flatMap (·.2)).map (·.region)
  let dead := fun (i : Nat) => lost.contains (q.route.getD i 0)
  let p := seP c.entry
  let cov := (List.range p).filter fun i =>
    decide (i < q.route.length) && !dead i && (q.cands.any fun l => l.covered.any fun v => v.1 == i) &&
      q.cands.all fun l => l.covered.all fun v => v.1 != i || v.2
  let ans := (List.range p).any fun i => !dead i && q.cands.any fun l => l.covered.any fun v => v.1 == i
  let k := seK c.entry
  let ls := results c q
  let r :=
    if seW c.entry = 0 then
      if wantsReads c then (sortBy (candLt false) (ls.flatMap (·.top)), q.tie0)
      else (q.set.map (fun x => { x with noPay := true }), q.tie0)
    else cut graph k (ls.flatMap (·.top)) ((ls.filter (·.tied)).filterMap fun l => l.top.getLast?)
  { entries := r.1, tied := r.2 && r.1.length == k, coverage := (cov.map fun i => 2 ^ i).sum, answered := ans,
    reranked := (ls.map (·.reranked)).sum, estimated := (ls.map (·.estimated)).sum,
    unscanned := min (q.cands.map (·.unscanned)).sum 0xFFFF,
    media := q.cands.any (·.media) || ls.any (·.media), cutOff := q.cands.any (·.cutOff) || ls.any (·.cutOff) }

/-- A route region had no usable holder when the query was scattered. -/
def noHolder (q : Query) : Bool := (List.range q.route.length).any fun i => !(q.owners.any fun p => p.2.contains i)

/-- No answer in a fault: in bounded-loss mode no route region answered, in exact mode one had no usable holder (R117). -/
def abandoned (c : Cmd) (q : Query) (o : Outcome) : Bool :=
  if c.exact then noHolder q else !q.route.isEmpty && !o.answered

/-- The status of a SEARCH (R117, R118). `lateReads`: late reads in bounded-loss mode. -/
def searchStatus (c : Cmd) (o : Outcome) (lost : Bool) (lateReads : Bool) : Nat :=
  if o.media then stMedia
  else if lost then stAbandoned
  else if o.cutOff then stCutOff
  else if o.coverage != 2 ^ seP c.entry - 1 then stPartial
  else if lateReads then stApprox
  else if o.entries.length < seK c.entry then stShort
  else stOk

/-- The result buffer's header (R114). -/
def resultHeader (c : Cmd) (q : Query) (o : Outcome) (lateReads : Bool) (home : Nat) : Bytes :=
  toLe 4 o.entries.length ++ toLe 4 o.coverage ++ toLe 6 (c.adm.getD 0) ++ toLe 2 0 ++ toLe 2 o.reranked ++ toLe 2 o.estimated ++
  toLe 2 o.unscanned ++ toLe 2 0 ++
  toLe 4 ((if o.entries.length < seK c.entry then 1 else 0) + (if lateReads && o.estimated != 0 then 2 else 0) +
    (if o.coverage != 2 ^ seP c.entry - 1 then 4 else 0) + (if q.widened then 8 else 0)) ++ toLe 4 home

/-- The writes of a result (R114, R115): header and entries, then the payload rows from PO. -/
def resultWrites (c : Cmd) (q : Query) (o : Outcome) (lateReads : Bool) (home payloadLen : Nat) : List (Nat × Bytes) :=
  let k := seK c.entry
  let a := entryAddr c.entry 0x10
  let body := (List.range k).flatMap fun i =>
    match o.entries[i]? with | some x => resultEntry (o.tied && i + 1 == k) x | none => padEntry
  let row := fun (i : Nat) =>
    match o.entries[i]? with
    | some x => if x.noPay then List.replicate payloadLen (0 : Byte)
                else (x.payload ++ List.replicate payloadLen 0).take payloadLen
    | none => List.replicate payloadLen 0
  (a, resultHeader c q o lateReads home ++ body) ::
    (if seWantPayload c.entry then [(a + searchPo k, (List.range k).flatMap row)] else [])

/-- A query delivered. -/
def State.deliverNow (s : State) (c : Cmd) (q : Query) : State :=
  let g := c.adm.getD 0
  let graph := (s.graphAt c.slot c.object g).isSome
  let pl := match s.indexAt c.slot c.object g with | some x => x.attr.payloadLen | none => 0
  let o := delivery c q graph
  let lr := !c.exact && q.locals.any (·.late)
  let st := searchStatus c o (abandoned c q o) lr
  let writes := st == stOk || st == stShort || st == stApprox || st == stPartial
  s.settle c.land s.frame.num
    { c.outcome s st with data := if writes then resultWrites c q o lr s.frame.logicalId pl else [] }

/-- One query in DELIVER. In exact mode a late read at an owner makes it wait one frame, and a local result that is missing is
asked of the other holder, which ranks the entries anew; DELIVER moves one frame later (R398 to R400, log entry 36). -/
def State.deliverQuery (s : State) (c : Cmd) (q : Query) : State :=
  let late := (notices c q).map (·.owner)
  let silent := (silentOwners c q).filter fun o => !late.contains o
  let q1 := { q with locals := results c q }
  if !late.isEmpty && (q.locals.all fun l => !l.cutOff) then
    s.mapQuery c.land fun _ => { q1 with delay := q.delay + 1 }
  else if c.exact && silent.any (s.replays c q) then
    if readable (c.adm.getD 0) (s.frame.num + 1) then
      let lost := dedup (q1.lost ++ silent)
      let q2 := { q1 with lost := lost, cands := q1.cands.filter fun l => !silent.contains l.owner }
      let again := (q1.sent.filter fun p => silent.contains p.1).flatMap (·.2)
      let dsts := dedup (again.map (rerankTo q2))
      let sent := dsts.map fun d => (d, again.filter fun x => rerankTo q2 x == d)
      (s.mapQuery c.land fun _ => { q1 with lost := lost, sent := (q1.sent.filter fun p => !silent.contains p.1) ++ sent,
                                            delay := q.delay + 1 }).sendReranks c true sent
    else s.cutCmd c
  else s.deliverNow c q

/-- DELIVER. -/
def State.deliverWindow (s : State) (e : EaselEntry) : State :=
  ((s.searchesAt e.slot 3 (4 + s.span e.slot)).foldl (fun acc p => acc.deliverQuery p.1 p.2) s).coreFree e.slot

end Sys2Proof.Machine
end

