-- ==== Sys2Proof/Machine/Owner.lean ====
section
/-! DEFINITION. The owner's stages of a SEARCH: ROUTE_2 and SCAN (R102 to R105, R155 to R160, R235, R236), FETCH (R110, R111,
R255, R273, R274, R346), RANK and RESCORE (R113, R128 to R130, R136 to R144, R161 to R165, R217). -/

namespace Sys2Proof.Machine

/-- An owner's query changed. -/
def State.mapOwner (s : State) (q : OwnerQ) (f : OwnerQ → OwnerQ) : State :=
  { s with ownerQs := s.ownerQs.map fun x =>
      if x.sc.home = q.sc.home ∧ x.sc.seq = q.sc.seq ∧ x.sc.slot = q.sc.slot then f x else x }

/-- A message that leaves at the start of the next frame. -/
def State.post (s : State) (dst slot : Nat) (m : Msg) : State :=
  { s with outbox := s.outbox ++ [(s.frame.num + 1, dst, slot, m)] }

/-- Whether a query that came in frame f is worked on in the present frame: in its own, or in exact mode in a later one, as a
replay (R120, R398), while version g can be read (R53). -/
def State.ownerDue (s : State) (q : OwnerQ) : Bool :=
  q.frame == s.frame.num || (s.frame.exact && decide (q.frame ≤ s.frame.num) && readable q.sc.snapshot s.frame.num)

/-- The queries of a slot at this owner, in the order of R102. -/
def State.ownerQueue (s : State) (slot : Nat) (p : OwnerQ → Bool) : List OwnerQ :=
  sortBy (fun a b => probeBefore s.frame.num (a.sc.home, a.sc.seq) (b.sc.home, b.sc.seq))
    (s.ownerQs.filter fun q => q.sc.slot == slot && p q)

/-! ### ROUTE_2 (R103) -/

/-- A list number in use (R68): it has a centroid. -/
def IList.inUse (l : IList) : Bool := !l.centroid.isEmpty

/-- The lists in use of a region, with their centroids. -/
def IndexGen.listsIn (x : IndexGen) (r : Nat) : List (Nat × IList) := (x.region r).filter fun p => p.2.inUse

/-- The NP_EFF lists of a region at a version, best first. -/
def IndexGen.chooseLists (x : IndexGen) (metric np r g : Nat) (q : List F32) : List Nat :=
  chooseBest np ((x.listsAt r g).map fun p => (p.1, centroidScore metric q (toVec p.2)))

/-- One query routed within its regions, and sketched. -/
def State.routeLists (s : State) (q : OwnerQ) : State :=
  match s.indexAt q.sc.slot q.sc.object q.sc.snapshot with
  | none => s.mapOwner q fun y => { y with cutOff := true, routed := true }
  | some x =>
    let v := toVec q.sc.query
    let gen := x.genAt q.sc.snapshot
    let bad := s.damaged q.sc.slot q.sc.object .sketch || q.sc.routes.any fun p => s.damaged q.sc.slot q.sc.object (.lists p.2.1)
    s.mapOwner q fun y =>
      { y with media := y.media || bad, chosen := q.sc.routes.map fun p => (p.1, gen.chooseLists x.attr.metric q.sc.np p.2.1 q.sc.snapshot v),
               sketch := sketchOf x.attr.seed x.attr.sketchBits v, routed := true }

/-- The target region of an UPSERT. -/
def upsertTarget (u : Upd) : Option Nat := match u.body with | .upsert _ _ _ _ _ target => some target | _ => none

/-- The upserts of the frame before that this owner routes in ROUTE_2: those whose target region it holds (R182). -/
def State.routedUpserts (s : State) (slot : Nat) : List Upd :=
  ((s.updIn.map (·.2)) ++ (s.took.map (·.1))).filter fun u =>
    u.slot == slot && u.frame + 1 == s.frame.num &&
      (match upsertTarget u with | some t => s.regionRole slot u.object t != .none | none => false)

/-- The jobs of ROUTE_2 (R182): one per region, with the queries and the upsert vectors for it, then one per index for the
sketches of the queries, in the same window: R182 gives them the stage and not a window of their own (DESIGN CHOICE, log entry 79). -/
def State.route2Jobs (s : State) (slot : Nat) (qs : List OwnerQ) : List Job :=
  let us := (s.routedUpserts slot).filter fun u => !u.next
  let keys := sortBy (fun a b => decide (a < b)) (dedup (qs.map (fun q => q.sc.object.toNat) ++ us.map (fun u => u.object.toNat)))
  let attr := fun (h : Nat) => match qs.find? fun q => q.sc.object.toNat == h with
    | some q => s.indexAt q.sc.slot q.sc.object q.sc.snapshot
    | none => s.index? slot (BitVec.ofNat 32 h)
  let regions := keys.flatMap fun h =>
    match attr h with
    | none => []
    | some x =>
      let mine := (qs.filter fun q => q.sc.object.toNat == h).flatMap (fun q => q.sc.routes.map fun t => (t.2.1, q.sc.home, q.sc.seq)) ++
        (us.filter fun u => u.object.toNat == h).filterMap fun u => (upsertTarget u).map fun t => (t, u.home, u.seq)
      (sortBy (fun a b => decide (a < b)) (dedup (mine.map (·.1)))).map fun r =>
        { k := x.attr.dim, n := (x.cur.listsIn r).length, m := (mine.filter (·.1 == r)).length, e := 2, dram := true,
          ids := (mine.filter (·.1 == r)).map (·.2) }
  let sketches := (keys.filter fun h => qs.any fun q => q.sc.object.toNat == h).filterMap fun h => (attr h).map fun x =>
    { k := x.attr.dim, n := x.attr.sketchBits, m := (qs.filter fun q => q.sc.object.toNat == h).length, e := 2, dram := true,
      ids := (qs.filter fun q => q.sc.object.toNat == h).map fun q => (q.sc.home, q.sc.seq) }
  regions ++ sketches

/-- The queries that ROUTE_2 routes. -/
def State.route2Queries (s : State) (slot : Nat) : List OwnerQ := s.ownerQueue slot fun q => !q.routed && s.ownerDue q

/-- ROUTE_2. -/
def State.route2 (s : State) (e : EaselEntry) : State :=
  let qs := s.route2Queries e.slot
  qs.foldl (fun acc q => acc.routeLists q) (s.arrayWork e e.slot (s.route2Jobs e.slot qs))

/-! ### SCAN (R102, R104, R105, R155 to R160) -/

/-- One probe: query, route position, region, RR, list, LR. -/
structure Probe where
  q      : OwnerQ
  pos    : Nat
  region : Nat
  rr     : Nat
  list   : Nat
  lr     : Nat

/-- The probes of a query in the order of R102. -/
def probesOf (q : OwnerQ) : List Probe :=
  q.sc.routes.flatMap fun r =>
    let ls := match q.chosen.find? fun c => c.1 == r.1 with | some c => c.2 | none => []
    ls.map fun l => { q := q, pos := r.1, region := r.2.1, rr := r.2.2, list := l, lr := rankIn ls l }

/-- The state of a set that filters a SCAN in the present frame: its units when it may be read, none when it is not combined
or not there (R235). -/
def State.filterUnits (s : State) (q : OwnerQ) : Option (Option (Nat × List Nat)) :=
  match q.sc.filter with
  | .allow h =>
    (match s.setAtFrame q.sc.slot h q.sc.snapshot with
     | some x => if x.fresh || (x.derived && x.stamp + 1 != s.frame.num) then none else some (some (objKey q.sc.slot h, x.units))
     | none => none)
  | _ => some none

/-- The bit of a row in a base set at version g (R51, R105): what a later commit window changed is logged. -/
def State.bitAt (s : State) (x : AllowSet) (row g : Nat) : Bool :=
  match x.bitLog.find? fun b => decide (g < b.1) && b.2.1 == row with
  | some b => b.2.2
  | none => bitRead s.dram.mem x.units row

/-- One operator of R234 on a bit. -/
def bitOp (op : Nat) (a b : Bool) : Bool := match op with | 1 => a && b | 2 => a || b | _ => a && !b

/-- The bit of a row in a set as combined at the start of frame g + 1 (R105): of a derived set read in a later frame, from its operands
at version g. -/
def State.setBitAt (s : State) (slot : Nat) (x : AllowSet) (row g : Nat) : Bool :=
  if !x.derived || s.frame.num == g + 1 then s.bitAt x row g
  else
    let chain := x.ops.takeWhile (· != 0)
    match (x.sets.take (chain.length + 1)).map fun h => (match tget s.sets (objKey slot h) with | some y => s.bitAt y row g | none => false) with
    | [] => false
    | a :: rest => (List.zip chain rest).foldl (fun acc p => bitOp p.1 acc p.2) a

/-- Whether a slot passes the filter (R105). -/
def State.passes (s : State) (q : OwnerQ) (units : Option (Nat × List Nat)) (sl : Slot) : Bool :=
  match q.sc.filter with
  | .none => true
  | .facet ts => ts.any fun t => sl.facet &&& t.1 == t.2
  | .allow _ =>
    (match units with
     | some u => (match tget s.sets u.1 with | some x => s.setBitAt q.sc.slot x sl.row q.sc.snapshot | none => false)
     | none => false)

/-- The candidate of a slot (R104, R135, R150). -/
def candOf (x : Index) (p : Probe) (me : Nat) (qq : F32) (i : Nat) (sl : Slot) : Cand :=
  let v := valueAt sl p.q.sc.snapshot
  let sc := estScore x.attr.metric x.attr.sketchBits qq v.2 (popCount x.attr.sketchBits (p.q.sketch ^^^ v.1))
  { key := sl.key, ordinal := p.rr * 2 ^ 27 + p.lr * 2 ^ 19 + i, orderKey := orderKey sc, region := p.region, list := p.list,
    slot := i, score := sc, exact := false, est := true, tie := false, rescored := false, noPay := false, owner := me, payload := [] }

/-- The eligible slots of a probe as candidates (R104). -/
def State.probeCands (s : State) (x : Index) (p : Probe) (units : Option (Nat × List Nat)) : List Cand :=
  let g := p.q.sc.snapshot
  let v := toVec p.q.sc.query
  let qq := dot v v
  match tget ((x.genAt g).region p.region) p.list with
  | none => []
  | some l => (l.extentAt g).numbered.filterMap fun q =>
      if seenAt q.2 g && s.passes p.q units q.2 then some (candOf x p s.frame.logicalId qq q.1 q.2) else none

/-- The chunks of the tombstone set and of a filtering set that a probe's slots read (R156). -/
def State.probeChunks (x : Index) (p : Probe) (key : Nat) (units : Option (Nat × List Nat)) : List (Nat × Nat) :=
  match tget ((x.genAt p.q.sc.snapshot).region p.region) p.list with
  | none => []
  | some l => dedup ((l.slotsAt p.q.sc.snapshot).flatMap fun sl =>
      (key, sl.row / 8192) :: (match units with | some u => [(u.1, sl.row / 8192)] | none => []))

/-- Lines of a list's extent at a version (R68). -/
def IList.linesAt (l : IList) (a : IndexAttr) (g : Nat) : Nat := extentLines a.tipin (l.extentAt g).mainSlots

/-- Words that a core stages in a pass (R153): those below the threshold when they come. -/
def stagedWords (kc : Nat) (ws : List Nat) : Nat :=
  (ws.foldl (fun (r : KeepState × Nat) w =>
    (KeepState.offer kc r.1 w, if w < KeepState.threshold kc r.1 then r.2 + 1 else r.2)) ({ keep := [], stage := [] }, 0)).2

/-- What is left while the probes of a SCAN window are taken: the share, and per query its candidates, covered positions and
probes not scanned. -/
structure ScanRun where
  st    : State
  left  : Nat
  cands : List (Nat × Cand)
  bad   : List (Nat × Nat)
  miss  : Nat

/-- One probe scanned: beyond the share it is not (R102); a suspect chunk leaves its region unanswered (R236). -/
def scanOne (x : Index) (key : Nat) (units : Option (Nat × List Nat)) (r : ScanRun) (p : Probe) : ScanRun :=
  if r.left = 0 then { r with bad := r.bad ++ [(p.pos, 0)], miss := r.miss + 1 }
  else
    let chunks := State.probeChunks x p key units
    let s1 := chunks.foldl (fun acc c => acc.readChunk c.1 c.2) r.st
    let s2 := s1.mapIndex p.q.sc.slot p.q.sc.object fun y =>
      y.mapAt p.q.sc.snapshot fun x => x.mapList p.region p.list fun l => { l with scanned := l.scanned + 1 }
    if chunks.any fun c => s1.isSuspect c.1 c.2 then { r with st := s2, left := r.left - 1, bad := r.bad ++ [(p.pos, 1)] }
    else { r with st := s2, left := r.left - 1, cands := r.cands ++ (s1.probeCands x p units).map fun c => (p.pos, c) }

/-- The part of one probe that was scanned, from the candidates it offered. -/
def passPart (entry : Nat) (x : Index) (p : Probe) (cands : List Cand) : ScanPart :=
  let kc := min p.q.sc.c 64
  let lines := match tget ((x.genAt p.q.sc.snapshot).region p.region) p.list with | some l => l.linesAt x.attr p.q.sc.snapshot | none => 0
  let ws := fun (core : Nat) => (cands.filter fun c => c.slot % 16 == core).map Cand.word
  { entry := entry, slot := p.q.sc.slot, query := (p.q.sc.home, p.q.sc.seq), list := (p.q.sc.object.toNat, p.region, p.list),
    c := p.q.sc.c, kc := kc, b := x.attr.sketchBits, lines := lines,
    batch := (List.range 16).map fun i => batchCycles kc (stagedWords kc (ws i)), words := (List.range 16).map ws }

/-- The passes over one list (R157): each takes the next queries while it holds at most 64 and their state fits. -/
def passesOf : List ScanPart → List ScanPart → Nat → List (List ScanPart)
  | [], cur, _ => if cur.isEmpty then [] else [cur]
  | p :: rest, cur, mem =>
    let need := p.b / 8 + 8 * p.kc + 64
    if cur.isEmpty ∨ (cur.length < 64 ∧ mem + need ≤ 12288) then passesOf rest (cur ++ [p]) (mem + need)
    else cur :: passesOf rest [p] need

/-- Core cycles, summed over the 16 cores, and DRAM bytes of the passes over one list (R157, R158): its planes are streamed
once when they fit tile memory. -/
def listCost (ps : List ScanPart) : Nat × Nat :=
  match ps with
  | [] => (0, 0)
  | p :: _ =>
    let passes := passesOf ps [] 0
    let bytes := p.lines * 16 * (p.b / 8 + 16)
    ((passes.map fun q => ((List.range 16).map fun i =>
        passCycles p.lines q.length p.b (q.map fun y => y.batch.getD i 0).sum).sum).sum,
     if bytes ≤ 98304 then bytes else bytes * passes.length)

/-- A SCAN window's passes kept for their time, and counted for the channel (R355). -/
def State.countPasses (s : State) (slot : Nat) (ps : List ScanPart) : State :=
  let cost := (dedup (ps.map (·.list))).map fun l => listCost (ps.filter fun p => p.list == l)
  { (s.account slot 0 (cost.map (·.1)).sum).account slot 2 (cost.map (·.2)).sum with scanParts := s.scanParts ++ ps }

/-- The candidates of a query: per region the C best (R104, R161), unless the region is left unanswered. -/
def keepRegions (q : OwnerQ) (r : ScanRun) : List Cand :=
  q.sc.routes.flatMap fun t =>
    if r.bad.any fun b => b.1 == t.1 && b.2 == 1 then []
    else cutPlain q.sc.c ((r.cands.filter fun c => c.1 == t.1).map (·.2))

/-- The candidate list goes home in the next frame (R106). -/
def State.sendCands (s : State) (q : OwnerQ) (covered : List (Nat × Bool)) (unscanned : Nat) (cutOff : Bool) (cands : List Cand) :
    State :=
  (s.mapOwner q fun y => { y with scanned := true }).post q.sc.home q.sc.slot (.cands
    { home := q.sc.home, seq := q.sc.seq, owner := s.frame.logicalId, covered := covered, unscanned := unscanned, media := q.media,
      cutOff := cutOff, cands := cands })

/-- This node's holding of a region is not OUT_OF_STEP: else it serves nothing (R394). -/
def State.inStep (s : State) (q : OwnerQ) (region : Nat) : Bool :=
  s.holdingState s.frame.logicalId q.sc.slot q.sc.object region != 1

/-- One query scanned against what is left of the share, with its parts in the window's passes. The refills of R160 give the exact
candidates; their time is reckoned at the commit window. -/
def State.scanQuery (entry : Nat) (r0 : State × List ScanPart) (q0 : OwnerQ) : State × List ScanPart :=
  let s := r0.1
  let q := { q0 with media := q0.media || (probesOf q0).any fun p => s.damaged q0.sc.slot q0.sc.object (.extent p.region p.list) }
  match s.indexAt q.sc.slot q.sc.object q.sc.snapshot, s.filterUnits q, tget s.chans q.sc.slot with
  | some x, some units, some ch =>
    if q.cutOff then (s.sendCands q [] 0 true [], r0.2)
    else
      let left := ch.shares.getD 1 0 - ch.ownUsed.getD 1 0
      let ps := (probesOf q).filter fun p => s.inStep q p.region
      let r := ps.foldl (scanOne x (objKey q.sc.slot q.sc.object) units) { st := s, left := left, cands := [], bad := [], miss := 0 }
      if s.frame.exact && r.bad.any (fun b => b.2 == 1) && readable q.sc.snapshot (s.frame.num + 1) then (r.st, r0.2)
      else
        let parts := (ps.take (left - r.left)).map fun p =>
          passPart entry x p ((r.cands.filter fun c => c.1 == p.pos && c.2.list == p.list).map (·.2))
        let s1 := r.st.mapChan q.sc.slot fun y => { y with ownUsed := setAt y.ownUsed 1 (· + (left - r.left)) }
        (s1.sendCands q ((q.sc.routes.filter fun t => s.inStep q t.2.1).map fun t => (t.1, !(r.bad.any fun b => b.1 == t.1))) r.miss false (keepRegions q r), r0.2 ++ parts)
  | _, _, _ => (s.sendCands q [] 0 true [], r0.2)

/-- SCAN: the queries of the channel that have been routed, in the order of R102. -/
def State.scanWindow (s : State) (n : Nat) (e : EaselEntry) : State :=
  let r := (s.ownerQueue e.slot fun q => q.routed && !q.scanned && s.ownerDue q).foldl (State.scanQuery n) (s, [])
  r.1.countPasses e.slot r.2

/-- SCAN. -/
def execScan (w : ReadWindow) (s : State) : Answer :=
  inWindow w.entry 0x05 (fun e s => (s.meetFaults e.slot w.faults).scanWindow w.entry e) s

/-! ### FETCH (R110, R255, R273, R346) -/

/-- The flash channel of a die (R253). -/
def Flash.channelOf (f : Flash) (die : Nat) : Nat :=
  let ch := bitList 24 f.populated
  ch.getD (die / max 1 (f.dies / max 1 ch.length)) 24

/-- Whether a folio can be read at this moment: not lost, and on no dead die (R257, R276). -/
def Flash.lost (f : Flash) (folio : Nat) : Bool :=
  match tget f.map folio with
  | some m => m.state == 2 || f.deadDies.contains m.die || !hasBit f.live (f.channelOf m.die)
  | none => false

/-- Pages that bytes [o, o + n) of a folio touch: array reads (R255). -/
def pagesTouched (o n : Nat) : Nat := (o + n - 1) / 16384 - o / 16384 + 1

/-- Array reads of a record (R73, R255). -/
def recordReads (a : IndexAttr) (record : Nat) : Nat := pagesTouched (64 + record * recordSize a) (recordSize a)

/-- Segments of a record's bytes (R255). -/
def recordSegments (a : IndexAttr) (record : Nat) : Nat :=
  let o := 64 + record * recordSize a
  (o + recordSize a - 1) / 64 - o / 64 + 1

/-- DIE_CAP (R273) for L core cycles of FETCH windows. -/
def Flash.dieCap (f : Flash) (l : Nat) : Nat :=
  f.profile.planes * ((4 * l - 7 * (f.profile.tSus + 5000)) / (7 * max 1 f.profile.tR))

/-- L of R273 for a die: the channel's FETCH windows of this frame that claim its flash channel. -/
def State.fetchLength (s : State) (slot die : Nat) : Nat :=
  ((s.windowsOf slot 0x07).filter fun e => hasBit e.engines 6 && hasBit e.flash (s.flash.channelOf die)).map (·.length) |>.sum

/-- The slot that an entry's position names at version g (R110). -/
def State.entrySlot (s : State) (slot : Nat) (h : Handle) (g : Nat) (c : Cand) : Option (Index × Slot) :=
  match s.indexAt slot h g with
  | none => none
  | some x =>
    match tget ((x.genAt g).region c.region) c.list with
    | none => none
    | some l => ((l.extentAt g).slot? c.slot).map fun sl => (x, sl)

/-- What is left while a plan is formed (R273): read units of the share, array reads by die. -/
structure PlanRun where
  st   : State
  used : Tbl Nat

/-- The outcome of planning one record: read units, whether it is beyond the share, or beyond the die's cap or lost; else the
state with the read issued (1 when it needs no flash: a record still in the staging buffer, R263). -/
def PlanRun.plan (r : PlanRun) (slot home seq : Nat) (key : Key) (a : IndexAttr) (sl : Slot) (isFetch : Bool) : PlanRun × Nat :=
  let s := r.st
  match tget s.chans slot with
  | none => (r, 5)
  | some ch =>
    let u := recordUnits a
    if ch.shares.getD 5 0 < ch.ownUsed.getD 5 0 + u then (r, 5)
    else
      let beyond := fun (_ : Unit) => ({ r with st := { s with flash := { s.flash with overCap := tcount s.flash.overCap ch.fn 1 } } }, 5)
      if keyAbsent ch || s.flash.lost sl.folio then beyond ()
      else
        let s1 := s.mapChan slot fun y => { y with ownUsed := setAt y.ownUsed 5 (· + u) }
        match tget s.flash.map sl.folio with
        | none => ({ r with st := s1 }, 1)
        | some m =>
          let n := recordReads a sl.record
          if s.flash.dieCap (s.fetchLength slot m.die) < tgetD r.used m.die 0 + n then beyond ()
          else
            let rd : FRead := { id := s.flash.nextId, slot := slot, home := home, seq := seq, key := key, die := m.die,
                                folio := sl.folio, isFetch := isFetch, back := 0, at_ := s.nowNs }
            ({ st := { s1 with flash := { s1.flash with reads := s1.flash.reads ++ [rd], nextId := s1.flash.nextId + 1 } },
               used := tput r.used m.die (tgetD r.used m.die 0 + n) }, 0)

/-- The re-rank entries of a query planned, best first. -/
def PlanRun.query (r : PlanRun) (q : OwnerQ) (rr : Rerank) : PlanRun :=
  let es := if rr.w = 0 ∧ !rr.payload then [] else sortBy (candLt false) rr.entries
  let t := es.foldl (fun (t : PlanRun × List (Cand × Nat) × List Cand) c =>
    match t.1.st.entrySlot q.sc.slot q.sc.object q.sc.snapshot c with
    | none => (t.1, t.2.1, t.2.2 ++ [c])
    | some (x, sl) =>
      if t.1.st.damaged q.sc.slot q.sc.object (.extent c.region c.list) then (t.1, t.2.1 ++ [(c, 3)], t.2.2)
      else
      let p := t.1.plan q.sc.slot q.sc.home q.sc.seq c.key x.attr sl false
      if p.2 = 5 then (p.1, t.2.1, t.2.2 ++ [c]) else (p.1, t.2.1 ++ [(c, p.2)], t.2.2)) (r, [], [])
  { t.1 with st := t.1.st.mapOwner q fun y => { y with planned := true, reads := t.2.1, beyond := t.2.2 } }

/-- An owner's FETCH changed. -/
def State.mapOwnerF (s : State) (q : OwnerF) (f : OwnerF → OwnerF) : State :=
  { s with ownerFs := s.ownerFs.map fun x => if x.home = q.home ∧ x.seq = q.seq ∧ x.slot = q.slot then f x else x }

/-- The place of a FETCH's key at its snapshot (R346). -/
def State.fetchSlot (s : State) (q : OwnerF) : Option (Index × Slot) :=
  match s.indexAt q.slot q.object q.snapshot with
  | none => none
  | some x => ((x.genAt q.snapshot).find q.region q.key q.snapshot).map fun p => (x, p.2.2)

/-- Whether the key directory or the extent that a FETCH reads is uncorrectable (R110, R392). -/
def State.fetchDamaged (s : State) (q : OwnerF) : Bool :=
  s.damaged q.slot q.object (.keys q.region) ||
  match s.indexAt q.slot q.object q.snapshot with
  | none => false
  | some x =>
    match (x.genAt q.snapshot).find q.region q.key q.snapshot with
    | some p => s.damaged q.slot q.object (.extent q.region p.1)
    | none => false

/-- One FETCH planned as a re-rank entry (R346). -/
def PlanRun.fetch (r : PlanRun) (q : OwnerF) : PlanRun :=
  match r.st.fetchSlot q with
  | none => r
  | some (x, sl) =>
    if r.st.fetchDamaged q then { r with st := r.st.mapOwnerF q fun y => { y with state := 4 } }
    else
    let p := r.plan q.slot q.home q.seq q.key x.attr sl true
    { p.1 with st := p.1.st.mapOwnerF q fun y => { y with state := if p.2 = 5 then 5 else if p.2 = 1 then 2 else 1 } }

/-- Reads of a replay issued again (R398): entries of a span that ends in this frame and whose reads were abandoned. One that no longer
fits keeps its estimated score (R110). -/
def PlanRun.again (r : PlanRun) (q : OwnerQ) : PlanRun :=
  let t := q.reads.foldl (fun (t : PlanRun × List (Cand × Nat)) c =>
    if c.2 = 0 ∧ !(t.1.st.flash.reads.any fun x => x.home == q.sc.home && x.seq == q.sc.seq && x.slot == q.sc.slot && x.key == c.1.key) then
      (match t.1.st.entrySlot q.sc.slot q.sc.object q.sc.snapshot c.1 with
       | none => (t.1, t.2 ++ [c])
       | some (x, sl) =>
         let p := t.1.plan q.sc.slot q.sc.home q.sc.seq c.1.key x.attr sl false
         (p.1, t.2 ++ [(c.1, p.2)]))
    else (t.1, t.2 ++ [c])) (r, [])
  { t.1 with st := t.1.st.mapOwner q fun y =>
      { y with reads := t.2.filter (fun c => c.2 != 5), beyond := y.beyond ++ (t.2.filter fun c => c.2 == 5).map (·.1) } }

/-- FETCH: at the first window of a frame the plan of the spans that start in it (R273), replays first (R398), and the programs
and erases of the claimed flash channels stand still (R274). -/
def State.fetchWindow (s : State) (e : EaselEntry) : State :=
  let f := s.frame.num
  let last := fun (q : OwnerQ) => match q.rerank with | some rr => q.fetchAt + rr.span == f + 1 | none => false
  let old := s.ownerQueue e.slot fun q => q.planned && last q
  let new := s.ownerQueue e.slot fun q => !q.planned && q.fetchAt == f && q.rerank.isSome
  let oldF := s.ownerFs.filter fun q => q.slot == e.slot && q.fetchAt + q.span == f + 1 && q.state == 3
  let newF := s.ownerFs.filter fun q => q.slot == e.slot && q.fetchAt == f && q.state == 0
  let r0 : PlanRun := { st := { s with flash := { s.flash with suspended := true } }, used := [] }
  let r1 := oldF.foldl PlanRun.fetch (old.foldl PlanRun.again r0)
  let jobs := (new.map fun q => ((q.sc.home, q.sc.seq), some q, (none : Option OwnerF))) ++
    (newF.map fun q => ((q.home, q.seq), none, some q))
  let r2 := (sortBy (fun a b => probeBefore f a.1 b.1) jobs).foldl (fun r j =>
    match j.2.1, j.2.2 with
    | some q, _ => (match q.rerank with | some rr => r.query q rr | none => r)
    | none, some q => r.fetch q
    | none, none => r) r1
  r2.st.mapFlash fun f => { f with barred := dedup ((f.reads.filter fun x => x.back == 0).map (·.die)) }

/-! ### RANK and RESCORE (R113, R140 to R143) -/

/-- The stored vector that ranks an item (R217): of a bound row the version that the snapshot sees, in VEC_FORMAT, else the
record's. -/
def State.rankVec (s : State) (slot : Nat) (h : Handle) (g : Nat) (a : IndexAttr) (sl : Slot) : Bytes :=
  match s.boundRow slot h sl.key with
  | some (th, t, r) =>
    if rtHolds (t.entry r) s.frame.logicalId then vecStore a.fmt (rowElems t.attr.fmt ((t.rowAt r g).take (t.attr.dim * rowES t.attr.fmt)))
    else vecStore a.fmt ((List.range t.attr.dim).map fun i => BitVec.ofNat 32 (Config.remoteRow (objKey slot th) r g i))
  | none => recVec a (s.record a sl)

/-- A candidate that was read, with its exact score and payload (R113). -/
def State.rankOne (s : State) (q : OwnerQ) (c : Cand) : Cand :=
  match s.entrySlot q.sc.slot q.sc.object q.sc.snapshot c with
  | none => { c with noPay := true }
  | some (x, sl) =>
    let v := toVec q.sc.query
    let sc := exactScore x.attr.fmt x.attr.metric x.attr.dim v (dot v v)
      (s.rankVec q.sc.slot q.sc.object q.sc.snapshot x.attr sl) sl.rowsum (valueAt sl q.sc.snapshot).2
    { c with score := sc, orderKey := orderKey sc, exact := true, est := false, noPay := false,
             payload := recPayload x.attr (s.record x.attr sl) }

/-- A candidate read for its payload alone (W = 0, R115). -/
def State.payOne (s : State) (q : OwnerQ) (c : Cand) : Cand :=
  match s.entrySlot q.sc.slot q.sc.object q.sc.snapshot c with
  | none => { c with noPay := true }
  | some (x, sl) => { c with noPay := false, payload := recPayload x.attr (s.record x.attr sl) }

/-- The tied flag of a ranked list stands in its last entry (R107, R165). -/
def markTied (tied : Bool) (l : List Cand) : List Cand := l.mapIdx fun i c => { c with tie := tied && i + 1 == l.length }

/-- The local result of a query goes home in the next frame (R113, R161, R165); the owner then takes another batch of the
query, if one comes (R399). -/
def State.sendLocal (s : State) (q : OwnerQ) (rr : Rerank) (graph : Bool) (cs : List Cand) : State :=
  let r := if rr.w = 0 then (sortBy (candLt false) cs, false) else cut graph rr.k cs []
  let late := (q.reads.filter fun x => x.2 == 2).length
  let m : Local :=
    { home := q.sc.home, seq := q.sc.seq, owner := s.frame.logicalId, media := q.media || q.reads.any (fun x => x.2 == 3),
      cutOff := q.cutOff, late := decide (0 < late), reranked := (cs.filter (·.exact)).length,
      estimated := q.beyond.length + late, tied := r.2, top := markTied r.2 r.1 }
  (s.mapOwner q fun y => { y with rerank := none, ranked := [], rows := [], layer := 0 }).post q.sc.home q.sc.slot (.locals m)

/-- RANK of one query: exact scores of what was read; entries not read stay estimated (R110, R111). -/
def State.rankQuery (s : State) (q : OwnerQ) (rr : Rerank) : State :=
  if q.cutOff then s.sendLocal q rr false []
  else
    let got := (q.reads.filter fun x => x.2 == 1).map (·.1)
    let rest := (q.reads.filter fun x => x.2 != 1).map (·.1) ++ q.beyond
    let est := rest.map fun c => { c with noPay := true }
    if rr.w = 0 then s.sendLocal q rr false (got.map (s.payOne q) ++ est)
    else
      let cs := got.map (s.rankOne q) ++ est
      match s.graphAt q.sc.slot q.sc.object q.sc.snapshot with
      | none => s.sendLocal q rr false cs
      | some img =>
        let v := toVec q.sc.query
        let rows := (cs.filter (·.exact)).map fun c =>
          match s.entrySlot q.sc.slot q.sc.object q.sc.snapshot c with
          | some (x, sl) => (c.key, graphInput img v (vecElems x.attr.fmt x.attr.dim
              (s.rankVec q.sc.slot q.sc.object q.sc.snapshot x.attr sl)) c.payload c.score)
          | none => (c.key, [])
        if rows.isEmpty then s.sendLocal q rr true cs
        else s.mapOwner q fun y => { y with ranked := cs, rows := rows, layer := 0 }

/-- The queries of a slot whose RANK falls in this frame. -/
def State.rankable (s : State) (slot : Nat) : List (OwnerQ × Rerank) :=
  (s.ownerQueue slot fun q => q.planned).filterMap fun q =>
    match q.rerank with
    | some rr => if q.fetchAt + rr.span = s.frame.num then some (q, rr) else none
    | none => none

/-- RANK. -/
def State.rankWindow (s : State) (e : EaselEntry) : State :=
  (((s.rankable e.slot).filter fun p => p.1.rows.isEmpty && p.1.ranked.isEmpty).foldl (fun acc p => acc.rankQuery p.1 p.2) s).coreFree
    e.slot

/-- RANK. -/
def execRank (n : Nat) (s : State) : Answer := inWindow n 0x08 (fun e s => s.rankWindow e) s

/-- A rescored candidate (R143): ordered by the graph's output. -/
def rescored (img : Bytes) (rows : List (Key × List F32)) (c : Cand) : Cand :=
  match rows.find? fun r => r.1 == c.key with
  | some r => if c.exact then { c with orderKey := orderKey (graphOrder img (r.2.headD f0)), rescored := true } else c
  | none => c

/-- One layer of one query's graph (R141); after the last one the local top-k is taken. -/
def State.rescoreQuery (s : State) (img : Bytes) (l : Nat) (q : OwnerQ) (rr : Rerank) : State :=
  let rows := q.rows.map fun r => (r.1, layerRow img l r.2)
  if l + 1 < graphLayers img then s.mapOwner q fun y => { y with rows := rows, layer := l + 1 }
  else s.sendLocal q rr true (q.ranked.map (rescored img rows))

/-- The graph of a query's index at its snapshot, with the index. -/
def State.graphOf (s : State) (q : OwnerQ) : Option (Nat × Bytes) :=
  (s.graphAt q.sc.slot q.sc.object q.sc.snapshot).map fun img => (q.sc.object.toNat, img)

/-- The queries and the jobs of a RESCORE window: layer STAGE_ARG of the graphs of the queries ranked in this frame, one job for all the
candidate rows of a graph (R182). -/
def State.rescoreJobs (s : State) (e : EaselEntry) : List (OwnerQ × Rerank) × List Job :=
  let qs := (s.rankable e.slot).filter fun p => !p.1.rows.isEmpty && p.1.layer == e.arg
  let graphs := sortBy (fun a b => decide (a.1 < b.1)) (dedup (qs.filterMap fun p => s.graphOf p.1))
  (qs, graphs.map fun g =>
    let mine := qs.filter fun p => s.graphOf p.1 == some g
    let rows := mine.flatMap fun p => p.1.rows.map fun r => (p.1, r)
    let L := layerOf g.2 e.arg
    { k := ((rows.head?).map (·.2.2.length)).getD 0, n := L.outW, m := rows.length, e := (if L.fmt = 3 ∨ L.fmt = 4 then 2 else 1),
      dram := true, ids := rows.map fun r => (r.1.sc.home, r.1.sc.seq) })

/-- RESCORE. -/
def State.rescoreWindow (s : State) (e : EaselEntry) : State :=
  let w := s.rescoreJobs e
  w.1.foldl (fun acc p =>
    match acc.graphAt p.1.sc.slot p.1.sc.object p.1.sc.snapshot with
    | some img =>
      if acc.damaged p.1.sc.slot p.1.sc.object .weights then acc.sendLocal { p.1 with media := true } p.2 true p.1.ranked
      else acc.rescoreQuery img e.arg p.1 p.2
    | none => acc) (s.arrayWork e e.slot w.2)

/-! ### Entries of a lost holder ranked anew (R399, R400) -/

/-- Every layer of a query's graph run. -/
def State.rescoreAll (s : State) (q : OwnerQ) (rr : Rerank) : State :=
  match s.graphAt q.sc.slot q.sc.object q.sc.snapshot with
  | none => s
  | some img => (List.range (graphLayers img)).foldl (fun acc l =>
      match acc.ownerQs.find? fun x => x.sc.home == q.sc.home && x.sc.seq == q.sc.seq && x.sc.slot == q.sc.slot && !x.rows.isEmpty with
      | some y => acc.rescoreQuery img l y rr
      | none => acc) s

/-- One such entry charged its read units, best first; beyond the channel's share it is not read (R17, R110). -/
def State.chargeAgain (q : OwnerQ) (r : State × List Cand × List Cand) (c : Cand) : State × List Cand × List Cand :=
  match r.1.entrySlot q.sc.slot q.sc.object q.sc.snapshot c, tget r.1.chans q.sc.slot with
  | some (x, _), some ch =>
    let u := recordUnits x.attr
    if ch.shares.getD 5 0 < ch.ownUsed.getD 5 0 + u then (r.1, r.2.1, r.2.2 ++ [c])
    else (r.1.mapChan q.sc.slot fun y => { y with ownUsed := setAt y.ownUsed 5 (· + u) }, r.2.1 ++ [c], r.2.2)
  | _, _ => (r.1, r.2.1, r.2.2 ++ [c])

/-- One query's entries of the other holder: read and ranked at once, from version g, so that DELIVER moves one frame only; the
spec does not say in which frame this holder's FETCH and RANK fall (log entry 36). -/
def State.replayQuery (s : State) (q : OwnerQ) : State :=
  match q.rerank with
  | none => s
  | some rr =>
    if !rr.again then s
    else if !readable q.sc.snapshot s.frame.num then s.mapOwner q fun y => { y with rerank := none }
    else
      let t := (sortBy (candLt false) rr.entries).foldl (State.chargeAgain q) (s, [], [])
      let q1 := { q with planned := true, reads := t.2.1.map (fun c => (c, 1)), beyond := t.2.2 }
      ((t.1.mapOwner q fun _ => q1).rankQuery q1 rr).rescoreAll q1 rr

/-- Every such query. -/
def State.replayNow (s : State) : State := s.ownerQs.foldl State.replayQuery s

/-- DELIVER. -/
def execDeliver (n : Nat) (s : State) : Answer := inWindow n 0x0A (fun e s => (s.deliverWindow e).replayNow) s

end Sys2Proof.Machine
end

