-- ==== Sys2Proof/Machine/Tables.lean ====
section
/-! DEFINITION. The owner's work on table rows: LOOKUP (R196 to R198), the combining of APPLY contributions and their steps
(R202 to R204), REPLACE_ROWS (R212), the rows of bound keys (R214), and hot rows on the move (R218). -/

namespace Sys2Proof.Machine

/-! ### Windows and costs -/

/-- Cycles of all the windows of a stage that a slot has in this frame. -/
def State.stageCycles (s : State) (slot stage : Nat) : Nat := ((s.windowsOf slot stage).map (·.length)).sum

/-- The tiles of a sector mask that are in service, in ascending (sector, tile) order, as 100 × sector + tile (R155, R388). -/
def State.tilesOf (s : State) (sectors : Nat) : List Nat :=
  ((bitList 16 sectors).flatMap fun k => (List.range 100).map fun t => 100 * k + t).filter fun t => !s.units.fenced.contains t

/-- A list cut into blocks of n; `fuel` bounds their number. -/
def blocksOf (n : Nat) : Nat → List Nat → List (List Nat)
  | 0, _ => []
  | fuel + 1, l => if l.isEmpty then [] else l.take n :: blocksOf n fuel (l.drop n)

/-- The blocks of 4,096 requests (R197), each with its tile's number among NT. -/
def lookupBlocks (nt : Nat) (rows : List Nat) : List (Nat × List Nat) :=
  (blocksOf 4096 (rows.length / 4096 + 1) rows).mapIdx fun i b => (i % nt, b)

/-- Cycles of a LOOKUP window's work (R197): in each sector the longest of its tiles' sorts, then the gather of the distinct
rows of its blocks. How the two add up is DEDUCED (log entry 17). `reqs` gives each requested row: its table, number and stride. -/
def lookupCycles (tiles : List Nat) (reqs : List (Nat × Nat × Nat)) : Nat :=
  let blocks := (lookupBlocks tiles.length (List.range reqs.length)).map fun b => (tiles.getD b.1 0, b.2.map fun i => reqs.getD i (0, 0, 0))
  let sectors := dedup (tiles.map (· / 100))
  (sectors.map fun k =>
    let mine := blocks.filter fun b => b.1 / 100 == k
    let sorts := (dedup (mine.map (·.1))).map fun t =>
      ((mine.filter fun b => b.1 == t).map fun b => 64 + 3 * b.2.length).sum
    let gather := (mine.map fun b => ((dedup b.2).map fun r => ceilDiv r.2.2 64).sum).sum
    if mine.isEmpty then 0 else sorts.foldl max 0 + 32 + gather).foldl max 0

/-! ### LOOKUP -/

/-- A LOOKUP request at its owner. -/
structure LookupReq where
  home     : Nat
  seq      : Nat
  object   : Handle
  snapshot : Nat
  fmt      : Nat
  rows     : List (Nat × Nat)
  deriving DecidableEq, Repr

/-- The requests of a slot that have arrived. -/
def State.lookupReqs (s : State) (slot : Nat) : List LookupReq :=
  s.inbox.filterMap fun x =>
    match x.2 with
    | .lookupReq home seq n object snapshot fmt rows =>
      if n = slot then some { home := home, seq := seq, object := object, snapshot := snapshot, fmt := fmt, rows := rows } else none
    | _ => none

/-- Whether a message is a LOOKUP request of a slot. -/
def isLookupReq (slot : Nat) : Nat × Msg → Bool
  | (_, .lookupReq _ _ n _ _ _ _) => n == slot
  | _ => false

/-- A row in OUT_FORMAT, padded to OUT_STRIDE (R198). -/
def outRow (a : TableAttr) (f : Nat) (img : Bytes) : Bytes :=
  let v := img.take (a.dim * rowES a.fmt)
  let o := if f = 0 ∨ outFormat a f = a.fmt then v else rowStore (outFormat a f) (rowElems a.fmt v)
  o ++ List.replicate (outStride a f - o.length) 0

/-- Requests and contributions counted for the heat of a table's rows (R193). -/
def State.countRows (s : State) (slot : Nat) (h : Handle) (rows : List Nat) : State :=
  s.mapTable slot h fun t => { t with counts := rows.foldl (fun c r => tput c r (tgetD c r 0 + 1)) t.counts }

/-- What is left while requests are taken: the share, and the rows accepted with their strides. -/
structure LookupRun where
  st   : State
  left : Nat
  reqs : List (Nat × Nat × Nat)
  cut  : Nat

/-- One request (R197): accepted whole while it fits, cut off otherwise; a version that is released is not read (R53). -/
def lookupOne (slot budget : Nat) (tiles : List Nat) (r : LookupRun) (q : LookupReq) : LookupRun :=
  let s := r.st.countRows slot q.object (q.rows.map (·.2))
  let answer := fun (cut : Bool) (rows : List (Nat × Bytes)) =>
    s.post q.home slot (.lookupRows q.home q.seq s.frame.logicalId cut rows)
  match s.tableAt slot q.object q.snapshot with
  | none => { r with st := answer true [], cut := r.cut + 1 }
  | some t =>
    let st := tableStride t.attr
    if q.rows.any fun x => s.damaged slot q.object (.row x.2) then
      { r with st := s.post q.home slot (.report q.home q.seq s.frame.logicalId stMedia 0 0 0) }
    else
    let reqs := r.reqs ++ q.rows.map fun x => (q.object.toNat, x.2, st)
    if r.left < q.rows.length ∨ budget < lookupCycles tiles reqs ∨ tiles.isEmpty ∨ !readable q.snapshot s.frame.num then
      { r with st := answer true [], cut := r.cut + 1 }
    else
      { r with st := answer false (q.rows.map fun x => (x.1, outRow t.attr q.fmt (t.rowAt x.2 q.snapshot))),
               left := r.left - q.rows.length, reqs := reqs }

/-- A share less what its owner work has used in this frame. -/
def Chan.ownLeft (c : Chan) (i : Nat) : Nat := c.shares.getD i 0 - c.ownUsed.getD i 0

/-- Owner work charged against a share. -/
def State.useOwn (s : State) (slot i n : Nat) : State :=
  s.mapChan slot fun c => { c with ownUsed := setAt c.ownUsed i (· + n) }

/-- LOOKUP. -/
def State.lookupWindow (s : State) (n : Nat) (e : EaselEntry) : State :=
  match tget s.chans e.slot with
  | none => s
  | some c =>
    let qs := sortBy (fun a b => probeBefore s.frame.num (a.home, a.seq) (b.home, b.seq)) (s.lookupReqs e.slot)
    if qs.isEmpty then s
    else
      let tiles := s.tilesOf e.sectors
      let s1 := { s with inbox := s.inbox.filter fun x => !isLookupReq e.slot x }
      let r := qs.foldl (lookupOne e.slot (s.stageCycles e.slot 0x10) tiles)
        { st := s1, left := c.ownLeft 4, reqs := [], cut := 0 }
      let bytes := ((lookupBlocks tiles.length (List.range r.reqs.length)).map fun b =>
        ((dedup (b.2.map fun i => r.reqs.getD i (0, 0, 0))).map (·.2.2)).sum).sum
      (((r.st.useOwn e.slot 4 r.reqs.length).account e.slot 2 bytes).coreFree e.slot).cutEvent e.slot 0x10 n r.cut

/-- LOOKUP_WINDOW. -/
def execLookupWindow (w : ReadWindow) (s : State) : Answer :=
  inWindow w.entry 0x10 (fun e s => (s.meetFaults e.slot w.faults).lookupWindow w.entry e) s

/-! ### Publication frames and reports -/

/-- The frame whose commit window publishes what is staged now (R50, R396): in exact mode the next one, in bounded-loss mode
this one, and at a buddy up to BUDDY_LAG later, never before what it holds already. -/
def State.holdFor (s : State) (role : Role) : Nat :=
  if s.frame.exact then s.frame.num + 1
  else if role = .trail then
    s.staged.foldl (fun m x => match x.item with | .locator .. => m | _ => max m x.hold) (s.frame.num + s.frame.lag)
  else s.frame.num

/-- A message that leaves at the start of a frame. -/
def State.postAt (s : State) (frame dst slot : Nat) (m : Msg) : State :=
  { s with outbox := s.outbox ++ [(frame, dst, slot, m)] }

/-- Whether an update works on table rows, and so in APPLY_STAGE (DEDUCED for REPLACE_ROWS and bound rows, log entry 18). -/
def updOnRows (u : Upd) : Bool :=
  match u.body with
  | .apply .. | .replace .. => true
  | .bound .. => hKind u.object == 2
  | _ => false

/-- Whether an update sets the row of a bound UPSERT (R214). -/
def setsBound (u : Upd) : Bool := match u.body with | .bound .. => updOnRows u | _ => false

/-- The report of an update to its home, in the frame after its publication (R207). -/
def State.report (s : State) (u : Upd) (status accepted dropped found : Nat) : State :=
  s.postAt (s.frame.num + (if s.frame.exact then 2 else 1)) u.home u.slot
    (.report u.home u.seq (if setsBound u then rowPart s.frame.logicalId else s.frame.logicalId) status accepted dropped found)

/-- Whether an outbox message is this node's report of an update. -/
def isReport (us : List Upd) : Msg → Bool
  | .report home seq owner _ _ _ _ => us.any fun u => u.home == home && u.seq == seq && setsBound u == decide (1024 ≤ owner)
  | _ => false

/-- The order in which updates are staged (R76). -/
def updBefore (a b : Upd) : Bool := decide (a.home < b.home) || (decide (a.home = b.home) && decide (a.seq < b.seq))

/-! ### Combining and stepping -/

/-- Cycles of the apply units (R202): for each sector its distinct rows and contributions. `cs` gives each contribution's
row, stride and DIM. -/
def applyCycles (ns : Nat) (cs : List (Nat × Nat × Nat × Nat)) : Nat :=
  ((List.range ns).map fun k =>
    let mine := cs.filter fun c => c.2.1 / 16 % ns == k
    ((dedup (mine.map fun c => (c.1, c.2.1, c.2.2.1))).map fun r => 8 + ceilDiv r.2.2 128).sum +
      (mine.map fun c => ceilDiv c.2.2.2 64).sum).foldl max 0

/-- The contributions of an update as `applyCycles` counts them. -/
def State.contribs (s : State) (u : Upd) : List (Nat × Nat × Nat × Nat) :=
  match u.body, s.table? u.slot u.object with
  | .apply _ cs, some t => cs.map fun c => (u.object.toNat, c.2.1, tableStride t.attr, t.attr.dim)
  | _, _ => []

/-- What is left while APPLY commands are accepted. -/
structure ApplyRun where
  left : Nat
  cs   : List (Nat × Nat × Nat × Nat)
  out  : List (Upd × Bool)

/-- One update in the order of R102 (R202): an APPLY is accepted whole while it fits. -/
def State.acceptApply (s : State) (ns budget : Nat) (r : ApplyRun) (u : Upd) : ApplyRun :=
  let mine := s.contribs u
  if mine.length ≤ r.left ∧ applyCycles ns (r.cs ++ mine) ≤ budget then
    { left := r.left - mine.length, cs := r.cs ++ mine, out := r.out ++ [(u, true)] }
  else { r with out := r.out ++ [(u, false)] }

/-- The step settings of a table. -/
def stepCfg (a : TableAttr) : StepCfg :=
  { dim := a.dim, fmt := a.fmt, optim := a.optim, stFmt := a.stFmt, mu := a.mu, beta1 := a.beta1, beta2 := a.beta2, eps := a.eps }

/-- One row's part of an update; `bound` tells an image set by a bound UPSERT. -/
inductive RowPart where
  | add (lr : F32) (pos : Nat) (v : List F32)
  | put (image : Bytes) (bound : Bool)
  deriving DecidableEq, Repr

/-- A row image set by REPLACE_ROWS (R211): the whole image, or its vector with the state zero. -/
def replaceImage (a : TableAttr) (reset : Bool) (img : Bytes) : Bytes :=
  let n := tableStride a
  let used := if reset then img.take (a.dim * rowES a.fmt) else img.take (a.dim * rowES a.fmt + stateBytes a.optim a.stFmt a.dim)
  used ++ List.replicate (n - used.length) 0

/-- The image of a bound key's row (R214): the UPSERT's vector converted to ROW_FORMAT, the state zero. -/
def boundImage (x : IndexAttr) (a : TableAttr) (vec : Bytes) : Bytes :=
  replaceImage a true (rowStore a.fmt (vecElems x.fmt x.dim vec))

/-- The parts of an update for one row, in position order. -/
def rowParts (x : Option IndexAttr) (a : TableAttr) (u : Upd) (row : Nat) : List RowPart :=
  match u.body with
  | .apply lr cs => (cs.filter fun c => c.2.1 == row).map fun c => .add lr c.1 c.2.2
  | .replace reset rows => (rows.filter fun r => r.1 == row).map fun r => .put (replaceImage a reset r.2) false
  | .bound _ n vec _ _ => (match x with | some ia => if n = row then [.put (boundImage ia a vec) true] else [] | none => [])
  | _ => []

/-- The rows that an update names. -/
def updRows (u : Upd) : List Nat :=
  match u.body with
  | .apply _ cs => cs.map (·.2.1)
  | .replace _ rows => rows.map (·.1)
  | .bound _ n _ _ _ => [n]
  | _ => []

/-- The combined gradient and rate of some contributions in combine order (R203). -/
def combine (dim : Nat) (ps : List RowPart) : List F32 × F32 :=
  ps.foldl (fun r p => match p with
    | .add lr _ v => (List.zipWith fadd r.1 v, lr)
    | .put .. => r) (List.replicate dim f0, f0)

/-- The image put last, if any, and whether a bound UPSERT set it. -/
def lastPut (ps : List RowPart) : Option (Bytes × Bool) :=
  ps.foldl (fun r p => match p with | .put img b => some (img, b) | .add .. => r) none

/-- The newest image of a row, staged versions included. -/
def State.newestRow (s : State) (slot : Nat) (h : Handle) (t : Table) (row : Nat) : Bytes :=
  s.staged.foldl (fun img x =>
    match x.item with
    | .row n o r i _ => if n = slot ∧ o = h ∧ r = row then i else img
    | _ => img) (t.rowNow row)

/-- Whether a row on the move has been copied here, so that updates of it are published (R91, R218). -/
def State.rowCopied (s : State) (slot : Nat) (h : Handle) (t : Table) (row : Nat) : Bool :=
  s.migs.any fun m => m.slot == slot && m.object == h && !m.source &&
    (if m.what = 2 then m.rows.contains row && decide (m.start < s.frame.num)
     else m.number == row / t.attr.shardRows && m.table && decide (row % t.attr.shardRows < m.done))

/-- The steps forwarded for a hot row, due in this frame (R218). -/
def State.forwarded (s : State) (slot : Nat) (h : Handle) (row : Nat) : Option (F32 × List F32) :=
  s.migs.findSome? fun m =>
    if m.slot = slot ∧ m.object = h ∧ m.what = 2 ∧ !m.source ∧ m.start + 1 = s.frame.num then
      (m.fwd.find? fun r => r.1 == row).map fun r => r.2
    else none

/-- A step kept for forwarding, at the source of a move of hot rows in its frame f (R218). -/
def State.keepStep (s : State) (slot : Nat) (h : Handle) (row : Nat) (eta : F32) (g : List F32) : State :=
  { s with migs := s.migs.map fun m =>
      if m.slot = slot ∧ m.object = h ∧ m.what = 2 ∧ m.source ∧ m.start = s.frame.num ∧ m.rows.contains row then
        { m with fwd := m.fwd ++ [(row, eta, g)] } else m }

/-- One row staged from the updates of a frame (R203, R218): a replacement prevails over contributions. -/
def State.stageRow (s : State) (slot : Nat) (h : Handle) (t : Table) (us : List Upd) (row : Nat) : State :=
  let role := s.roleOf slot h (row / t.attr.shardRows) (t.entry row)
  if role = .none ∨ (role = .copying ∧ !s.rowCopied slot h t row) then s
  else
    let x := (s.index? slot t.attr.bound).map (·.attr)
    let ps := us.flatMap fun u => rowParts x t.attr u row
    let base := match s.forwarded slot h row with
      | some f => optStep (stepCfg t.attr) (s.newestRow slot h t row) f.2 f.1
      | none => s.newestRow slot h t row
    let id := match us.getLast? with | some u => (u.home, u.seq) | none => (0x3FF, slot)
    let item := fun (img : Bytes) (put : Option Bool) =>
      [{ hold := s.holdFor role, due := s.holdFor .lead, home := id.1, seq := id.2, next := false, adm := s.frame.num, item := .row slot h row img put : StagedItem }]
    match lastPut ps with
    | some p => { s with staged := s.staged ++ item p.1 (some p.2) }
    | none =>
      let g := combine t.attr.dim ps
      if us.isEmpty then { s with staged := s.staged ++ item base none }
      else { s.keepStep slot h row g.2 g.1 with staged := s.staged ++ item (optStep (stepCfg t.attr) base g.1 g.2) none }

/-- Contributions of an APPLY used and dropped on rows that this node leads (R203, R205). -/
def State.applyCounts (s : State) (us : List Upd) (u : Upd) : Nat × Nat :=
  match s.table? u.slot u.object with
  | none => (0, 0)
  | some t =>
    let led := (updRows u).filter fun r => s.roleOf u.slot u.object (r / t.attr.shardRows) (t.entry r) == .lead
    let x := (s.index? u.slot t.attr.bound).map (·.attr)
    let replaced := fun (r : Nat) => us.any fun w => w.object == u.object && (lastPut (rowParts x t.attr w r)).isSome
    ((led.filter fun r => !replaced r).length, (led.filter fun r => replaced r).length)

/-- Whether this node reports an update of rows to its home: in bounded-loss mode a holder that leads some row of it, in
exact mode every holder. -/
def State.reportsRows (s : State) (u : Upd) : Bool :=
  match s.table? u.slot u.object with
  | none => false
  | some t => (updRows u).any fun r =>
      match s.roleOf u.slot u.object (r / t.attr.shardRows) (t.entry r) with
      | .lead => true
      | .trail => s.frame.exact
      | .copying | .none => false

/-- The row reports of a frame's updates. A bound UPSERT's row is reported beside its item, so that a row that is cut off cuts the command
off (R214). -/
def State.reportRows (s : State) (took : List (Upd × Bool)) : State :=
  let good := (took.filter (·.2)).map (·.1)
  took.foldl (fun acc x =>
    match x.1.body with
    | .apply .. =>
      if !acc.reportsRows x.1 then acc
      else if x.2 then (let n := acc.applyCounts good x.1; acc.report x.1 stOk n.1 n.2 0)
      else acc.report x.1 stCutOff 0 0 0
    | .replace .. => if acc.reportsRows x.1 then acc.report x.1 (if x.2 then stOk else stCutOff) 0 0 0 else acc
    | .bound .. => if setsBound x.1 && acc.reportsRows x.1 then acc.report x.1 (if x.2 then stOk else stCutOff) 0 0 0 else acc
    | _ => acc) s

/-- The row updates of a slot that this frame has taken up. -/
def State.tookRows (s : State) (slot : Nat) : List (Upd × Bool) :=
  s.took.filter fun x => x.1.slot == slot && updOnRows x.1

/-- Whether a staged item is a table row. -/
def Stage.isRow : Stage → Bool
  | .row .. => true
  | _ => false

/-- What was staged and reported for some updates taken back: rows for an update of rows, else what belongs to indexes. -/
def State.unstage (s : State) (us : List Upd) : State :=
  { s with staged := s.staged.filter fun x =>
             !(us.any fun u => u.home == x.home && u.seq == x.seq && Stage.isRow x.item == updOnRows u),
           outbox := s.outbox.filter fun m => !isReport us m.2.2.2 }

/-- What a slot's APPLY_STAGE of this frame has left, its forwarded steps included, taken back. -/
def State.unstageRows (s : State) (slot : Nat) (us : List Upd) : State :=
  { s.unstage us with
    staged := (s.unstage us).staged.filter (fun x => !(x.home == 0x3FF && x.seq == slot))
    migs := s.migs.map (fun m =>
      if m.slot = slot ∧ m.what = 2 ∧ m.source ∧ m.start = s.frame.num then { m with fwd := [] } else m) }

/-- Rows with a forwarded step due in this frame (R218). -/
def State.forwardRows (s : State) (slot : Nat) (h : Handle) : List Nat :=
  s.migs.flatMap fun m =>
    if m.slot = slot ∧ m.object = h ∧ m.what = 2 ∧ !m.source ∧ m.start + 1 = s.frame.num then m.fwd.map (·.1) else []

/-- The rows of one table that some updates name staged, ascending. -/
def State.stageTable (s : State) (slot : Nat) (h : Handle) (us : List Upd) : State :=
  match s.table? slot h with
  | none => s
  | some t =>
    let rows := sortBy (fun a b => decide (a < b)) (dedup (us.flatMap updRows ++ s.forwardRows slot h))
    rows.foldl (fun a r => a.stageRow slot h t (us.filter fun u => (updRows u).contains r) r) s

/-- The tables of a slot, handles ascending. -/
def State.tablesOf (s : State) (slot : Nat) : List Handle :=
  s.tables.filterMap fun p => if p.1 / 2 ^ 32 = slot then some (BitVec.ofNat 32 (p.1 % 2 ^ 32)) else none

/-- Every row of the updates taken up in this frame staged, tables and rows ascending, from their state before it (R203). -/
def State.restageRows (s : State) (slot : Nat) : State :=
  let took := s.tookRows slot
  let good := sortBy updBefore ((took.filter (·.2)).map (·.1))
  let s1 := (s.tablesOf slot).foldl (fun acc h => acc.stageTable slot h (good.filter fun u => u.object == h))
    (s.unstageRows slot (took.map (·.1)))
  s1.reportRows took

/-! ### APPLY_STAGE -/

/-- The row updates of a slot that have arrived in time (R120): those admitted in the frame before. -/
def State.rowArrivals (s : State) (slot : Nat) : List Upd :=
  sortBy (fun a b => probeBefore s.frame.num (a.home, a.seq) (b.home, b.seq))
    ((s.updIn.filter fun x => x.2.slot == slot && updOnRows x.2 && x.2.frame + 1 == s.frame.num).map (·.2))

/-- Forwarded steps that have arrived for a slot taken up (R218). -/
def State.takeForwards (s : State) (slot : Nat) : State :=
  let mine := fun (x : Nat × Msg) => match x.2 with | .move _ (.forward n _ _) => n == slot | _ => false
  (s.inbox.filter mine).foldl (fun acc x => match x.2 with | .move _ m => acc.takeMove m | _ => acc)
    { s with inbox := s.inbox.filter (fun x => !mine x) }

/-- Contributions accepted counted for heat (R193). -/
def State.countTaken (s : State) (x : Upd × Bool) : State :=
  match x.1.body with
  | .apply _ cs => if x.2 then s.countRows x.1.slot x.1.object (cs.map (·.2.1)) else s
  | _ => s

/-- Those of the frame, counted once it is settled which APPLY commands were accepted and not cut off (R193). -/
def State.countApplied (s : State) : State := s.took.foldl State.countTaken s

/-- DRAM bytes of the read-modify-writes of what a slot has staged in this frame (R355). -/
def State.applyBytes (s : State) (slot : Nat) (us : List Upd) : Nat :=
  ((dedup (us.flatMap fun u => (updRows u).map fun r => (u.object.toNat, r))).map fun p =>
    match s.table? slot (BitVec.ofNat 32 p.1) with | some t => 2 * tableStride t.attr | none => 0).sum

/-- What an update reads of its objects at this node (R75, R103, R203). -/
def updParts (u : Upd) : List LostPart :=
  match u.body with
  | .upsert _ _ _ _ prior target | .bound _ _ _ prior target => [.lists target, .keys target, .keys prior]
  | .delete _ prior => [.keys prior]
  | .setEdit _ edits => edits.map fun e => .keys e.2.2.1
  | .apply _ cs => cs.map fun c => .row c.2.1
  | .replace .. => []

/-- The updates of a slot that arrive in this frame and read uncorrectable data: they end MEDIA_ERROR here (R392). -/
def State.mediaUpds (s : State) (slot : Nat) (rows : Bool) (reports : State → Upd → Bool) : State :=
  let bad := fun (u : Upd) => u.slot == slot && updOnRows u == rows && u.frame + 1 == s.frame.num &&
    (updParts u).any (s.damaged slot u.object)
  (((s.updIn.map (·.2)).filter bad).filter (reports s)).foldl (fun acc u => acc.report u stMedia 0 0 0)
    { s with updIn := s.updIn.filter fun x => !bad x.2 }

/-- A bound UPSERT tells the row's owner the region that its item goes to (R214, R215). -/
def State.noteItems (s : State) (took : List (Upd × Bool)) : State :=
  took.foldl (fun acc x => match x.1.body with
    | .bound _ row _ _ target =>
      if x.2 && setsBound x.1 then acc.mapTable x.1.slot x.1.object fun t => { t with items := tput t.items row target } else acc
    | _ => acc) s

/-- APPLY_STAGE (R202, R203): what has arrived is accepted, and the frame's rows are staged. -/
def State.applyStage (s : State) (n : Nat) (e : EaselEntry) : State :=
  match tget s.chans e.slot with
  | none => s
  | some c =>
    let s1 := (s.mediaUpds e.slot true State.reportsRows).takeForwards e.slot
    let us := s1.rowArrivals e.slot
    let isApply := fun (u : Upd) => match u.body with | .apply .. => true | _ => false
    let ns := popCount 16 e.sectors
    let r := (us.filter isApply).foldl (fun r u => s1.acceptApply ns (s1.stageCycles e.slot 0x11) r u)
      { left := c.ownLeft 3, cs := [], out := [] }
    let took := r.out ++ (us.filter fun u => !isApply u).map fun u => (u, true)
    let s2 := { s1 with took := s1.took ++ took, updIn := s1.updIn.filter (fun x => !us.contains x.2) }
    let s3 := ((s2.useOwn e.slot 3 r.cs.length).noteItems took).restageRows e.slot
    ((s3.account e.slot 2 (s3.applyBytes e.slot ((took.filter (·.2)).map (·.1)))).coreFree e.slot).cutEvent e.slot 0x11 n
      (took.filter fun x => !x.2).length

/-- APPLY_STAGE. -/
def execApplyStage (w : ReadWindow) (s : State) : Answer :=
  inWindow w.entry 0x11 (fun e s => (s.meetFaults e.slot w.faults).applyStage w.entry e) s

end Sys2Proof.Machine
end

