-- ==== Sys2Proof/Machine/Updates.lean ====
section
/-! DEFINITION. UPDATE_STAGE at an owner (R70, R74 to R78, R84, R87, R91, R127, R133, R215, R216, R347): upserts, deletes,
allow-set edits and bound-row rewrites staged in the order of R76. -/

namespace Sys2Proof.Machine

/-! ### A key as the staging sees it -/

/-- A live item found in the key directory or among what is staged: its list, the row whose allow-set bits it holds, its
facet word and its record's bytes. -/
structure Held where
  list  : Nat
  row   : Option Nat
  facet : Nat
  recd  : Bytes
  deriving DecidableEq, Repr

/-- Which generation an update is for: whether it is the copy for the built one, and its admission frame (R87). -/
abbrev GenKey := Bool × Nat

def Upd.gen (u : Upd) : GenKey := (u.next, u.frame)
def StagedItem.gen (y : StagedItem) : GenKey := (y.next, y.adm)

/-- The generation as a number: 0 in force, 1 built and not yet in force, 2 replaced. An update admitted up to frame P belongs to the
generation that P replaced, its copy to the one that came into force (R87). -/
def Index.genSel (x : Index) (k : GenKey) : Nat :=
  if k.1 then (if x.next.isSome then 1 else 0)
  else match x.old with | some (p, _) => if k.2 ≤ p then 2 else 0 | none => 0

/-- The generation that an update is for. -/
def Index.genFor (x : Index) (k : GenKey) : IndexGen :=
  match x.genSel k, x.next, x.old with
  | 1, some n, _ => n.2
  | 2, _, some o => o.2
  | _, _, _ => x.cur

/-- The generation that an update is for changed. -/
def Index.mapGen (x : Index) (k : GenKey) (f : IndexGen → IndexGen) : Index :=
  match x.genSel k, x.next, x.old with
  | 1, some n, _ => { x with next := some (n.1, f n.2) }
  | 2, _, some o => { x with old := some (o.1, f o.2) }
  | _, _, _ => { x with cur := f x.cur }

/-- Where a key is in a region, staged items included (R75, R76). -/
def State.heldKey (s : State) (slot : Nat) (h : Handle) (x : Index) (k : GenKey) (region : Nat) (key : Key) : Option Held :=
  let live := ((x.genFor k).region region).findSome? fun p =>
    p.2.slots.findSome? fun sl =>
      if sl.key = key ∧ sl.dead.isNone then
        some { list := p.1, row := some sl.row, facet := sl.facet, recd := s.record x.attr sl : Held } else none
  s.staged.foldl (fun cur y =>
    if x.genSel y.gen != x.genSel k then cur
    else match y.item with
      | .slot n o r l sl rb copy =>
        if n = slot ∧ o = h ∧ r = region ∧ sl.key = key then
          some { list := l, row := copy, facet := sl.facet, recd := rb } else cur
      | .tomb n o r _ y => if n = slot ∧ o = h ∧ r = region ∧ y = key then none else cur
      | _ => cur) live

/-- Slots staged for a list, and for a whole index. -/
def State.stagedSlots (s : State) (slot : Nat) (h : Handle) (p : StagedItem → Bool) (at_ : Option (Nat × Nat)) : Nat :=
  (s.staged.filter fun y =>
    p y && (match y.item with
      | .slot n o r l _ _ _ => n == slot && o == h && (match at_ with | some q => q.1 == r && q.2 == l | none => true)
      | _ => false)).length

/-- The extent of a list has been copied here, for a region that is arriving (R91). -/
def State.listCopied (s : State) (slot : Nat) (h : Handle) (region list : Nat) : Bool :=
  s.migs.any fun m => m.slot == slot && m.object == h && m.number == region && !m.source && m.extents.contains list

/-- Whether what is staged for a list is published here: not for a list of an arriving region that is still to be copied. -/
def State.takesList (s : State) (slot : Nat) (h : Handle) (region list : Nat) : Bool :=
  match s.regionRole slot h region with
  | .none => false
  | .copying => s.listCopied slot h region list
  | .lead | .trail => true

/-- An item staged for a region, in the frame that the node's role gives. -/
def State.stage (s : State) (u : Upd) (region : Nat) (i : Stage) : State :=
  { s with staged := s.staged ++
      [{ hold := s.holdFor (s.regionRole u.slot u.object region), due := s.holdFor .lead, home := u.home, seq := u.seq, next := u.next, adm := u.frame, item := i }] }

/-! ### Upserts and deletes -/

/-- The regions of an update of a key that this node holds: its target and PRIOR_REGION (R75). In a generation that is not in
force yet the key is looked for in every region that the node holds (DESIGN CHOICE, log entry 19). -/
def State.heldRegions (s : State) (u : Upd) (x : Index) (prior target : Nat) : List Nat :=
  (if u.next then (x.genFor (Upd.gen u)).lists.map (·.1) else dedup [target, prior]).filter fun r =>
    r != 0xFFFFFFFF && s.regionRole u.slot u.object r != .none

/-- The existing items of a key in some regions. -/
def State.existing (s : State) (u : Upd) (x : Index) (regions : List Nat) (key : Key) : List (Nat × Held) :=
  regions.filterMap fun r => (s.heldKey u.slot u.object x (Upd.gen u) r key).bind fun e =>
    if s.takesList u.slot u.object r e.list then some (r, e) else none

/-- Tombstones staged for existing items. -/
def State.stageTombs (s : State) (u : Upd) (key : Key) (es : List (Nat × Held)) : State :=
  es.foldl (fun acc p => acc.stage u p.1 (.tomb u.slot u.object p.1 p.2.list key)) s

/-- The list of a region for a stored vector (ROUTE_2, R182). -/
def listFor (x : Index) (k : GenKey) (region : Nat) (vec : Bytes) : Option Nat :=
  ((x.genFor k).chooseLists x.attr.metric 1 region newestVersion (sketchElems x.attr.fmt x.attr.dim vec)).head?

/-- Whether a list's tip-in area is full, counting what is staged (R78). -/
def State.tipinIsFull (s : State) (u : Upd) (x : Index) (region list : Nat) : Bool :=
  match tget ((x.genFor (Upd.gen u)).region region) list with
  | none => true
  | some l => decide (16 * x.attr.tipin ≤ l.tipinUsed + s.stagedSlots u.slot u.object (fun y => x.genSel y.gen == x.genSel (Upd.gen u)) (some (region, list)))

/-- Whether no free row remains, counting what is staged (R70). -/
def State.rowsFull (s : State) (u : Upd) (x : Index) : Bool :=
  decide (x.attr.rows ≤ x.rowsUsed.length + s.stagedSlots u.slot u.object (fun _ => true) none)

/-- TIPIN_FULL set (R68, R78). -/
def State.markFull (s : State) (u : Upd) (region list : Nat) : State :=
  s.mapIndex u.slot u.object fun y => y.mapGen (Upd.gen u) fun g => g.mapList region list fun l => { l with tipinFull := true }

/-- A new slot for a stored vector, without row and locator (R66, R67, R127, R133). -/
def newSlot (a : IndexAttr) (key : Key) (facet : Nat) (vec : Bytes) : Slot :=
  { key := key, facet := facet, row := 0, norm := normOf a.fmt a.dim vec, pub := 0,
    sketch := sketchOf a.seed a.sketchBits (sketchElems a.fmt a.dim vec), folio := 0, record := 0,
    rowsum := rowSum a.fmt a.dim vec, dead := none, due := 0, deadDue := 0, older := [] }

/-- How a staging ends: done, cut off, and edits whose key was found. -/
abbrev StageEnd := Bool × Nat

/-- The nodes of a region's route entry that do not hold another region. -/
def State.nodesBeside (s : State) (slot : Nat) (h : Handle) (region other : Nat) : List Nat :=
  match s.routeEntry slot h region with
  | none => []
  | some e =>
    let there := match s.routeEntry slot h other with | some o => rtTargets o | none => []
    (rtTargets e).filter fun n => !there.contains n

/-- The allow-set bits of an item that leaves for a region of other owners sent to them (R76). The spec does not say how they travel:
a message of the same frame (DESIGN CHOICE, log entry 81). -/
def State.sendBits (s : State) (u : Upd) (key : Key) (target prior : Nat) (es : List (Nat × Held)) : State :=
  match es.findSome? fun p => p.2.row with
  | none => s
  | some row =>
    let sets := ((s.setsOf u.slot u.object).map fun p => (p.1, bitRead s.dram.mem p.2.units row))
    if sets.all fun p => !p.2 then s
    else (s.nodesBeside u.slot u.object target prior).foldl (fun acc n =>
      acc.send n (some u.slot) (.bits u.slot u.object target key u.next u.frame sets)) s

/-- An UPSERT refused at the owner of its target region: what it staged for PRIOR_REGION at other owners is withdrawn (R70, R78; log
entry 81). -/
def State.refuseUpsert (s : State) (u : Upd) (prior target : Nat) : State × StageEnd :=
  ((s.nodesBeside u.slot u.object prior target).foldl (fun acc n =>
    acc.send n (some u.slot) (.withdraw u.home u.seq u.slot u.object)) s, false, 0)

/-- An UPSERT staged (R75, R76, R78). The old row's allow-set bits go with it. -/
def State.stageUpsert (s : State) (u : Upd) (key : Key) (facet : Nat) (vec payload : Bytes) (prior target : Nat) :
    State × StageEnd :=
  match s.index? u.slot u.object with
  | none => (s, true, 0)
  | some x =>
    let es := s.existing u x (s.heldRegions u x prior target) key
    if s.regionRole u.slot u.object target = .none then ((s.stageTombs u key es).sendBits u key target prior es, true, 0)
    else
      match listFor x (Upd.gen u) target vec with
      | none => s.refuseUpsert u prior target
      | some l =>
        if !s.takesList u.slot u.object target l then (s.stageTombs u key es, true, 0)
        else if s.tipinIsFull u x target l then (s.markFull u target l).refuseUpsert u prior target
        else if s.rowsFull u x then s.refuseUpsert u prior target
        else
          let rb := recordOf x.attr vec payload (rowSum x.attr.fmt x.attr.dim vec)
          ((s.stageTombs u key es).stage u target
            (.slot u.slot u.object target l (newSlot x.attr key facet vec) rb (es.findSome? fun p => p.2.row)), true, 0)

/-- A DELETE staged; one that finds nothing publishes nothing (R76). -/
def State.stageDelete (s : State) (u : Upd) (key : Key) (prior : Nat) : State × StageEnd :=
  match s.index? u.slot u.object with
  | none => (s, true, 0)
  | some x =>
    (s.stageTombs u key (s.existing u x (s.heldRegions u x prior prior) key), true, 0)

/-- The items of a SET_EDIT staged in item order (R347); those found in regions that this node leads are counted. -/
def State.stageEdits (s : State) (u : Upd) (set : Handle) (edits : List (Nat × Key × Nat × Bool)) : State × StageEnd :=
  match s.index? u.slot u.object with
  | none => (s, true, 0)
  | some x =>
    edits.foldl (fun r e =>
      match (r.1.existing u x (r.1.heldRegions u x e.2.2.1 e.2.2.1) e.2.1).head? with
      | none => r
      | some p =>
        let led := r.1.regionRole u.slot u.object p.1 == .lead
        (r.1.stage u p.1 (.bit u.slot set p.1 e.2.1 e.2.2.2), r.2.1, r.2.2 + if led then 1 else 0)) (s, true, 0)

/-! ### Bound rows (R215, R216) -/

/-- Where a bound key's item is: in PRIOR_REGION, else in another region that this node holds (log entry 20). -/
def State.findBound (s : State) (u : Upd) (x : Index) (key : Key) (prior : Nat) : Option (Nat × Held) :=
  match (s.existing u x (s.heldRegions u x prior prior) key).head? with
  | some p => some p
  | none =>
    let regions := (x.cur.lists.map (·.1)).filter fun r => s.regionRole u.slot u.object r != .none
    (s.existing u x regions key).head?

/-- A slot rewritten in place. -/
def State.stageRewrite (s : State) (u : Upd) (x : Index) (region list : Nat) (key : Key) (vec : Bytes) : State :=
  let n := newSlot x.attr key 0 vec
  s.stage u region (.rewrite u.slot u.object region list key n.sketch n.norm n.rowsum)

/-- The row's owner learns where the item of its key is (R215); the spec does not say how (DESIGN CHOICE, log entry 20). -/
def State.tellItem (s : State) (u : Upd) (key : Key) (region : Nat) : State :=
  if s.regionRole u.slot u.object region != .lead then s
  else match s.boundRow u.slot u.object key with
    | some (th, t, n) => s.send (s.server u.slot th (n / t.attr.shardRows) (t.entry n)) (some u.slot) (.itemAt u.slot th n region)
    | none => s

/-- A bound item handed to the owners of a region that this node does not hold (R216): its tombstone is staged here, and what the item
keeps goes to them. -/
def State.handOver (s : State) (u : Upd) (key : Key) (vec : Bytes) (a : IndexAttr) (r : Nat) (e : Held) (target : Nat) : State :=
  let sets := match e.row with
    | some row => (s.setsOf u.slot u.object).map fun p => (p.1, bitRead s.dram.mem p.2.units row)
    | none => []
  (s.nodesBeside u.slot u.object target r).foldl (fun acc n => acc.send n (some u.slot)
      (.moved u.home u.seq u.slot u.object target r key u.frame e.facet vec (recPayload a e.recd) sets))
    (s.stage u r (.tomb u.slot u.object r e.list key))

/-- A bound-row update at the item's region owner: in place while its list is the same, else a move within the share, the
tip-in area and the free rows, else in place after all (R216). A vector that fails R127 publishes nothing. -/
def State.stageBound (s : State) (u : Upd) (key : Key) (vec : Bytes) (prior target : Nat) : State × StageEnd :=
  match s.index? u.slot u.object with
  | none => (s, true, 0)
  | some x =>
    match s.findBound u x key prior with
    | none => (s, true, 0)
    | some (r, e) =>
      if !vecOk x.attr.fmt x.attr.dim x.attr.metric vec then (s, true, 0)
      else if s.regionRole u.slot u.object target = .none then (s.handOver u key vec x.attr r e target, true, 0)
      else
        let share := match tget s.chans u.slot with | some c => c.ownLeft 2 | none => 0
        match listFor x (Upd.gen u) target vec with
        | none => ((s.stageRewrite u x r e.list key vec).tellItem u key r, true, 0)
        | some l =>
          if (target = r ∧ l = e.list) ∨ share = 0 ∨ !s.takesList u.slot u.object target l ∨ s.tipinIsFull u x target l ∨ s.rowsFull u x then
            ((s.stageRewrite u x r e.list key vec).tellItem u key r, true, 0)
          else
            let rb := recordOf x.attr vec (recPayload x.attr e.recd) (rowSum x.attr.fmt x.attr.dim vec)
            let s1 := (s.useOwn u.slot 2 1).stage u r (.tomb u.slot u.object r e.list key)
            ((s1.stage u target (.slot u.slot u.object target l (newSlot x.attr key e.facet vec) rb e.row)).tellItem u key target, true, 0)

/-- A bound item that comes from another region's owner (R216): staged within the share, the tip-in area and the free rows of this node, else
its old owner keeps it. -/
def State.takeMoved (s : State) (m : Msg) : State :=
  match m with
  | .moved home seq slot object region prior key adm facet vec payload sets =>
    let u : Upd := { home := home, seq := seq, frame := adm, slot := slot, object := object, next := false, body := .bound key 0 vec prior region }
    let back := fun (s : State) => (s.nodesBeside slot object prior region).foldl (fun acc n =>
      acc.send n (some slot) (.withdraw home seq slot object)) s
    match s.index? slot object with
    | none => s
    | some x =>
      if s.regionRole slot object region = .none ∨
          (s.staged.any fun y => match y.item with | .slot n o r _ sl _ _ => n == slot && o == object && r == region && sl.key == key | _ => false) then s
      else
        let share := match tget s.chans slot with | some c => c.ownLeft 2 | none => 0
        match listFor x (Upd.gen u) region vec with
        | none => back s
        | some l =>
          if share = 0 ∨ !s.takesList slot object region l ∨ s.tipinIsFull u x region l ∨ s.rowsFull u x then back s
          else
            let rb := recordOf x.attr vec payload (rowSum x.attr.fmt x.attr.dim vec)
            let s1 := (s.useOwn slot 2 1).stage { u with home := 0x3FF, seq := 2 ^ 32 } region
              (.slot slot object region l (newSlot x.attr key facet vec) rb none)
            (s1.acceptBits slot object region key false adm sets).tellItem u key region
  | _ => s

/-- A move that the other owner did not take: the item is rewritten in place in its old list (R216). -/
def State.keepMoved (s : State) (m : Msg) : State :=
  match m with
  | .withdraw home seq slot object =>
    let us := (s.took.filter fun x => x.2 && x.1.home == home && x.1.seq == seq && x.1.slot == slot && x.1.object == object).map (·.1)
    us.foldl (fun acc u => match u.body, acc.index? slot object with
      | .bound key _ vec prior _, some x =>
        (match acc.findBound u x key prior with
         | some (r, e) => (acc.stageRewrite u x r e.list key vec).tellItem u key r
         | none => acc)
      | _, _ => acc) s
  | _ => s

/-- What has come about bound items that move between owners. -/
def State.settleMoved (s : State) : State :=
  let mine := fun (x : Nat × Msg) => match x.2 with | .moved .. | .withdraw .. => true | _ => false
  (s.inbox.filter mine).foldl (fun acc x => (acc.takeMoved x.2).keepMoved x.2) { s with inbox := s.inbox.filter fun x => !mine x }

/-! ### A frame's batch -/

/-- One update staged. Upserts, deletes and edits count against the share at the owner, which bound-row moves must respect
(R216; DEDUCED, log entry 20). -/
def State.stageUpd (s : State) (u : Upd) : State × StageEnd :=
  match u.body with
  | .upsert key facet vec payload prior target =>
    (if u.next then s else s.useOwn u.slot 2 1).stageUpsert u key facet vec payload prior target
  | .delete key prior => (if u.next then s else s.useOwn u.slot 2 1).stageDelete u key prior
  | .setEdit set edits => (s.useOwn u.slot 2 edits.length).stageEdits u set edits
  | .bound key _ vec prior target => s.stageBound u key vec prior target
  | .apply .. | .replace .. => (s, true, 0)

/-- The regions that an update names. -/
def updRegions (u : Upd) : List Nat :=
  match u.body with
  | .upsert _ _ _ _ prior target | .bound _ _ _ prior target => dedup ([target, prior].filter (· != 0xFFFFFFFF))
  | .delete _ prior => [prior]
  | .setEdit _ edits => dedup (edits.map fun e => e.2.2.1)
  | .apply .. | .replace .. => []

/-- Whether this node reports an update of regions to its home: never an update that the array made itself (R215), nor the
copy for a generation that is not in force. -/
def State.reportsRegions (s : State) (u : Upd) : Bool :=
  !u.next && (match u.body with | .bound .. => false | _ => true) &&
  (updRegions u).any fun r =>
    match s.regionRole u.slot u.object r with
    | .lead => true
    | .trail => s.frame.exact
    | .copying | .none => false

/-- One update staged and reported: off when it was cut off. -/
def State.stageReport (s : State) (x : Upd × Bool) : State :=
  let r := if x.2 then s.stageUpd x.1 else (s, false, 0)
  if r.1.reportsRegions x.1 then r.1.report x.1 (if r.2.1 then stOk else stCutOff) 0 0 r.2.2 else r.1

/-- The updates of a slot that this frame's UPDATE_STAGE has taken up, carried ones first, then in the order of R76. -/
def State.tookRegions (s : State) (slot : Nat) : List (Upd × Bool) :=
  let mine := s.took.filter fun x => x.1.slot == slot && !updOnRows x.1
  let carried := fun (x : Upd × Bool) => decide (x.1.frame + 1 < s.frame.num)
  mine.filter carried ++ sortBy (fun a b => updBefore a.1 b.1) (mine.filter fun x => !carried x)

/-- The frame's updates of a slot staged from the state before them. -/
def State.restageRegions (s : State) (slot : Nat) : State :=
  let took := s.tookRegions slot
  let s1 := (s.unstage (took.map (·.1))).mapChan slot fun c => { c with ownUsed := setAt c.ownUsed 2 (fun _ => 0) }
  took.foldl State.stageReport s1

/-! ### Row changes sent to the index (R215) -/

/-- The region of a vector by ROUTE_1 in the generation in force. -/
def regionFor (x : Index) (vec : Bytes) : Option Nat :=
  x.cur.target x.attr.metric (sketchElems x.attr.fmt x.attr.dim vec)

/-- One changed row sent as an update with the item's region as PRIOR_REGION (R215). A row whose region no owner has told takes the region of
its last vector (log entry 20). -/
def State.sendBound (s : State) (slot : Nat) (t : Table) (x : Index) (row : Nat) : State :=
  let vecOf := fun (img : Bytes) => vecStore x.attr.fmt (rowElems t.attr.fmt (img.take (t.attr.dim * rowES t.attr.fmt)))
  let vec := vecOf (t.rowNow row)
  let was := match tget t.items row with
    | some r => some r
    | none => regionFor x (vecOf (t.rowAt row (s.frame.num - 2)))
  match was, regionFor x vec with
  | some prior, some dest =>
    let target := dest
    let key : Key := BitVec.ofNat 64 (t.attr.keyBase + row)
    let seq := s.frame.seq
    let r := s.nextRoutes
    let nodes := dedup ([prior, target].flatMap fun g => match r.routeEntry slot t.attr.bound g with | some e => rtTargets e | none => [])
    let s1 := { s with frame := { s.frame with seq := seq + 1 } }
    nodes.foldl (fun acc n => acc.sendUpd slot seq t.attr.bound n (.bound key row vec prior target)) s1
  | _, _ => s

/-- The bound rows of a slot that changed at the last commit window sent on. -/
def State.sendFresh (s : State) (slot : Nat) : State :=
  (s.tablesOf slot).foldl (fun acc h =>
    match acc.table? slot h with
    | none => acc
    | some t =>
      match acc.index? slot t.attr.bound with
      | none => acc
      | some x => (t.fresh.foldl (fun a r => a.sendBound slot t x r) acc).mapTable slot h fun y => { y with fresh := [] }) s

/-! ### UPDATE_STAGE -/

/-- The updates of a slot due in this frame: those admitted in the frame before, and those carried to it (R216). -/
def State.regionArrivals (s : State) (slot : Nat) : List Upd :=
  (s.heldUpd.filter fun x => x.2.slot == slot && x.1 == s.frame.num).map (·.2) ++
  (s.updIn.filter fun x => x.2.slot == slot && !updOnRows x.2 && x.2.frame + 1 == s.frame.num).map (·.2)

/-- The array jobs of UPDATE_STAGE (R182): the routing of bound-row vectors per region, then per index its item sketches. -/
def State.updateJobs (s : State) (slot : Nat) (us : List Upd) : List Job :=
  let vecs := us.filterMap fun u => match u.body with
    | .upsert _ _ _ _ _ target | .bound _ _ _ _ target => some (u.object.toNat, target)
    | _ => none
  let keys := sortBy (fun a b => decide (a < b)) (dedup (vecs.map (·.1)))
  keys.flatMap fun h =>
    match s.index? slot (BitVec.ofNat 32 h) with
    | none => []
    | some x =>
      let mine := (vecs.filter fun v => v.1 == h).map (·.2)
      let moved := (us.filter fun u => u.object.toNat == h).filterMap fun u => match u.body with
        | .bound _ _ _ _ target => some target
        | _ => none
      ((sortBy (fun a b => decide (a < b)) (dedup moved)).map fun r =>
        { k := x.attr.dim, n := (x.cur.listsIn r).length, m := (moved.filter (· == r)).length, e := 2, dram := true }) ++
      [{ k := x.attr.dim, n := x.attr.sketchBits, m := mine.length, e := 2, dram := true,
         ids := us.filterMap fun u => match u.body with
           | .upsert .. | .bound .. => if u.object.toNat = h then some (u.home, u.seq) else none
           | _ => none }]

/-- Bound-row updates whose vector fails R127 logged, where the key has an item here (R216). -/
def State.logRejected (s : State) (u : Upd) : State :=
  match u.body, s.index? u.slot u.object with
  | .bound key _ vec prior _, some x =>
    if !vecOk x.attr.fmt x.attr.dim x.attr.metric vec && (s.findBound u x key prior).isSome then
      s.logAdd 0x06 (s.handleAt u.slot) u.object.toNat key.toNat 0
    else s
  | _, _ => s

/-- UPDATE_STAGE (R75, R215): row changes are sent on, and what has arrived is staged. -/
def State.updateStage (s : State) (e : EaselEntry) : State :=
  let s1 := (s.mediaUpds e.slot false State.reportsRegions).sendFresh e.slot
  let us := s1.regionArrivals e.slot
  let s2 := { s1 with took := s1.took ++ us.map (fun u => (u, true)),
                      updIn := s1.updIn.filter (fun x => !us.contains x.2),
                      heldUpd := s1.heldUpd.filter (fun x => !(x.2.slot == e.slot && x.1 == s1.frame.num)) }
  (((us.foldl State.logRejected s2).arrayWork e e.slot (s2.updateJobs e.slot us)).restageRegions e.slot).coreFree e.slot

/-- MIGRATE (R90 to R92): what has been copied takes the updates of the frame too (R91, R218). -/
def State.migrateThen (s : State) (e : EaselEntry) : State :=
  let s1 := (s.migrateWindow e).restorePieces fun n => e.isNode || n == e.slot
  (dedup (s1.took.map fun x => x.1.slot)).foldl (fun acc slot =>
    if acc.migs.any fun m => m.slot == slot && !m.source then (acc.restageRows slot).restageRegions slot else acc) s1

/-- MIGRATE_WINDOW. -/
def execMigrateWindow (n : Nat) (s : State) : Answer := inNodeWindow n 0x22 (fun e s => s.migrateThen e) s

end Sys2Proof.Machine
end

