-- ==== Sys2Proof/Machine/Publish.lean ====
section
/-! DEFINITION. Step 2 of the commit window (R24, R25, R70, R76, R77, R84, R216): the staged items published in their order,
with the journal entries that they make (R260). -/

namespace Sys2Proof.Machine

/-! ### Bodies -/

/-- A slot publication's body (R260). -/
def slotBody (region list n : Nat) (sl : Slot) : List Nat :=
  [region, list, n, sl.row, sl.key.toNat, sl.facet, sl.sketch, sl.norm.toNat, (sl.rowsum % 2 ^ 32).toNat, sl.folio, sl.record]

/-! ### Bits -/

/-- A chunk of a set marked for the derived sets over it (R84, R235). -/
def State.markDirty (s : State) (slot : Nat) (set : Handle) (row : Nat) : State :=
  { s with sets := s.sets.map fun p =>
      if p.1 / 2 ^ 32 = slot ∧ p.2.derived ∧ p.2.sets.contains set then (p.1, { p.2 with dirty := insNat (row / 8192) p.2.dirty }) else p }

/-- The bit of a row in a set written on both twins, after a read that compares them (R224, R233): what it was is logged for the versions
that R53 keeps, and derived sets over it learn of a change. -/
def State.setBitTo (s : State) (slot : Nat) (set : Handle) (x : AllowSet) (row : Nat) (b : Bool) : State :=
  let was := bitRead s.dram.mem x.units row
  let s1 := s.touch (objKey slot set) row
  if was = b then s1
  else
    { s1 with
      dram := { s1.dram with mem := bitWrite s1.dram.mem x.units row b }
      sets := tmap s1.sets (objKey slot set) fun y =>
        { y with rows := putRow y.rows row b, bitLog := y.bitLog ++ [(s.frame.num, row, was)] } }.markDirty slot set row

/-- A tombstone bit written at a commit window. -/
def State.tombTo (s : State) (slot : Nat) (h : Handle) (row : Nat) (b : Bool) : State :=
  (s.touch (objKey slot h) row).tombBit slot h row b

/-- A replaced item's bits in every allow-set of its index copied to its new row (R76). -/
def State.copyBits (s : State) (slot : Nat) (h : Handle) (from_ dest : Nat) : State :=
  (s.setsOf slot h).foldl (fun acc p => acc.setBitTo slot p.1 p.2 dest (bitRead s.dram.mem p.2.units from_)) s

/-- A freed row's bits cleared from the tombstone set and every allow-set (R80). -/
def State.clearRow (s : State) (slot : Nat) (h : Handle) (row : Nat) : State :=
  (s.setsOf slot h).foldl (fun acc p => acc.setBitTo slot p.1 p.2 row false) (s.tombTo slot h row false)

/-! ### Items of a list -/

/-- Where a key is live in a list: its place among the slots, and the slot. -/
def IList.liveAt (l : IList) (key : Key) : Option (Nat × Slot) :=
  (l.slots.mapIdx fun i sl => (i, sl)).find? fun p => p.2.key == key && p.2.dead.isNone

/-- The number of a list's i-th slot now (R65). -/
def IList.number (l : IList) (i : Nat) : Nat := slotNumber l.mainSlots i

/-- A slot published (R66, R70): the lowest free row, the next tip-in place, its record in flash. -/
def State.publishSlot (s : State) (k : GenKey) (slot : Nat) (h : Handle) (region list : Nat) (sl : Slot) (rb : Bytes)
    (copy : Option Nat) (due : Nat) : State :=
  match s.index? slot h with
  | none => s
  | some x =>
    match x.freeRow, tget ((x.genFor k).region region) list with
    | some row, some l =>
      let p := s.placeRecord slot h x.attr sl.key rb
      let sl1 := { sl with row := row, pub := s.frame.num, due := due, folio := p.1.1, record := p.1.2 }
      let s1 := p.2.mapIndex slot h fun y =>
        { y with rowsUsed := insNat row y.rowsUsed }.mapGen k fun g =>
          g.mapList region list fun il => { il with slots := il.slots ++ [sl1] }
      let s2 := match copy with | some r => s1.copyBits slot h r row | none => s1
      s2.journal 0x01 slot h (slotBody region list (l.number l.slots.length) sl1)
    | _, _ => s

/-- A slot of a list changed. -/
def State.mapSlot (s : State) (k : GenKey) (slot : Nat) (h : Handle) (region list n : Nat) (f : Slot → Slot) : State :=
  s.mapIndex slot h fun y => y.mapGen k fun g => g.mapList region list fun il => { il with slots := setAt il.slots n f }

/-- The slot that holds a key in a list of a generation. -/
def State.slotOf (s : State) (k : GenKey) (slot : Nat) (h : Handle) (region list : Nat) (key : Key) : Option (Nat × Slot) :=
  match s.index? slot h with
  | some x => (tget ((x.genFor k).region region) list).bind fun l => l.liveAt key
  | none => none

/-- The number of the n-th slot of a list of a generation. -/
def State.numberAt (s : State) (k : GenKey) (slot : Nat) (h : Handle) (region list n : Nat) : Nat :=
  match (s.index? slot h).bind fun x => tget ((x.genFor k).region region) list with
  | some l => l.number n
  | none => n

/-- A tombstone published (R77): the row's bit, logged for 8 frames. -/
def State.publishTomb (s : State) (k : GenKey) (slot : Nat) (h : Handle) (region list : Nat) (key : Key) (due : Nat) : State :=
  match s.slotOf k slot h region list key with
  | none => s
  | some (n, sl) =>
    let s1 := (s.mapSlot k slot h region list n fun y => { y with dead := some s.frame.num, deadDue := due }).tombTo slot h sl.row true
    (s1.mapIndex slot h fun y => { y with tombLog := y.tombLog ++ [(sl.row, s.frame.num)] }).journal 0x02 slot h
      [region, list, s.numberAt k slot h region list n, sl.row]

/-- An in-place rewrite published (R216): the old sketch and NORM are logged. -/
def State.publishRewrite (s : State) (k : GenKey) (slot : Nat) (h : Handle) (region list : Nat) (key : Key) (sketch : Nat)
    (norm : F16) (rowsum : Int) : State :=
  match s.slotOf k slot h region list key with
  | none => s
  | some (n, sl) =>
    let sl1 := { sl with sketch := sketch, norm := norm, rowsum := rowsum,
                         older := sl.older ++ [(sl.sketch, sl.norm, s.frame.num)] }
    let no := s.numberAt k slot h region list n
    (s.mapSlot k slot h region list n fun _ => sl1).journalUndo 0x01 slot h (slotBody region list no sl1) (slotBody region list no sl)

/-- A new locator published in its slot (R217, R264). -/
def State.publishLocator (s : State) (slot : Nat) (h : Handle) (region list : Nat) (key : Key) (folio record : Nat) : State :=
  match s.slotOf (false, s.frame.num) slot h region list key with
  | none => s
  | some (n, sl) =>
    let sl1 := { sl with folio := folio, record := record }
    let no := s.numberAt (false, s.frame.num) slot h region list n
    ((s.mapSlot (false, s.frame.num) slot h region list n fun _ => sl1).journalUndo 0x01 slot h (slotBody region list no sl1) (slotBody region list no sl)).mapFlash
      fun f => { f with left := f.left ++ [(sl.folio, s.frame.num)] }

/-- An allow-set edit published on the row of the key's item (R347). -/
def State.publishBit (s : State) (k : GenKey) (slot : Nat) (set : Handle) (region : Nat) (key : Key) (b : Bool) : State :=
  match s.set? slot set with
  | none => s
  | some x =>
    match s.index? slot x.index with
    | none => s
    | some i =>
      match ((i.genFor k).region region).findSome? fun p => p.2.liveAt key with
      | none => s
      | some (_, sl) =>
        (s.setBitTo slot set x sl.row b).journalUndo 0x03 slot set [set.toNat, key.toNat, sl.row, if b then 1 else 0]
          [if bitRead s.dram.mem x.units sl.row then 1 else 0]

/-! ### Table rows -/

/-- A row version published (R24, R192, R209, R215): the version it supersedes is stamped with the frame. -/
def State.publishRow (s : State) (slot : Nat) (h : Handle) (row : Nat) (img : Bytes) (put : Option Bool) : State :=
  match s.table? slot h with
  | none => s
  | some t =>
    let was := match tget t.rows row with
      | some w => w
      | none => { image := initRow t.attr row, frame := 0, older := [] }
    let now : Row := { image := img, frame := s.frame.num, older := was.older ++ [(s.frame.num, was.image)] }
    let bound := t.attr.bound != 0
    let lead := s.roleOf slot h (row / t.attr.shardRows) (t.entry row) == .lead
    let s1 := s.mapTable slot h fun y =>
      { y with rows := tput y.rows row now, changed := insNat row y.changed,
               capElig := if bound then insNat row y.capElig else y.capElig,
               fresh := if bound && lead && put != some true then insNat row y.fresh else y.fresh }
    if put.isSome then s1.journal 0x04 slot h [h.toNat, row, le img] else s1

/-! ### The order of step 2 -/

/-- The list and slot of the item that an allow-set edit is for. -/
def State.bitPlace (s : State) (k : GenKey) (slot : Nat) (set : Handle) (region : Nat) (key : Key) : Nat × Nat :=
  match (s.set? slot set).bind fun x => s.index? slot x.index with
  | none => (0, 0)
  | some i =>
    (((i.genFor k).region region).findSome? fun p => (p.2.liveAt key).map fun q => (p.1, p.2.number q.1)).getD (0, 0)

/-- The place of an item in the order of R24, table rows after the items of indexes: channel, object, region, list, slot, or channel,
table, row. Slots that are still to be numbered come last in their list. -/
def State.stageKey (s : State) (y : StagedItem) : List Nat :=
  let at_ := fun (n : Nat) (o : Handle) (r l : Nat) (k : Key) => match s.slotOf y.gen n o r l k with | some p => s.numberAt y.gen n o r l p.1 | none => 2 ^ 32
  match y.item with
  | .slot n o r l _ _ _ => [0, n, o.toNat, r, l, 2 ^ 32]
  | .tomb n o r l k | .rewrite n o r l k _ _ _ | .locator n o r l k _ _ => [0, n, o.toNat, r, l, at_ n o r l k]
  | .bit n o r k _ => let p := s.bitPlace y.gen n o r k
                      [0, n, o.toNat, r, p.1, p.2]
  | .row n o r _ _ => [1, n, o.toNat, r, 0, 0]

/-- Ascending order of number lists. -/
def listLt : List Nat → List Nat → Bool
  | a :: as, b :: bs => decide (a < b) || (a == b && listLt as bs)
  | _, _ => false

/-- One staged item published, if this node still takes its list (R91). -/
def State.publishItem (s : State) (y : StagedItem) : State :=
  match y.item with
  | .slot n o r l sl rb copy => if y.next || s.takesList n o r l then s.publishSlot y.gen n o r l sl rb copy (min y.due s.frame.num) else s
  | .tomb n o r l k => if y.next || s.takesList n o r l then s.publishTomb y.gen n o r l k (min y.due s.frame.num) else s
  | .rewrite n o r l k sk nm rs => if y.next || s.takesList n o r l then s.publishRewrite y.gen n o r l k sk nm rs else s
  | .bit n o r k b => s.publishBit y.gen n o r k b
  | .locator n o r l k f i => s.publishLocator n o r l k f i
  | .row n o r img put => s.publishRow n o r img put

/-- What is due at this commit window published in the order of R24. -/
def State.publishDue (s : State) : State :=
  let due := sortBy (fun a b => listLt a.1 b.1) ((s.staged.filter fun y => decide (y.hold ≤ s.frame.num)).map fun y => (s.stageKey y, y))
  (due.map (·.2)).foldl State.publishItem { s with staged := s.staged.filter fun y => decide (s.frame.num < y.hold) }

/-- What a holding that has become ACTING holds is due at once (R396). -/
def State.hasten (s : State) (slot : Nat) (h : Handle) (number : Nat) : State :=
  let mine := fun (i : Stage) => match i with
    | .slot n o r _ _ _ _ | .tomb n o r _ _ | .rewrite n o r _ _ _ _ _ | .locator n o r _ _ _ _ => n == slot && o == h && r == number
    | .bit n o r _ _ => n == slot && r == number && (match s.set? n o with | some x => x.index == h | none => false)
    | .row n o r _ _ => n == slot && o == h && (match s.table? n o with | some t => r / t.attr.shardRows == number | none => false)
  { s with staged := s.staged.map fun y => if mine y.item then { y with hold := min y.hold s.frame.num } else y }

/-! ### Generations (R87) -/

/-- A built generation published at the commit window of P: the old one is held for commands admitted before P + 1. -/
def State.publishGen (s : State) (slot : Nat) (h : Handle) : State :=
  match s.index? slot h with
  | none => s
  | some x =>
    match x.next with
    | some (p, g) =>
      if p = s.frame.num then
        (s.mapIndex slot h fun y => { y with cur := g, old := some (p, y.cur), next := none }).journal 0x05 slot h [p]
      else s
    | none => s

/-- Every generation due. -/
def State.publishGens (s : State) : State :=
  (s.indexes.map (·.1)).foldl (fun acc k => acc.publishGen (k / 2 ^ 32) (BitVec.ofNat 32 (k % 2 ^ 32))) s

/-- GENERATION_PUBLISH; COMMIT_WINDOW has done it when it comes first. -/
def execGenerationPublish (slot : Nat) (object : Handle) (s : State) : Answer :=
  whenLive (fun s => s.publishGen slot object) s

end Sys2Proof.Machine
end

