-- ==== Sys2Proof/Machine/Compact.lean ====
section
/-! DEFINITION. List maintenance (R79 to R82, R151) and the release of expired versions (R53, R70, R80, R216, R327). -/

namespace Sys2Proof.Machine

/-! ### Scheduling (R79) -/

/-- A key for lists of a region in the order of R79. -/
def opAt (o : ListOp) (slot : Nat) (h : Handle) (region list : Nat) : Bool :=
  o.slot == slot && o.object == h && o.region == region && o.list == list

/-- The list into which a merge takes a list (R82): the nearest centroid, ties to the lower number. -/
def mergeInto (x : Index) (region list : Nat) (l : IList) : Option Nat :=
  let others := (x.cur.listsIn region).filter fun p => p.1 != list
  (chooseBest 1 (others.map fun p => (p.1, itemScore x.attr.metric (toVec l.centroid) (toVec p.2.centroid)))).head?

/-- What is left while a region is examined: operations scheduled in this pass and lists taken by them. -/
structure SchedRun where
  ops   : List ListOp
  taken : List Nat

/-- One list examined (R79); one with an operation still at work is left alone. -/
def schedOne (slot : Nat) (h : Handle) (x : Index) (region frame : Nat) (old : List ListOp) (r : SchedRun) (p : Nat × IList) :
    SchedRun :=
  let live := p.2.live
  let count := (x.cur.listsIn region).length
  let op := fun (kind into : Nat) =>
    ({ slot := slot, object := h, region := region, list := p.1, kind := kind, frame := frame, into := into, event := none, ready := none : ListOp })
  let busy := old.any fun o => o.slot == slot && o.object == h && o.region == region && (o.list == p.1 || (o.kind == 2 && o.into == p.1))
  if busy then r
  else if x.attr.splitAt < live ∧ count < 8192 then { ops := r.ops ++ [op 1 0], taken := r.taken ++ [p.1] }
  else if live < x.attr.mergeAt ∧ 64 < count ∧ !r.taken.contains p.1 then
    match mergeInto x region p.1 p.2 with
    | some m =>
      if (old.any fun o => opAt o slot h region m || (opAt o slot h region o.list && o.kind == 2 && o.into == m)) || r.taken.contains m then r
      else { ops := r.ops ++ [op 2 m], taken := r.taken ++ [p.1, m] }
    | none => r
  else if 8 * x.attr.tipin ≤ p.2.tipinUsed ∨ p.2.mainSlots + p.2.tipinUsed ≤ 8 * p.2.tombstoned then
    { ops := r.ops ++ [op 0 0], taken := r.taken ++ [p.1] }
  else r

/-- Merges whose list M is itself scheduled in the same pass wait for a later one (R82). -/
def dropBlocked (ops : List ListOp) : List ListOp :=
  ops.filter fun o => o.kind != 2 || !(ops.any fun p => p.list == o.into)

/-- A region being moved or rebuilt is not maintained (R79; for a rebuild DEDUCED, log entry 21). -/
def State.regionMoving (s : State) (slot : Nat) (h : Handle) (region e : Nat) : Bool :=
  rtMigrating e || (s.migs.any fun m => m.slot == slot && m.object == h && m.number == region && (m.what == 0 || m.what == 3))

/-- The operations of one region, at the node that leads it: the primary, or the holder that acts for it (R79, R394). -/
def State.schedRegion (s : State) (slot : Nat) (h : Handle) (x : Index) (region : Nat) : List ListOp :=
  match s.routeEntry slot h region with
  | none => []
  | some e =>
    if s.regionMoving slot h region e || s.roleOf slot h region e != .lead then []
    else
      dropBlocked ((x.cur.listsIn region).foldl (schedOne slot h x region s.frame.num s.listOps) { ops := [], taken := [] }).ops

/-- Whether the channel in a slot is ACTIVE: a DETACHED one takes up no new list work (R26, R334). -/
def State.isActive (s : State) (slot : Nat) : Bool := match tget s.chans slot with | some c => c.st == .active | none => false

/-- Every index examined after step 2 (R79). -/
def State.schedule (s : State) : State :=
  let ops := s.indexes.flatMap fun p =>
    if p.2.dropped.isSome || !s.isActive (p.1 / 2 ^ 32) then []
    else p.2.cur.lists.flatMap fun r => s.schedRegion (p.1 / 2 ^ 32) (BitVec.ofNat 32 (p.1 % 2 ^ 32)) p.2 r.1
  { s with listOps := s.listOps ++ ops }

/-! ### COMPACT windows -/

/-- The slots of a list that compaction keeps (R80). -/
def IList.kept (l : IList) : List Slot := l.slots.filter fun sl => sl.dead.isNone

/-- A list with a new main area and an empty tip-in area. -/
def IList.rebuilt (l : IList) (c : List F16) (slots : List Slot) : IList :=
  { l with centroid := c, mainSlots := slots.length, slots := slots, tipinFull := false }

/-- Whether a main area keeps within R151. -/
def mainFits (a : IndexAttr) (l : IList) : Bool := decide (16 * extentLines a.tipin l.mainSlots ≤ 524288)

/-- The stored vector of a slot in fp32. -/
def State.slotVec (s : State) (a : IndexAttr) (sl : Slot) : List F32 := vecElems a.fmt a.dim (recVec a (s.record a sl))

/-- Stands for the number that the cb side of a split takes when it is published: the lowest free one then (R81). -/
def newList : Nat := 8192

/-- The lists that a split leaves (R81): items published after e0 stay in L. -/
def State.splitLists (s : State) (a : IndexAttr) (o : ListOp) (l : IList) : List (Nat × IList) :=
  let at0 := l.slots.filter fun sl => seenAt sl o.frame
  let vs := at0.map (s.slotVec a)
  let cs := splitCentroids a.metric a.dim l.centroid vs
  let sides := List.zip at0 (splitSides a.metric (toVec cs.1) (toVec cs.2) vs)
  let goes := fun (sl : Slot) => sides.any fun p => p.1.row == sl.row && p.2
  [(o.list, l.rebuilt cs.1 (l.kept.filter fun sl => !goes sl)),
   (if o.event.isSome then o.into else newList, (IList.ofCentroid []).rebuilt cs.2 (l.kept.filter goes))]

/-- The weighted mean of two centroids (R82). Of two lists without live slots the rule divides 0 by 0: the sum is the NaN of that
division (DESIGN CHOICE, log entry 74). -/
def mergeCentroid (a b : List F16) (na nb : Nat) : List F16 :=
  List.zipWith (fun x y =>
    toBf16 (fdiv (fadd (fmul (ofInt na) (ofBf16 x)) (fmul (ofInt nb) (ofBf16 y))) (ofInt (na + nb)))) a b

/-- The lists that a merge of L into M leaves (R82): L's number becomes free. -/
def mergeLists (x : Index) (o : ListOp) (l : IList) : List (Nat × IList) :=
  match tget (x.cur.region o.region) o.into with
  | none => []
  | some m =>
    [(o.into, m.rebuilt (mergeCentroid m.centroid l.centroid m.live l.live) (m.slots ++ l.kept)), (o.list, l.rebuilt [] [])]

/-- The new extents of an operation on an index as it stands; none when it cannot be carried out, or when a main area would go beyond
R151. -/
def State.opLists (s : State) (x : Index) (o : ListOp) : List (Nat × IList) :=
  match tget (x.cur.region o.region) o.list with
  | none => []
  | some l =>
    let new := match o.kind with
      | 0 => [(o.list, l.rebuilt l.centroid l.kept)]
      | 1 => s.splitLists x.attr o l
      | _ => mergeLists x o l
    if new.all fun p => mainFits x.attr p.2 then new else []

/-- One operation run (R80 to R82): its new extents are ready for the commit window, or the operation ends. A split waits for its
vectors. -/
def State.runOp (s : State) (o : ListOp) : State :=
  match s.index? o.slot o.object with
  | none => { s with listOps := s.listOps.filter fun p => p != o }
  | some x =>
    if o.kind = 1 ∧ o.into = 0 then s
    else
      let new := s.opLists x o
      if new.isEmpty then { s with listOps := s.listOps.filter fun p => p != o }
      else { s with listOps := s.listOps.map fun p => if p = o then { p with ready := some new } else p }

/-- COMPACT: the operations of the channel in the order scheduled, splits once their vectors are read. How much one window does
is an operand of STAGE_CUT_OFF (log entry 22). -/
def State.compactWindow (s : State) (e : EaselEntry) : State :=
  let mine := s.listOps.filter fun o => o.slot == e.slot && o.ready.isNone && o.event.isNone && decide (o.frame < s.frame.num)
  if mine.isEmpty then s else (mine.foldl State.runOp s).coreFree e.slot

/-- COMPACT. -/
def execCompact (n : Nat) (s : State) : Answer := inWindow n 0x20 (fun e s => s.compactWindow e) s

/-! ### Publication at step 2 -/

/-- Rows of a list's old extent that no new extent holds. -/
def droppedRows (old : List Slot) (new : List (Nat × IList)) : List Nat :=
  (old.filter fun sl => !(new.any fun p => p.2.slots.any fun y => y.row == sl.row)).map (·.row)

/-- A generation with some lists put in place: what they replace is kept for R53. A list number that a split takes again keeps the
heat it had (DESIGN CHOICE, log entry 74). -/
def Index.putLists (x : Index) (frame region : Nat) (new : List (Nat × IList)) : Index :=
  new.foldl (fun y p =>
    let was := tgetD (y.cur.region region) p.1 (IList.ofCentroid [])
    let old : Extent := { was.extentAt frame with frame := frame }
    let l := y.placeList { p.2 with heat := was.heat, scanned := was.scanned, older := was.older ++ [old] }
    { y with cur := y.cur.putList region p.1 l }) x

/-- What is staged for the list L of a merge goes to the list that took it. -/
def Stage.moved (o : ListOp) (i : Stage) : Stage :=
  let hit := fun (n : Nat) (h : Handle) (r l : Nat) => n == o.slot && h == o.object && r == o.region && l == o.list
  match i with
  | .slot n h r l sl rb c => if hit n h r l then .slot n h r o.into sl rb c else i
  | .tomb n h r l k => if hit n h r l then .tomb n h r o.into k else i
  | .rewrite n h r l k a b c => if hit n h r l then .rewrite n h r o.into k a b c else i
  | .bit .. | .row .. => i
  | .locator n h r l k f c => if hit n h r l then .locator n h r o.into k f c else i

/-- New extents published for an operation: the old extents are kept, their tombstoned rows become free with them. -/
def State.publishLists (s : State) (o : ListOp) (x : Index) (new : List (Nat × IList)) : State :=
  let olds := new.flatMap fun p => (tgetD (x.cur.region o.region) p.1 (IList.ofCentroid [])).slots
  let s1 := s.mapIndex o.slot o.object fun y =>
    { y.putLists s.frame.num o.region new with
      rowsFreeable := y.rowsFreeable ++ (droppedRows olds new).map fun r => (r, s.frame.num) }
  let s2 := if o.kind = 2 then
      { s1 with staged := s1.staged.map fun y => if y.next then y else { y with item := y.item.moved o } } else s1
  s2.journal 0x05 o.slot o.object [o.kind, o.region, o.list, o.into]

/-- The other holders of a region, and a migration destination: they apply the same event at the same version (R69). -/
def State.sendEvent (s : State) (o : ListOp) : State :=
  match s.routeEntry o.slot o.object o.region with
  | none => s
  | some e => ((rtTargets e).filter (· != s.frame.logicalId)).foldl (fun acc n =>
      acc.postAt (s.frame.num + 1) n o.slot (.event o.slot o.object o.region o.list o.kind o.into o.frame s.frame.num)) s

/-- One ready operation published at the node that leads the region. -/
def State.publishOp (s : State) (o : ListOp) : State :=
  match o.ready, s.index? o.slot o.object with
  | some new, some x =>
    let n := lowestFree ((x.cur.listsIn o.region).map (·.1))
    let o1 := if o.kind = 1 then { o with into := n } else o
    if o.kind = 1 ∧ 8192 ≤ n then s
    else (s.publishLists o1 x (new.map fun p => if p.1 = newList then (n, p.2) else p)).sendEvent o1
  | _, _ => s

/-! ### Events of the primary at another holder (R69) -/

/-- A list as its primary had it after the commit window of frame v: what is due later is not there yet. -/
def IList.atVersion (l : IList) (v : Nat) : IList :=
  { l with slots := (l.slots.filter fun sl => decide (sl.due ≤ v)).map fun sl => if v < sl.deadDue then { sl with dead := none } else sl }

/-- An index whose lists of a region stand as after the commit window of frame v. -/
def Index.atVersion (x : Index) (region v : Nat) : Index :=
  { x with cur := { x.cur with lists := tput x.cur.lists region ((x.cur.region region).map fun p => (p.1, p.2.atVersion v)) } }

/-- The new extents of an event, with what has been published here since: the tombstones, and the slots at the end of the list that
takes them. -/
def State.eventLists (s : State) (o : ListOp) (e : Nat) (x : Index) : List (Nat × IList) :=
  let l := tgetD (x.cur.region o.region) o.list (IList.ofCentroid [])
  let m := tgetD (x.cur.region o.region) o.into (IList.ofCentroid [])
  let all := l.slots ++ (if o.kind = 2 then m.slots else [])
  let later := all.filter fun sl => decide (e ≤ sl.due)
  let now := fun (sl : Slot) => match all.find? fun y => y.row == sl.row with | some y => y | none => sl
  (s.opLists (x.atVersion o.region (e - 1)) o).map fun p =>
    (p.1, { p.2 with slots := p.2.slots.map now ++ (if p.1 = (if o.kind = 2 then o.into else o.list) then later else []) })

/-- An event carried out, when every update that the primary published before it has been published here: BUDDY_LAG frames later. -/
def State.publishEvent (s : State) (o : ListOp) : State :=
  match o.event, s.index? o.slot o.object with
  | some e, some x =>
    let new := s.eventLists o e x
    if new.isEmpty || s.regionRole o.slot o.object o.region == .none then s else s.publishLists o x new
  | _, _ => s

/-- Whether an event is due. -/
def State.eventDue (s : State) (o : ListOp) : Bool :=
  match o.event with | some e => decide (e + (if s.frame.exact then 1 else max 1 s.frame.buddyLag) ≤ s.frame.num) | none => false

/-- The operations completed in this frame published; those at work start again in the next (R80). -/
def State.publishOps (s : State) : State :=
  let due := s.listOps.filter fun o => o.ready.isSome || s.eventDue o
  due.foldl (fun acc o => if o.event.isSome then acc.publishEvent o else acc.publishOp o)
    { s with listOps := s.listOps.filter fun o => !(o.ready.isSome || s.eventDue o) }

/-! ### Release at step 7 (R53) -/

/-- Whether a version superseded at the commit window of frame n is released at the present one. -/
def State.released (s : State) (n : Nat) : Bool := decide (n + 6 ≤ s.frame.num)

/-- The records of tombstoned slots in released extents. -/
def State.deadRecords (s : State) (l : IList) : List Nat :=
  (l.older.filter fun o => s.released o.frame).flatMap fun o =>
    (o.slots.filter fun sl => sl.dead.isSome).map fun sl => recKey sl.folio sl.record

/-- A list after the release: its extents and its logged values (R216: 8 frames). -/
def State.releaseList (s : State) (l : IList) : IList :=
  { l with older := l.older.filter (fun o => !s.released o.frame),
           slots := l.slots.map fun sl => { sl with older := sl.older.filter fun o => decide (s.frame.num < o.2.2 + 8) } }

/-- Every list of a generation. -/
def IndexGen.mapLists (g : IndexGen) (f : IList → IList) : IndexGen :=
  { g with lists := g.lists.map fun r => (r.1, r.2.map fun p => (p.1, f p.2)) }

/-- Local rows of a generation. -/
def IndexGen.rows (g : IndexGen) : List Nat := g.lists.flatMap fun r => r.2.flatMap fun p => p.2.slots.map (·.row)

/-- The local rows that are freed at the present commit window: those of compacted tombstones, and of an old generation (R70, R80,
R87). -/
def State.rowsFreed (s : State) (x : Index) : List Nat :=
  let oldGen := match x.old with | some (p, g) => if s.released p then g.rows else [] | none => []
  (x.rowsFreeable.filter fun r => s.released r.2).map (·.1) ++ oldGen

/-- Step 2: the rows that step 7 frees leave the tombstone set and every allow-set (R80, R233). -/
def State.clearFreed (s : State) : State :=
  s.indexes.foldl (fun acc p =>
    (s.rowsFreed p.2).foldl (fun a r => a.clearRow (p.1 / 2 ^ 32) (BitVec.ofNat 32 (p.1 % 2 ^ 32)) r) acc) s

/-- One index after the release: its rows are free again (R70, R80); an old generation goes whole with its records (R87). -/
def State.releaseIndex (s : State) (key : Nat) (x : Index) : State :=
  let slot := key / 2 ^ 32
  let h : Handle := BitVec.ofNat 32 (key % 2 ^ 32)
  let rows := s.rowsFreed x
  let recs := (x.cur.lists.flatMap fun r => r.2.flatMap fun p => s.deadRecords p.2) ++
    (match x.old with
     | some (p, g) => if s.released p then g.lists.flatMap fun r => r.2.flatMap fun l => l.2.slots.map fun sl => recKey sl.folio sl.record else []
     | none => [])
  let s2 := s.mapIndex slot h fun y =>
    { y with cur := y.cur.mapLists s.releaseList, rowsUsed := y.rowsUsed.filter fun r => !rows.contains r,
             rowsFreeable := y.rowsFreeable.filter fun r => !s.released r.2,
             tombLog := y.tombLog.filter fun t => decide (s.frame.num < t.2 + 8),
             old := match y.old with | some (p, g) => if s.released p then none else some (p, g) | none => none }
  { s2 with flash := { s2.flash with recs := recs.foldl tdel s2.flash.recs } }

/-- Row versions of a table released. -/
def State.releaseTable (s : State) (t : Table) : Table :=
  { t with rows := t.rows.map fun r => (r.1, { r.2 with older := r.2.older.filter fun o => !s.released o.1 }) }

/-- Graphs replaced long enough ago (R137, R53). -/
def State.releaseGraph (s : State) (g : Graph) : Graph :=
  { g with older := g.older.filter fun o => !s.released o.1 }

/-- A dropped object whose NUMBER is free again (R327). -/
def State.gone (s : State) (d : Option Nat) : Bool := match d with | some f => decide (f + 7 ≤ s.frame.num) | none => false

/-- An index or table that goes at this commit window. -/
def State.objectFreed (s : State) (slot : Nat) (h : Handle) : Bool :=
  (match tget s.indexes (objKey slot h) with | some x => s.gone x.dropped | none => false) ||
  (match tget s.tables (objKey slot h) with | some x => s.gone x.dropped | none => false)

/-- Objects and versions superseded six frames earlier or more released (R24, R53). -/
def State.releaseObjects (s : State) : State :=
  let s1 := s.indexes.foldl (fun acc p => acc.releaseIndex p.1 p.2) s
  { s1 with indexes := s1.indexes.filter (fun p => !s.gone p.2.dropped),
            sets := (s1.sets.filter fun p => !s.gone p.2.dropped).map (fun p =>
              (p.1, { p.2 with bitLog := p.2.bitLog.filter fun b => decide (s.frame.num < b.1 + 8) })),
            tables := (s1.tables.filter fun p => !s.gone p.2.dropped).map (fun p => (p.1, s.releaseTable p.2)),
            streams := s1.streams.filter (fun x => !s.objectFreed x.slot x.object),
            graphs := (s1.graphs.filter fun p => !s.objectFreed (p.1 / 2 ^ 32) (BitVec.ofNat 32 (p.1 % 2 ^ 32))).map
              (fun p => (p.1, s.releaseGraph p.2)) }

/-- Record folios in which a slot of a retained version, a staged locator, a build or a locator left in the last six frames locates a record
(R264). -/
def State.located (s : State) : List Nat :=
  let ofGen := fun (g : IndexGen) => g.lists.flatMap fun r => r.2.flatMap fun l => l.2.slots.map (·.folio) ++ l.2.older.flatMap fun o => o.slots.map (·.folio)
  dedup ((s.indexes.flatMap fun p => ofGen p.2.cur ++ (match p.2.old with | some o => ofGen o.2 | none => []) ++
      (match p.2.next with | some o => ofGen o.2 | none => [])) ++
    (s.builds.flatMap fun b => ofGen b.gen) ++
    (s.staged.filterMap fun x => match x.item with | .locator _ _ _ _ _ f _ => some f | _ => none) ++
    (s.flash.left.filter fun x => !s.released x.2).map (·.1))

/-- Step 7: record folios without a record located in them are unmapped, but for the open ones, and the table folios of tables that are gone
(R264). -/
def State.sweepFolios (s : State) : State :=
  let held := s.located
  let dead := s.flash.folios.filter fun p =>
    if p.2.kind = 0 then p.2.closed.isSome && !held.contains p.1
    else (tget s.tables (objKey p.2.slot p.2.object)).isNone
  (dead.map (·.1)).foldl State.dropFolio (s.mapFlash fun f => { f with left := f.left.filter fun x => !s.released x.2 })

/-- Every version superseded six frames earlier or more released, and the folios that nothing locates any more. -/
def State.release6 (s : State) : State := s.releaseObjects.sweepFolios

/-- VERSION_RELEASE; COMMIT_WINDOW has done it when it comes first. -/
def execVersionRelease (s : State) : Answer := whenLive (fun s => s.clearFreed.release6) s

end Sys2Proof.Machine
end

