-- ==== Sys2Proof/Machine/Build.lean ====
section
/-! DEFINITION. Building an index anew (R85 to R87, R167, R168): the BUILD mailbox command, the BUILD window, and the end of a phase at
the commit window. -/

namespace Sys2Proof.Machine

/-! ### The items of LOAD (R344) -/

/-- Bytes of an item block: key, facet word, vector, payload row, padded to 64. -/
def blockBytes (a : IndexAttr) (vf : Nat) : Nat := ceilDiv (16 + vinBytes a vf + a.payloadLen) 64 * 64

/-- Item block i: key, facet word, stored vector, payload. -/
def itemBlock (a : IndexAttr) (vf : Nat) (bs : Bytes) (i : Nat) : Key × Nat × Bytes × Bytes :=
  let o := blockBytes a vf * i
  (BitVec.ofNat 64 (rd bs o 8), rd bs (o + 8) 8, storedVec a vf (slice bs (o + 16) (vinBytes a vf)),
   slice bs (o + 16 + vinBytes a vf) a.payloadLen)

/-- The items of a LOAD. -/
def loadItems (a : IndexAttr) (vf n : Nat) (bs : Bytes) : List (Key × Nat × Bytes × Bytes) := (List.range n).map (itemBlock a vf bs)

/-- An item block has the content of an UPSERT and meets the same conditions (R127, R166; DEDUCED, log entry 33). -/
def itemChecks (a : IndexAttr) (vf n : Nat) (bs : Bytes) : List (Bool × Nat) :=
  (List.range n).flatMap fun i =>
    let o := blockBytes a vf * i
    let x := itemBlock a vf bs i
    let bad := badElems (vinElem a vf) (vecElems a.fmt a.dim x.2.2.1)
    [(x.1 == padKey, o)] ++ (bad.map fun b => (b.1, b.2 - 0x1000 + o + 16)) ++
      [(bad.all (fun b => !b.1) && !vecOk a.fmt a.dim a.metric x.2.2.1, o + 16)]

/-! ### The mailbox command -/

def buildLayout : Layout := [(0x14, 0, 32), (0x18, 0, 3), (0x18, 8, 7), (0x18, 16, 2), (0x1C, 0, 25), (0x20, 0, 64), (0x28, 0, 48)]

/-- The build of an index. -/
def State.build? (s : State) (slot : Nat) (h : Handle) : Option Build := s.builds.find? fun b => b.slot == slot && b.object == h

/-- Whether a phase may follow what has been done (R85: issued in order): TRAIN_REGIONS begins anew, LOAD may be issued again and, where
the items come from other nodes' hosts, not at all (DEDUCED, log entry 33). -/
def phaseInOrder (b : Option Build) (phase : Nat) : Bool :=
  match b with
  | none => phase == 0
  | some x => !x.running && (phase == 0 || phase == x.phase + 1 || (phase == 1 && x.phase == 1) || (phase == 2 && x.phase == 0))

/-- The two buffers of an extended selection of n words (R168). -/
def selectionBytes (n : Nat) : Nat := 2 * (8 * max (min n 65536) 64)

/-- The centroids that a phase's k-means forms; 0 for a phase without one. -/
def phaseK (a : IndexAttr) (phase : Nat) : Nat := if phase = 0 then a.regions else if phase = 2 then a.listsInit else 0

/-- What is left while items are placed: the state (records), the rows in use and the generation. -/
structure PlaceRun where
  st   : State
  rows : List Nat
  gen  : IndexGen

/-- One item placed: its list by ROUTE_2, the lowest free row, its record (R70, R85, R133). -/
def placeItem (slot : Nat) (h : Handle) (x : Index) (r : PlaceRun) (i : Nat × Key × Nat × Bytes × Bytes) : PlaceRun :=
  let a := x.attr
  match (r.gen.chooseLists a.metric 1 i.1 newestVersion (sketchElems a.fmt a.dim i.2.2.2.1)).head? with
  | none => r
  | some l =>
    let p := r.st.placeRecord slot h a i.2.1 (recordOf a i.2.2.2.1 i.2.2.2.2 (rowSum a.fmt a.dim i.2.2.2.1))
    let row := lowestFree r.rows
    let sl := { newSlot a i.2.1 i.2.2.1 i.2.2.2.1 with row := row, pub := r.st.frame.num, due := r.st.frame.num, folio := p.1.1, record := p.1.2 }
    { st := p.2, rows := insNat row r.rows,
      gen := r.gen.mapList i.1 l fun il => { il with slots := il.slots ++ [sl], mainSlots := il.mainSlots + 1 } }

/-- Whether every main area keeps within R151. -/
def genFits (a : IndexAttr) (g : IndexGen) : Bool :=
  g.lists.all fun r => r.2.all fun l => decide (l.2.mainSlots ≤ 524288 - 16 * a.tipin)

/-- The items of build staging placed into a generation: its lists, the rows and the records. -/
def State.placement (s : State) (slot : Nat) (h : Handle) (x : Index) (b : Build) : PlaceRun :=
  b.staged.foldl (placeItem slot h x) { st := s, rows := x.rowsUsed, gen := b.gen }

/-- A generation whose regions are still empty: what BUILD begins with (R85). -/
def blankGen : IndexGen := { blank := some (0, 0, 0, 0), centroids := [], lists := [] }

/-- Logical folios that a channel's flash reservation still holds. -/
def State.folioRoom (s : State) (slot : Nat) (c : Chan) : Nat := c.flashAt.length * 2 ^ 20 - (s.foliosOf slot).length

/-- What the new generation asks of the reservations beyond what it has and the channel has not (R64, R85, R168): at its start the
region centroid table and the lists of every region held here; at PLACE the rows, the extents, list tables and key directories, and
the record folios of the staged items; and for k-means the buffers of its selections. -/
def buildShort (s : State) (slot : Nat) (c : Chan) (x : Index) (b : Option Build) (phase : Nat) : Bool :=
  let me := s.frame.logicalId
  let had := match b with | some y => genSpace me x.attr x.route y.gen | none => 0
  (phase == 0 && decide (s.sealedLeft slot c + had < genSpace me x.attr x.route blankGen)) ||
  (phase == 3 && (match b with
    | some y =>
      let r := s.placement slot y.object x y
      decide (x.attr.rows < r.rows.length) || decide (s.sealedLeft slot c + had < genSpace me x.attr x.route r.gen) ||
        decide (s.folioRoom slot c < (r.st.foliosOf slot).length - (s.foliosOf slot).length)
    | none => false)) ||
  (phaseK x.attr phase != 0 && decide (c.sectorBytes < selectionBytes (phaseK x.attr phase)))

/-- The conditions of R85 to R87, R167, R168 and R326, one row; the service state, the order and the reservations name PHASE and OBJECT
(DEDUCED, log entry 9). -/
def buildRow (g : Go) (s : State) (slot : Nat) (c : Chan) (x : Index) : CheckRow :=
  let phase := g.arg 0x18 0 3
  let iter := g.arg 0x18 8 7
  let vf := g.arg 0x18 16 2
  let n := g.arg 0x1C 0 25
  let b := s.build? slot (Go.object g)
  inv [g.strayArgs buildLayout,
    (buildShort s slot c x b phase, 0x14),
    (s.power.service == 0 || decide (4 < phase) || !phaseInOrder b phase, 0x18),
    (decide (64 < iter), 0x19),
    (phase == 1 && x.attr.fmt == 2 && vf != 3, 0x1A),
    (decide (phase ≤ 1) && (n == 0 || decide (2 ^ 24 < n) || (phase == 0 && decide (n < x.attr.regions))), 0x1C),
    (decide (phase ≤ 1) && (g.arg64 0x20 == 0 || g.arg64 0x20 % 64 != 0), 0x20),
    (phase == 4 && decide (g.arg 0x28 0 48 ≤ s.frame.num + 1), 0x28)]

/-- The checks of what DATA_ADDR points to: its read (R458), then the items. -/
def buildDataRows (g : Go) (a : IndexAttr) : List CheckRow :=
  [inv [(g.fail1.isSome, 0x1000 + g.fail1.getD 0)],
   inv (if g.arg 0x18 0 3 = 1 then (itemChecks a (g.arg 0x18 16 2) (g.arg 0x1C 0 25) g.ext1).map fun p => (p.1, 0x1000 + p.2) else [])]

/-- A build without anything made. -/
def Build.empty (slot : Nat) (h : Handle) : Build :=
  { slot := slot, object := h, phase := 0, iter := 20, since := 0, left := 0, total := 0, gen := { blank := none, centroids := [], lists := [] },
    staged := [], sample := [], items := [], running := false }

/-- Words that a phase's extended selections take in (R86, R168): in each iteration one for each sample, its distance from its own
centroid (DESIGN CHOICE, log entry 76). -/
def phaseWords (phase iter samples : Nat) : Nat := if phase = 0 ∨ phase = 2 then iter * samples else 1

/-- A build with a phase at work: its work is the words that its selections take in (R168), one unit for a phase without one. -/
def Build.begin (b : Build) (g : Go) (frame : Nat) (a : IndexAttr) : Build :=
  let phase := g.arg 0x18 0 3
  let n := g.arg 0x1C 0 25
  let iter := orDefault (g.arg 0x18 8 7) 20
  let b0 := if phase = 0 then Build.empty b.slot b.object else b
  let total := max 1 (phaseWords phase iter (if phase = 0 then n else b.staged.length))
  { b0 with
    phase := phase, iter := iter, since := frame, left := total, total := total, running := true
    sample := if phase = 0 then g.ext1.take (2 * a.dim * n) else []
    items := if phase = 1 then loadItems a (g.arg 0x18 16 2) n g.ext1 else [] }

/-- The rows of a placed generation that is built anew are free again. -/
def State.freeBuilt (s : State) (slot : Nat) (h : Handle) : State :=
  match s.build? slot h with
  | some b => s.mapIndex slot h fun x => { x with rowsUsed := x.rowsUsed.filter fun r => !b.gen.rows.contains r }
  | none => s

/-- A phase accepted. PUBLISH names the frame from which the generation waits in the index (R87). -/
def buildWork (g : Go) (slot : Nat) (x : Index) : MbBody := fun s =>
  let h := Go.object g
  let b := ((s.build? slot h).getD (Build.empty slot h)).begin g (s.acceptFrame g.cycle) x.attr
  let s0 := if b.phase = 0 then s.freeBuilt slot h else s
  let s1 := { s0 with builds := (s.builds.filter fun y => !(y.slot == slot && y.object == h)) ++ [b] }
  (if b.phase = 4 then s1.mapIndex slot h fun y => { y with next := some (g.arg 0x28 0 48, b.gen) } else s1, MbRes.ok)

/-- BUILD (R85 to R87). -/
def buildBody (g : Go) : MbBody := fun s =>
  withChan g (fun slot c s =>
    match s.index? slot (Go.object g) with
    | none => (s, { status := stNoObject })
    | some x =>
      match decideRows [buildRow g s slot c x] with
      | some p => (s, MbRes.refuse p)
      | none =>
        match decideRows (buildDataRows g x.attr) with
        | some p => (s, MbRes.invalidIn p.2 0x20)
        | none => buildWork g slot x s) s

def execBuildTrainRegions (g : Go) (s : State) : Answer := mailbox false 0x0037 g (buildBody g) s

def execBuildLoad (g : Go) (s : State) : Answer := mailbox false 0x0037 g (buildBody g) s

def execBuildTrainLists (g : Go) (s : State) : Answer := mailbox false 0x0037 g (buildBody g) s

def execBuildPlace (g : Go) (s : State) : Answer := mailbox false 0x0037 g (buildBody g) s

def execBuildPublish (g : Go) (s : State) : Answer := mailbox false 0x0037 g (buildBody g) s

/-! ### Arrivals -/

/-- A build changed. -/
def State.mapBuild (s : State) (slot : Nat) (h : Handle) (f : Build → Build) : State :=
  { s with builds := s.builds.map fun b => if b.slot = slot ∧ b.object = h then f b else b }

/-- An item put into build staging: one per region and key, keys ascending so that both holders have the same order (DESIGN CHOICE,
log entry 33). -/
def stageItem (l : List (Nat × Key × Nat × Bytes × Bytes)) (x : Nat × Key × Nat × Bytes × Bytes) : List (Nat × Key × Nat × Bytes × Bytes) :=
  insertBy (fun a b => decide (a.1 < b.1) || (decide (a.1 = b.1) && decide (a.2.1.toNat < b.2.1.toNat))) x
    (l.filter fun y => !(y.1 == x.1 && y.2.1 == x.2.1))

/-- What a BUILD window takes up. -/
def State.takeBuild (s : State) : Move → State
  | .staging slot h items => s.mapBuild slot h fun b => { b with staged := items.foldl stageItem b.staged }
  | .trained slot h region cs =>
    s.mapBuild slot h fun b =>
      { b with gen := { b.gen with lists := tput b.gen.lists region (cs.mapIdx fun i c => (i, IList.ofCentroid c)) } }
  | _ => s

/-- The slot of an arrival that a BUILD window consumes. -/
def buildSlot : Move → Option Nat
  | .staging n .. | .trained n .. => some n
  | _ => none

/-! ### The work of a phase -/

/-- The stored vectors staged for a region, in bf16, in their order. -/
def Build.samples (b : Build) (a : IndexAttr) (region : Nat) : List (List F16) :=
  (b.staged.filter fun x => x.1 == region).map fun x => (sketchElems a.fmt a.dim x.2.2.2.1).map toBf16

/-- The samples of TRAIN_REGIONS: bf16 vectors, back to back. -/
def Build.samplesIn (b : Build) (a : IndexAttr) : Nat := b.sample.length / max 1 (2 * a.dim)
def Build.regionSamples (b : Build) (a : IndexAttr) : List (List F16) :=
  (List.range (b.samplesIn a)).map fun i => words16 (slice b.sample (2 * a.dim * i) (2 * a.dim))

/-- The regions of an index whose primary a node is, or that it holds. -/
def Index.ledBy (x : Index) (me : Nat) : List Nat := (List.range x.route.length).filter fun r => rtPrimary (x.route.getD r 0) == me
def Index.heldBy (x : Index) (me : Nat) : List Nat := (List.range x.route.length).filter fun r => rtHolds (x.route.getD r 0) me

/-- Every region that a node leads has enough samples: S from K (R86). -/
def Build.enough (b : Build) (x : Index) (me : Nat) : Bool :=
  (x.ledBy me).all fun r => decide (x.attr.listsInit ≤ (b.staged.filter fun y => y.1 == r).length)

/-- Every region with staged items here has its lists. -/
def Build.trainedAll (b : Build) : Bool := (dedup (b.staged.map (·.1))).all fun r => !(b.gen.region r).isEmpty

/-- The words that the extended selections of a BUILD window take in: 100 per cycle in each sector whose cores it claims (R168). -/
def State.selectBudget (s : State) (e : EaselEntry) : Nat :=
  if hasBit e.engines 0 then 100 * e.length * popCount 16 (e.sectors &&& s.units.sectorsOn) else 0

/-- What a phase has made when its work is done. -/
def Build.made (b : Build) (x : Index) (me : Nat) : IndexGen :=
  let a := x.attr
  match b.phase with
  | 0 => { b.gen with centroids := (kmeans a.metric a.dim a.regions b.iter (b.regionSamples a)).mapIdx fun i c => (i, c) }
  | 2 => { b.gen with lists := if b.enough x me then
            (x.ledBy me).foldl (fun t r =>
              tput t r ((kmeans a.metric a.dim a.listsInit b.iter (b.samples a r)).mapIdx fun i c => (i, IList.ofCentroid c))) b.gen.lists
          else b.gen.lists }
  | _ => b.gen

/-- One phase's work in a BUILD window: a k-means goes on at the rate of its selections and resumes in the next window (R168); the spec
gives the other phases no rate, and one window is enough for them (DESIGN CHOICE, log entry 33). PLACE waits for the lists that primaries
send; PUBLISH waits for its frame. -/
def Build.work (b : Build) (x : Index) (me budget : Nat) : Build :=
  if !b.running then b
  else
    let left := match b.phase with
      | 0 | 2 => b.left - budget
      | 1 => 0
      | 3 => if b.trainedAll then 0 else b.left
      | _ => b.left
    { b with left := left, gen := if left = 0 then b.made x me else b.gen }

/-- The array jobs of a phase (R182): one per iteration of each k-means, counted in the phase's first window, and the sketches of
PLACE. -/
def Build.jobs (b : Build) (x : Index) (me : Nat) : List Job :=
  let a := x.attr
  let job := fun (n m : Nat) => ({ k := a.dim, n := n, m := m, e := 2, dram := false } : Job)
  if !b.running || b.left != b.total then []
  else match b.phase with
    | 0 => List.replicate b.iter (job a.regions (b.samplesIn a))
    | 2 => (x.ledBy me).flatMap fun r => List.replicate b.iter (job a.listsInit (b.staged.filter fun y => y.1 == r).length)
    | 3 => [{ job a.sketchBits b.staged.length with dram := true }]
    | _ => []

/-- One build of a channel in a BUILD window. -/
def State.buildOne (e : EaselEntry) (s : State) (b : Build) : State :=
  match s.index? b.slot b.object with
  | none => s
  | some x => (s.arrayWork e b.slot (b.jobs x s.frame.logicalId)).mapBuild b.slot b.object fun y =>
    y.work x s.frame.logicalId (s.selectBudget e)

/-- BUILD (R85, R167): arrivals are taken up, then the phases go on, in every service state but SERVICE. -/
def State.buildWindow (s : State) (e : EaselEntry) : State :=
  let isMine := fun (x : Nat × Msg) => match x.2 with | .move _ m => buildSlot m == some e.slot | _ => false
  let s1 := (s.inbox.filter isMine).foldl (fun acc x => match x.2 with | .move _ m => acc.takeBuild m | _ => acc)
    { s with inbox := s.inbox.filter fun x => !isMine x }
  if s1.power.service == 0 || (EaselEntry.arrayBits e != 0 && s1.arraysOf e == 0) then s1
  else ((s1.builds.filter fun b => b.slot == e.slot && b.running).foldl (State.buildOne e) s1).coreFree e.slot

/-- BUILD_WINDOW. -/
def execBuildWindow (n : Nat) (s : State) : Answer := inWindow n 0x23 (fun e s => s.buildWindow e) s

/-! ### The end of a phase -/

/-- The bytes of a region centroid table, in region order. -/
def centroidBytes (g : IndexGen) : Bytes := g.centroids.flatMap fun p => bytes16 p.2

/-- The record of a phase's end (R331): its status, or for TRAIN_REGIONS the SHA-256 of the centroid table (R86). -/
def State.logPhase (s : State) (b : Build) (status : Nat) : State :=
  s.logAdd 0x04 (s.handleAt b.slot) b.object.toNat b.phase (if b.phase = 0 then digest (centroidBytes b.gen) else status)

/-- The items of a LOAD sent to the build staging of their regions' holders (R85). -/
def State.sendItems (s : State) (b : Build) (x : Index) : State :=
  let at_ := b.items.filterMap fun i =>
    (b.gen.target x.attr.metric (sketchElems x.attr.fmt x.attr.dim i.2.2.1)).map fun r => (r, i)
  (dedup (at_.flatMap fun p => [rtPrimary (x.route.getD p.1 0), rtBuddy (x.route.getD p.1 0)])).foldl (fun acc n =>
    acc.postAt (acc.frame.num + 1) n b.slot (.move n (.staging b.slot b.object (at_.filter fun p => rtHolds (x.route.getD p.1 0) n)))) s

/-- The trained lists of the regions that this node leads sent to their buddies. -/
def State.sendLists (s : State) (b : Build) (x : Index) : State :=
  (x.ledBy s.frame.logicalId).foldl (fun acc r =>
    let buddy := rtBuddy (x.route.getD r 0)
    acc.postAt (acc.frame.num + 1) buddy b.slot
      (.move buddy (.trained b.slot b.object r ((b.gen.region r).map fun p => p.2.centroid)))) s

/-- PLACE carried out: rows and records are written, and the lists are whole. A list beyond R151 ends the phase with INVALID. -/
def State.placeAll (s : State) (b : Build) (x : Index) : State :=
  let r := s.placement b.slot b.object x b
  if genFits x.attr r.gen then
    ((r.st.mapIndex b.slot b.object fun y => { y with rowsUsed := r.rows }).mapBuild b.slot b.object fun y => { y with gen := r.gen, staged := [] }).logPhase
      b stOk
  else (s.mapBuild b.slot b.object fun y => { y with phase := 2 }).logPhase b stInvalid

/-- A phase that is not at work any more. -/
def State.restBuild (s : State) (b : Build) : State :=
  s.mapBuild b.slot b.object fun y => { y with running := false, sample := [], items := [] }

/-- The end of one build's phase at a commit window (R85): PUBLISH ends when its generation is in force. TRAIN_LISTS with too few samples
ends with INVALID and is to be issued again (DEDUCED, log entry 33). -/
def State.finishBuild (s : State) (b : Build) : State :=
  match s.index? b.slot b.object with
  | none => s
  | some x =>
    if !b.running then s
    else if b.phase = 4 then
      if x.next.isNone then { (s.logPhase b stOk) with builds := s.builds.filter fun y => !(y.slot == b.slot && y.object == b.object) } else s
    else if b.left != 0 then s
    else
      let s1 := s.restBuild b
      match b.phase with
      | 0 => s1.logPhase b stOk
      | 1 => (s1.sendItems b x).logPhase b stOk
      | 2 =>
        if b.enough x s.frame.logicalId then (s1.sendLists b x).logPhase b stOk
        else (s1.mapBuild b.slot b.object fun y => { y with phase := 1 }).logPhase b stInvalid
      | _ => s1.placeAll b x

/-- Every phase that has ended. -/
def State.finishBuilds (s : State) : State := s.builds.foldl State.finishBuild s

end Sys2Proof.Machine
end

