-- ==== Sys2Proof/Machine/Channels.lean ====
section
/-! DEFINITION. The mailbox commands of channels and of the mailbox itself: IDENTIFY, CHANNEL_CREATE, CHANNEL_DESTROY,
CHANNEL_RESET, an unlisted code, OVERRUN and MB_RESP; and step 5 of the commit window, which applies channel changes (R26, R334,
R360 to R363, R463). -/

namespace Sys2Proof.Machine

/-! ### IDENTIFY -/

/-- IDENTIFY writes the identity block to its buffer (R320, R325). -/
def identifyBody (g : Go) : MbBody := fun s =>
  checked ([inv [g.strayArgs []]] ++ g.outRows 256) (fun s =>
    (s.emit (.write g.pbAddr (s.identity g.fn)), MbRes.ok)) s

def execIdentify (g : Go) (s : State) : Answer := mailbox true 0x0001 g (identifyBody g) s

/-! ### CHANNEL_CREATE -/

/-- The named bits of the header (R336) and of a ring descriptor (R337). -/
def createLayout : Layout :=
  [(0, 0, 6), (0, 8, 7), (0, 16, 5), (0, 24, 8), (4, 0, 25), (8, 0, 9), (12, 0, 24), (16, 0, 29), (20, 0, 16), (24, 0, 192),
   (48, 0, 128), (64, 0, 16)]

def ringLayout : Layout := [(0, 0, 64), (8, 0, 64), (16, 0, 5), (16, 8, 6), (16, 16, 1)]

/-- A ring from its descriptor, with indices zero (R337, R338). -/
def ringOf (d : Bytes) : Ring :=
  { sqAddr := rd d 0 8, cqAddr := rd d 8 8, log2 := fld d 16 0 5, vector := fld d 16 8 6, intEn := flag d 16 16, sqTail := 0,
    sqHead := 0, cqTail := 0, cqHead := 0, phase := true, unread := 0, intDue := false, dead := false }

/-- The rings of a block. -/
def ringsOf (pb : Bytes) : List Ring := (List.range (fld pb 0 16 5)).map fun r => ringOf (slice pb (0x80 + 32 * r) 32)

/-- The conditions of ring descriptor r, which lies at 0x80 + 32 r. -/
def ringChecks (pb : Bytes) (r : Nat) : List (Bool × Nat) :=
  let d := slice pb (0x80 + 32 * r) 32
  let o := 0x1080 + 32 * r
  [(rd d 0 8 % 4096 != 0, o), (rd d 8 8 % 4096 != 0, o + 8), (fld d 16 0 5 < 4 || 16 < fld d 16 0 5, o + 16),
   (fld d 16 8 6 < 2, o + 17), stray o ringLayout d]

/-- RINGS out of range is named without a look at PB_LEN; else PB_LEN must be 128 + 32 × RINGS (R336). -/
def ringsRow (g : Go) : List (Bool × Nat) :=
  let n := fld g.pb 0 16 5
  if n = 0 ∨ 16 < n then [(true, 0x1002)]
  else (g.pbLen != 128 + 32 * n, 0x10) :: (List.range n).flatMap (ringChecks g.pb)

/-- Easel entries that name a slot in an image (R250). -/
def Easel.entriesOf (e : Easel) (slot : Nat) : Nat :=
  (e.entries.filter fun x => x.channel != 0xFF000000 && x.channel % 2 ^ 16 == slot).length

/-- The most entries for a slot in the easel in force or an armed image (R250). -/
def State.easelNeeds (s : State) (slot : Nat) : Nat :=
  let a := match s.easel.inForce with | some e => e.entriesOf slot | none => 0
  let b := match s.easel.arm, s.easel.standby with | some _, some e => e.entriesOf slot | _, _ => 0
  max a b

/-- The shares that the block asks for, in the order of R56. -/
def createShares (pb : Bytes) : List Nat := (List.range 6).map fun i => rd pb (0x18 + 4 * i) 4

/-- Shares held by the channels. -/
def State.sharesHeld (s : State) (i : Nat) : Nat := s.held fun c => c.shares.getD i 0

/-- Field ranges and what is free, one row (R336, R337, R249, R250; the fields named for bucket conflicts are DEDUCED, log
entry 9). -/
def createChecks (g : Go) (s : State) : List (Bool × Nat) :=
  let b := g.pb
  let fn := fld b 0 0 6
  let slot := fld b 0 8 7
  let swapped := flag b 0 24
  let sealed := fld b 12 0 16
  let opn := fld b 12 16 8
  let slip := fld b 8 0 9
  let gran := fld b 4 16 9
  ([stray 0x1000 createLayout (slice b 0 128),
   (s.host.vfs < fn, 0x1000),
   ((tget s.holders slot).isSome, 0x1001),
   (swapped && fld b 4 0 16 != 0, 0x1004),
   (256 < gran || (swapped && gran != 0) || !s.partFits none (fld b 4 0 16) gran, 0x1006),
   ((if swapped then slip == 0 || 256 < slip || sealed * 1024 < slip else slip != 0), 0x1008),
   (s.freeGroups.length < sealed, 0x100C),
   (128 < opn || s.openFree < opn || s.freeHigh.length < opn + 4 * sealed, 0x100E),
   (s.flashTotal - s.held (·.flashGran) < fld b 16 0 16, 0x1010),
   (4096 - s.held (·.easelSlots) < fld b 16 16 13 || fld b 16 16 13 < s.easelNeeds slot, 0x1012),
   (s.gateTotal - s.held (·.gateGran) < fld b 20 0 16, 0x1014),
   (rd b 0x34 4 < rd b 0x30 4, 0x1034),
   (rd b 0x38 4 < rd b 0x30 4, 0x1038),
   (rd b 0x3C 4 < rd b 0x38 4, 0x103C)] : List (Bool × Nat)) ++
  (List.range 6).map fun i => (decide (s.caps.getD i 0 - s.sharesHeld i < (createShares b).getD i 0), 0x1018 + 4 * i)

/-- The next generation of a slot: 1 at first, then one more, from 255 back to 1 (R332). -/
def nextGen : Option Nat → Nat
  | none => 1
  | some n => if n = 255 then 1 else n + 1

/-- The channel that the block creates, ACTIVE, with empty rings and full buckets (R337). -/
def chanFrom (b : Bytes) (gen : Nat) (sealedAt openAt flashAt : List Nat) : Chan :=
  let rwa : Rwa := { swapped := flag b 0 24, partGran := fld b 4 16 9, slipGran := fld b 8 0 9 }
  let bk : Bucket := { cir := rd b 0x30 4, cbs := rd b 0x34 4, pir := rd b 0x38 4, pbs := rd b 0x3C 4, overhead := fld b 0x40 0 16 }
  { fn := fld b 0 0 6, gen := gen, st := .active, rings := ringsOf b, rwa := rwa, pend := rwa,
    fetchSpan := if flag b 0 25 then 2 else 1, encrypt := flag b 0 26, partSectors := fld b 4 0 16, deferMax := fld b 0 28 4,
    police := flag b 0 27, bucket := bk, bucketNext := bk, cTok := bk.cbs, pTok := bk.pbs, policed := 0, discards := 0,
    refusedW := false, sealedAt := sealedAt, openAt := openAt, openUsed := 0, flashGran := fld b 16 0 16, flashAt := flashAt,
    easelSlots := fld b 16 16 13, gateGran := fld b 20 0 16, shares := createShares b, homeUsed := List.replicate 6 0,
    ownUsed := List.replicate 6 0, reissues := [], faultAt := [], faults := 0, lastCause := 0, key := none, keyBytes := [],
    checkValue := none, volatile := [], part := [], slipcase := [], pool := [] }

/-- The lowest granules of logical folio numbers that no channel holds (R277; which ones is a DESIGN CHOICE, log entry 85). -/
def State.freeRuns (s : State) (n : Nat) : List Nat :=
  let held := s.holders.flatMap fun p => p.2.flashAt
  ((List.range (held.length + n)).filter fun r => !held.contains r).take n

/-- CHANNEL_CREATE grants every reservation at acceptance, or none; the channel exists from step 5 (R249, R26). -/
def createWork (g : Go) : MbBody := fun s =>
  let b := g.pb
  let slot := fld b 0 8 7
  let gs := s.freeGroups.take (fld b 12 0 16)
  let s1 := s.setKinds (gs.flatMap fun u => [u, u + 1, u + 2, u + 3]) (.sealed slot)
  let os := s1.freeHigh.take (fld b 12 16 8)
  let s2 := s1.setKinds os (.opened slot)
  let gen := nextGen (tget s.boot.slotGen slot)
  let c := chanFrom b gen gs os.reverse (s.freeRuns (fld b 16 0 16))
  ({ s2 with changes := s2.changes ++ [.create slot c g.fn], boot := { s2.boot with slotGen := tput s2.boot.slotGen slot gen } },
   { handle := (chanHandle slot c).toNat, later := true })

def channelCreateBody (g : Go) : MbBody := fun s =>
  checked ([g.pfOnly, inv [g.strayArgs []]] ++ g.pbRows 128 ++ [inv (ringsRow g ++ createChecks g s)]) (createWork g) s

def execChannelCreate (g : Go) (s : State) : Answer := mailbox false 0x0010 g (channelCreateBody g) s

/-! ### CHANNEL_DESTROY and CHANNEL_RESET -/

/-- CHANNEL_DESTROY is accepted in every state of the channel (R333) and takes effect at step 5. -/
def channelDestroyBody (g : Go) : MbBody := fun s =>
  checked [g.pfOnly, inv [g.strayArgs []]] (fun s =>
    match s.chanOf g.fn g.chan with
    | none => (s, { status := stNoObject })
    | some (slot, _) => ({ s with changes := s.changes ++ [.destroy slot g.fn] }, { later := true })) s

def execChannelDestroy (g : Go) (s : State) : Answer := mailbox false 0x0011 g (channelDestroyBody g) s

/-- Only RINGS and the ring descriptors are used; every other header field is zero (R338). -/
def resetChecks (g : Go) : List (Bool × Nat) := [stray 0x1000 [(0, 16, 5)] (slice g.pb 0 128)]

def channelResetBody (g : Go) : MbBody := fun s =>
  checked [inv [g.strayArgs []]] (withChan g fun slot _ =>
    checked (g.pbRows 128 ++ [inv (ringsRow g ++ resetChecks g)]) fun s =>
      ({ s with changes := s.changes ++ [.reset slot (ringsOf g.pb) g.fn] }, { later := true })) s

def execChannelReset (g : Go) (s : State) : Answer := mailbox false 0x0012 g (channelResetBody g) s

/-! ### The mailbox itself -/

/-- An unlisted code completes INVALID, naming CODE (R325). -/
def execMbUnlistedCode (g : Go) (code : Nat) (s : State) : Answer :=
  mailbox true code g (fun s => (s, MbRes.refuse (stInvalid, 0x00))) s

/-- GO while BUSY = 1 is ignored and sets OVERRUN (R324); when BUSY is 0 no such event exists (log entry 1). -/
def execOverrun (fn : Nat) (s : State) : Answer :=
  .next (if (s.mb fn).busy then s.setMb fn { s.mb fn with overrun := true } else s)

/-- The end of a command's work: MB_RESP is written in full, DONE is set and vector 0 raised (R323, R324). -/
def execMbResp (fn : Nat) (s : State) : Answer :=
  .next (match (s.mb fn).ready with
    | some r =>
      (s.setMb fn { s.mb fn with resp := r, ready := none, busy := false, done := true }).emit (.msix fn 0)
    | none => s)

/-! ### Step 5 of the commit window -/

/-- Every object of a slot discarded and its reservations released: the units become ZEROING (R71, R226, R249). -/
def State.release (s : State) (slot : Nat) (c : Chan) : State :=
  let keep := fun (k : Nat) => k / 2 ^ 32 != slot
  let s1 := s.setKinds (c.sealedAt.flatMap (fun u => [u, u + 1, u + 2, u + 3]) ++ c.openAt) .zeroing
  { s1 with
    indexes := s1.indexes.filter fun p => keep p.1
    sets := s1.sets.filter fun p => keep p.1
    tables := s1.tables.filter fun p => keep p.1
    graphs := s1.graphs.filter fun p => keep p.1
    streams := s1.streams.filter fun x => x.slot != slot
    migs := s1.migs.filter fun x => x.slot != slot
    builds := s1.builds.filter fun x => x.slot != slot
    listOps := s1.listOps.filter fun x => x.slot != slot
    staged := s1.staged.filter fun x => match x.item with
      | .slot n .. | .tomb n .. | .bit n .. | .row n .. | .rewrite n .. | .locator n .. => n != slot
    updIn := s1.updIn.filter fun x => x.2.slot != slot
    heldUpd := s1.heldUpd.filter fun x => x.2.slot != slot
    took := s1.took.filter fun x => x.1.slot != slot
    durs := s1.durs.filter fun x => x.slot != slot
    flash := { (((s1.foliosOf slot).foldl State.dropFolio s1).flash) with
                 jPending := ((s1.foliosOf slot).foldl State.dropFolio s1).flash.jPending.filter (fun e => e.slot != slot || e.typ == 6 || e.typ == 8)
                 heldKey := s1.flash.heldKey.filter fun e => e.slot != slot } }

/-- The commands and owner work of a slot at this node discarded, with no completion (R363). -/
def State.dropWork (s : State) (slot : Nat) : State :=
  { s with landings := s.landings.filter fun l => l.slot != slot
           work := s.work.filter fun w => w.slot != slot || w.wrote.isSome
           ownerQs := s.ownerQs.filter fun q => q.sc.slot != slot || q.sc.home != s.frame.logicalId
           ownerFs := s.ownerFs.filter fun q => q.slot != slot || q.home != s.frame.logicalId }

/-- Faults of the last 65,536 frames with this one (R362). -/
def Chan.recentFaults (c : Chan) (frame : Nat) : List Nat := (c.faultAt.filter fun f => decide (frame < f + 65536)) ++ [frame]

/-- The state a counted fault leaves: the fourth within 65,536 frames retires the channel (R362). -/
def Chan.afterFault (c : Chan) (frame cause : Nat) (deadRings : List Nat) : Chan :=
  { c with st := if 4 ≤ (c.recentFaults frame).length then .retired else .faulted
           faultAt := c.recentFaults frame, faults := min (c.faults + 1) 0xFFFF, lastCause := cause
           rings := c.rings.mapIdx fun i r => if deadRings.contains i then { r with dead := true } else r }

/-- A channel's faults of one frame applied as one: the lowest cause (R360, R362). Outstanding commands of a channel that
was ACTIVE complete CHANNEL_FAULT in the next frame; those of a DETACHED channel are dropped. -/
def State.applyFault (s : State) (slot : Nat) (causes : List (Nat × Nat)) : State :=
  match tget s.chans slot with
  | none => s
  | some c =>
    if c.st = .faulted ∨ c.st = .retired then s
    else
      let cause := causes.foldl (fun m p => min m p.1) 255
      let dead := (causes.filter fun p => p.1 ≤ 2).map (·.2)
      let c' := c.afterFault s.frame.num cause dead
      let ring := ((causes.find? fun p => p.1 == cause).getD (0, 0)).2
      let data := if cause = 4 then ring * 2 ^ 64 else ring
      let s1 := { s with chans := tput s.chans slot c' }
      let s2 := s1.logAdd 0x09 (chanHandle slot c).toNat 0 cause data
      let s3 := if c'.st = .retired then (s2.raiseChan 0x04 slot cause 0 0).faultRecordOf (chanHandle slot c).toNat 0 15 slot 1 0 else s2
      if c.st = .active then
        { s3 with work := s3.work.map fun w =>
            if w.slot = slot ∧ w.open then
              { w with done := some { w.outcome s stFault with frame := w.adm.getD (s.frame.num + 1) },
                       elig := s.frame.num + 1 }
            else w }
      else { s3 with work := s3.work.filter fun w => w.slot != slot || w.wrote.isSome,
                     landings := s3.landings.filter fun l => l.slot != slot }

/-- Mailbox registers at their defaults (R438); a command at work goes on. -/
def Mailbox.cleared (m : Mailbox) : Mailbox := { Mailbox.zero with busy := m.busy, ready := m.ready, waiting := m.waiting }

/-- A reset installs the new rings, clears the partition, fills the buckets and sets the channel ACTIVE (R338, R47); a
channel that a fault retired at this step stays RETIRED and the response carries CHANNEL_FAULT (R463). -/
def State.applyReset (s : State) (slot : Nat) (rings : List Ring) (fn : Nat) : State :=
  match tget s.chans slot with
  | none => s.mbEnd fn id
  | some c =>
    if c.st = .retired then s.mbEnd fn fun r => { r with status := stFault }
    else
      let c' := { c with rings := rings, part := [], cTok := c.bucket.cbs, pTok := c.bucket.pbs, st := .active }
      let s1 := s.setMb c.fn (Mailbox.cleared (s.mb c.fn))
      ({ s1.dropWork slot with chans := tput s1.chans slot c' }).mbEnd fn id

/-- A destroy discards the channel, its objects and its work, and releases its reservations (R249, R363). -/
def State.applyDestroy (s : State) (slot fn : Nat) : State :=
  match tget s.chans slot with
  | none => s.mbEnd fn id
  | some c =>
    let s1 := (s.release slot c).dropWork slot
    ({ s1 with chans := tdel s1.chans slot, accts := tdel s1.accts slot }).mbEnd fn id

/-- A creation: the channel is there from the next frame, its counters at zero (R356). -/
def State.applyCreate (s : State) (slot : Nat) (c : Chan) (fn : Nat) : State :=
  ({ s with chans := tput s.chans slot c,
            accts := tput s.accts slot { Acct.zero with first := s.frame.num } }).mbEnd fn id

/-- One queued change other than a fault. -/
def State.applyChange (s : State) : ChanChange → State
  | .create slot c fn => s.applyCreate slot c fn
  | .destroy slot fn => s.applyDestroy slot fn
  | .reset slot rings fn => s.applyReset slot rings fn
  | .fault _ _ _ => s
  | .detach slot => s.detach slot

/-- The causes queued for a slot. -/
def faultCauses (l : List ChanChange) (slot : Nat) : List (Nat × Nat) :=
  l.filterMap fun c => match c with | .fault n cause ring => if n = slot then some (cause, ring) else none | _ => none

/-- Whether a destroy of a slot is queued. -/
def destroyQueued (l : List ChanChange) (slot : Nat) : Bool :=
  l.any fun c => match c with | .destroy n _ => n == slot | _ => false

/-- Slots with a fault queued and no destroy: with a destroy of the same frame the destroy takes effect (R362). -/
def faultSlots (l : List ChanChange) : List Nat :=
  (List.range 128).filter fun n => !(faultCauses l n).isEmpty && !destroyQueued l n

/-- Step 5: faults first (R463), then the other changes in the order accepted. -/
def State.applyChanges (s : State) : State :=
  let l := s.changes
  let s1 := (faultSlots l).foldl (fun acc n => acc.applyFault n (faultCauses l n)) { s with changes := [] }
  l.foldl State.applyChange s1

end Sys2Proof.Machine
end

