-- ==== Sys2Proof/Machine/ScanTime.lean ====
section
/-! DEFINITION. The time of a frame's SCAN work (R155 to R160): lists go to tiles, tiles run passes, mergers merge what the cores
kept, and cores are sent back over their slots. It depends on the inputs, the data and the easel alone (R43), so the queries that are
not finished when the last SCAN window ends are known at the commit window. -/

namespace Sys2Proof.Machine

/-! ### Windows and tiles -/

/-- The SCAN windows of a slot that have run in the frame, in order: entry number and entry. -/
def State.scanWindows (s : State) (slot : Nat) : List (Nat × EaselEntry) :=
  match s.easel.inForce with
  | none => []
  | some ea => (s.frame.ran.filterMap fun n => (ea.entries[n]?).map fun e => (n, e)).filter fun p =>
      p.2.stage == 0x05 && p.2.slot == slot

/-- The cycles in which a tile works, start and end of each window whose mask names its sector. -/
def tileSpans (ws : List (Nat × EaselEntry)) (tile : Nat) : List (Nat × Nat) :=
  (ws.filter fun w => hasBit w.2.sectors (tile / 100)).map fun w => (w.2.start, w.2.start + w.2.length)

/-- The end of n cycles of work that begins no sooner than t and lies within one window (R46: nothing is carried from one
window into the next); none when no window has room. -/
def placeIn (spans : List (Nat × Nat)) (t n : Nat) : Option Nat :=
  spans.findSome? fun w => if max t w.1 + n ≤ w.2 then some (max t w.1 + n) else none

/-- Triples in ascending order. -/
def tripleLt (a b : Nat × Nat × Nat) : Bool :=
  decide (a.1 < b.1) || (a.1 == b.1 && (decide (a.2.1 < b.2.1) || (a.2.1 == b.2.1 && decide (a.2.2 < b.2.2))))

/-- A list of the list set (R155): its tile, the first cycle at which it may start, and the passes over it, in order. -/
structure ScanList where
  tile   : Nat
  start  : Nat
  passes : List (List ScanPart)

/-- The list set of a slot: each window appends the triples of the probes that it takes. -/
def State.listSet (s : State) (slot : Nat) : List ScanList :=
  let parts := s.scanParts.filter fun p => p.slot == slot
  (s.scanWindows slot).foldl (fun (acc : List ScanList) w =>
    let mine := parts.filter fun p => p.entry == w.1
    let tiles := s.tilesOf w.2.sectors
    let triples := sortBy tripleLt (dedup (mine.map (·.list)))
    acc ++ triples.mapIdx fun i t =>
      { tile := tiles.getD ((acc.length + i) % max 1 tiles.length) 0, start := w.2.start,
        passes := passesOf (mine.filter fun p => p.list == t) [] 0 }) []

/-! ### Passes -/

/-- The length of a pass: that of its slowest core (R158). -/
def passLength (ps : List ScanPart) : Nat :=
  match ps with
  | [] => 0
  | p :: _ => (List.range 16).foldl (fun m i => max m (passCycles p.lines ps.length p.b (ps.map fun y => y.batch.getD i 0).sum)) 0

/-- A pass with its tile and the cycle at which it ends. -/
structure PassRun where
  tile  : Nat
  stop  : Nat
  parts : List ScanPart

/-- The passes of one tile in order, until one finds no room. -/
def runTile (spans : List (Nat × Nat)) (tile : Nat) : Nat → List (Nat × List ScanPart) → List PassRun
  | _, [] => []
  | t, (start, ps) :: rest =>
    match placeIn spans (max t start) (passLength ps) with
    | none => []
    | some e => { tile := tile, stop := e, parts := ps } :: runTile spans tile e rest

/-- Every pass of a slot that ends in a window, in ascending end. -/
def passRuns (ws : List (Nat × EaselEntry)) (ls : List ScanList) : List PassRun :=
  let runs := (dedup (ls.map (·.tile))).flatMap fun tile =>
    runTile (tileSpans ws tile) tile 0 ((ls.filter fun l => l.tile == tile).flatMap fun l => l.passes.map fun p => (l.start, p))
  sortBy (fun a b => decide (a.stop < b.stop)) runs

/-! ### Keep lists and refills (R153, R160) -/

/-- A query and region: home, sequence, object, region. -/
abbrev ScanKey := Nat × Nat × Nat × Nat

/-- The region that a part belongs to. -/
def ScanPart.key (p : ScanPart) : ScanKey := (p.query.1, p.query.2, p.list.1, p.list.2.1)

/-- The words of one core over one list: the part, the core, the words in slot order, ascending, and how often the keep list has been
refilled. -/
structure CoreKeep where
  part  : ScanPart
  core  : Nat
  raw   : List Nat
  asc   : List Nat
  level : Nat

/-- The keep list: the 64 words after those of the lists before it. -/
def CoreKeep.keep (k : CoreKeep) : List Nat := (k.asc.drop (64 * k.level)).take 64

/-- The keep lists of a query and region after its passes, lists and cores ascending. -/
def keepsOf (parts : List ScanPart) (key : ScanKey) : List CoreKeep :=
  (sortBy (fun a b => decide (a.list.2.2 < b.list.2.2)) (parts.filter fun p => p.key == key)).flatMap fun p =>
    p.words.mapIdx fun i ws => { part := p, core := i, raw := ws, asc := sortBy (fun a b => decide (a < b)) ws, level := 0 }

/-- The bound of R160: the last of the n smallest words of all the keep lists so far. -/
def keepBound (n : Nat) (ks : List CoreKeep) : Nat :=
  ((sortBy (fun a b => decide (a < b)) (ks.flatMap fun k => k.asc.take (64 * (k.level + 1))))[n - 1]?).getD 0xFFFFFFFFFFFFFFFF

/-- F of R160: full keep lists whose last word is below the bound; none with n up to 64. -/
def mustRefill (n : Nat) (ks : List CoreKeep) (k : CoreKeep) : Bool :=
  decide (64 < n) && k.keep.length == 64 && decide (k.keep.getLast?.getD 0 < keepBound n ks)

/-- A round of the loop: the keep lists of F refilled. -/
def refillRound (n : Nat) (ks : List CoreKeep) : List CoreKeep :=
  ks.map fun k => if mustRefill n ks k then { k with level := k.level + 1 } else k

/-- The keep lists that round r sends back. -/
def refillsAt (parts : List ScanPart) (key : ScanKey) (n r : Nat) : List CoreKeep :=
  let ks := Nat.repeat (refillRound n) r (keepsOf parts key)
  ks.filter (mustRefill n ks)

/-- Cycles of a refill (R158 with Q = 1): of the words above the keep list's last one. -/
def CoreKeep.cycles (k : CoreKeep) : Nat :=
  let last := k.keep.getLast?.getD 0
  passCycles k.part.lines 1 k.part.b (batchCycles 64 (stagedWords 64 (k.raw.filter fun w => decide (last < w))))

/-! ### Merges (R159, R160) -/

/-- A region merge that is ready: its query and region, the tile whose merger takes it, when, its merges, and the rounds of refills
before it. -/
structure RegionMerge where
  key    : ScanKey
  tile   : Nat
  ready  : Nat
  merges : Nat
  cost   : Nat
  round  : Nat

/-- A refill that waits: its tile, the earliest cycle, its place in the order of R160, its cycles, and the merge that comes after. -/
structure Refill where
  tile   : Nat
  ready  : Nat
  order  : Nat × Nat × Nat
  cycles : Nat
  next   : RegionMerge

/-- What the mergers and the refilling cores have done: when each is free, the list results, the region merges and refills that wait, the
regions finished, the cycles of the refills made. -/
structure MergeRun where
  free    : Tbl Nat
  cores   : Tbl Nat
  results : List (ScanKey × Nat × Nat)
  waiting : List RegionMerge
  refills : List Refill
  finished : List ScanKey
  spent   : Nat

/-- A row of equal merges on one merger, each within a window; none when one finds no room. -/
def runMerges (spans : List (Nat × Nat)) (cost : Nat) : Nat → Nat → Option Nat
  | 0, t => some t
  | n + 1, t => (placeIn spans t cost).bind (runMerges spans cost n)

/-- The list results of a region are all there: its merge waits on the lead tile, that of its lowest-numbered list. -/
def MergeRun.regionReady (r : MergeRun) (parts : List ScanPart) (tileOf : Nat × Nat × Nat → Nat) (p : ScanPart) : MergeRun :=
  let lists := sortBy (fun a b => decide (a < b)) ((parts.filter fun x => x.key == p.key).map fun x => x.list.2.2)
  let got := r.results.filter fun x => x.1 == p.key
  if got.length < lists.length then r
  else { r with waiting := r.waiting ++
    [{ key := p.key, tile := tileOf (p.list.1, p.list.2.1, lists.headD 0), ready := got.foldl (fun m x => max m x.2.2) 0,
       merges := lists.length - 1, cost := mergeCycles p.c, round := 0 }] }

/-- The sixteen keep lists of each query of a pass merged, 15 merges a query, in the order of the pass. -/
def MergeRun.pass (spans : List (Nat × Nat)) (parts : List ScanPart) (tileOf : Nat × Nat × Nat → Nat) (r : MergeRun) (q : PassRun) :
    MergeRun :=
  q.parts.foldl (fun r p =>
    match runMerges spans (mergeCycles p.c) 15 (max q.stop (tgetD r.free q.tile 0)) with
    | none => r
    | some e => MergeRun.regionReady { r with free := tput r.free q.tile e, results := r.results ++ [(p.key, p.list.2.2, e)] } parts tileOf p) r

/-- The place of a query and region in probe order. -/
def probePlace (parts : List ScanPart) (key : ScanKey) : Nat := (parts.findIdx? fun p => p.key == key).getD parts.length

/-- A region merge on its lead tile, and the refills that it sends back: each on the tile that scanned its list, once that tile has
finished its passes. -/
def MergeRun.region (ws : List (Nat × EaselEntry)) (parts : List ScanPart) (tileOf : Nat × Nat × Nat → Nat) (r : MergeRun)
    (m : RegionMerge) : MergeRun :=
  match runMerges (tileSpans ws m.tile) m.cost m.merges (max m.ready (tgetD r.free m.tile 0)) with
  | none => r
  | some e =>
    let r1 := { r with free := tput r.free m.tile e }
    let n := ((parts.find? fun p => p.key == m.key).map (·.c)).getD 0
    let back := refillsAt parts m.key n m.round
    if back.isEmpty then { r1 with finished := r1.finished ++ [m.key] }
    else { r1 with refills := r1.refills ++ back.map fun k =>
      { tile := tileOf k.part.list, ready := e, order := (probePlace parts m.key, k.part.list.2.2, k.core), cycles := k.cycles,
        next := { m with merges := back.length, round := m.round + 1 } } }

/-- The region merge that waits and became ready first; a tie goes to the earlier in probe order. -/
def MergeRun.first (parts : List ScanPart) (r : MergeRun) : Option RegionMerge :=
  let before := fun (a b : RegionMerge) => decide (a.ready < b.ready) ||
    (a.ready == b.ready && decide (probePlace parts a.key < probePlace parts b.key))
  (sortBy before r.waiting).head?

/-- When a refill can start. -/
def Refill.start (r : MergeRun) (x : Refill) : Nat := max x.ready (tgetD r.cores x.tile 0)

/-- The refill that starts first; those of one tile that could start at one cycle go in ascending (query, region, list, core). -/
def MergeRun.nextRefill (r : MergeRun) : Option Refill :=
  (sortBy (fun a b => decide (Refill.start r a < Refill.start r b) || (Refill.start r a == Refill.start r b && tripleLt a.order b.order))
    r.refills).head?

/-- One refill made; after the last of its round the merge of M repeats. -/
def MergeRun.refill (ws : List (Nat × EaselEntry)) (r : MergeRun) (x : Refill) : MergeRun :=
  let rest := r.refills.filter fun y => !(y.tile == x.tile && y.order == x.order)
  match placeIn (tileSpans ws x.tile) (Refill.start r x) x.cycles with
  | none => { r with refills := rest }
  | some e =>
    let later := rest.map fun y => if y.next.key = x.next.key then { y with next := { y.next with ready := max y.next.ready e } } else y
    let r1 := { r with refills := later, cores := tput r.cores x.tile e, spent := r.spent + x.cycles }
    if later.any fun y => y.next.key == x.next.key then r1
    else { r1 with waiting := r1.waiting ++ [{ x.next with ready := max x.next.ready e }] }

/-- The mergers' work in ascending time: `fuel` bounds the passes, region merges and refills together. A pass that ends no later than a
region merge is ready goes to the merger first: R160 orders region merges among themselves alone (DESIGN CHOICE, log entry 76). -/
def mergeAll (ws : List (Nat × EaselEntry)) (parts : List ScanPart) (tileOf : Nat × Nat × Nat → Nat) : Nat → MergeRun → List PassRun → MergeRun
  | 0, r, _ => r
  | fuel + 1, r, qs =>
    let passFirst := fun (q : PassRun) => (match r.first parts with | some m => decide (q.stop ≤ m.ready) | none => true) &&
      (match r.nextRefill with | some x => decide (q.stop ≤ Refill.start r x) | none => true)
    let other := fun (_ : Unit) =>
      match r.first parts, r.nextRefill with
      | none, none => r
      | some m, none => MergeRun.region ws parts tileOf { r with waiting := r.waiting.filter fun x => x.key != m.key } m
      | none, some x => r.refill ws x
      | some m, some x =>
        if m.ready ≤ Refill.start r x then
          MergeRun.region ws parts tileOf { r with waiting := r.waiting.filter fun x => x.key != m.key } m
        else r.refill ws x
    match qs with
    | q :: rest =>
      if passFirst q then mergeAll ws parts tileOf fuel (r.pass (tileSpans ws q.tile) parts tileOf q) rest
      else mergeAll ws parts tileOf fuel (other ()) (q :: rest)
    | [] => if r.waiting.isEmpty && r.refills.isEmpty then r else mergeAll ws parts tileOf fuel (other ()) []

/-- The mergers' work of a slot's SCAN in this frame. The refills of a part are at most one for each 64 words of a core. -/
def State.scanRun (s : State) (slot : Nat) : MergeRun :=
  let parts := s.scanParts.filter fun p => p.slot == slot
  let ws := s.scanWindows slot
  let ls := s.listSet slot
  let tileOf := fun (t : Nat × Nat × Nat) =>
    match ls.find? fun l => l.passes.any fun ps => ps.any fun p => p.list == t with | some l => l.tile | none => 0
  let runs := passRuns ws ls
  let words := (parts.map fun p => (p.words.map (·.length)).sum).sum
  mergeAll ws parts tileOf (2 * (parts.length + words) + 1)
    { free := [], cores := (dedup (runs.map (·.tile))).map fun t => (t, ((runs.filter fun q => q.tile == t).map (·.stop)).foldl max 0),
      results := [], waiting := [], refills := [], finished := [], spent := 0 } runs

/-- The queries (home, sequence) of a slot whose SCAN is not finished when its last window ends (R155, R43). -/
def State.scanLate (s : State) (slot : Nat) : List (Nat × Nat) :=
  let done := (s.scanRun slot).finished
  dedup (((s.scanParts.filter fun p => p.slot == slot).filter fun p => !done.contains p.key).map (·.query))

end Sys2Proof.Machine
end

