-- ==== Sys2Proof/Machine/Flash.lean ====
section
/-! DEFINITION. The flash subsystem (R251 to R280): places and blocks, FLASH_BACKGROUND work in the order of R266, the ends of
reads, programs and erases, timeouts and retirement. -/

namespace Sys2Proof.Machine

/-! ### Places -/

/-- Folio places of a block (R255): one for each page of a plane with four planes, half as many with two. -/
def Flash.perBlock (f : Flash) : Nat := if f.profile.planes = 4 then f.profile.pages else f.profile.pages / 2

/-- Blocks of a die: those of 250 GB of data area (R253). -/
def Flash.dieBlocks (f : Flash) : Nat := 250000000000 / (65536 * max 1 f.perBlock)

/-- Blocks of a die's SLC buffer (R263): the lowest-numbered ones (DESIGN CHOICE, log entry 23). -/
def Flash.slcBlocks (f : Flash) : Nat := f.dieBlocks * f.slcPct / 100

/-- The number by which a block is kept: die × 2^22 + block (R389). -/
def blockKey (die block : Nat) : Nat := die * 2 ^ 22 + block

def Flash.block (f : Flash) (die b : Nat) : Block := tgetD f.blocks (blockKey die b) { erases := 0, reads := 0, next := 0, retired := false, checked := [] }

/-- A block changed. -/
def Flash.mapBlock (f : Flash) (die b : Nat) (g : Block → Block) : Flash :=
  { f with blocks := tput f.blocks (blockKey die b) (g (f.block die b)) }

/-- The die of a folio when it is first written (R262). -/
def Flash.dieOf (f : Flash) (folio : Nat) : Nat :=
  let live := (List.range f.dies).filter fun d => !f.deadDies.contains d
  tgetD f.dieSlot (folio % 4096) (live.getD (folio % 4096 % max 1 live.length) 0)

/-- The blocks of a die that the table lists. -/
def Flash.listed (f : Flash) (die : Nat) : List (Nat × Block) :=
  (f.blocks.filter fun p => p.1 / 2 ^ 22 == die).map fun p => (p.1 % 2 ^ 22, p.2)

/-- The dies of a quire group that remain (R269, R271). -/
def Flash.groupDies (f : Flash) (g : Nat) : List Nat :=
  ((List.range 16).map (16 * g + ·)).filter fun d => decide (d < f.dies) && !f.deadDies.contains d

/-- The dies of the stripe that a die's page at a position joins: those of an open stripe that still wants it, else of the group now
(R271). -/
def Flash.stripeDies (f : Flash) (die : Nat) (slc : Bool) (pos : Nat) : List Nat :=
  match f.stripes.find? fun t => t.group == die / 16 && t.slc == slc && t.pos == pos && !t.parity && t.dies.contains die &&
      !(t.pages.any fun p => p.1 == die) with
  | some t => t.dies
  | none => f.groupDies (die / 16)

/-- The die whose page at a position is the parity page (R269, R271); a group with fewer than 4 dies keeps no parity. -/
def parityDie (dies : List Nat) (pos : Nat) : Option Nat :=
  if dies.length < 4 then none else some (dies.getD (pos % dies.length) 0)

/-- The place from n on that takes data: the place of the parity page takes none (R269). A position is a folio place of a block, also with
two planes (DESIGN CHOICE, log entry 23). -/
def Flash.placeFrom (f : Flash) (die : Nat) (slc : Bool) (n : Nat) : Nat :=
  if parityDie (f.stripeDies die slc n) n = some die then n + 1 else n

/-- Whether a block of an area takes no more folios. -/
def Flash.isFull (f : Flash) (die b : Nat) : Bool := decide (f.perBlock ≤ f.placeFrom die (decide (b < f.slcBlocks)) (f.block die b).next)

/-- The open block of an area [lo, hi) of a die: one partly written, else the lowest one never written since its erase. -/
def Flash.openBlock (f : Flash) (die lo hi : Nat) : Option Nat :=
  let l := (f.listed die).filter fun p => decide (lo ≤ p.1) && decide (p.1 < hi)
  match l.find? fun p => !p.2.retired && decide (0 < p.2.next) && !f.isFull die p.1 && !f.erasing.contains (die, p.1) with
  | some p => some p.1
  | none =>
    let used := (l.filter fun p => p.2.retired || decide (0 < p.2.next)).map (·.1)
    let n := lo + lowestFree (used.map (· - lo))
    if n < hi then some n else none

/-- A place taken in the SLC or the native area of a die: its folio slot (R257), and the state with the block advanced. -/
def Flash.takePlace (f : Flash) (die : Nat) (slc : Bool) : Option (Nat × Flash) :=
  let area := if slc then (0, f.slcBlocks) else (f.slcBlocks, f.dieBlocks)
  (f.openBlock die area.1 area.2).map fun b =>
    let n := f.placeFrom die slc (f.block die b).next
    (b * f.profile.pages + n, f.mapBlock die b fun x => { x with next := n + 1 })

/-- The block of a folio slot. -/
def Flash.blockOf (f : Flash) (slot : Nat) : Nat := slot / max 1 f.profile.pages

/-- A page written joins the stripe of its position (R269). -/
def Flash.joinStripe (f : Flash) (die slot : Nat) : Flash :=
  let b := f.blockOf slot
  let pos := slot % max 1 f.profile.pages
  let slc := decide (b < f.slcBlocks)
  let dies := f.stripeDies die slc pos
  if (parityDie dies pos).isNone then f
  else
    match f.stripes.find? fun t => t.group == die / 16 && t.slc == slc && t.pos == pos && !t.parity && t.dies == dies &&
        !(t.pages.any fun p => p.1 == die) with
    | some t => { f with stripes := f.stripes.map fun x => if x.id = t.id then { x with pages := x.pages ++ [(die, some b)] } else x }
    | none => { f with stripes := f.stripes ++ [{ id := f.nextId, group := die / 16, pos := pos, slc := slc, dies := dies, pages := [(die, some b)],
                                                  parity := false }], nextId := f.nextId + 1 }

/-- Free blocks of a die: neither retired nor written since their erase. -/
def Flash.freeBlocks (f : Flash) (die : Nat) : Nat :=
  f.dieBlocks - ((f.listed die).filter fun p => p.2.retired || decide (0 < p.2.next)).length

/-- Mapped folios of a block, in ascending slot order, as (folio, entry). -/
def Flash.validIn (f : Flash) (die b : Nat) : List (Nat × MapEntry) :=
  sortBy (fun a c => decide (a.2.slot < c.2.slot))
    (f.map.filter fun p => p.2.die == die && p.2.slot / max 1 f.profile.pages == b && p.2.state == 1)

/-- The status figures of R278. -/
def Flash.refresh (f : Flash) : Flash :=
  let dies := dedup (f.blocks.map fun p => p.1 / 2 ^ 22)
  let spread := dies.map fun d =>
    let es := (f.listed d).map (·.2.erases)
    let low := if (f.listed d).length < f.dieBlocks then 0 else es.foldl min (es.headD 0)
    es.foldl max 0 - low
  let slc := dies.map fun d =>
    (((f.listed d).filter fun p => decide (p.1 < f.slcBlocks)).map (·.2.next)).sum * 100 / max 1 (f.slcBlocks * f.perBlock)
  { f with spread := min 0xFFFF (spread.foldl max 0), slcUsed := slc.foldl max 0,
           freeMin := min 255 ((dies.map f.freeBlocks).foldl min f.dieBlocks) }

/-! ### Owners, quires, retirement -/

/-- The channel slot to which a folio's work is counted, if one owns it. -/
def State.folioOwner (s : State) (folio : Nat) : Option Nat :=
  (tget s.flash.folios folio).map (·.slot)

/-- Flash bytes read or written for the owner of a folio (R355: counter 3 or 4). -/
def State.countFolio (s : State) (folio counter n : Nat) : State :=
  match s.folioOwner folio with | some slot => s.account slot counter n | none => s

/-- Mapped folios that a stripe covers at a die. -/
def Flash.coveredAt (f : Flash) (t : Stripe) (die : Nat) : List Nat :=
  (t.pages.filter fun p => p.1 == die).flatMap fun p =>
    (f.map.filter fun m => m.2.die == die && p.2 == some (f.blockOf m.2.slot) && m.2.slot % max 1 f.profile.pages == t.pos && m.2.state != 0).map (·.1)

/-- Whether a folio stands on a block that a quire still covers (R256, R270). -/
def Flash.covered (f : Flash) (folio : Nat) : Bool :=
  match tget f.map folio with
  | some m => f.stripes.any fun t => (f.coveredAt t m.die).contains folio
  | none => false

/-- The folios of lost dies that their stripes can give again: those of a stripe that lost no other page (R271). -/
def Flash.rebuildable (f : Flash) (dead : List Nat) : List Nat :=
  f.stripes.flatMap fun t =>
    let gone := t.dies.filter fun d => dead.contains d && (t.pages.any (fun p => p.1 == d) || (t.parity && parityDie t.dies t.pos == some d))
    match gone with
    | [d] => f.coveredAt t d
    | _ => []

/-- Dies lost with a flash channel or by R268: their folios are lost until they are rewritten, those that a stripe covers until they are
rebuilt (R271), die slots go round-robin to the remaining dies (R276), and the next checkpoint pass of every table writes every row (R393). -/
def State.loseDies (s : State) (ds : List Nat) : State :=
  let dead := dedup (s.flash.deadDies ++ ds)
  let live := (List.range s.flash.dies).filter fun d => !dead.contains d
  let was := fun (i : Nat) => s.flash.dieOf i
  let slots := (List.range 4096).foldl (fun (r : Tbl Nat × Nat) i =>
    if dead.contains (was i) then (tput r.1 i (live.getD (r.2 % max 1 live.length) 0), r.2 + 1)
    else (tput r.1 i (was i), r.2)) ([], 0)
  let s1 := (s.flash.map.filter fun p => ds.contains p.2.die && p.2.state == 1).foldl (fun (a : State) p => a.setMap p.1 (some { p.2 with state := 2 })) s
  { s1.mapFlash (fun f =>
      { f with deadDies := dead, dieSlot := slots.1, rebuild := dedup (f.rebuild ++ s.flash.rebuildable dead),
               progs := f.progs.filter (fun p => !ds.contains p.die) }) with
    tables := s1.tables.map (fun p => (p.1, { p.2 with changed := p.2.rows.map (·.1) })) }

/-- The dies of a flash channel (R253). -/
def Flash.diesOf (f : Flash) (chan : Nat) : List Nat := (List.range f.dies).filter fun d => f.channelOf d == chan

/-- A flash channel retired (R276): cause 0 timeout, 1 training. -/
def State.retireFlash (s : State) (chan cause : Nat) : State :=
  if !hasBit s.flash.live chan then s
  else
    let s1 := (s.loseDies (s.flash.diesOf chan)).mapFlash fun f => { f with live := clearBit f.live chan }
    (({ s1 with power := { s1.power with degraded := true } }).raiseNode 0x06 chan cause 0).faultRecord 9 chan 1 0

/-- Blocks of a die that its native data leaves to its SLC buffer and its journal (R268: when they are fewer than these need, the die goes;
DEDUCED, log entry 23). -/
def Flash.spareBlocks (f : Flash) (die : Nat) : Nat :=
  f.dieBlocks - ((f.listed die).filter fun p => p.2.retired || (decide (f.slcBlocks ≤ p.1) && decide (0 < p.2.next))).length

/-- A block retired (R268), journalled with TYPE 0x08; a die left with too few blocks goes too. Causes: 0 erase, 1 program,
2 PE_LIMIT (DESIGN CHOICE, log entry 23). -/
def State.retireBlock (s : State) (die b cause : Nat) : State :=
  if (s.flash.block die b).retired then s
  else
    let s1 := s.mapFlash fun f =>
      { f.mapBlock die b (fun x => { x with retired := true }) with
        retiredBlocks := f.retiredBlocks + 1,
        erasing := f.erasing.filter (· != (die, b)), eraseAt := tdel f.eraseAt (blockKey die b) }
    let s2 := (s1.nodeEntry 8 [die, b, cause]).faultRecord 8 (blockKey die b) 1 0
    if s2.flash.spareBlocks die < s2.flash.slcBlocks + 1 && !s2.flash.deadDies.contains die then s2.loseDies [die] else s2

/-! ### Copies within a die (R265) -/

/-- One folio moved to a new place on its die. -/
def State.moveFolio (s : State) (die : Nat) (p : Nat × MapEntry) : State :=
  match s.flash.takePlace die false with
  | none => s
  | some (k, f) =>
    (({ s with flash := f.joinStripe die k }).setMap p.1 (some { p.2 with slot := k, slc := false })).countFolio p.1 4 65536

/-- One folio moved to the next place of a block of its die. -/
def State.moveInto (s : State) (die blk : Nat) (p : Nat × MapEntry) : State :=
  let slc := decide (blk < s.flash.slcBlocks)
  let n := s.flash.placeFrom die slc (s.flash.block die blk).next
  let k := blk * s.flash.profile.pages + n
  ((s.mapFlash fun f => (f.mapBlock die blk fun x => { x with next := n + 1 }).joinStripe die k).setMap p.1
    (some { p.2 with slot := k, slc := slc })).countFolio p.1 4 65536

/-- The free block of a die with the largest erase count, ties to the lowest number (R265). -/
def Flash.wornFree (f : Flash) (die : Nat) : Option Nat :=
  let free := (f.listed die).filter fun p => !p.2.retired && p.2.next == 0 && !f.erasing.contains (die, p.1)
  (free.foldl (fun (m : Option (Nat × Nat)) p =>
    match m with | some b => if b.2 < p.2.erases then some (p.1, p.2.erases) else m | none => some (p.1, p.2.erases)) none).map (·.1)

/-- A block emptied, into another one if it is named, and put to erase. -/
def State.emptyBlock (s : State) (die b : Nat) (into : Option Nat := none) : State :=
  let s1 := (s.flash.validIn die b).foldl (fun acc p => match into with | some t => acc.moveInto die t p | none => acc.moveFolio die p) s
  s1.mapFlash fun f => { f with erasing := dedup (f.erasing ++ [(die, b)]), eraseAt := tput f.eraseAt (blockKey die b) s.nowNs, relocate := f.relocate.filter (· != (die, b)) }

/-- The written block with the fewest valid folios, ties to the lowest number. -/
def Flash.leastValid (f : Flash) (die : Nat) : Option Nat :=
  let full := (f.listed die).filter fun p => !p.2.retired && decide (0 < p.2.next) && f.isFull die p.1 && !f.erasing.contains (die, p.1)
  (full.foldl (fun (best : Option (Nat × Nat)) p =>
    let n := (f.validIn die p.1).length
    match best with | some b => if n < b.2 then some (p.1, n) else best | none => some (p.1, n)) none).map (·.1)

/-- The block choice of R265 for one die. -/
def State.dieWork (s : State) (die : Nat) : State :=
  let f := s.flash
  let free := f.freeBlocks die
  let l := (f.listed die).filter fun p => !p.2.retired && !f.erasing.contains (die, p.1)
  let worn := l.find? fun p => decide (f.profile.rdLimit ≤ p.2.reads) || f.relocate.contains (die, p.1)
  let collect := fun (s : State) => match s.flash.leastValid die with | some b => s.emptyBlock die b | none => s
  let data := l.filter fun p => decide (0 < p.2.next)
  let low := data.foldl (fun (m : Option (Nat × Nat)) p =>
    match m with | some b => if p.2.erases < b.2 then some (p.1, p.2.erases) else m | none => some (p.1, p.2.erases)) none
  let high := l.foldl (fun m p => max m p.2.erases) 0
  if free < 2 then collect s
  else match worn with
  | some p => s.emptyBlock die p.1
  | none =>
    if free < f.gcLow ∨ (f.collecting.contains die ∧ free < f.gcHigh) then
      collect (s.mapFlash fun f => { f with collecting := insNat die f.collecting })
    else
      let s1 := s.mapFlash fun f => { f with collecting := f.collecting.filter (· != die) }
      match low with
      | some b => if f.wlSpread < high - b.2 then s1.emptyBlock die b.1 (f.wornFree die) else s1
      | none => s1

/-! ### Programs -/

/-- Whether program and erase starts are held: during a dip and for 100 µs after it (R425). -/
def State.startsHeld (s : State) : Bool := s.power.dip.isSome || decide (0 < s.power.dipTail)

/-- A program started (R263). -/
def State.startProg (s : State) (p : FProg) : State :=
  s.mapFlash fun f => { f with progs := f.progs ++ [{ p with id := f.nextId, at_ := s.nowNs }], nextId := f.nextId + 1 }

def FProg.zero : FProg :=
  { id := 0, kind := 0, folio := 0, die := 0, block := 0, slot := 0, object := 0, row := 0, frame := 0, tries := 0, at_ := 0, data := [], ents := [],
    entries := [] }

/-- A program outstanding of a kind, for an object or folio. -/
def State.progOut (s : State) (p : FProg → Bool) : Bool := s.flash.progs.any p

/-- Bytes of field i of an entry's body: 8, a sketch and a row image at their length (DESIGN CHOICE, log entry 11). -/
def State.fieldBytes (s : State) (e : JEntry) (i : Nat) : Nat :=
  if e.typ = 1 ∧ i = 6 then (match tget s.indexes (objKey e.slot e.object) with | some x => x.attr.sketchBits / 8 | none => 8)
  else if e.typ = 4 ∧ i = 2 then (match tget s.tables (objKey e.slot e.object) with | some t => tableStride t.attr | none => 8)
  else 8


/-- The entries that a journal folio takes: as many, in order, as fit 65,472 bytes, and at least one (R259). -/
def journalFill (size : JEntry → Nat) : List JEntry → Nat → List JEntry
  | [], _ => []
  | e :: rest, used => if used + size e ≤ 65472 ∨ used = 0 then e :: journalFill size rest (used + size e) else []

/-- LENGTH of an entry (R260): its header of 16 bytes and its body, a multiple of 8. -/
def State.entrySize (s : State) (e : JEntry) : Nat := 16 + ceilDiv (e.body.mapIdx fun i _ => s.fieldBytes e i).sum 8 * 8

/-- The die that follows one in ascending order, round to the lowest (R261). -/
def Flash.nextDie (f : Flash) (d : Option Nat) : Nat :=
  let live := (List.range f.dies).filter fun x => !f.deadDies.contains x
  match d with
  | none => live.headD 0
  | some n => match live.find? fun x => decide (n < x) with | some x => x | none => live.headD 0

/-- The next journal folio (R259, R261): entries of earlier frames, on the die that follows the last one's. -/
def State.journalWork (s : State) : State :=
  let due := journalFill s.entrySize (s.flash.jPending.filter fun e => decide (e.frame < s.frame.num)) 0
  if due.isEmpty || s.progOut fun p => p.kind == 1 then s
  else
    let s1 := s.startProg { FProg.zero with kind := 1, die := s.flash.nextDie s.flash.jDie, row := s.flash.jSeq, entries := due }
    due.foldl (fun acc x => if x.object = 0 then acc else acc.account x.slot 4 (s.entrySize x)) s1

/-- The highest-numbered block of a die that is neither retired nor written: where its journal folios go (DESIGN CHOICE, log entry 10). -/
def Flash.journalBlock (f : Flash) (die : Nat) : Nat :=
  let used := ((f.listed die).filter fun p => p.2.retired || decide (0 < p.2.next)).map (·.1)
  f.dieBlocks - 1 - lowestFree (used.map fun b => f.dieBlocks - 1 - b)

/-- Stripes of which every data page is written: the parity page is programmed (R269). -/
def State.quireWork (s : State) : State :=
  (s.flash.stripes.filter fun t => !t.parity && decide (t.dies.length ≤ t.pages.length + 1)).foldl (fun acc t =>
    if acc.progOut fun p => p.kind == 7 && p.folio == t.id then acc
    else acc.startProg { FProg.zero with kind := 7, folio := t.id, die := (parityDie t.dies t.pos).getD 0 }) s

/-- Whether read-back has verified every folio of a closed block (R270). -/
def Flash.verified (f : Flash) (die b : Nat) : Bool :=
  f.isFull die b && (f.validIn die b).all fun p => (f.block die b).checked.contains (p.2.slot % max 1 f.profile.pages)

/-- A page that needs the stripe no more: erased, or its block verified; a lost die's once its folio is rebuilt (R270, R271). -/
def Flash.pageDone (f : Flash) (t : Stripe) (p : Nat × Option Nat) : Bool :=
  match p.2 with
  | none => true
  | some b => if f.deadDies.contains p.1 then !((f.coveredAt t p.1).any f.rebuild.contains) else f.verified p.1 b && !((f.coveredAt t p.1).any f.rebuild.contains)

/-- Parity released (R270): the stripes whose blocks are all verified. -/
def Flash.releaseParity (f : Flash) : Flash :=
  { f with stripes := f.stripes.filter fun t => !(t.parity && t.pages.all (f.pageDone t)) }

/-- Pages rebuilt from their quires, on a die of the group: the folio's own if it lives, else the lowest (R270, R271; which partner is a
DESIGN CHOICE, log entry 23). -/
def State.rebuildWork (s : State) : State :=
  s.flash.rebuild.foldl (fun acc folio =>
    if acc.progOut fun p => p.kind == 8 && p.folio == folio then acc
    else match tget acc.flash.map folio with
    | none => acc.mapFlash fun f => { f with rebuild := f.rebuild.filter (· != folio) }
    | some m =>
      let live := acc.flash.groupDies (m.die / 16)
      let die := if live.contains m.die then m.die else live.headD m.die
      match acc.flash.takePlace die true with
      | none => acc
      | some (k, f) => ({ acc with flash := f }).startProg { FProg.zero with kind := 8, folio := folio, die := die, block := f.blockOf k, row := k }) s

/-- Record folios that are closed and not yet in flash (R73, R263). -/
def State.closedFolios (s : State) : List Nat :=
  (s.flash.folios.filter fun p => p.2.kind == 0 && p.2.closed.isSome && (tget s.flash.map p.1).isNone).map (·.1)

/-- A folio's first program, in SLC mode (R262, R263). -/
def State.folioWork (s : State) (folio : Nat) : State :=
  if s.progOut fun p => p.kind == 0 && p.folio == folio then s
  else
    let die := s.flash.dieOf folio
    match s.flash.takePlace die true with
    | none => s
    | some (k, f) =>
      (({ s with flash := f }).startProg
        { FProg.zero with kind := 0, folio := folio, die := die, block := f.blockOf k, row := k }).countFolio folio 4 65536

/-- Folding (R263): when a die's SLC buffer is more than half full, its oldest folio goes to native mode. -/
def State.foldWork (s : State) : State :=
  let f := s.flash
  (dedup (f.map.map fun p => p.2.die)).foldl (fun acc d =>
    let age := fun (n : Nat) => acc.flash.slcAge.findIdx (· == n)
    let slc := sortBy (fun a c => decide (age a.1 < age c.1)) (acc.flash.map.filter fun p => p.2.die == d && p.2.slc && p.2.state == 1)
    if 2 * slc.length ≤ f.slcBlocks * f.perBlock ∨ (acc.progOut fun p => p.kind == 2 && p.die == d) = true then acc
    else match slc.head? with
    | none => acc
    | some p =>
      match acc.flash.takePlace d false with
      | none => acc
      | some (k, f1) =>
        (({ acc with flash := f1 }).startProg
          { FProg.zero with kind := 2, folio := p.1, die := d, block := f1.blockOf k, row := k }).countFolio p.1 4 65536) s

/-- The map entries of a map folio (R258). -/
def Flash.mapFolio (f : Flash) (mf : Nat) : List (Nat × MapEntry) := f.map.filter fun p => p.1 / 13094 == mf

/-- Dirty map folios written, oldest first, and so within MAP_FLUSH_FRAMES (R258). -/
def State.mapWork (s : State) : State :=
  (s.flash.dirtyMap.filter fun d => decide (d.2 < s.frame.num)).foldl (fun acc d =>
    (acc.startProg { FProg.zero with kind := 3, folio := d.1, die := acc.flash.dieOf d.1, frame := s.frame.num, ents := acc.flash.mapFolio d.1 }).mapFlash
      fun f => { f with dirtyMap := f.dirtyMap.filter fun x => x.1 != d.1 }) s

/-- Write-behind records (R217): captures of the slot not written, in frames c + 1 to c + 7 and, where starts were held, later
(R425). -/
def State.captureWork (s : State) (slot : Nat) (h : Handle) : State :=
  match s.table? slot h with
  | none => s
  | some t =>
    (t.captures.filter fun c => !c.written && decide (c.frame < s.frame.num)).foldl (fun acc c =>
      if acc.progOut fun p => p.kind == 5 && p.slot == slot && p.object == h && p.row == c.row && p.frame == c.frame then acc
      else acc.startProg { FProg.zero with kind := 5, slot := slot, object := h, row := c.row, frame := c.frame }) s

/-- Rows of a table folio (R245). -/
def rowsPerFolio (a : TableAttr) : Nat := 65472 / (tableStride a + 8)

/-- The number of the table folio that holds row r: its own once it has one (R245, R257). -/
def State.tableFolio (s : State) (slot : Nat) (h : Handle) (first : Nat) : Nat :=
  match s.flash.folios.find? fun p => p.2.kind == 1 && p.2.slot == slot && p.2.object == h && p.2.first == first with
  | some p => p.1
  | none => s.newFolio slot

/-- The rows of a table folio as they stand, with the frame of that version; rows never set are left out (R192, R209, R245). -/
def Table.folioRows (t : Table) (g first n : Nat) : List (Nat × Nat × Bytes) :=
  (t.rows.filter fun r => decide (first ≤ r.1) && decide (r.1 < first + n)).map fun r => (r.1, min r.2.frame g, t.rowAt r.1 g)

/-- A checkpoint pass goes on (R209): the next folio with rows to write, whole, its rows as they stand when they are read. -/
def State.passWork (s : State) (slot : Nat) (h : Handle) : State :=
  match s.table? slot h with
  | none => s
  | some t =>
    match t.pass with
    | none => s
    | some (_, rows) =>
      if rows.isEmpty || s.progOut fun p => p.kind == 4 && p.slot == slot && p.object == h then s
      else
        let n := max 1 (rowsPerFolio t.attr)
        let first := rows.headD 0 / n * n
        let folio := s.tableFolio slot h first
        let die := s.flash.dieOf folio
        match s.flash.takePlace die true with
        | none => s
        | some (k, f) =>
          let fo : Folio := { kind := 1, slot := slot, object := h, first := first, used := n, closed := none }
          (({ s with flash := { f with folios := tput f.folios folio fo } }).startProg
            { FProg.zero with kind := 4, folio := folio, die := die, block := f.blockOf k, row := k, slot := slot, object := h, frame := s.frame.num - 1,
                              data := t.folioRows (s.frame.num - 1) first n }).account slot 4 65536

/-- The vectors of a channel's splits are read (R81): whole folios in background work. -/
def State.splitReads (s : State) (slot : Nat) : State :=
  let mine := s.listOps.filter fun o => o.slot == slot && o.kind == 1 && o.into == 0 && o.event.isNone
  mine.foldl (fun acc o =>
    let folios := match acc.index? slot o.object with
      | some x => (match tget (x.cur.region o.region) o.list with
        | some l => (dedup (l.kept.map fun (sl : Slot) => sl.folio)).filter fun f => (tget acc.flash.map f).isSome
        | none => [])
      | none => []
    { acc.account slot 3 (65536 * folios.length) with
      listOps := acc.listOps.map fun p => if p = o then { p with into := 1 } else p }) s

/-- A record folio whose live records have fallen to a quarter is rewritten (R264): its records go to new folios, the locators
are published at the commit window of the frame. -/
def State.sparseWork (s : State) (slot : Nat) : State :=
  s.indexes.foldl (fun acc p =>
    if p.1 / 2 ^ 32 != slot || p.2.dropped.isSome then acc
    else
      let h : Handle := BitVec.ofNat 32 (p.1 % 2 ^ 32)
      let places := p.2.cur.lists.flatMap fun r => r.2.flatMap fun l => l.2.kept.map fun sl => (r.1, l.1, sl)
      let count := fun (f : Nat) => (places.filter fun q => q.2.2.folio == f).length
      let sparse := (dedup (places.map fun q => q.2.2.folio)).filter fun f =>
        (tget acc.flash.map f).isSome && decide (4 * count f ≤ recordsPerFolio p.2.attr)
      match sparse.head? with
      | none => acc
      | some f =>
        let acc1 := acc.account slot 3 65536
        (places.filter fun q => q.2.2.folio == f).foldl (fun a q =>
          let pl := a.placeRecord slot h p.2.attr q.2.2.key (a.record p.2.attr q.2.2)
          { pl.2 with staged := pl.2.staged ++
              [{ hold := a.frame.num, due := a.frame.num, adm := a.frame.num, home := 0x3FE, seq := 0, next := false,
                 item := .locator slot h q.1 q.2.1 q.2.2.key pl.1.1 pl.1.2 }] }) acc1) s

/-- A background read issued on a die: 1 patrol read, 2 read-back (R266, R270). -/
def State.startRead (s : State) (folio : Nat) (m : MapEntry) (back : Nat) : State :=
  s.mapFlash fun f =>
    { f with reads := f.reads ++ [{ id := f.nextId, slot := 0, home := 0, seq := 0, key := 0, die := m.die, folio := folio, isFetch := false, back := back,
                                    at_ := s.nowNs }], nextId := f.nextId + 1 }

/-- The read-back of a die's closed blocks goes on (R270). -/
def State.verifyWork (s : State) (die : Nat) : State :=
  if s.flash.reads.any fun r => r.back == 2 && r.die == die then s
  else
    match ((s.flash.listed die).filter fun p => decide (0 < p.2.next) && !p.2.retired && s.flash.isFull die p.1).findSome? (fun p =>
        (s.flash.validIn die p.1).find? fun m => !p.2.checked.contains (m.2.slot % max 1 s.flash.profile.pages) && !s.flash.rebuild.contains m.1) with
    | some m => s.startRead m.1 m.2 2
    | none => s

/-- Patrol read goes on to the next mapped folio on a die that may be read; how the 7 days are spread over the windows is not said
(R266; DESIGN CHOICE, log entry 23: one folio a window). -/
def State.patrolWork (s : State) (ok : Nat → Bool) : State :=
  if s.flash.reads.any fun r => r.back == 1 then s
  else
    let mapped := s.flash.map.filter fun p => p.2.state == 1 && ok p.2.die
    match mapped.find? (fun p => decide (s.flash.patrol < p.1)) with
    | some p => (s.startRead p.1 p.2 1).mapFlash fun f => { f with patrol := p.1 }
    | none => match mapped.head? with
      | some p => (s.startRead p.1 p.2 1).mapFlash fun f => { f with patrol := p.1 }
      | none => s.mapFlash fun f => { f with patrol := 0 }

/-- Background work of slots on the dies that `ok` admits, in the order of R266: the journal, quires, block choices, write-behind,
checkpoint passes and rewrites, record folios, the map, folding, read-back, patrol. While starts are held only reads go on (R425). How much
one window does is not modelled in time: programs end by FLASH_PROGRAM_COMPLETE (log entry 23). -/
def State.backWork (s : State) (slots : List Nat) (ok : Nat → Bool) : State :=
  let s1 := slots.foldl (fun acc n => acc.splitReads n) s
  let dies := (dedup (s1.flash.blocks.map fun p => p.1 / 2 ^ 22)).filter fun d => ok d && !s1.flash.deadDies.contains d
  if s1.startsHeld then (dies.foldl State.verifyWork s1).patrolWork ok
  else
    let s2 := dies.foldl State.dieWork ((s1.journalWork.mapFlash Flash.releaseParity).quireWork.rebuildWork)
    let s3 := slots.foldl (fun acc n =>
      let acc1 := (acc.tablesOf n).foldl (fun a h => (a.captureWork n h).passWork n h) acc
      acc1.sparseWork n) s2
    let s4 := (s3.closedFolios.filter fun f => slots.any fun n => (s3.foliosOf n).contains f).foldl State.folioWork s3
    let s5 := dies.foldl State.verifyWork s4.mapWork.foldWork
    (s5.patrolWork ok).mapFlash Flash.refresh

/-- The slots whose background work a window does. -/
def State.backSlots (s : State) (e : EaselEntry) : List Nat := if e.isNode then s.chans.map (·.1) else [e.slot]

/-- FLASH_BACKGROUND (R266): programs and erases that FETCH suspended go on (R274). -/
def State.background (s : State) (e : EaselEntry) : State :=
  (s.mapFlash fun f => { f with suspended := false, barred := [] }).backWork (s.backSlots e) fun _ => true

/-- FLASH_BACKGROUND. -/
def execFlashBackground (n : Nat) (s : State) : Answer := inNodeWindow n 0x21 (fun e s => s.background e) s

/-! ### Fill (R267) -/

/-- Whether fill may start a program, an erase or an array read on a die: it lies on a flash channel that the window claims, and has no
re-rank read planned in it. -/
def Flash.fillDie (f : Flash) (e : EaselEntry) (die : Nat) : Bool := hasBit e.flash (f.channelOf die) && !f.barred.contains die

/-- Fill: in bus cycles that re-rank transfers leave, background work goes on. A program is started only on a die that fill may use; work
whose die it may not use waits for a later window. -/
def State.fill (s : State) (e : EaselEntry) : State :=
  let dies := (dedup (s.flash.blocks.map fun p => p.1 / 2 ^ 22)).filter fun d => s.flash.fillDie e d && !s.flash.deadDies.contains d
  let s1 := s.splitReads e.slot
  if s1.startsHeld then (dies.foldl State.verifyWork s1).patrolWork (s1.flash.fillDie e)
  else
    let s2 := (s1.closedFolios.filter fun f => (s1.foliosOf e.slot).contains f && s1.flash.fillDie e (s1.flash.dieOf f)).foldl State.folioWork s1
    let s3 := dies.foldl State.verifyWork (dies.foldl State.dieWork s2)
    (s3.patrolWork (s3.flash.fillDie e)).mapFlash Flash.refresh

/-- FETCH, and the fill of its window. -/
def execFetchWindow (w : ReadWindow) (s : State) : Answer :=
  inWindow w.entry 0x07 (fun e s => ((s.meetFaults e.slot w.faults).fetchWindow e).fill e) s

end Sys2Proof.Machine
end

