-- ==== Sys2Proof/Machine/Sets.lean ====
section
/-! DEFINITION. SET_COMBINE (R234, R235), the rebuild of suspect chunks (R237), and the swap stages (R48, R49). -/

namespace Sys2Proof.Machine

/-! ### Combining -/

/-- Chunks of a bitmap over some rows (R232). -/
def chunkCount (rows : Nat) : Nat := ceilDiv rows 8192

/-- The rows of a set's index. -/
def State.setRows (s : State) (key : Nat) (x : AllowSet) : Nat :=
  match tget s.indexes (objKey (key / 2 ^ 32) x.index) with | some i => i.attr.rows | none => 0

/-- INIT steps that each near-bank unit makes to zero some units (R227, R235): 128 rows of its bank pair in a unit. -/
def initCount (units : List Nat) : Nat := 128 * units.length

/-- The first-twin unit of a chunk (R232): stack, pseudo-channel and bank pair as one number. -/
def chunkUnit (i : Nat) : Nat := (i % 4) * 256 + (i / 4 % 32) * 8 + i / 128 % 16 / 2

/-- The bytes of a chunk, from its first twin. -/
def State.chunkBytes (s : State) (units : List Nat) (i : Nat) : Bytes := memReadN s.dram.mem (chunkDa units i) 1024

/-- A chunk written, both twins (R224). -/
def State.writeChunk (s : State) (units : List Nat) (i : Nat) (b : Bytes) : State :=
  let da := chunkDa units i
  { s with dram := { s.dram with mem := memWriteN (memWriteN s.dram.mem da b) (twinOf da) b } }

/-- One operator of a derived set (R234): 1 AND, 2 OR, 3 ANDNOT. -/
def setOp (op : Nat) (a b : Bytes) : Bytes :=
  List.zipWith (fun x y => match op with | 1 => x &&& y | 2 => x ||| y | _ => x &&& ~~~ y) a b

/-- A derived chunk from its operands' (R234): the chain from the left; with no operator a copy. -/
def chainOf (ops : List Nat) : List Bytes → Bytes
  | [] => []
  | a :: rest => (List.zip ops rest).foldl (fun acc p => setOp p.1 acc p.2) a

/-- The operators before the first none. -/
def AllowSet.chain (x : AllowSet) : List Nat := x.ops.takeWhile (· != 0)

/-- Row steps of one chunk of a derived set. -/
def AllowSet.steps (x : AllowSet) : Nat := max 1 x.chain.length

/-- What is left while a window combines: its budget of row steps per unit, those every unit has made for INITs, and those each unit has
made beside. -/
structure CombineRun where
  st   : State
  load : Tbl Nat
  all  : Nat
  max_ : Nat

/-- The units of an open object are OPEN and its channel's: else the region map refuses its steps (R229). -/
def State.openUnits (s : State) (slot : Nat) (units : List Nat) : Bool := units.all fun u => s.unitKind u == .opened slot

/-- A set whose steps the region map refuses (R229): no later step of the operation runs, and its work counts as not done. -/
def State.refuseSet (s : State) (op slot : Nat) (x : AllowSet) : State :=
  match x.units.find? fun u => s.unitKind u != .opened slot with
  | some u => s.nbRefuse op (u * 2 ^ 28)
  | none => s

/-- One chunk of a derived set recomputed, if its unit can still make the steps; a suspect operand makes it suspect too (R236). -/
def combineChunk (key slot : Nat) (x : AllowSet) (r : CombineRun) (i : Nat) : CombineRun :=
  let u := chunkUnit i
  let n := tgetD r.load u 0 + x.steps
  if r.max_ < r.all + n then r
  else
    let ops := (x.sets.take (x.chain.length + 1)).map fun h => (objKey slot h, r.st.unitsOf (objKey slot h))
    let s1 := ops.foldl (fun acc o => acc.readChunk o.1 i) r.st
    let bad := ops.any fun o => s1.isSuspect o.1 i
    let s2 := if bad then
        (if s1.isSuspect key i then s1
         else { s1 with dram := { s1.dram with suspects := s1.dram.suspects ++ [(key, i, s1.frame.num)] } })
      else (s1.writeChunk x.units i (chainOf x.chain (ops.map fun o => s1.chunkBytes o.2 i))).rebuilt key i
    let s3 := s2.account slot 2 (2 * 1024 * x.steps)
    { r with st := if bad then s3 else { s3 with sets := tmap s3.sets key fun y => { y with dirty := y.dirty.filter (· != i) } },
             load := tput r.load u n }

/-- One derived set (R235): a new one whole, else its dirty chunks and suspect ones; COMBINED is set when nothing is left. -/
def combineSet (slot : Nat) (r : CombineRun) (key : Nat) : CombineRun :=
  match tget r.st.sets key with
  | none => r
  | some x =>
    if !x.derived || x.dropped.isSome then r
    else if !r.st.openUnits slot x.units then
      { r with st := { r.st.refuseSet (match x.chain.head? with | some 1 => 2 | some 2 => 3 | some _ => 5 | none => 0) slot x with
          sets := tmap r.st.sets key fun y => { y with fresh := true } } }
    else
      let all := if x.fresh then List.range (chunkCount (r.st.setRows key x))
        else sortBy (fun a b => decide (a < b))
          (dedup (x.dirty ++ (r.st.dram.suspects.filter fun q => q.1 == key).map fun q => q.2.1))
      let s0 := { r.st with sets := tmap r.st.sets key fun y => { y with dirty := all, fresh := false } }
      let r1 := all.foldl (combineChunk key slot x) { r with st := s0 }
      let left := match tget r1.st.sets key with | some y => y.dirty | none => []
      if left.all fun i => r1.st.isSuspect key i then
        { r1 with st := { r1.st with sets := tmap r1.st.sets key fun y => { y with stamp := r1.st.frame.num - 1 } } }
      else r1

/-- A new base set zeroed by INIT (R235), as far as the window's steps go: when the last step is made it is usable from the following
frame, which the stamp names. -/
def initSet (slot : Nat) (r : CombineRun) (key : Nat) : CombineRun :=
  match tget r.st.sets key with
  | none => r
  | some x =>
    if x.derived || !x.fresh || x.dropped.isSome || x.stamp == r.st.frame.num + 1 then r
    else if !r.st.openUnits slot x.units then { r with st := r.st.refuseSet 1 slot x }
    else
      let n := min (initCount x.units - x.inits) (r.max_ - r.all)
      let done := decide (initCount x.units ≤ x.inits + n)
      let s1 := { r.st with
        dram := { r.st.dram with mem := if done then zeroUnits r.st.dram.mem x.units else r.st.dram.mem }
        sets := tmap r.st.sets key fun y =>
          { y with inits := x.inits + n, stamp := if done then r.st.frame.num + 1 else y.stamp, rows := if done then [] else y.rows } }
      { r with st := s1.account slot 2 (2 * 1024 * 1024 * n), all := r.all + n }

/-- The allow-sets of a slot, handles ascending. -/
def State.setKeys (s : State) (slot : Nat) : List Nat := (s.sets.filter fun p => p.1 / 2 ^ 32 == slot).map (·.1)

/-- SET_COMBINE: base sets are zeroed, then derived ones recomputed, each in ascending handle, as far as the LENGTH allows (R235). -/
def State.combineWindow (s : State) (e : EaselEntry) : State :=
  if e.length < 64 then s
  else
    let r0 : CombineRun := { st := s, load := [], all := 0, max_ := (e.length - 64) / 84 }
    let r1 := (s.setKeys e.slot).foldl (initSet e.slot) r0
    ((s.setKeys e.slot).foldl (combineSet e.slot) r1).st

/-- SET_COMBINE. -/
def execSetCombine (n : Nat) (s : State) : Answer := inWindow n 0x32 (fun e s => s.combineWindow e) s

/-- The sets at the end of a frame: a base set zeroed in it is usable, a derived set whose work is unfinished is recomputed whole
in the next (R235). -/
def State.setsEnd (s : State) : State :=
  { s with sets := s.sets.map fun p =>
      let x := p.2
      if !x.derived && x.fresh && x.stamp == s.frame.num + 1 then (p.1, { x with fresh := false, inits := 0 })
      else if !x.derived && x.fresh then (p.1, { x with inits := 0 })
      else if x.derived && !x.fresh && !(x.dirty.all fun i => s.isSuspect p.1 i) && x.stamp + 1 != s.frame.num then
        (p.1, { x with fresh := true })
      else p }

/-! ### Rebuild of suspect chunks (R237) -/

/-- Whether a FLASH_BACKGROUND window ran in this frame. -/
def State.backgroundRan (s : State) : Bool :=
  match s.easel.inForce with
  | some ea => s.frame.ran.any fun n => match ea.entries[n]? with | some e => e.stage == 0x21 | none => false
  | none => false

/-- The bytes of a chunk from the rows that are set (R232). -/
def chunkOf (rows : List Nat) (i : Nat) : Bytes :=
  let mine := rows.filter fun r => r / 8192 == i
  (List.range 1024).map fun j => BitVec.ofNat 8 ((mine.filter fun r => r % 8192 / 8 == j).foldl (fun w r => setBit w (r % 8)) 0)

/-- The rows of a base set or a tombstone set as its index checkpoint and the journal since have them. -/
def State.sourceRows (s : State) (key : Nat) : List Nat :=
  match tget s.sets key with
  | some x => x.rows
  | none => match tget s.indexes key with | some x => x.tombRows | none => []

/-- Suspect chunks of base sets and tombstone sets found before this frame and rebuilt in its FLASH_BACKGROUND windows from the index
checkpoint and the journal: both twins are written, and the chunk is sound from this commit window on (R237; log entry 24). -/
def State.rebuildChunks (s : State) : State :=
  if !s.backgroundRan then s
  else
    (s.dram.suspects.filter fun q => decide (q.2.2 < s.frame.num) &&
        (match tget s.sets q.1 with | some x => !x.derived | none => true)).foldl (fun acc q =>
      let us := acc.unitsOf q.1
      (if us.isEmpty then acc else acc.writeChunk us q.2.1 (chunkOf (acc.sourceRows q.1) q.2.1)).rebuilt q.1 q.2.1) s

/-! ### Swapped residency (R48, R49) -/

/-- Bytes per sector of a slipcase. -/
def swapBytes (c : Chan) : Nat := c.rwa.slipGran * 65536

/-- Cycles that a swap needs (R48). -/
def swapCycles (c : Chan) : Nat := 175 + 7 * ceilDiv (swapBytes c) 2048

/-- Pool ranges of two channels overlap. -/
def overlaps (a na b nb : Nat) : Bool := decide (a < b + nb) && decide (b < a + na)

/-- A swap window has the sector mover, and time for its copy (R30, R48). -/
def swapFits (e : EaselEntry) (c : Chan) : Bool := hasBit e.engines 4 && decide (swapCycles c ≤ e.length)

/-- The sectors that a swap window names. -/
def EaselEntry.swapSectors (e : EaselEntry) : List Nat := bitList 16 e.sectors

/-- A slipcase's cells of one sector, and a slipcase with them replaced. -/
def sectorCells (k : Nat) (l : List Host.Cell) : List Host.Cell := l.filter fun x => x.1 / 2 ^ 24 == k
def putSector (k : Nat) (new l : List Host.Cell) : List Host.Cell :=
  l.filter (fun x => decide (x.1 / 2 ^ 24 < k)) ++ new ++ l.filter fun x => decide (k < x.1 / 2 ^ 24)

/-- One sector's pool contents copied back into the slipcase. -/
def Chan.saveSector (arg : Nat) (c : Chan) (k : Nat) : Chan :=
  match c.pool.find? fun p => p.1 == k && p.2.1 == arg with
  | some p => { c with slipcase := putSector k p.2.2 c.slipcase }
  | none => c

/-- A restore of some sectors takes their pool range from whatever was there. -/
def Chan.poolLess (sectors : List Nat) (arg gran : Nat) (c : Chan) : Chan :=
  { c with pool := c.pool.filter fun p => !(sectors.contains p.1 && overlaps p.2.1 c.rwa.slipGran arg gran) }

/-- SWAP_SAVE: the slipcase of the window's sectors is copied back from the pool; a window too short faults the channel (R49,
cause 3). -/
def State.swapSave (s : State) (e : EaselEntry) : State :=
  match tget s.chans e.slot with
  | none => s
  | some c =>
    if !c.rwa.swapped then s
    else if !swapFits e c then s.fault e.slot 3 0
    else (s.mapChan e.slot fun x => e.swapSectors.foldl (Chan.saveSector e.arg) x).account e.slot 2
      (e.swapSectors.length * swapBytes c)

/-- SWAP_RESTORE: the slipcase of the window's sectors is copied into the pool at the granule offset of STAGE_ARG, over what was
there; a window too short, or uncorrectable slipcase data, faults the channel. -/
def State.swapRestore (s : State) (e : EaselEntry) (uncorrectable : Bool) : State :=
  match tget s.chans e.slot with
  | none => s
  | some c =>
    if !c.rwa.swapped then s
    else if !swapFits e c ∨ uncorrectable then s.fault e.slot 3 0
    else
      let s1 := { s with chans := s.chans.map fun (p : Nat × Chan) => (p.1, p.2.poolLess e.swapSectors e.arg c.rwa.slipGran) }
      (s1.mapChan e.slot fun x => { x with pool := x.pool ++ e.swapSectors.map fun k => (k, e.arg, sectorCells k x.slipcase) }).account
        e.slot 2 (e.swapSectors.length * swapBytes c)

/-- SWAP_SAVE. -/
def execSwapSave (n : Nat) (s : State) : Answer := inWindow n 0x30 (fun e s => s.swapSave e) s

/-- SWAP_RESTORE. -/
def execSwapRestore (n : Nat) (uncorrectable : Bool) (s : State) : Answer :=
  inWindow n 0x31 (fun e s => s.swapRestore e uncorrectable) s

end Sys2Proof.Machine
end

