-- ==== Sys2Proof/Machine/Stats.lean ====
section
/-! DEFINITION. What STATS_READ, STATS and LOG_READ write (R88, R193, R314, R330, R331, R355, R356), and the commands STATS_READ and
LOG_READ. -/

namespace Sys2Proof.Machine

/-! ### The classes of R330 -/

/-- The 128-byte record of counters (R355). -/
def acctBytes (a : Acct) (faults lastCause : Nat) : Bytes :=
  (List.range 8).flatMap (fun i => toLe 8 (a.cnt.getD i 0)) ++ toLe 8 (a.first % 2 ^ 48) ++ toLe 8 (a.last % 2 ^ 48) ++
  toLe 8 a.admitted ++ toLe 8 a.refused ++ toLe 8 a.fabRefused ++ toLe 2 faults ++ toLe 1 lastCause ++ List.replicate 21 0

/-- Two records of counters summed. -/
def Acct.plus (a b : Acct) : Acct :=
  { cnt := (addL a.cnt b.cnt).map (· % 2 ^ 64), inc := addL a.inc b.inc, frac := a.frac, first := a.first, last := max a.last b.last,
    admitted := a.admitted + b.admitted, refused := a.refused + b.refused, fabRefused := a.fabRefused + b.fabRefused }

/-- The node's totals: all channels and the node's own work (R355). LAST_CAUSE of the totals is 0 (DEDUCED, log entry 25). -/
def State.nodeTotals (s : State) : Acct := s.accts.foldl (fun t p => t.plus p.2) s.nodeAcct

/-- The counters of a channel cleared; the frame in progress goes on counting (R330, R355). -/
def Acct.clear (a : Acct) (frame : Nat) : Acct :=
  { a with cnt := List.replicate 8 0, frac := 0, first := frame, admitted := 0, refused := 0, fabRefused := 0 }

/-- A channel's record. -/
def State.chanStats (s : State) (slot : Nat) (c : Chan) : Bytes := acctBytes (tgetD s.accts slot Acct.zero) c.faults c.lastCause

/-- The 32 buckets of a histogram (R314). -/
def bucketBytes (t : Tbl Nat) : Bytes := (List.range 32).flatMap fun i => toLe 4 (min (tgetD t i 0) 0xFFFFFFFF)

/-- One histogram pair. -/
def Histo.bytes (h : Histo) : Bytes := bucketBytes h.depth ++ bucketBytes h.delay

/-- The histogram of a queue by SELECT (R330). -/
def State.histo (s : State) (sel : Nat) : Histo := tgetD s.histos sel { depth := [], delay := [] }

/-- A region's heat: the sum over its lists, formed at the read (R88). -/
def Index.regionHeat (x : Index) (r : Nat) : Nat := ((x.cur.region r).map fun l => l.2.heat).sum

/-- Class 2. -/
def indexStats (x : Index) : Bytes := (List.range x.attr.regions).flatMap fun r => toLe 8 (x.regionHeat r)

/-- The eight rows of a shard with the most requests: rows without any follow in ascending order (R193). -/
def Table.hottest (t : Table) (i : Nat) : List Nat :=
  let top := tgetD t.top i []
  let lo := i * t.attr.shardRows
  let rest := ((List.range (min 16 (shardLen t.attr i))).map (lo + ·)).filter fun r => !top.contains r
  (top ++ rest).take 8

/-- Class 3. What stands in the places that a shard of fewer than eight rows leaves is a free value (log entry 2). -/
def tableStats (filler : Nat) (t : Table) : Bytes :=
  (List.range (shardCount t.attr)).flatMap fun i =>
    toLe 8 (tgetD t.heat i 0) ++ ((t.hottest i).map (toLe 4)).flatten ++
      (List.replicate (8 - (t.hottest i).length) (toLe 4 filler)).flatten

/-- Work done and in all of a move: lists of a region, or rows (DESIGN CHOICE, log entry 26). -/
def State.moveWork (s : State) (m : Mig) : Nat × Nat :=
  match m.what, s.index? m.slot m.object, s.table? m.slot m.object with
  | 2, _, _ => (if m.ended.isSome then m.rows.length else 0, m.rows.length)
  | _, some x, _ => (m.extents.length, (x.cur.region m.number).length)
  | _, none, some t => (m.done, shardLen t.attr m.number)
  | _, none, none => (0, 0)

/-- Class 4: one record per running BUILD phase, then per MIGRATE. The record's places are DEDUCED (log entry 26). -/
def State.workStats (s : State) (slot : Nat) : Bytes :=
  let record := fun (h code what start done total : Nat) =>
    toLe 4 h ++ toLe 4 code ++ toLe 4 what ++ toLe 4 0 ++ toLe 8 (start % 2 ^ 48) ++ toLe 4 done ++ toLe 4 total
  (s.builds.filter fun b => b.slot == slot && b.running).flatMap (fun b =>
    record b.object.toNat 0x0037 b.phase b.since (b.total - b.left) b.total) ++
  (s.migs.filter fun m => m.slot == slot && m.what != 3).flatMap fun m =>
    record m.object.toNat 0x0038 m.number m.start (s.moveWork m).1 (s.moveWork m).2

/-- The bytes of a class for an object of a channel. -/
def State.statsData (s : State) (slot : Nat) (c : Chan) (cls : Nat) (sel : Handle) : Bytes :=
  match cls with
  | 0 => s.chanStats slot c
  | 2 => (match s.index? slot sel with | some x => indexStats x | none => [])
  | 3 => (match s.table? slot sel with | some t => tableStats (Config.freeValue s.freeTick) t | none => [])
  | _ => s.workStats slot

/-- What CLEAR zeroes: counters and histograms (R330). -/
def State.statsClear (s : State) (slot cls : Nat) : State :=
  if cls = 0 then s.mapAcct slot fun a => a.clear s.frame.num else s

/-! ### STATS_READ -/

def statsArgLayout : Layout := [(0x14, 0, 9), (0x18, 0, 32)]

/-- What a read returns to the mailbox: its bytes at the buffer, and their number (R325). -/
def State.statsOut (s : State) (g : Go) (bs : Bytes) : State × MbRes :=
  ({ s with freeTick := s.freeTick + 1 }.emit (.write g.pbAddr bs), { value := bs.length })

/-- The buffer is checked against what the class needs, then written. -/
def statsTo (g : Go) (bs : Bytes) (clear : State → State) : MbBody :=
  checked (g.outRows bs.length) fun s => (fun (r : State × MbRes) => (if g.arg 0x14 8 1 = 1 then clear r.1 else r.1, r.2)) (s.statsOut g bs)

/-- Class 1: ring histograms for the channel's owner, the others for the physical function. -/
def histoRead (g : Go) : MbBody := fun s =>
  let sel := g.arg 0x18 0 32
  let kind := sel / 2 ^ 24
  let n := sel % 2 ^ 16
  let ok := match kind with
    | 0 => (match tget s.chans (n / 16) with | some c => (g.fn == 0 || c.fn == g.fn) && decide (n % 16 < c.rings.length) | none => false)
    | 1 => g.fn == 0 && decide (n / 8 < 8) && decide (n % 8 < 5)
    | 2 => g.fn == 0 && decide (n < 24)
    | _ => false
  if decide (2 < kind) || sel / 2 ^ 16 % 2 ^ 8 != 0 then (s, MbRes.refuse (stInvalid, 0x18))
  else if !ok then (s, if kind = 0 then { status := stNoObject } else MbRes.refuse (stInvalid, if g.fn = 0 then 0x18 else 0x00))
  else statsTo g (s.histo sel).bytes (fun s => { s with histos := tdel s.histos sel }) s

/-- A class whose SELECT is a channel handle. -/
def chanRead (g : Go) (cls : Nat) : MbBody := fun s =>
  match s.chanOf g.fn (BitVec.ofNat 32 (g.arg 0x18 0 32)) with
  | none => (s, { status := stNoObject })
  | some (slot, c) =>
    if c.st = .retired then (s, MbRes.refuse (stInvalid, 0x18))
    else statsTo g (s.statsData slot c cls (chanHandle slot c)) (fun s => s.statsClear slot cls) s

/-- The node's totals, for the physical function (R355). -/
def nodeRead (g : Go) : MbBody := fun s =>
  let faults := min ((s.chans.map fun p => p.2.faults).sum) 0xFFFF
  statsTo g (acctBytes s.nodeTotals faults 0) (fun s =>
    { s with nodeAcct := s.nodeAcct.clear s.frame.num, accts := s.accts.map fun p => (p.1, p.2.clear s.frame.num) }) s

/-- A class whose SELECT is an object of the channel in CHANNEL. -/
def objectRead (g : Go) (cls : Nat) : MbBody :=
  withChan g fun slot c s =>
    let sel := BitVec.ofNat 32 (g.arg 0x18 0 32)
    if (statsSize s slot c cls sel).isNone then (s, { status := stNoObject })
    else statsTo g (s.statsData slot c cls sel) id s

/-- STATS_READ (R330): a short buffer is INVALID. -/
def statsReadBody (g : Go) : MbBody :=
  checked [inv [g.strayArgs statsArgLayout, (decide (4 < g.arg 0x14 0 8), 0x14)]] fun s =>
    match g.arg 0x14 0 8 with
    | 0 =>
      if g.arg 0x18 0 32 = 0 then
        (match decideRows [g.pfOnly] with | some p => (s, MbRes.refuse p) | none => nodeRead g s)
      else chanRead g 0 s
    | 1 => histoRead g s
    | 4 => chanRead g 4 s
    | n => objectRead g n s

def execStatsRead (g : Go) (s : State) : Answer := mailbox false 0x0070 g (statsReadBody g) s

/-! ### LOG_READ -/

/-- The 64 bytes of a log record (R331). -/
def LogRec.bytes (r : LogRec) : Bytes :=
  toLe 8 r.seq ++ toLe 6 r.frame ++ [0] ++ toLe 1 r.typ ++ toLe 4 r.chan ++ toLe 4 r.object ++ toLe 8 r.d0 ++ toLe 32 r.data

/-- A function sees a record: the physical function all, a virtual function those of its own channels. -/
def LogRec.seenBy (r : LogRec) (fn : Nat) : Bool := fn == 0 || (r.chan != 0 && r.chan / 2 ^ 24 == fn)

/-- Records examined in ascending SEQ until n are returned: the records, and the SEQ after the last one examined. -/
def examine (fn : Nat) : Nat → Nat → List LogRec → List LogRec × Nat
  | _, next, [] => ([], next)
  | 0, next, _ :: _ => ([], next)
  | n + 1, _, r :: rest =>
    if r.seenBy fn then
      let t := examine fn n (r.seq + 1) rest
      (r :: t.1, t.2)
    else examine fn (n + 1) (r.seq + 1) rest

/-- LOG_READ (R331). -/
def logReadBody (g : Go) : MbBody :=
  checked (inv [g.strayArgs [(0x18, 0, 64)]] :: g.outRows 0) fun s =>
    let r := examine g.fn (g.pbLen / 64) (max (g.arg64 0x18) (s.logNext - s.log.length)) (s.log.filter fun x => decide (g.arg64 0x18 ≤ x.seq))
    (s.emit (.write g.pbAddr (r.1.flatMap LogRec.bytes)), { value := r.2 })

def execLogRead (g : Go) (s : State) : Answer := mailbox true 0x0071 g (logReadBody g) s

end Sys2Proof.Machine
end

