-- ==== Sys2Proof/Machine/Settle.lean ====
section
/-! DEFINITION. The home's last part in commands other than SEARCH: LOOKUP (R196, R198), FETCH (R346), updates at visibility and
durability (R205, R207 to R209, R343), STATS (R348); the owner's answers to FETCH; and the commands PACKET_RECEIVED and
DURABILITY_REPORT, whose arrivals may settle a command. -/

namespace Sys2Proof.Machine

/-! ### Requests of the frame after admission -/

/-- The nodes that a LOOKUP asks, each with the positions and numbers of its rows in request order (R196). -/
def State.lookupAsks (s : State) (c : Cmd) (t : Table) : List (Nat × List (Nat × Nat)) :=
  let rows := rowNumbers (rowCount 2 c.entry) (bufAt (c.bufs.getD []) 0)
  let ps := rows.mapIdx fun i r => (s.server c.slot c.object (r / t.attr.shardRows) (t.entry r), i, r)
  (dedup (ps.map (·.1))).map fun n => (n, (ps.filter fun p => p.1 == n).map (·.2))

/-- Some rows of a LOOKUP asked of their owners. -/
def State.askRows (s : State) (c : Cmd) (asks : List (Nat × List (Nat × Nat))) : State :=
  (asks.foldl (fun acc a =>
      acc.send a.1 (some c.slot)
        (.lookupReq s.frame.logicalId c.seq c.slot c.object (c.adm.getD 0) (fld c.entry 0x20 0 2) a.2)) s).mapCmd c.land
    fun x => { x with expect := dedup (x.expect ++ asks.map (·.1)) }

/-- A FETCH asked of the node that serves PRIOR_REGION in the table of g + 1 (R346). -/
def State.askFetch (s : State) (c : Cmd) (node : Nat) : State :=
  (s.send node (some c.slot)
    (.fetchReq s.frame.logicalId c.seq c.slot c.object (c.adm.getD 0) (entryKey c.entry) (priorRegion 6 c.entry)
      (flag c.entry 0x20 0) (s.span c.slot))).mapCmd c.land fun x => { x with expect := [node] }

/-- What a command admitted in the frame before sends at the start of this one. -/
def State.ask (s : State) (c : Cmd) : State :=
  let g := c.adm.getD 0
  match c.op with
  | 0x02 => (match s.tableAt c.slot c.object g with | some t => s.askRows c (s.lookupAsks c t) | none => s.cutCmd c)
  | 0x06 =>
    (match s.routeEntry c.slot c.object (priorRegion 6 c.entry) with
     | some e => s.askFetch c (s.server c.slot c.object (priorRegion 6 c.entry) e)
     | none => s.cutCmd c)
  | _ => s

/-- Every such command. -/
def State.askAll (s : State) : State :=
  (s.work.filter fun c => c.adm.isSome && c.adm.getD 0 + 1 == s.frame.num && c.done.isNone && c.open).foldl State.ask s

/-! ### LOOKUP -/

/-- The result's header (R198). -/
def lookupHeader (count missing g stride : Nat) : Bytes :=
  toLe 4 count ++ toLe 4 missing ++ toLe 6 g ++ toLe 2 0 ++ toLe 2 stride ++ List.replicate 46 0

/-- A LOOKUP's result from the rows received: a row that has not come is written as 0xFF (R198). -/
def lookupResult (c : Cmd) (stride : Nat) : Bytes × Nat :=
  let n := rowCount 2 c.entry
  let have_ := fun (i : Nat) => (c.rows.find? fun r => r.1 == i).map (·.2)
  let missing := ((List.range n).filter fun i => (have_ i).isNone).length
  (lookupHeader n missing (c.adm.getD 0) stride ++
     (List.range n).flatMap (fun i => match have_ i with | some b => b | none => List.replicate stride 0xFF), missing)

/-- A LOOKUP whose owners have all answered, or, at its last frame's end, with what has come (R198). -/
def State.settleLookup (s : State) (c : Cmd) (atEnd : Bool) : State :=
  let all := c.expect.all fun o => c.reports.any fun r => r.1 == o
  let due := s.finalAt c
  if c.expect.isEmpty || (!all && !atEnd) then s
  else if c.reports.any fun r => r.2.1 == stMedia then s.settle c.land due (c.outcome s stMedia)
  else if c.reports.any fun r => r.2.1 == stCutOff then s.settle c.land due (c.outcome s stCutOff)
  else
    match s.tableAt c.slot c.object (c.adm.getD 0) with
    | none => s.settle c.land due (c.outcome s stCutOff)
    | some t =>
      if !all && c.exact then
        if readable (c.adm.getD 0) (s.frame.num + 1) then
          let gone := c.expect.filter fun o => !(c.reports.any fun r => r.1 == o)
          let asks := (s.lookupAsks c t).filter fun a => gone.contains a.1
          let rows := asks.flatMap fun a => a.2.map fun p => (otherHolder (t.entry p.2) a.1, p)
          let other := (dedup (rows.map (·.1))).map fun n => (n, (rows.filter fun r => r.1 == n).map (·.2))
          let s1 := s.mapCmd c.land fun x => { x.mapQ (fun q => { q with delay := q.delay + 1 }) with
            expect := x.expect.filter fun o => !gone.contains o }
          s1.askRows { c with expect := [] } other
        else s.settle c.land due (c.outcome s stCutOff)
      else
        let r := lookupResult c (outStride t.attr (fld c.entry 0x20 0 2))
        s.settle c.land due { c.outcome s (if r.2 = 0 then stOk else stPartial) with data := [(entryAddr c.entry 0x10, r.1)] }

/-! ### FETCH -/

/-- The header of a FETCH (R346). -/
def fetchHeader (found : Bool) (g facet : Nat) : Bytes :=
  toLe 8 (if found then 1 else 0) ++ toLe 8 (g % 2 ^ 48) ++ toLe 8 facet ++ List.replicate 40 0

/-- The writes of a FETCH that found its key. -/
def fetchWrites (c : Cmd) (facet : Nat) (payload vec : Bytes) : List (Nat × Bytes) :=
  let a := entryAddr c.entry 0x10
  [(a, fetchHeader true (c.adm.getD 0) facet ++ payload)] ++
    (if flag c.entry 0x20 0 then [(a + 64 + ceilDiv payload.length 64 * 64, vec)] else [])

/-- A FETCH whose record has come with the status that its owner gives it; LATE tells of a read to be replayed (R398). A record
that does not come is asked of the other holder in exact mode (R399). -/
def State.settleFetch (s : State) (c : Cmd) (atEnd : Bool) : State :=
  let g := c.adm.getD 0
  let due := s.finalAt c
  match c.q.bind (·.rec?) with
  | some (st, found, facet, payload, vec) =>
    if st = stLate then
      s.mapCmd c.land fun x => x.mapQ fun q => { q with rec? := none, delay := q.delay + 1 }
    else
      s.settle c.land due { c.outcome s st with
        data := if st = stOk ∨ st = stPartial then fetchWrites c facet payload vec
                else if st = stShort then [(entryAddr c.entry 0x10, fetchHeader found g 0)] else [] }
  | none =>
    if !atEnd then s
    else if c.exact && readable g (s.frame.num + 1 + s.span c.slot) then
      match s.routeEntry c.slot c.object (priorRegion 6 c.entry) with
      | none => s.settle c.land due (c.outcome s stCutOff)
      | some e =>
        (s.mapCmd c.land fun x => x.mapQ fun q => { q with delay := q.delay + 1 + s.span c.slot }).askFetch c
          (otherHolder e (c.expect.headD (rtPrimary e)))
    else s.settle c.land due (c.outcome s (if c.exact then stCutOff else stAbandoned))

/-- The answer to a FETCH in its last FETCH frame (R346, R111, R112): found and read, not found, not read, late, uncorrectable. -/
def State.answerFetch (s : State) (q : OwnerF) : State :=
  let answer := fun (s : State) (st : Nat) (found : Bool) (facet : Nat) (p v : Bytes) =>
    { s.post q.home q.slot (.fetchRec q.home q.seq st found facet p v) with
      ownerFs := s.ownerFs.filter fun x => !(x.home == q.home && x.seq == q.seq && x.slot == q.slot) }
  if !readable q.snapshot q.fetchAt then answer s stCutOff false 0 [] []
  else
    match s.fetchSlot q with
    | none => answer s stShort false 0 [] []
    | some (x, sl) =>
      let zero := answer s stPartial true sl.facet (List.replicate x.attr.payloadLen 0) (List.replicate (vecBytes x.attr.fmt x.attr.dim) 0)
      match q.state with
      | 2 =>
        let r := s.record x.attr sl
        answer s stOk true sl.facet (recPayload x.attr r) (s.rankVec q.slot q.object q.snapshot x.attr sl)
      | 4 => answer s stMedia true sl.facet [] []
      | 1 =>
        let fn := match tget s.chans q.slot with | some c => c.fn | none => 0
        let s1 := { s with flash := { s.flash with lateReads := tcount s.flash.lateReads fn 1,
                                                   reads := s.flash.reads.filter fun r => !(r.isFetch && r.home == q.home && r.seq == q.seq && r.slot == q.slot) } }
        if s.frame.exact then
          if readable q.snapshot (s.frame.num + 1) then
            (s1.post q.home q.slot (.fetchRec q.home q.seq stLate true 0 [] [])).mapOwnerF q fun y =>
              { y with state := 3, fetchAt := q.fetchAt + 1 }
          else answer s1 stCutOff false 0 [] []
        else { zero with flash := s1.flash }
      | _ => zero

/-- The FETCHes whose last FETCH frame ends (R346). -/
def State.answerFetches (s : State) : State :=
  (s.ownerFs.filter fun q => q.fetchAt + q.span == s.frame.num + 1).foldl State.answerFetch s

/-! ### Updates -/

/-- The regions or rows' shards that an update works on, with the route entries of their holders now. -/
def State.updateParts (s : State) (c : Cmd) : List (Nat × Nat) :=
  let region := fun (h : Handle) (r : Nat) => (s.routeEntry c.slot h r).map fun e => (r, e)
  match c.op with
  | 0x04 => (dedup [c.target, priorRegion 4 c.entry]).filterMap (region c.object)
  | 0x05 => ([priorRegion 5 c.entry]).filterMap (region c.object)
  | 0x07 =>
    (match s.set? c.slot c.object with
     | some x => (dedup ((editItems (rowCount 7 c.entry) (bufAt (c.bufs.getD []) 0)).map (·.2.1))).filterMap (region x.index)
     | none => [])
  | _ =>
    (match s.table? c.slot c.object with
     | some t => dedup ((rowNumbers (rowCount c.op c.entry) (bufAt (c.bufs.getD []) 0)).map fun r => (r / t.attr.shardRows, t.entry r))
     | none => [])

/-- The object whose holdings an update works on: a SET_EDIT's index. -/
def State.updateObject (s : State) (c : Cmd) : Handle :=
  if c.op = 0x07 then (match s.set? c.slot c.object with | some x => x.index | none => c.object) else c.object

/-- A part without a usable holder: both are OUT_OF_STEP. -/
def State.partLost (s : State) (c : Cmd) (p : Nat × Nat) : Bool :=
  [rtPrimary p.2, rtBuddy p.2].all fun n => s.holdingState n c.slot (s.updateObject c) p.1 == 1

/-- The owners whose reports an update waits for: in exact mode a holder that has gone OUT_OF_STEP is not waited for (R395), in
bounded-loss mode the holder that has become ACTING reports in its place (R396). -/
def State.needed (s : State) (c : Cmd) : List Nat :=
  if c.exact then
    let ps := s.updateParts c
    c.expect.filter fun o =>
      ps.isEmpty || (ps.any fun p => rtHolds p.2 o && s.holdingState o c.slot (s.updateObject c) p.1 != 1) ||
        !(ps.any fun p => rtHolds p.2 o)
  else
    let ps := s.updateParts c
    dedup (c.expect.flatMap fun o =>
      let stands := (ps.filter fun p => rtHolds p.2 o && s.holdingState o c.slot (s.updateObject c) p.1 == 1).map fun p => otherHolder p.2 o
      if stands.isEmpty then [o] else stands)

/-- RESULT of an update (R343). -/
def Cmd.updateResult (c : Cmd) (ok : Bool) : Nat :=
  match c.op with
  | 0x04 => if ok then c.target else priorRegion 4 c.entry
  | 0x07 => (c.reports.map fun r => r.2.2.2.2).sum
  | _ => 0

/-- The report of an APPLY (R205). -/
def applyReport (c : Cmd) : List (Nat × Bytes) :=
  if c.op = 0x03 then
    [(entryAddr c.entry 0x18, toLe 4 (c.reports.map fun r => r.2.2.1).sum ++ toLe 4 (c.reports.map fun r => r.2.2.2.1).sum ++
      toLe 4 c.clipped ++ toLe 4 0)]
  else []

/-- An update's outcome of a status. -/
def Cmd.updateOutcome (c : Cmd) (s : State) (st : Nat) : Done :=
  { c.outcome s st with result := c.updateResult (st == stOk), data := applyReport c }

/-- An update that completed at visibility and is not durable yet (R348). -/
def State.noteVolatile (s : State) (c : Cmd) (need : List Nat) : State :=
  let rest := need.filter fun o => decide (o < 1024) && !c.durables.contains o
  s.mapChan c.slot fun x =>
    { x with volatile := x.volatile ++ [{ land := c.land, seq := c.seq, due := if rest.isEmpty then some s.frame.num else none, expect := rest }] }

/-- An update settled (R42, R207 to R209): CUT_OFF at its visible frame; OK there, or when every replica has reported it durable;
ABANDONED when a report never comes or a part has no holder (DEDUCED, log entry 27). -/
def State.settleUpdate (s : State) (c : Cmd) (atEnd : Bool) : State :=
  let need := s.needed c
  let all := need.all fun o => c.reports.any fun r => r.1 == o
  if c.expect.isEmpty then s
  else if atEnd && (s.updateParts c).any (s.partLost c) then s.settle c.land c.visible (c.updateOutcome s stAbandoned)
  else if !all && !atEnd then s
  else if c.reports.any fun r => r.2.1 == stMedia then s.settle c.land c.visible (c.updateOutcome s stMedia)
  else if c.reports.any fun r => r.2.1 == stCutOff then s.settle c.land c.visible (c.updateOutcome s stCutOff)
  else if !all then s.settle c.land c.visible (c.updateOutcome s stAbandoned)
  else if wantsDurable c.op c.entry then
    if (need.filter fun o => decide (o < 1024)).all c.durables.contains then
      s.settle c.land (if c.op = 0x03 then s.frame.num else c.durableAt) (c.updateOutcome s stOk)
    else s
  else (s.noteVolatile c need).settle c.land c.visible (c.updateOutcome s stOk)

/-! ### All of them -/

/-- A command other than SEARCH settled when what it waits for has come. -/
def State.settleCmd (s : State) (atEnd : Bool) (c : Cmd) : State :=
  match c.op with
  | 0x02 => s.settleLookup c atEnd
  | 0x06 => s.settleFetch c atEnd
  | 0x03 | 0x04 | 0x05 | 0x07 | 0x0A => s.settleUpdate c atEnd
  | _ => s

/-- Admitted commands without an outcome. -/
def State.unsettled (s : State) : List Cmd := s.work.filter fun c => c.adm.isSome && c.done.isNone && c.open

/-- What has come settled. -/
def State.settleAll (s : State) : State := (s.unsettled.foldl (fun acc c => acc.settleCmd false c) s).fences

/-- At the end of a command's last frame: what has not come is missing. -/
def State.settleMissing (s : State) : State :=
  (s.unsettled.filter fun c => decide (s.finalAt c ≤ s.frame.num) &&
      !(isUpdate c.op && wantsDurable c.op c.entry && (s.needed c).all fun o => c.reports.any fun r => r.1 == o)).foldl
    (fun acc c => acc.settleCmd true c) s

/-- STATS writes its class as it stood after the commit window of g (R348). -/
def State.settleStats (s : State) (c : Cmd) : State :=
  match tget s.chans c.slot with
  | none => s
  | some ch =>
    let cls := fld c.entry 0x18 0 8
    let bs := (s.statsData c.slot ch cls (BitVec.ofNat 32 (rd c.entry 0x1C 4))).take (rd c.entry 0x10 4)
    let s1 := { (if flag c.entry 0x18 8 then s.statsClear c.slot cls else s) with freeTick := s.freeTick + 1 }
    s1.settle c.land s.frame.num { c.outcome s stOk with result := bs.length, data := [(entryAddr c.entry 8, bs)] }

/-- Every STATS admitted in the frame before. -/
def State.statsDue (s : State) : State :=
  (s.unsettled.filter fun c => c.op == 0x0B && c.adm.getD 0 + 1 == s.frame.num).foldl State.settleStats s

/-! ### Arrivals -/

/-- PACKET_RECEIVED: the packet is taken, relayed or refused, and what it completes is settled. -/
def execPacketReceived (port : Nat) (p : Packet) (crcOk tagOk : Bool) (words : List (Nat × Nat)) (s : State) : Answer :=
  whenLive (fun s => (s.receive port p crcOk tagOk words).settleMoved.installLate.replayNow.settleAll) s

/-- DURABILITY_REPORT (R208, R209): a holder's programming or checkpoint pass has made an update durable there. -/
def execDurabilityReport (home seq owner : Nat) (s : State) : Answer :=
  whenLive (fun s => if home = s.frame.logicalId then (s.accept (.durable home seq owner)).settleAll else s) s

end Sys2Proof.Machine
end

