-- ==== Sys2Proof/Machine/Cutoff.lean ====
section
/-! DEFINITION. Work that a window has left unfinished (R25, R30, R41 to R44, R49, R92, R111, R216, R318, R460): what the outcome of
a stage's end is, per stage; late reads; completions that the host port has not accepted in time. -/

namespace Sys2Proof.Machine

/-! ### Completions not accepted (R318, R44) -/

/-- A completion entry made CUT_OFF: status, result and detail replaced. -/
def cutEntryBytes (b : Bytes) (result : Nat) : Bytes :=
  b.take 2 ++ toLe 1 stCutOff ++ slice b 3 13 ++ toLe 8 result ++ toLe 8 0

/-- The last write at an address replaced. -/
def rewriteLast (a : Nat) (f : Bytes → Bytes) (l : List Out) : List Out :=
  (l.foldr (fun o acc =>
    match o with
    | .write x b => if !acc.2 && x == a then (.write a (f b) :: acc.1, true) else (o :: acc.1, acc.2)
    | _ => (o :: acc.1, acc.2)) (([] : List Out), false)).1

/-- The last write at an address taken back: it has not been made, or not been accepted. -/
def dropLast (a : Nat) (l : List Out) : List Out :=
  (l.foldr (fun o acc =>
    match o with
    | .write x _ => if !acc.2 && x == a then (acc.1, true) else (o :: acc.1, acc.2)
    | _ => (o :: acc.1, acc.2)) (([] : List Out), false)).1

/-- A command whose completion was written in this frame completes CUT_OFF instead, without its result rows (R42, R44). -/
def State.cutWritten (s : State) (c : Cmd) : State :=
  match c.wrote with
  | none => s
  | some a =>
    let data := match c.done with | some d => d.data | none => []
    let out := data.foldl (fun o p => dropLast p.1 o) (rewriteLast a (fun b => cutEntryBytes b c.failResult) s.out)
    let unsent := (data.map fun p => p.2.length).sum
    let s1 := { s with out := out, member := { s.member with ends := s.member.ends.map fun x =>
      if x.1 = c.slot ∧ x.2.1 = c.ring ∧ x.2.2.1 = c.pos then (x.1, x.2.1, x.2.2.1, cutEntryBytes x.2.2.2 c.failResult) else x } }
    match tget s1.accts c.slot with
    | some y => { s1 with accts := tput s1.accts c.slot { y with inc := setAt y.inc 6 (· - unsent) } }
    | none => s1

/-- RESULT_WRITE_DEADLINE (R318): the cycle of R22 has passed; the commands (slot, landing number) whose result writes have not
been accepted complete CUT_OFF. -/
def State.resultDeadline (s : State) (cmds : List (Nat × Nat)) : State :=
  let late := s.work.filter fun c => c.wrote.isSome && cmds.contains (c.slot, c.land)
  late.foldl State.cutWritten { s with frame := { s.frame with cycle := max s.frame.cycle (s.r22 + 1) } }

def execResultWriteDeadline (cmds : List (Nat × Nat)) (s : State) : Answer :=
  whenLive (fun s => if s.frame.committed then s else s.resultDeadline cmds) s

/-! ### Late reads (R111, R398) -/

/-- The reads of a query that are still outstanding. -/
def OwnerQ.outstanding (q : OwnerQ) : Nat := (q.reads.filter fun r => r.2 == 0).length

/-- A local result that tells of a cut-off or a late read, without entries. -/
def State.emptyLocal (s : State) (q : OwnerQ) (cutOff late : Bool) : Local :=
  { home := q.sc.home, seq := q.sc.seq, owner := s.frame.logicalId, media := false, cutOff := cutOff, late := late, reranked := 0,
    estimated := 0, tied := false, top := [] }

/-- The end of a query's last FETCH window: reads still outstanding are late. In bounded-loss mode their entries keep estimated
scores; in exact mode the home is told and the reads are made again in the next frame, while version g can still be read. -/
def State.lateQuery (s : State) (q : OwnerQ) : State :=
  let n := q.outstanding
  match q.rerank with
  | none => s
  | some rr =>
    if n = 0 ∨ !q.planned ∨ q.fetchAt + rr.span ≠ s.frame.num + 1 then s
    else
      let fn := match tget s.chans q.sc.slot with | some c => c.fn | none => 0
      let s1 := { s with flash := { s.flash with
        lateReads := tcount s.flash.lateReads fn n
        reads := s.flash.reads.filter fun r => r.isFetch || !(r.home == q.sc.home && r.seq == q.sc.seq && r.slot == q.sc.slot) } }
      if !s.frame.exact then
        s1.mapOwner q fun y => { y with reads := y.reads.map fun r => if r.2 = 0 then (r.1, 2) else r }
      else if readable q.sc.snapshot (s.frame.num + 2) then
        (s1.mapOwner q fun y => { y with fetchAt := y.fetchAt + 1 }).post q.sc.home q.sc.slot (.locals (s.emptyLocal q false true))
      else
        (s1.mapOwner q fun y => { y with rerank := none }).post q.sc.home q.sc.slot (.locals (s.emptyLocal q true false))

/-- Every late read of the frame that ends. -/
def State.lateReads (s : State) : State := s.ownerQs.foldl State.lateQuery s

/-! ### Work of a stage cut off -/

/-- Which commands a cut-off concerns: by home and admission sequence. -/
abbrev Pick := Nat → Nat → Bool

/-- Commands of this home cut off, with their number. -/
def State.cutHome (s : State) (slot : Nat) (pick : Pick) (at_ : Cmd → Bool) : State × Nat :=
  let cs := (s.admitted slot).filter fun c => pick s.frame.logicalId c.seq && at_ c
  (cs.foldl State.cutCmd s, cs.length)

/-- An update message of this home's commands, by sequence number. -/
def isUpdateOf (me : Nat) (seqs : List Nat) : Msg → Bool
  | .update u => u.home == me && seqs.contains u.seq
  | _ => false

/-- Updates that a cut-off routing has sent taken back (R25). -/
def State.unsend (s : State) (seqs : List Nat) : State :=
  { s with
    updIn := s.updIn.filter fun x => !(x.2.home == s.frame.logicalId && seqs.contains x.2.seq)
    member := { s.member with sends := s.member.sends.filter fun m => !isUpdateOf s.frame.logicalId seqs m.2 }
    ports := s.ports.map fun p => { p with queue := p.queue.filter fun q => !isUpdateOf s.frame.logicalId seqs q.pkt.msg } }

/-- A command that an ADMIT window leaves not admitted (R30): its charges and what it has begun are taken back, and it is deferred. -/
def State.unadmit (s : State) (c : Cmd) : State :=
  let charges := s.charges c.exact c.slot c.op c.entry
  let s1 := (s.mapChan c.slot fun x => { x with homeUsed := List.zipWith (· - ·) x.homeUsed charges }).mapAcct c.slot fun a =>
    { a with admitted := a.admitted - 1 }
  let back := fun (x : Cmd) => { x with adm := none, q := none, expect := [], done := none }
  ((s1.unsend [c.seq]).mapCmd c.land back).deferCmd (back c)

/-- A SCATTER packet that still waits at the end of its window goes in the retry slot, or is lost on that link (R30, R287). -/
def State.retryScatter (s : State) (port : Nat) (q : Queued) : State :=
  let x := s.port port
  let n := wireBytes x.encrypted q.pkt
  let s1 := s.mapPort port fun y => { y with queue := y.queue.filter fun z => z != q }
  if x.retryLeft < n then s1.mapPort port fun y => { y with overflow := y.overflow + 1 }
  else (s1.putOut port q).mapPort port fun y => { y with retries := y.retries + 1, retryLeft := y.retryLeft - n }

/-- The SCATTER packets of some queries that wait at the ports. -/
def State.retryScatters (s : State) (slot : Nat) (pick : Pick) : State :=
  let mine := fun (q : Queued) => !q.relayed && match q.pkt.msg with
    | .scatter m => m.slot == slot && m.home == s.frame.logicalId && pick m.home m.seq
    | _ => false
  (List.range 8).foldl (fun acc p => ((s.port p).queue.filter mine).foldl (fun a q => a.retryScatter p q) acc) s

/-- The list of an extent that a packet of this node carries: object, region and list. -/
def extentOf (slot : Nat) (q : Queued) : Option (Handle × Nat × Nat) :=
  match q.relayed, q.pkt.msg with
  | false, .move _ (.extent n object region list ..) => if n = slot then some (object, region, list) else none
  | _, _ => none

/-- Extents that a MIGRATE window has not carried whole: they are sent again, whole, from a newer version; records wait in their order
(R92). -/
def State.recallExtents (s : State) (slot : Nat) : State :=
  let gone := s.ports.flatMap fun p => p.queue.filterMap (extentOf slot)
  { s with
    ports := s.ports.map fun p => { p with queue := p.queue.filter fun q => (extentOf slot q).isNone }
    migs := s.migs.map fun m =>
      if m.slot = slot ∧ m.source ∧ (gone.any fun g => g.1 == m.object && g.2.1 == m.number) then
        { m with extents := m.extents.filter (fun l => !gone.contains (m.object, m.number, l)), ended := none } else m }

/-- Whether a derived set filters a query (R30, R235). -/
def State.filteredByDerived (s : State) (q : OwnerQ) : Bool :=
  match q.sc.filter with
  | .allow h => (match tget s.sets (objKey q.sc.slot h) with | some x => x.derived | none => false)
  | _ => false

/-- The candidate lists of this frame replaced by a cut-off notice. -/
def State.cutScan (s : State) (q : OwnerQ) : State :=
  let mine := fun (m : Nat × Nat × Nat × Msg) => match m.2.2.2 with
    | .cands x => x.home == q.sc.home && x.seq == q.sc.seq && m.2.2.1 == q.sc.slot
    | _ => false
  ({ s with outbox := s.outbox.filter fun m => !mine m }.mapOwner q fun y => { y with cutOff := true }).sendCands q [] 0 true []

/-- The local result of this frame replaced by a cut-off notice. -/
def State.cutRank (s : State) (q : OwnerQ) : State :=
  let mine := fun (m : Nat × Nat × Nat × Msg) => match m.2.2.2 with
    | .locals x => x.home == q.sc.home && x.seq == q.sc.seq && m.2.2.1 == q.sc.slot
    | _ => false
  ({ s with outbox := s.outbox.filter fun m => !mine m }.mapOwner q fun y =>
    { y with rerank := none, ranked := [], rows := [], layer := 0 }).post q.sc.home q.sc.slot (.locals (s.emptyLocal q true false))

/-- Whether an owner's part of a query for a slot has left its result of this frame: candidates, or a local result. -/
def State.posted (s : State) (q : OwnerQ) (scan : Bool) : Bool :=
  s.outbox.any fun m => m.2.2.1 == q.sc.slot && match m.2.2.2 with
    | .cands x => scan && x.home == q.sc.home && x.seq == q.sc.seq
    | .locals x => !scan && x.home == q.sc.home && x.seq == q.sc.seq
    | _ => false

/-- The owner's queries at ROUTE_2 or SCAN in this frame. -/
def State.scanning (s : State) (slot : Nat) : List OwnerQ :=
  s.ownerQs.filter fun q => q.sc.slot == slot && ((!q.scanned && q.frame == s.frame.num) || s.posted q true)

/-- The owner's queries at RANK or RESCORE in this frame. -/
def State.ranking (s : State) (slot : Nat) : List OwnerQ :=
  s.ownerQs.filter fun q => q.sc.slot == slot &&
    ((match q.rerank with | some rr => q.planned && q.fetchAt + rr.span == s.frame.num | none => false) || s.posted q false)

/-- The answers to LOOKUP requests of this frame replaced by cut-off ones. -/
def State.cutLookups (s : State) (slot : Nat) (pick : Pick) : State × Nat :=
  let cut := fun (m : Nat × Nat × Nat × Msg) => match m.2.2.2 with
    | .lookupRows home seq _ false _ => m.2.2.1 == slot && pick home seq
    | _ => false
  let f := fun (m : Nat × Nat × Nat × Msg) => match m.2.2.2 with
    | .lookupRows home seq o false _ => if m.2.2.1 == slot && pick home seq then (m.1, m.2.1, m.2.2.1, Msg.lookupRows home seq o true []) else m
    | _ => m
  ({ s with outbox := s.outbox.map f }, (s.outbox.filter cut).length)

/-- An update that the array made itself (R215). -/
def Upd.internal (u : Upd) : Bool := match u.body with | .bound .. => !updOnRows u | _ => false

/-- Updates staged in this frame cut off (R25): nothing of them is published. Those that the array made itself are carried to the
next frame's UPDATE_STAGE (R216). -/
def State.cutStaging (s : State) (slot : Nat) (rows : Bool) (pick : Pick) : State × Nat :=
  let hit := fun (x : Upd × Bool) => x.1.slot == slot && updOnRows x.1 == rows && x.2 && pick x.1.home x.1.seq
  let gone := s.took.filter hit
  let carried := (gone.filter fun x => Upd.internal x.1).map (·.1)
  let s1 := { s.unstage carried with
    took := (s.took.filter fun x => !(hit x && Upd.internal x.1)).map fun x => if hit x then (x.1, false) else x
    heldUpd := s.heldUpd ++ carried.map fun u => (s.frame.num + 1, u) }
  (if gone.isEmpty then s1 else if rows then s1.restageRows slot else s1.restageRegions slot,
   (dedup ((gone.filter fun x => !Upd.internal x.1).map fun x => (x.1.home, x.1.seq))).length)

/-- Upserts whose routing at this owner is cut off (R182, R30): they are reported cut off, whether UPDATE_STAGE has taken them up or
not. -/
def State.cutRouted (s : State) (slot : Nat) (pick : Pick) : State × Nat :=
  let us := (s.routedUpserts slot).filter fun u => pick u.home u.seq && !(s.took.contains (u, false))
  let hit := fun (u : Upd) => us.contains u
  let s1 := { s with
    updIn := s.updIn.filter fun x => !hit x.2
    took := (s.took.map fun (x : Upd × Bool) => if hit x.1 then (x.1, false) else x) ++
      (us.filter fun u => !(s.took.any fun x => x.1 == u)).map fun u => (u, false) }
  (if us.isEmpty then s else s1.restageRegions slot, (dedup (us.map fun u => (u.home, u.seq))).length)

/-- The unfinished work of a stage takes the outcome of R30; the number of commands that are cut off. What resumes in a later window
of its stage is left as it was before this one (COMPACT, BUILD). -/
def State.cutWork (s : State) (stage slot : Nat) (pick : Pick) : State × Nat :=
  let me := s.frame.logicalId
  match stage with
  | 0x01 =>
    (((s.work.filter fun c => c.slot == slot && c.adm == some s.frame.num && c.open && pick me c.seq)).foldl State.unadmit s, 0)
  | 0x03 => (s.retryScatters slot pick, 0)
  | 0x22 => (s.recallExtents slot, 0)
  | 0x02 =>
    let seqs := ((s.admitted slot).filter fun c => pick me c.seq && c.adm == some s.frame.num).map (·.seq)
    (s.cutHome slot pick fun c => c.adm == some s.frame.num && (c.op == 0x01 || c.op == 0x04)) |> fun r => (r.1.unsend seqs, r.2)
  | 0x06 => s.cutHome slot pick fun c => c.op == 0x01 && c.adm.getD 0 + 2 + c.delay == s.frame.num
  | 0x0A =>
    let r := s.cutHome slot pick fun c => c.op == 0x01 && s.deliverAt c == s.frame.num
    let ws := s.work.filter fun c => c.slot == slot && c.op == 0x01 && c.wrote.isSome && pick me c.seq
    (ws.foldl State.cutWritten r.1, r.2 + ws.length)
  | 0x04 | 0x05 =>
    let qs := (s.scanning slot).filter fun q => pick q.sc.home q.sc.seq
    let r := if stage = 0x04 then s.cutRouted slot pick else (s, 0)
    (qs.foldl State.cutScan r.1, qs.length + r.2)
  | 0x32 =>
    let qs := (s.scanning slot).filter fun q => pick q.sc.home q.sc.seq && s.filteredByDerived q
    let used := qs.filterMap fun q => match q.sc.filter with | .allow h => some (objKey slot h) | _ => none
    let undone := fun (p : Nat × AllowSet) => if used.contains p.1 ∧ p.2.derived then (p.1, { p.2 with fresh := true }) else p
    (qs.foldl State.cutScan { s with sets := s.sets.map undone }, qs.length)
  | 0x07 => ((s.ownerQs.filter fun q => q.sc.slot == slot && pick q.sc.home q.sc.seq).foldl State.lateQuery s, 0)
  | 0x08 | 0x09 =>
    let qs := (s.ranking slot).filter fun q => pick q.sc.home q.sc.seq
    (qs.foldl State.cutRank s, qs.length)
  | 0x10 => s.cutLookups slot pick
  | 0x11 => s.cutStaging slot true pick
  | 0x12 => s.cutStaging slot false pick
  | 0x20 => ({ s with listOps := s.listOps.map fun o => if o.slot = slot then { o with ready := none } else o }, 0)
  | 0x23 => ({ s with builds := s.builds.map fun b => if b.slot = slot then { b with left := max 1 b.left } else b }, 0)
  | 0x30 | 0x31 => (s.fault slot 3 0, 0)
  | _ => (s, 0)

/-- A stage cut off at an easel entry, with its event (R44). -/
def State.cutStage (s : State) (stage entry slot : Nat) (pick : Pick) : State :=
  let r := s.cutWork stage slot pick
  r.1.cutEvent slot stage entry r.2

/-- The queries whose SCAN work the frame's windows have not finished are cut off, at the channel's last SCAN window (R155). -/
def State.cutScans (s : State) : State :=
  (dedup (s.scanParts.map (·.slot))).foldl (fun acc slot =>
    let late := acc.scanLate slot
    let acc := acc.account slot 0 (acc.scanRun slot).spent
    match (acc.scanWindows slot).getLast? with
    | some w => if late.isEmpty then acc else acc.cutStage 0x05 w.1 slot fun h q => late.contains (h, q)
    | none => acc) s

/-! ### The array stages and what their arrays do not finish (R184) -/

/-- The commands whose rows lie in units that a window's arrays do not finish are cut off. -/
def State.cutLate (s : State) (stage entry : Nat) (e : EaselEntry) (arrays : Nat) (jobs : List Job) : State :=
  let late := lateIds e.shape arrays (s.bufferRoom e) e.length jobs
  if late.isEmpty || arrays == 0 then s else s.cutStage stage entry e.slot fun h q => late.contains (h, q)

/-- ROUTE_1. -/
def execRoute1 (w : ReadWindow) (s : State) : Answer :=
  inWindow w.entry 0x02 (fun e s => ((s.meetFaults e.slot w.faults).route1 e).cutLate 0x02 w.entry e (s.arraysOf e) (s.route1Jobs (s.route1Cmds e.slot))) s

/-- ROUTE_2. -/
def execRoute2 (w : ReadWindow) (s : State) : Answer :=
  inWindow w.entry 0x04 (fun e s => ((s.meetFaults e.slot w.faults).route2 e).cutLate 0x04 w.entry e (s.arraysOf e) (s.route2Jobs e.slot (s.route2Queries e.slot))) s

/-- RESCORE. -/
def execRescore (w : ReadWindow) (s : State) : Answer :=
  inWindow w.entry 0x09 (fun e s => ((s.meetFaults e.slot w.faults).rescoreWindow e).cutLate 0x09 w.entry e (s.arraysOf e) (s.rescoreJobs e).2) s

/-- UPDATE_STAGE. -/
def execUpdateStage (w : ReadWindow) (s : State) : Answer :=
  inWindow w.entry 0x12 (fun e s =>
    ((s.meetFaults e.slot w.faults).updateStage e).cutLate 0x12 w.entry e (s.arraysOf e) (s.updateJobs e.slot ((s.sendFresh e.slot).regionArrivals e.slot))) s

/-- STAGE_CUT_OFF: the commands (home, sequence) whose work was unfinished when the window ended. -/
def execStageCutOff (stage entry slot : Nat) (cmds : List (Nat × Nat)) (s : State) : Answer :=
  whenLive (fun s => if s.frame.committed then s else s.cutStage stage entry slot fun h q => cmds.contains (h, q)) s

/-- Step 1 of the commit window (R24, R44): the work of an engine that is still busy is cut off, in the entry whose window ran last. -/
def State.drainCheck (s : State) (busy : List Nat) : State :=
  let ran := match s.easel.inForce with
    | some ea => s.frame.ran.filterMap fun n => (ea.entries[n]?).map fun e => (n, e)
    | none => []
  busy.foldl (fun acc st =>
    let es := ran.filter fun p => p.2.stage == st && !p.2.isNode
    (dedup (es.map fun p => p.2.slot)).foldl (fun a slot =>
      match es.find? fun p => p.2.slot == slot with
      | some p => a.cutStage st p.1 slot fun _ _ => true
      | none => a) acc) s

/-! ### Stages without a window (R460, R187) -/

/-- The easel entry that a stage without a window is cut off at: 0xFFF when there is none for the slot in this frame, the entry when none
claims what the stage needs, or no array of it is left in service (R45, R187), none when the stage has its window. -/
def State.cutAt (s : State) (slot stage : Nat) : Option Nat :=
  match s.easel.inForce, tget s.chans slot with
  | some ea, some c =>
    let es := (ea.entries.mapIdx fun i e => (i, e)).filter fun p =>
      p.2.stage == stage && p.2.names slot c && p.2.takesPart ea.hyper s.frame.num
    (match es.head? with
     | none => some 0xFFF
     | some p => if es.all fun q => !s.able q.2 then some p.1 else none)
  | _, _ => some 0xFFF

/-- A home stage without a window: what is still waiting for it is cut off. -/
def State.missHome (s : State) (slot stage : Nat) (waits : Cmd → Bool) : State :=
  match s.cutAt slot stage with
  | none => s
  | some n =>
    let cs := (s.admitted slot).filter waits
    (cs.foldl State.cutCmd s).cutEvent slot stage n cs.length

/-- A SEARCH that stands before a step in the frame of that step. -/
def atStep (num step offset : Nat) (c : Cmd) : Bool :=
  c.op == 0x01 && (match c.q with | some q => q.step == step && c.adm.getD 0 + offset + q.delay == num && !q.cut | none => false)

/-- The owner's queries that wait for SCAN, for RANK or for a RESCORE layer without a window. -/
def State.missOwner (s : State) (slot stage : Nat) (qs : List OwnerQ) (cut : State → OwnerQ → State) : State :=
  match s.cutAt slot stage with
  | none => s
  | some n => (qs.foldl cut s).cutEvent slot stage n qs.length

/-- ROUTE_2 without a window: the owner's queries and the upserts it should have routed are cut off (R182, R460). -/
def State.missRoute2 (s : State) (slot : Nat) (qs : List OwnerQ) : State :=
  match s.cutAt slot 0x04 with
  | none => s
  | some n =>
    let r := s.cutRouted slot fun _ _ => true
    (qs.foldl State.cutScan r.1).cutEvent slot 0x04 n (qs.length + r.2)

/-- Without a FETCH window L = 0 (R273): every entry keeps its estimated score, a FETCH reads nothing; no status changes for it. -/
def State.missFetch (s : State) (slot : Nat) : State :=
  match s.cutAt slot 0x07 with
  | none => s
  | some _ =>
    { s with
      ownerQs := s.ownerQs.map fun q =>
        match q.rerank with
        | some rr => if q.sc.slot = slot ∧ !q.planned ∧ q.fetchAt = s.frame.num then
            { q with planned := true, beyond := rr.entries, reads := [] } else q
        | none => q
      ownerFs := s.ownerFs.map fun q => if q.slot = slot ∧ q.state = 0 ∧ q.fetchAt = s.frame.num then { q with state := 5 } else q }

/-- LOOKUP requests of a slot without a window are cut off; those that came after it are lost inputs (R120). -/
def State.missLookup (s : State) (slot : Nat) : State :=
  let qs := s.lookupReqs slot
  let s := qs.foldl (fun acc q => acc.countRows slot q.object (q.rows.map (·.2))) s
  let drop := fun (s : State) => { s with inbox := s.inbox.filter fun x => !isLookupReq slot x }
  match s.cutAt slot 0x10 with
  | some n => (qs.foldl (fun acc q => acc.post q.home slot (.lookupRows q.home q.seq acc.frame.logicalId true [])) (drop s)).cutEvent slot
      0x10 n qs.length
  | none => if s.frame.exact then s else drop s

/-- Updates due in this frame that no APPLY_STAGE or UPDATE_STAGE has taken up: cut off where there was no window, else lost inputs
(R120). -/
def State.missUpdates (s : State) (slot : Nat) (rows : Bool) : State :=
  let due := s.updIn.filter fun x => x.2.slot == slot && updOnRows x.2 == rows && decide (x.2.frame + 1 ≤ s.frame.num)
  let us := (due.filter fun x => x.2.frame + 1 == s.frame.num).map (·.2)
  let s1 := { s with
    updIn := s.updIn.filter fun x => !due.contains x
    heldUpd := s.heldUpd.map fun x => if x.2.slot = slot ∧ !rows ∧ x.1 ≤ s.frame.num then (s.frame.num + 1, x.2) else x }
  let stage := if rows then 0x11 else 0x12
  match s.cutAt slot stage with
  | none => s1
  | some n =>
    let ext := us.filter fun u => !Upd.internal u
    let s2 := { s1 with heldUpd := s1.heldUpd ++ (us.filter Upd.internal).map fun u => (s.frame.num + 1, u) }
    let s3 := if rows then s2.reportRows (ext.map fun u => (u, false)) else (ext.map fun u => (u, false)).foldl State.stageReport s2
    s3.cutEvent slot stage n (dedup (ext.map fun u => (u.home, u.seq))).length

/-- A SEARCH that is to be delivered in a frame without a DELIVER window completes in it all the same, since such a window
counts as ended at its first cycle (R460, R42). -/
def State.missDeliver (s : State) : State :=
  ((s.chans.filter fun p => p.2.st == .active || p.2.st == .detached).map (·.1)).foldl (fun acc slot =>
    acc.missHome slot 0x0A (atStep acc.frame.num 3 (4 + acc.span slot))) s

/-- What the channel in a slot needed in this frame and had no window for. -/
def State.missSlot (s : State) (slot : Nat) : State :=
  let num := s.frame.num
  let up := fun (c : Cmd) => c.op == 0x04 && c.adm == some num && c.target == 0xFFFFFFFF && c.expect.isEmpty
  let s1 := s.missHome slot 0x02 fun c => atStep num 0 0 c || up c
  let s2 := s1.missHome slot 0x03 (atStep num 1 1)
  let s3 := s2.missHome slot 0x06 (atStep num 2 2)
  let s4 := s3.missHome slot 0x0A (atStep num 3 (4 + s.span slot))
  let now := fun (s : State) => s.ownerQs.filter fun q => q.sc.slot == slot && q.frame == num && !q.scanned
  let s5 := s4.missRoute2 slot ((now s4).filter fun q => !q.routed)
  let s6 := s5.missOwner slot 0x05 ((now s5).filter fun q => q.routed) State.cutScan
  let s7 := s6.missFetch slot
  let ranks := fun (s : State) => (s.rankable slot).map (·.1)
  let s8 := s7.missOwner slot 0x08 ((ranks s7).filter fun q => q.rows.isEmpty && q.ranked.isEmpty) State.cutRank
  let s9 := (((ranks s8).filter fun q => !q.rows.isEmpty).filter fun q =>
      !((s8.windowsOf slot 0x09).any fun e => e.arg == q.layer && s8.able e)).foldl (fun acc q =>
    (acc.cutRank q).cutEvent slot 0x09 ((s8.cutAt slot 0x09).getD 0xFFF) 1) s8
  ((s9.missLookup slot).missUpdates slot true).missUpdates slot false

/-- Every stage without a window in this frame: of channels that have their windows (R26). -/
def State.missWindows (s : State) : State :=
  ((s.chans.filter fun p => p.2.st == .active || p.2.st == .detached).map (·.1)).foldl State.missSlot s

end Sys2Proof.Machine
end

