-- ==== Sys2Proof/Machine/Enumerate.lean ====
section
/-! DEFINITION. Enumeration and training of the flash channels (R251 to R253), and the map that a cold start loads (R258). -/

namespace Sys2Proof.Machine

/-! ### Profiles and topology -/

/-- Whether the values of a profile lie in the ranges of R252. -/
def profileOk (p : Profile) : Bool :=
  (p.planes == 2 || p.planes == 4) && p.page == 16384 && decide (2048 ≤ p.spare) && decide (64 ≤ p.pages ∧ p.pages ≤ 4096) &&
  decide (p.tR ≤ 20000 ∧ p.tRSlc ≤ 20000 ∧ p.tSus ≤ 20000) &&
  decide (p.tProgSlc ≤ 100000 ∧ p.tProg ≤ 5000000 ∧ p.tBers ≤ 20000000) && decide (1 ≤ p.retry ∧ p.retry ≤ 15)

/-- A rate at which NV-LPDDR4 is used (R251). -/
def flashRate (r : Nat) : Bool := [3600, 3200, 2400, 1600].contains r

/-- The dies of a channel can be used: a profile is there and its values are accepted, every required feature is there, and the chip
enables and LUNs are numbers of R251. -/
def usable (c : FlashFound) : Bool :=
  (match c.profile with | some p => profileOk p | none => false) && c.features && [1, 2, 4].contains c.ces && [1, 2, 4].contains c.luns

/-- Two channels alike: chip enables, LUNs and profile (R253). -/
def alike (a b : FlashFound) : Bool := a.ces == b.ces && a.luns == b.luns && a.profile == b.profile

/-- The first channels of a class, as many as give a number of dies that is a multiple of 16 and at most 384 (R253). -/
def topologyOf (l : List (Nat × FlashFound)) (c : FlashFound) : List (Nat × FlashFound) :=
  let mine := l.filter fun x => alike x.2 c
  let d := max 1 (c.ces * c.luns)
  mine.take (((List.range (mine.length + 1)).filter fun n => n * d % 16 == 0 && decide (n * d ≤ 384)).foldl max 0)

/-- The largest set of whole channels, in ascending channel number, that satisfies R253; of two as large, the one with the lower first
channel (DESIGN CHOICE, log entry 86). -/
def topology (found : List (Nat × FlashFound)) : List (Nat × FlashFound) :=
  let l := sortBy (fun a b => decide (a.1 < b.1)) (found.filter fun c => usable c.2 && decide (c.1 < 24))
  l.foldl (fun best c => let t := topologyOf l c.2; if best.length < t.length then t else best) []

/-- A mask of channels. -/
def channelMask (l : List Nat) : Nat := l.foldl setBit 0

/-- Training of flash channels (R251, R276): the highest rate that passed, or the channel is retired. -/
def State.trainFlash (s : State) (l : List (Nat × Option Nat)) : State :=
  l.foldl (fun acc c =>
    match c.2 with
    | some r => if flashRate r then acc.mapFlash fun f => { f with rates := tput f.rates c.1 r } else acc.retireFlash c.1 1
    | none => acc.retireFlash c.1 1) s

/-- What enumeration found: the channels of the topology are in service, the rest is reported unused (R253). -/
def Flash.enumerated (f : Flash) (found : List (Nat × FlashFound)) : Flash :=
  let t := topology found
  let mask := channelMask (t.map (·.1))
  let c := (t.head?.map (·.2)).getD { ces := 0, luns := 0, profile := none, features := false, rate := none }
  let old := fun d => hasBit f.live (f.channelOf d)
  { f with live := mask, populated := mask, unused := channelMask ((found.map (·.1)).filter fun n => !hasBit mask n),
           dies := t.length * c.ces * c.luns, profile := c.profile.getD f.profile, rates := [],
           deadDies := f.deadDies.filter old }

/-- The channels to be trained, with what training gave. -/
def trainings (found : List (Nat × FlashFound)) (mask : Nat) : List (Nat × Option Nat) :=
  (found.filter fun c => hasBit mask c.1).map fun c => (c.1, c.2.rate)

/-! ### The map of a cold start -/

/-- A map change of the journal replayed (R258). -/
def replayMap (writes : Tbl Nat) (m : Tbl MapEntry) (e : JEntry) : Tbl MapEntry :=
  match e.typ, e.body with
  | 6, [folio, n] =>
    if tgetD writes (folio / 13094) 0 ≤ e.frame then (match MapEntry.ofBits n with | some x => tput m folio x | none => tdel m folio) else m
  | _, _ => m

/-- The map that start-up loads (R258): every map folio, then the journalled changes from its write frame on. The changes replayed count as
saved, so that no later start replays them out of their order. -/
def Flash.loadMap (f : Flash) : Flash :=
  let m := f.journal.foldl (replayMap f.mapWrites) f.mapSaved
  { f with map := m, mapSaved := m, dirtyMap := [], journal := f.journal.map fun e => if e.typ = 6 then { e with body := [] } else e }

/-- The last change of each folio among the last 2,048 journalled map changes equals its map entry: the check of a warm start (R434). -/
def Flash.mapAgrees (f : Flash) : Bool :=
  let l := (f.journal.filter fun e => e.typ == 6).reverse.take 2048
  let last := l.foldl (fun (t : Tbl Nat) e => match e.body with | [folio, n] => if (tget t folio).isSome then t else tput t folio n | _ => t) []
  last.all fun p => (match tget f.map p.1 with | some m => m.bits | none => 0) == p.2

end Sys2Proof.Machine
end

