-- ==== Sys2Proof/Machine/Media.lean ====
section
/-! DEFINITION. What the media report (R112, R217, R226 to R231, R236, R238, R256, R263, R268, R275): ends of flash reads,
programs and erases, timeouts, scrub visits, near-bank row steps, zeroed units; and table checkpoint passes (R209). -/

namespace Sys2Proof.Machine

/-! ### Reads -/

/-- The record that a read is for: its index's attributes and slot, if they are still there. -/
def State.readTarget (s : State) (r : FRead) : Option (IndexAttr × Slot) :=
  if r.isFetch then
    (s.ownerFs.find? fun q => q.home == r.home && q.seq == r.seq && q.slot == r.slot).bind fun q =>
      (s.fetchSlot q).map fun p => (p.1.attr, p.2)
  else
    (s.ownerQs.find? fun q => q.sc.home == r.home && q.sc.seq == r.seq && q.sc.slot == r.slot).bind fun q =>
      (q.reads.find? fun c => c.1.key == r.key).bind fun c =>
        (s.entrySlot q.sc.slot q.sc.object q.sc.snapshot c.1).map fun p => (p.1.attr, p.2)

/-- The outcome of a read noted at its query or FETCH: 1 read, 3 uncorrectable. -/
def State.noteRead (s : State) (r : FRead) (o : Nat) : State :=
  if r.isFetch then
    { s with ownerFs := s.ownerFs.map fun q =>
        if q.home = r.home ∧ q.seq = r.seq ∧ q.slot = r.slot ∧ q.state = 1 then { q with state := if o = 1 then 2 else 4 } else q }
  else
    { s with ownerQs := s.ownerQs.map fun q =>
        if q.sc.home = r.home ∧ q.sc.seq = r.seq ∧ q.sc.slot = r.slot then
          { q with reads := q.reads.map fun c => if c.1.key = r.key ∧ c.2 = 0 then (c.1, o) else c }
        else q }

/-- One of the 32-bit read counters of R278 for a channel's function. -/
def State.fnOf (s : State) (slot : Nat) : Nat := match tget s.chans slot with | some c => c.fn | none => 0

/-- Codeword reads of a climb (R256): a codeword that reached a step was transferred at step 1 and at each level of step 2 tried, and at step 3
at two offsets more. -/
def climbReads (levels : Nat) (c : Nat × Nat × Nat) : Nat :=
  match c.2.1 with
  | 0 => 0
  | 1 => 1
  | 2 => 1 + c.2.2
  | _ => 3 + levels

/-- The highest step that the codewords of a read reached. -/
def climbStep (cs : List (Nat × Nat × Nat)) : Nat := cs.foldl (fun m c => max m c.2.1) 0

/-- Data bytes of a read (R355): 64 for each segment, 4,096 for each codeword transferred at steps 1 to 3. -/
def State.countRead (s : State) (r : FRead) (cs : List (Nat × Nat × Nat)) : State :=
  let segs := match s.readTarget r with | some (a, sl) => recordSegments a sl.record | none => 0
  s.account r.slot 3 (64 * segs + 4096 * (cs.map (climbReads s.flash.profile.retry)).sum)

/-- The codewords that a read touches (R255), each climbed to step 3 without success. -/
def State.failedClimb (s : State) (r : FRead) : List (Nat × Nat × Nat) :=
  match s.readTarget r with
  | some (a, sl) =>
    let o := 64 + sl.record * recordSize a
    (List.range ((o + recordSize a - 1) / 4096 - o / 4096 + 1)).map fun i => (o / 4096 + i, 4, s.flash.profile.retry)
  | none => []

/-- A block's relocation scheduled. -/
def State.scheduleMove (s : State) (folio : Nat) : State :=
  match tget s.flash.map folio with
  | some m => s.mapFlash fun f => { f with relocate := dedup (f.relocate ++ [(m.die, m.slot / max 1 f.profile.pages)]) }
  | none => s

/-- A folio to be rebuilt from its quire, if a quire still covers its block (R256, R270). -/
def State.wantRebuild (s : State) (folio : Nat) : State :=
  if s.flash.covered folio then s.mapFlash fun f => { f with rebuild := dedup (f.rebuild ++ [folio]) } else s

/-- The place of a folio verified by read-back (R270). -/
def State.markChecked (s : State) (folio : Nat) : State :=
  match tget s.flash.map folio with
  | some m => s.mapFlash fun f => f.mapBlock m.die (f.blockOf m.slot) fun b => { b with checked := insNat (m.slot % max 1 f.profile.pages) b.checked }
  | none => s

/-- The end of a background read. Patrol schedules a relocation where a segment needed step 2 or more (R266). Read-back goes through step 1: a
page that fails it is rebuilt from the quire and the block relocated (R270). -/
def State.backDone (s : State) (r : FRead) (o : ReadOutcome) : State :=
  match o with
  | .late => s
  | .data cs =>
    if 2 ≤ climbStep cs then
      if r.back = 2 then (s.wantRebuild r.folio).scheduleMove r.folio else s.scheduleMove r.folio
    else if r.back = 2 then s.markChecked r.folio else s
  | .uncorrectable => (s.wantRebuild r.folio).scheduleMove r.folio

/-- FLASH_READ_COMPLETE (R256): data with the step that each codeword reached, uncorrectable (R112), or late: a late read is abandoned, and the
end of its span settles it (R111). -/
def State.readDone (s : State) (id : Nat) (o : ReadOutcome) : State :=
  match s.flash.reads.find? fun r => r.id == id with
  | none => s
  | some r =>
    let fn := s.fnOf r.slot
    let s1 := s.mapFlash fun f =>
      let g := { f with reads := f.reads.filter (fun x => x.id != id), timeouts := f.timeouts.filter fun t => t.1 != r.die }
      match tget f.map r.folio with
      | some m => g.mapBlock m.die (f.blockOf m.slot) fun b => { b with reads := b.reads + 1 }
      | none => g
    if r.back ≠ 0 then s1.backDone r o
    else match o with
    | .late => s1
    | .data cs =>
      let s2 := (s1.countRead r cs).noteRead r 1
      let s3 := if climbStep cs = 0 then s2
        else (s2.mapFlash fun f => { f with retried := tcount f.retried fn 1 }).faultRecordOf (s.handleAt r.slot) 0 7 r.die 0 0
      if 3 ≤ climbStep cs then s3.scheduleMove r.folio else s3
    | .uncorrectable =>
      let s2 := (s1.countRead r (s.failedClimb r)).noteRead r 3
      let s3 := s2.mapFlash fun f => { f with retried := tcount f.retried fn 1, uncorr := tcount f.uncorr fn 1 }
      let obj := match s.ownerQs.find? fun q => q.sc.home == r.home && q.sc.seq == r.seq && q.sc.slot == r.slot with
        | some q => q.sc.object.toNat
        | none => (match s.ownerFs.find? fun q => q.home == r.home && q.seq == r.seq && q.slot == r.slot with
          | some q => q.object.toNat
          | none => 0)
      (s3.logAdd 0x01 (s.handleAt r.slot) obj r.key.toNat 0).faultRecordOf (s.handleAt r.slot) obj 7 r.die 0 1

def execFlashReadComplete (id : Nat) (o : ReadOutcome) (s : State) : Answer := whenLive (fun s => s.readDone id o) s

/-! ### Checkpoint passes (R209) -/

/-- A pass closed: recorded in the journal; an APPLY with DURABLE published at its start or earlier is durable here. -/
def State.closePass (s : State) (slot : Nat) (h : Handle) (start : Nat) : State :=
  let s1 := (s.mapTable slot h fun t => { t with pass := none, closed := start }).mapFlash fun f =>
    { f with jPending := f.jPending ++ [{ typ := 7, slot := slot, object := h, frame := s.frame.num, body := [start], undo := [] }] }
  let mine := fun (d : Dur) => d.apply && d.slot == slot && d.object == h && decide (d.frame ≤ start)
  (s1.durs.filter mine).foldl (fun acc d => acc.postAt (s.frame.num + 1) d.home d.slot (.durable d.home d.seq s.frame.logicalId))
    { s1 with durs := s1.durs.filter fun d => !mine d }

/-- A pass starts with the rows changed since the previous one started, unless one runs; a pass without rows closes at once. -/
def State.startPass (s : State) (slot : Nat) (h : Handle) : State :=
  match s.table? slot h with
  | none => s
  | some t =>
    if t.pass.isSome then s
    else if t.changed.isEmpty then s.closePass slot h s.frame.num
    else s.mapTable slot h fun y => { y with pass := some (s.frame.num, y.changed), changed := [] }

/-- Whether a pass of a table starts at this commit window. -/
def State.passDue (s : State) (t : Table) : Bool := decide (0 < t.attr.ckpt) && s.frame.num % t.attr.ckpt == 0

/-- CHECKPOINT_PASS_START, in the commit window of a frame c with c mod CKPT_FRAMES = 0; COMMIT_WINDOW has done it when it comes
first. -/
def execCheckpointPassStart (slot : Nat) (object : Handle) (s : State) : Answer :=
  whenLive (fun s =>
    match s.table? slot object with
    | some t => if s.passDue t && s.frame.committed && !(match t.pass with | some p => p.1 == s.frame.num | none => false) &&
        t.closed != s.frame.num then s.startPass slot object else s
    | none => s) s

/-! ### Programs and erases -/

/-- The record of a captured row (R217): the row's vector in VEC_FORMAT and the item's payload, with the item's place. -/
def State.captureRecord (s : State) (slot : Nat) (t : Table) (c : Capture) : Option (Handle × IndexAttr × Nat × Nat × Key × Bytes) :=
  match s.index? slot t.attr.bound with
  | none => none
  | some x =>
    let key : Key := BitVec.ofNat 64 (t.attr.keyBase + c.row)
    x.cur.lists.findSome? fun r => r.2.findSome? fun l => (l.2.liveAt key).map fun p =>
      let vec := vecStore x.attr.fmt (rowElems t.attr.fmt (c.image.take (t.attr.dim * rowES t.attr.fmt)))
      (t.attr.bound, x.attr, r.1, l.1, key, recordOf x.attr vec (recPayload x.attr (s.record x.attr p.2)) (rowSum x.attr.fmt x.attr.dim vec))

/-- A write-behind record is in flash: its locator is published at the commit window of c + 8. -/
def State.captureDone (s : State) (slot : Nat) (h : Handle) (row frame : Nat) : State :=
  match s.table? slot h with
  | none => s
  | some t =>
    match t.captures.find? fun c => c.row == row && c.frame == frame && !c.written with
    | none => s
    | some c =>
      let s1 := s.mapTable slot h fun y =>
        { y with captures := y.captures.map fun z => if z = c then { z with written := true } else z }
      match s.captureRecord slot t c with
      | none => s1
      | some (ih, a, region, list, key, rb) =>
        let p := s1.placeRecord slot ih a key rb
        let at_ := max s.frame.num (frame + 8)
        { p.2.account slot 4 rb.length with staged := p.2.staged ++
            [{ hold := at_, due := at_, adm := at_, home := 0x3FE, seq := 0, next := false,
               item := .locator slot ih region list key p.1.1 p.1.2 }] }

/-- A table folio is in flash (R209): its rows are saved as they were read; the pass goes on, or closes when its last row is written. -/
def State.rowsSaved (s : State) (p : FProg) : State :=
  match s.table? p.slot p.object with
  | none => s
  | some t =>
    let n := max 1 (rowsPerFolio t.attr)
    let first := (match tget s.flash.folios p.folio with | some f => f.first | none => 0) / n
    let s1 := (s.mapTable p.slot p.object fun y => { y with saved := p.data.foldl (fun sv r => tput sv r.1 r.2) y.saved }).setMap p.folio
      (some { slot := p.row, die := p.die, slc := true, state := 1 })
    let s2 := s1.mapFlash fun f => { f.joinStripe p.die p.row with slcAge := f.slcAge.filter (· != p.folio) ++ [p.folio] }
    match t.pass with
    | none => s2
    | some (start, rows) =>
      let left := rows.filter fun r => r / n != first
      let s3 := s2.mapTable p.slot p.object fun y => { y with pass := some (start, left) }
      if left.isEmpty then s3.closePass p.slot p.object start else s3

/-- A journal folio is in flash (R259, R261): its entries count as programmed, and the next folio follows in the same windows. -/
def State.journalDone (s : State) (p : FProg) : State :=
  let s1 := s.mapFlash fun f =>
    { f with journal := f.journal ++ p.entries, jPending := p.entries.foldl List.erase f.jPending, jSeq := p.row + 1, jDie := some p.die,
             jFolios := f.jFolios ++ [(p.row, p.die, p.entries.length)] }
  if s1.startsHeld || s1.flash.suspended then s1 else s1.journalWork

/-- A program's end (R263). -/
def State.progDone (s : State) (p : FProg) : State :=
  match p.kind with
  | 0 | 2 | 8 =>
    let s1 := (s.setMap p.folio (some { slot := p.row, die := p.die, slc := p.kind != 2, state := 1 })).mapFlash fun f => f.joinStripe p.die p.row
    let s1 := s1.mapFlash fun f => { f with slcAge := f.slcAge.filter (· != p.folio) ++ (if p.kind = 2 then [] else [p.folio]) }
    if p.kind = 8 then s1.mapFlash fun f => { f with rebuild := f.rebuild.filter (· != p.folio) } else s1
  | 1 => s.journalDone p
  | 3 => s.mapFlash fun f =>
      { f with mapSaved := p.ents.foldl (fun m e => tput m e.1 e.2) (f.mapSaved.filter fun e => e.1 / 13094 != p.folio),
               mapWrites := tput f.mapWrites p.folio p.frame }
  | 4 => s.rowsSaved p
  | 5 => s.captureDone p.slot p.object p.row p.frame
  | 7 => s.mapFlash fun f => Flash.releaseParity
      { f with stripes := f.stripes.map fun t => if t.id = p.folio then { t with parity := true } else t }
  | _ => s

/-- The block that a program wrote retired after its valid folios have been moved (R268). -/
def State.retireWritten (s : State) (die block : Nat) : State :=
  ((s.flash.validIn die block).foldl (fun acc x => acc.moveFolio die x) s).retireBlock die block 1

/-- A failed program: the data, still staged, is written again (R263), a journal folio to the next die in the same windows (R261), its block
retired. -/
def State.progFailed (s : State) (p : FProg) : State :=
  let again := { p with tries := p.tries + 1 }
  if p.kind = 0 ∨ p.kind = 2 ∨ p.kind = 4 ∨ p.kind = 8 then
    let s1 := s.retireWritten p.die p.block
    match s1.flash.takePlace p.die (p.kind != 2) with
    | some (k, f) => ({ s1 with flash := f }).startProg { again with block := f.blockOf k, row := k }
    | none => s1
  else if p.kind = 1 then
    let s1 := s.retireBlock p.die (s.flash.journalBlock p.die) 1
    s1.startProg { again with die := s1.flash.nextDie (some p.die) }
  else s.startProg again

/-- FLASH_PROGRAM_COMPLETE. -/
def execFlashProgramComplete (id : Nat) (ok : Bool) (s : State) : Answer :=
  whenLive (fun s =>
    match s.flash.progs.find? fun p => p.id == id with
    | none => s
    | some p =>
      let s1 := s.mapFlash fun f =>
        { f with progs := f.progs.filter (fun x => x.id != id), timeouts := f.timeouts.filter fun t => t.1 != p.die }
      (if ok then s1.progDone p else s1.progFailed p).mapFlash Flash.refresh) s

/-- The pages of an erased block need their stripes no more (R270). -/
def Flash.erasedPages (f : Flash) (die block : Nat) : Flash :=
  { f with stripes := f.stripes.map fun t => { t with pages := t.pages.map fun p => if p = (die, some block) then (die, none) else p } }

/-- FLASH_ERASE_COMPLETE: a good block is free again, or retired at its rated erase count (R268); a failed one is retired. -/
def execFlashEraseComplete (die block : Nat) (ok : Bool) (s : State) : Answer :=
  whenLive (fun s =>
    if !s.flash.erasing.contains (die, block) then s
    else
      let s1 := s.mapFlash fun f => { f with erasing := f.erasing.filter (· != (die, block)), eraseAt := tdel f.eraseAt (blockKey die block),
                                              timeouts := f.timeouts.filter fun t => t.1 != die }
      let s2 := if ok then
          (let s3 := (s1.mapFlash fun f => Flash.releaseParity (f.erasedPages die block)).mapFlash fun f => f.mapBlock die block fun b => { b with erases := b.erases + 1, reads := 0, next := 0, checked := [] }
           if s3.flash.profile.peLimit ≤ (s3.flash.block die block).erases then s3.retireBlock die block 2 else s3)
        else s1.retireBlock die block 0
      s2.mapFlash Flash.refresh) s

/-- FLASH_COMMAND_TIMEOUT (R275, R276): the die is reset, the channel trained again, and the command issued again up to twice; a third timeout,
or training that fails, retires the flash channel. -/
def execFlashCommandTimeout (chan die : Nat) (rate : Option Nat) (s : State) : Answer :=
  whenLive (fun s =>
    let n := ((s.flash.timeouts.filter fun t => t.1 == die).map (·.2)).foldl max 0 + 1
    if 3 ≤ n then s.retireFlash chan 0
    else match rate with
    | none => s.retireFlash chan 1
    | some r => ((s.mapFlash fun f => { f with rates := tput f.rates chan r }).mapFlash fun f => { f with timeouts := (f.timeouts.filter fun t => t.1 != die) ++ [(die, n)] }).faultRecord 9 chan 0 0) s

/-- Captures of a table that have missed step 2 of the commit window of c + 8, frames of held starts apart (R217, R425): dropped,
reported as a flash fault, and the rows eligible again; in exact mode the frame is replayed, so that their writes go on. -/
def State.captureMissed (s : State) (slot : Nat) (h : Handle) : State :=
  match s.table? slot h with
  | none => s
  | some t =>
    let late := t.captures.filter fun c => !c.written && decide (c.frame + 8 + (s.power.heldStarts.filter fun f => decide (c.frame < f)).length ≤ s.frame.num)
    if late.isEmpty then s
    else if s.frame.exact then s.faultRecord 7 0 0 0
    else
      (s.mapTable slot h fun y =>
        { y with captures := y.captures.filter (fun c => !late.contains c),
                 capElig := late.foldl (fun l c => insNat c.row l) y.capElig }).faultRecord 7 0 0 0

/-- CAPTURE_DEADLINE; COMMIT_WINDOW has done it when it comes first. -/
def execCaptureDeadline (slot : Nat) (object : Handle) (s : State) : Answer :=
  whenLive (fun s => if s.frame.committed then s.captureMissed slot object else s) s

/-! ### DRAM -/

/-- The place of the row after one in ascending DA, over the units of the part (R238). -/
def State.nextScrub (s : State) (da : Nat) : Nat := if s.totalUnits * 2 ^ 28 ≤ da + 1024 then 0 else da + 1024

/-- What the visit of a row shows (R238): corrections are reported once a frame; a FREE unit whose row fails is kept out of allocation; an
open row is twin-compared; a ZEROING unit is skipped. -/
def State.scrubRow (s : State) (da : Nat) (o : ScrubOutcome) : State :=
  match s.unitKind (daUnit da), o with
  | .zeroing, _ => s
  | .opened _, .twinsDiffer => s.twinMismatch (firstTwin da)
  | .opened _, _ => s
  | _, .corrected n => { s with dram := { s.dram with corrected := s.dram.corrected + n } }.faultRecord 4 da 0 0
  | k, .uncorrectable =>
    let s1 := s.wordLost da
    if k = .free then { s1 with dram := { s1.dram with kept := insNat (daUnit da) s1.dram.kept } } else s1
  | _, .sound | _, .twinsDiffer => s

/-- The scrub's place goes on past a row (R238). -/
def State.scrubPast (s : State) (da : Nat) : State := { s with dram := { s.dram with scrubAt := s.nextScrub da } }

/-- PATROL_SCRUB (R238): the visits go on in ascending DA, so no row but the next is visited. -/
def execPatrolScrub (da : Nat) (o : ScrubOutcome) (s : State) : Answer :=
  whenLive (fun s => if rowOf da = s.dram.scrubAt then (s.scrubPast (rowOf da)).scrubRow da o else s) s

/-- The operation number of a near-bank step in the log: the order of the table of R227. -/
def nbCode : NbOp → Nat
  | .copy => 0
  | .init _ => 1
  | .and => 2
  | .or => 3
  | .xor => 4
  | .andnot => 5
  | .not => 6

/-- One byte of a row step's result (R227): `i` is the byte's place in the row. -/
def nbByte (op : NbOp) (a b : Byte) (i : Nat) : Byte :=
  match op with
  | .copy => a
  | .init p => BitVec.ofNat 8 (p.toNat / 2 ^ (8 * (i % 8)))
  | .and => a &&& b
  | .or => a ||| b
  | .xor => a ^^^ b
  | .andnot => a &&& ~~~ b
  | .not => ~~~ a


/-- The 1 KiB row of a step written. -/
def nbWrite (m : List Host.Cell) (op : NbOp) (a b r : Nat) : List Host.Cell :=
  memWriteN m (rowOf r) ((List.range 1024).map fun i => nbByte op (memRead m (rowOf a + i)) (memRead m (rowOf b + i)) i)

/-- NEAR_BANK_ROW_STEP (R227 to R229, R231): the rows it names lie in the bank pair of one near-bank unit, else there is no such step. It is
allowed when every row it names lies in an OPEN unit, or for an INIT of the unit
allocator in a ZEROING one; in an OPEN unit the step runs on both twins. -/
def execNearBankRowStep (op : NbOp) (a b r : Nat) (allocator : Bool) (s : State) : Answer :=
  whenLive (fun s =>
    if !oneUnit (nbRows op a b r) then s
    else
    let kinds := (nbRows op a b r).map fun x => s.unitKind (daUnit x)
    let open_ := kinds.all fun k => match k with | .opened _ => true | _ => false
    let zero := allocator && (match op with | .init _ => true | _ => false) && kinds.all fun k => k == .zeroing
    if open_ then
      let m1 := nbWrite s.dram.mem op a b r
      { s with dram := { s.dram with mem := nbWrite m1 op (twinOf a) (twinOf b) (twinOf r) } }
    else if zero then { s with dram := { s.dram with mem := nbWrite s.dram.mem op a b r } }
    else match (nbRows op a b r).find? (fun x => match s.unitKind (daUnit x) with | .opened _ => false | _ => true) with
      | some x => s.nbRefuse (nbCode op) x
      | none => s) s

/-- UNIT_ZEROED (R226): a ZEROING unit is zero and FREE. -/
def execUnitZeroed (u : Nat) (s : State) : Answer :=
  whenLive (fun s =>
    if s.unitKind u == .zeroing then
      { s with dram := { s.dram with mem := zeroUnits s.dram.mem [u] } }.setKinds [u] .free
    else s) s

end Sys2Proof.Machine
end

