-- ==== Sys2Proof/Machine/Power.lean ====
section
/-! DEFINITION. Power (R39, R358, R413 to R427): power and service states, STANDBY and OFF-READY with their drain and flush, sector
gating, the supply's dips, temperature warnings, the regulator and the energy scale. -/

namespace Sys2Proof.Machine

/-- The power part changed. -/
def State.mapPower (s : State) (f : Power → Power) : State := { s with power := f s.power }

/-- PMBus codes in use (R413). -/
def pmbClear : Nat := 0x03
def pmbVout : Nat := 0x21
def pmbStatus : Nat := 0x79

/-- VOUT_COMMAND sent: the setpoint changes (R414, R416). -/
def State.setpoint (s : State) (mv : Nat) : State :=
  if s.power.setpoint = mv then s else (s.mapPower fun p => { p with setpoint := mv }).emit (.pmbus pmbVout mv)

/-- The retention flags of all eight stacks, which both parts have (R1, R13, R219). -/
def stackMask : Nat := 0xFF

/-- The capacity of one stack in GiB, as the colophon's variant says (R1, R2). -/
def Boot.stackGib (b : Boot) : Nat := if b.variant = 2 then 18 else 36

/-- The stacks enter self-refresh: every retention flag is set (R421). -/
def State.selfRefresh (s : State) : State := { s with boot := { s.boot with retention := stackMask } }

/-- A POWER_STATE_SET is complete when neither part of it waits (R418, R422). -/
def State.powerEnd (s : State) : State :=
  if s.power.want.isNone && s.power.wantService.isNone then s.mbEndCode 0x0040 else s

/-! ### POWER_STATE_SET -/

/-- Whether the easel in force and any armed image are valid in ACTIVE-LOW (R39). -/
def State.lowAllowed (s : State) : Bool :=
  (match s.easel.inForce with | some e => e.validLow | none => true) &&
  (match s.easel.arm, s.easel.standby with | some _, some e => e.validLow | _, _ => true)

/-- The refusals of R418 for a request of a power state. -/
def State.stateBroken (s : State) (st : Nat) : Bool :=
  st == 5 || st == 6 ||
  (st != 7 && st != s.power.state &&
    (s.power.state == 4 || (s.frame.joined && decide (3 ≤ st)) || (st == 1 && !s.lowAllowed)))

/-- The refusals of R422 for a request of a service state: 0 SERVICE, 1 START-UP, 2 MAINTENANCE, 3 TEST. -/
def State.serviceBroken (s : State) (sv : Nat) : Bool :=
  sv == 1 || (sv == 3 && s.frame.joined && s.power.service != 3) ||
  (s.power.service == 3 && sv != 3 && (!s.power.testAsked || sv != 2))

/-- What is put under way for a change of power state accepted in frame x (R418, R419). -/
def State.wantState (s : State) (st x : Nat) : State :=
  let s1 := s.mapPower fun p => { p with want := some (st, x) }
  if 3 ≤ st then
    s1.mapPower fun p => { p with drainFrom := some (match p.drainFrom with | some f => f | none => x + 1) }
  else if s.power.state = 1 ∧ s.power.dip.isNone then s1.setpoint 750
  else s1

/-- POWER_STATE_SET (R326, R418, R422): a power state, a service state, or both. A change that waits already is not displaced. -/
def powerSetBody (g : Go) : MbBody := fun s =>
  let st := g.arg 0x14 0 3
  let sv := g.arg 0x14 4 2
  let keep := g.arg 0x14 6 1 == 1
  checked [g.pfOnly, inv [g.strayArgs [(0x14, 0, 3), (0x14, 4, 3)], (s.stateBroken st || (!keep && s.serviceBroken sv), 0x14)]]
    (fun s =>
      let x := s.acceptFrame g.cycle
      let s1 := if keep || sv == s.power.service then s else s.mapPower fun p => { p with wantService := some (sv, x) }
      let s2 := if st = 7 ∨ st = s.power.state ∨ s.power.want.isSome then s1 else s1.wantState st x
      (s2, if s2.power.want.isNone && s2.power.wantService.isNone then MbRes.ok else { later := true })) s

def execPowerSetActive (g : Go) (s : State) : Answer := mailbox false 0x0040 g (powerSetBody g) s

def execPowerSetActiveLow (g : Go) (s : State) : Answer := mailbox false 0x0040 g (powerSetBody g) s

def execPowerSetIdle (g : Go) (s : State) : Answer := mailbox false 0x0040 g (powerSetBody g) s

def execPowerSetStandby (g : Go) (s : State) : Answer := mailbox false 0x0040 g (powerSetBody g) s

def execPowerSetOffReady (g : Go) (s : State) : Answer := mailbox false 0x0040 g (powerSetBody g) s

def execPowerSetService (g : Go) (s : State) : Answer := mailbox false 0x0040 g (powerSetBody g) s

/-- Step 5 of the commit window: a service state accepted in this frame or before takes force (R422). -/
def State.serviceStep (s : State) : State :=
  match s.power.wantService with
  | some (sv, x) =>
    if x ≤ s.frame.num then
      (s.mapPower fun p => { p with service := sv, wantService := none, testAsked := sv == 3 }).powerEnd
    else s
  | none => s

/-- The arithmetic clock switches at the start of a frame (R417, R418): to ACTIVE-LOW in x + 1, then the supply is lowered; from
ACTIVE-LOW once VDD_CORE has reached 0.745 V; a change that needs no other supply in x + 1. A dip holds both changes. -/
def State.clockSwitch (s : State) : State :=
  match s.power.want with
  | none => s
  | some (st, x) =>
    if 3 ≤ st ∨ 3 ≤ s.power.state ∨ s.frame.num ≤ x then s
    else if st = 1 then
      if s.power.state = 1 ∨ s.power.dip.isSome then s else (s.mapPower fun p => { p with state := 1 }).setpoint s.power.vlow
    else if s.power.state = 1 then
      if s.power.dip.isSome then s
      else if s.power.setpoint = 750 ∧ 745 ≤ s.power.vout then
        (s.mapPower fun p => { p with state := st, want := none }).powerEnd
      else s.setpoint 750
    else (s.mapPower fun p => { p with state := st, want := none }).powerEnd

/-- VOUT_SETTLED: READ_VOUT; a change to ACTIVE-LOW is complete within 10 mV of VLOW_MV (R418). -/
def State.voutSettled (s : State) (mv : Nat) : State :=
  let s1 := s.mapPower fun p => { p with vout := mv }
  match s.power.want with
  | some (1, _) =>
    if s.power.state = 1 ∧ mv ≤ s.power.vlow + 10 ∧ s.power.vlow ≤ mv + 10 then
      (s1.mapPower fun p => { p with want := none }).powerEnd
    else s1
  | _ => s1

def execVoutSettled (mv : Nat) (s : State) : Answer := whenLive (fun s => s.voutSettled mv) s

/-! ### STANDBY -/

/-- Everything published has completed programming (R261, R419). -/
def State.programmed (s : State) : Bool := s.flash.jPending.isEmpty && !(s.progOut fun p => p.kind == 1)

/-- Entry to STANDBY is due: the drain has run, at the commit window of x + 8 or later (R418, R419). -/
def State.standbyDue (s : State) : Bool :=
  match s.power.want with
  | some (3, x) => decide (x + 8 ≤ s.frame.num) && s.programmed
  | _ => false

/-- Sector, tile and core memory is lost where the sectors are unpowered (R419), and an arm is cancelled. -/
def State.unpowered (s : State) : State :=
  { s with easel := { s.easel with arm := none }, chans := s.chans.map fun (p : Nat × Chan) => (p.1, { p.2 with part := [], pool := [] }) }

/-- Entry to STANDBY (R39, R416, R419): the arm is cancelled, sector memories are lost, the stacks refresh themselves. -/
def State.standbyEnter (s : State) : State :=
  if s.standbyDue then
    let s1 := s.mapPower fun p => { p with state := 3, want := none }
    (s1.unpowered.selfRefresh.setpoint 750).powerEnd
  else s

/-- STANDBY_ENTRY, in a commit window; COMMIT_WINDOW has done it when it comes first. -/
def execStandbyEntry (s : State) : Answer := whenLive (fun s => if s.frame.committed then s.standbyEnter else s) s

/-- The first frame from f on that starts a hyperframe of the easel in force. -/
def State.hyperFrom (s : State) (f : Nat) : Nat := ceilDiv f s.hyper * s.hyper

/-- The lanes that training found at the ports (R282). -/
def trainPorts (ports : List Port) (lanes : List Nat) : List Port := ports.mapIdx fun i p => { p with lanes := lanes.getD i 0 % 16 }

/-- STANDBY_EXIT (R39, R251, R418): ports and flash channels are trained, what the new state needs is back, and windows and admission resume at the first hyperframe boundary
at least one frame later. -/
def State.standbyExit (s : State) (lanes : List Nat) (train : List (Nat × Option Nat)) : State :=
  match s.power.want with
  | some (st, _) =>
    if s.power.state = 3 ∧ st < 3 then
      let s1 := s.mapPower fun p => { p with state := st, want := none, drainFrom := none }
      let f := s.hyperFrom (s.frame.num + 1)
      let s2 := { s1 with ports := trainPorts s1.ports lanes, easel := { s1.easel with resume := f },
                          frame := { s1.frame with admitFrom := max s1.frame.admitFrom f } }
      ((if st = 1 then s2.setpoint s.power.vlow else s2).trainFlash (train.filter fun c => hasBit s.flash.live c.1)).powerEnd
    else s
  | none => s

def execStandbyExit (train : Trained) (s : State) : Answer := whenLive (fun s => s.standbyExit train.lanes train.flash) s

/-! ### The flush (R420, R432) -/

/-- A checkpoint pass of a table run to its end: every row changed since the last one (R209). -/
def Table.pass! (t : Table) (frame : Nat) : Table :=
  let rows := dedup ((match t.pass with | some p => p.2 | none => []) ++ t.changed)
  let save := fun (sv : Tbl (Nat × Bytes)) r =>
    tput sv r ((match tget t.rows r with | some w => w.frame | none => 0), t.rowNow r)
  { t with saved := rows.foldl save t.saved, pass := none, changed := [], closed := if rows.isEmpty then t.closed else frame }

/-- Step 2: a pass for every table with rows changed, each closed in the journal. -/
def State.flushTables (s : State) : State :=
  let due := s.tables.filter fun p => !(p.2.changed.isEmpty && p.2.pass.isNone)
  due.foldl (fun acc p =>
    let h : Handle := BitVec.ofNat 32 (p.1 % 2 ^ 32)
    (acc.mapTable (p.1 / 2 ^ 32) h fun t => Table.pass! t s.frame.num).mapFlash fun f =>
      { f with jPending := f.jPending ++ [{ typ := 7, slot := p.1 / 2 ^ 32, object := h, frame := s.frame.num, body := [s.frame.num], undo := [] }] }) s

/-- One journal folio of what is left (R259). -/
def State.flushFolio (s : State) : State :=
  let es := journalFill s.entrySize s.flash.jPending 0
  if es.isEmpty then s
  else s.mapFlash fun f =>
    let die := f.nextDie f.jDie
    { f with journal := f.journal ++ es, jPending := f.jPending.drop es.length, jSeq := f.jSeq + 1, jDie := some die,
             jFolios := f.jFolios ++ [(f.jSeq, die, es.length)] }

/-- The journal programmed to its end. -/
def State.flushJournal (s : State) : State := (List.range s.flash.jPending.length).foldl (fun acc _ => acc.flushFolio) s

/-- Steps 3 to 5: the journal programmed to its end, quires closed, dirty map folios written. Entries that wait for a channel key
stay (R280). -/
def State.flushFlash (s : State) : State :=
  s.flushJournal.mapFlash fun f =>
    { f with stripes := f.stripes.map fun t => { t with parity := true },
             mapSaved := f.map, mapWrites := (dedup (f.dirtyMap.map (·.1))).foldl (fun m d => tput m d s.frame.num) f.mapWrites, dirtyMap := [],
             erasing := [], progs := [], eraseAt := [] }

/-- A stop mark ends the journal (R421): the frame of the last visible version and the kind of stop. -/
def State.stopMark (s : State) (kind : Nat) : State :=
  s.mapFlash fun f => { f with journal := f.journal ++
    [{ typ := 9, slot := 0, object := 0, frame := s.frame.num, body := [s.frame.version, kind], undo := [] }] }

/-- The steps of R420: 2 only when `passes`. -/
def State.flush (s : State) (passes : Bool) (kind : Nat) : State :=
  let s1 := s.detachAll none
  ((((if passes then s1.flushTables else s1).flushFlash).stopMark kind).selfRefresh)

/-- The drain of a stop has run (R419): eight frames, or the node is in STANDBY already. -/
def State.drained (s : State) (x : Nat) : Bool := s.power.state == 3 || decide (x + 8 ≤ s.frame.num)

/-- OFF_READY_FLUSH (R420). -/
def State.offReady (s : State) : State :=
  match s.power.want with
  | some (4, x) =>
    if s.drained x then
      let s1 := (s.flush true 1).mapPower fun p => { p with state := 4, want := none }
      (s1.unpowered.setpoint 750).powerEnd
    else s
  | _ => s

def execOffReadyFlush (s : State) : Answer := whenLive State.offReady s

/-! ### SECTOR_GATE (R423) -/

/-- The refusals of R423. -/
def State.gateBroken (s : State) (mask : Nat) : Bool :=
  let off := s.units.sectorsOn - (s.units.sectorsOn &&& mask)
  let used := (match s.easel.inForce with | some e => e.sectorUse | none => 0) |||
    (match s.easel.arm, s.easel.standby with | some _, some e => e.sectorUse | _, _ => 0) |||
    (s.holders.map fun p => p.2.partSectors).foldl (· ||| ·) 0
  mask == 0 || (mask &&& s.units.excluded) != 0 || (off &&& used) != 0 || decide (3 ≤ s.power.state)

/-- SECTOR_GATE: at step 5 of the commit window of its frame of acceptance. -/
def sectorGateBody (g : Go) : MbBody := fun s =>
  let mask := g.arg 0x14 0 16
  checked [g.pfOnly, inv [g.strayArgs [(0x14, 0, 16)], (s.gateBroken mask, 0x14)]]
    (fun s => (s.plan (s.acceptFrame g.cycle) g.fn (.sectors mask), { later := true })) s

def execSectorGate (g : Go) (s : State) : Answer := mailbox false 0x0041 g (sectorGateBody g) s

/-! ### Dips (R424, R425) -/

/-- SUPPLY_DIP_START. -/
def State.dipStart (s : State) (mv : Nat) : State :=
  match s.power.dip with
  | some _ => s
  | none => s.mapPower fun p => { p with dip := some (s.frame.num, mv), supplyWarnN := true }

def execSupplyDipStart (mv : Nat) (s : State) : Answer := whenLive (fun s => s.dipStart mv) s

/-- Frames that the dip has touched. -/
def State.dipFrames (s : State) (first : Nat) : Nat := s.frame.num + 1 - first

/-- SUPPLY_DIP_END on a node that runs: SUPPLY_WARN with the lowest voltage and the frames touched; starts stay held for 100 µs,
in whole frames (DESIGN CHOICE, log entry 28). A supply change that waited goes on. -/
def State.dipEnd (s : State) (mv : Nat) : State :=
  match s.power.dip with
  | none => s
  | some (first, low) =>
    let s1 := (s.raiseNode 0x01 (min low mv) (s.dipFrames first) 0).mapPower fun p =>
      { p with dip := none, dipTail := ceilDiv 100 (max 1 s.frame.len) }
    match s1.power.want with
    | some (st, _) => if s1.power.state = 1 ∧ (st = 0 ∨ st = 2) then s1.setpoint 750 else s1
    | none => s1

/-- SUPPLY_DIP_LONG: at the end of the third frame of a dip, with a log record, and every 4,096 frames after it. -/
def State.dipLong (s : State) (mv : Nat) : State :=
  match s.power.dip with
  | none => s
  | some (first, low) =>
    let n := s.dipFrames first
    if n < 3 ∨ (n - 3) % 4096 ≠ 0 then s
    else
      let s1 := (s.raiseNode 0x01 (min low mv) n 0).mapPower fun p => { p with dip := some (first, min low mv) }
      if n = 3 then s1.logAdd 0x0E 0 0 6 n else s1

def execSupplyDipLong (mv : Nat) (s : State) : Answer := whenLive (fun s => s.dipLong mv) s

/-- A frame of the 100 µs after a dip has passed: SUPPLY_WARN_N deasserts with the last one. -/
def State.dipTick (s : State) : State :=
  if s.power.dipTail = 0 then s
  else s.mapPower fun p => { p with dipTail := p.dipTail - 1, supplyWarnN := p.supplyWarnN && decide (1 < p.dipTail) }

/-- A frame in which starts were held is noted (R425); frames that no capture waits for are forgotten. -/
def State.holdTick (s : State) : State :=
  let pend := s.tables.flatMap fun p => (p.2.captures.filter fun c => !c.written).map fun c => c.frame
  let held := s.power.heldStarts ++ (if s.startsHeld then [s.frame.num] else [])
  s.mapPower fun p => { p with heldStarts := held.filter fun f => pend.any fun c => decide (c < f) }

/-! ### Temperature and the regulator (R358, R413, R414, R427) -/

/-- THERMAL_WARN: a sensor above 105 °C. -/
def execThermalWarn (sensor milliC : Nat) (s : State) : Answer :=
  whenLive (fun s => if 105000 < milliC ∧ sensor < 28 then s.raiseNode 0x02 milliC sensor 0 else s) s

/-- PMB_ALERT_N: STATUS_WORD read, logged, the fault cleared. -/
def execPmbAlertN (status : Nat) (s : State) : Answer :=
  whenLive (fun s => ((s.emit (.pmbus pmbStatus status)).logAdd 0x0E 0 0 2 (status % 65536)).emit (.pmbus pmbClear 0)) s

/-- PMBUS_FAILURE: three consecutive transactions have failed; K is frozen. -/
def execPmbusFailure (code : Nat) (s : State) : Answer :=
  whenLive (fun s =>
    if s.power.pmbusOk then (s.mapPower fun p => { p with pmbusOk := false }).logAdd 0x0E 0 0 1 (code % 256) else s) s

/-- PMBUS_RETRY. -/
def execPmbusRetry (ok : Bool) (s : State) : Answer :=
  whenLive (fun s => if s.power.pmbusOk then s else s.mapPower fun p => { p with pmbusOk := ok }) s

/-- K from the energies of 4,096 frames (R358), in units of 2^-10, rounded to the nearest one (DESIGN CHOICE, log entry 29); with
E_model = 0 the spec states no quotient, and any scale in range may come (`free`, log entry 2). -/
def scaleOf (meas leak model free : Nat) : Nat :=
  if model = 0 then 512 + free % 1537
  else min 2048 (max 512 ((2048 * (meas - leak) + model) / (2 * model)))

/-- ENERGY_CALIBRATION: the new K of the present power state applies from the next frame; the leakage of those frames goes to the
node totals (R358; log entry 29). -/
def State.calibrate (s : State) (meas leak model : Nat) : State :=
  if !s.power.pmbusOk then s
  else
    let f := if model = 0 then s.free else (0, s)
    let s1 := f.2.mapPower fun p => { p with kNext := some (p.state, scaleOf meas leak model f.1) }
    { s1 with nodeAcct := { s1.nodeAcct with cnt := setAt s1.nodeAcct.cnt 7 fun n => (n + leak) % 2 ^ 64 } }

def execEnergyCalibration (meas leak model : Nat) (s : State) : Answer := whenLive (fun s => s.calibrate meas leak model) s

/-- A new K in force at the start of a frame. -/
def State.takeScale (s : State) : State :=
  match s.power.kNext with
  | some (st, v) => s.mapPower fun p => { p with k := setAt p.k st (fun _ => v), kNext := none }
  | none => s

/-- Everything of power at the start of a frame. -/
def State.powerTick (s : State) : State := s.takeScale.dipTick.clockSwitch

end Sys2Proof.Machine
end

