-- ==== Sys2Proof/Machine/Frame.lean ====
section
/-! DEFINITION. The start of a frame (R19, R459): the number advances, modes, tokens and clocks take force, and what waited for
the frame begins: messages that leave, outcomes that are due, re-issues, requests of the frame after admission. -/

namespace Sys2Proof.Machine

/-! ### Channels -/

/-- A channel at the start of a frame: the bucket settings written before it take force and the tokens refill (R341, R350), the
charges of accepted re-issues are taken from its shares (R108). -/
def Chan.frameStart (c : Chan) (frame : Nat) : Chan :=
  let b := c.bucketNext
  { c with bucket := b
           cTok := if c.police then min b.cbs (c.cTok + b.cir) else b.cbs
           pTok := if c.police then min b.pbs (c.pTok + b.pir) else b.pbs
           homeUsed := c.reissued frame
           ownUsed := List.replicate 6 0
           reissues := c.reissues.filter fun r => decide (frame < r.1) }

/-- A port at the start of a frame: what each channel has sent is counted anew (R295); palette messages of the frame before can still
be asked for (R309). -/
def Port.frameStart (p : Port) (frame : Nat) : Port :=
  { p with sent := [], palSent := p.palSent.filter fun x => decide (frame ≤ x.hdr.frame + 1) }

/-- A command re-issued into the frame has the frame's mode (R54, R55). -/
def Cmd.frameStart (c : Cmd) (f : FrameSt) : Cmd :=
  if c.adm = some f.num then { c with exact := f.exact } else c

/-! ### What waited for the frame -/

/-- Messages that leave at the start of the frame. -/
def State.sendDue (s : State) : State :=
  let due := s.outbox.filter fun m => decide (m.1 ≤ s.frame.num)
  due.foldl (fun acc m => acc.send m.2.1 (some m.2.2.1) m.2.2.2)
    { s with outbox := s.outbox.filter fun m => decide (s.frame.num < m.1) }

/-- Every journal entry of a channel made up to a frame has been programmed (R208, R261). -/
def State.journalled (s : State) (slot frame : Nat) : Bool :=
  (s.flash.jPending ++ s.flash.heldKey).all fun e => e.slot != slot || decide (frame < e.frame)

/-- Updates that are now durable here are reported to their homes (R208). -/
def State.reportDurable (s : State) : State :=
  let done := fun (d : Dur) => !d.apply && decide (d.frame + 3 ≤ s.frame.num) && s.journalled d.slot d.frame
  (s.durs.filter done).foldl (fun acc d => acc.send d.home (some d.slot) (.durable d.home d.seq s.frame.logicalId))
    { s with durs := s.durs.filter fun d => !done d }

/-- Commands that cannot be admitted in a frame: those of a channel without an ADMIT window, and those whose buffers are still
read (R58, R94, R195, R460). Frames that admit nothing are not counted (R35, R39, R459). -/
def State.deferStart (s : State) : State :=
  if s.admitOpen then
    (s.chans.filter fun p => p.2.st == .active).foldl (fun acc p =>
      if s.hasWindow p.1 0x01 then acc.deferReading p.1 else acc.deferAll p.1) s
  else s

/-- A grandmaster not heard for 3 frames is lost (R300). -/
def State.advertCheck (s : State) : State :=
  if s.frame.joined && !s.time.isGm && decide (3 ≤ s.time.silent) then s.advertLoss else s

/-! ### The number -/

/-- The next frame of the node's numbering, or the first one of a numbering that begins (R19, R459). -/
def State.nextNumber (s : State) : State :=
  let s1 := s.leaveDue
  let advance := { s1 with frame := { s1.frame with num := s1.frame.num + 1, cycle := 0, committed := false, ran := [] } }
  match s1.frame.join with
  | some (x, j) => if x ≤ s1.frame.num then s1.joinNow j else advance
  | none => advance

/-- The settings of the frame: the fence, the node's place, the mode, power, the frames by which a buddy trails (R50, R55, R391,
R406). -/
def State.frameSettings (s : State) : State :=
  let s1 := (s.fenceNow.takePlace.applyModes.powerTick).advertCheck
  let f := s1.free
  { f.2 with
    frame := { f.2.frame with lag := f.1 % (f.2.frame.buddyLag + 1) }
    chans := f.2.chans.map fun (p : Nat × Chan) => (p.1, p.2.frameStart f.2.frame.num)
    ports := f.2.ports.map fun p => p.frameStart f.2.frame.num
    work := (f.2.work.filter Cmd.open).map fun c => c.frameStart f.2.frame }

/-- The frame after a channel faulted here its holdings are announced OUT_OF_STEP (R361). -/
def State.announceFaults (s : State) : State :=
  let bad := s.chans.filter fun p => (p.2.st == .faulted || p.2.st == .retired) && p.2.faultAt.getLast? == some (s.frame.num - 1)
  let me := s.frame.logicalId
  ((s.holdingsOf me).filter fun h => bad.any fun p => p.1 == h.1).foldl (fun acc h =>
    acc.announce (.holding me me h.1 h.2.1 h.2.2 1)) s

/-- FRAME_START. -/
def State.frameStart (s : State) : State :=
  let s1 := s.nextNumber.frameSettings
  ((s1.announceFaults.movesStart.sendDue.reportDurable.askAll.statsDue).deferStart.missDeliver.writeDue).settleAll

def execFrameStart (s : State) : Answer := whenLive State.frameStart s

end Sys2Proof.Machine
end

