-- ==== Sys2Proof/Machine/Registers.lean ====
section
/-! DEFINITION. Register accesses that have an effect (R6 to R8, R23, R301, R319, R335, R341, R349) and the host aperture (R239
to R242). Every register that reads without an effect is a field of State. -/

namespace Sys2Proof.Machine

/-! ### Channel fields (R335, R341) -/

/-- A channel whose block a function sees: its own, or any for the physical function (R335). -/
def State.blockOf (s : State) (fn slot : Nat) : Option Chan :=
  match tget s.chans slot with
  | some c => if fn = 0 ∨ c.fn = fn then some c else none
  | none => none

def State.settingRefused (s : State) (slot : Nat) : State := s.mapChan slot fun c => { c with refusedW := true }

/-- Whether a partition of g granules fits (R341). -/
def State.partOk (s : State) (slot g : Nat) (c : Chan) : Bool := decide (g ≤ 256) && s.partFits (some slot) c.partSectors g

/-- Whether a slipcase of g granules fits the channel's sealed reservation (R48, R341); swapped residency needs 1 to 256. -/
def State.slipOk (s : State) (slot g : Nat) (c : Chan) : Bool :=
  let own := max (if c.rwa.swapped then c.rwa.slipGran else 0) (if c.pend.swapped then c.pend.slipGran else 0) * 2 ^ 20
  decide (g ≤ 256) && decide (g * 2 ^ 20 ≤ s.sealedLeft slot c + own)

/-- PART_GRANULES written: checked as if partitioned residency were pending. -/
def State.writePart (s : State) (slot g : Nat) : State :=
  match tget s.chans slot with
  | some c => if s.partOk slot g c then s.mapChan slot fun x => { x with pend := { x.pend with partGran := g } }
              else s.settingRefused slot
  | none => s

/-- SLIPCASE_GRANULES written. -/
def State.writeSlip (s : State) (slot g : Nat) : State :=
  match tget s.chans slot with
  | some c =>
    if s.slipOk slot g c && !(c.pend.swapped && g == 0) then
      s.mapChan slot fun x => { x with pend := { x.pend with slipGran := g } }
    else s.settingRefused slot
  | none => s

/-- RESIDENCY written: a change needs a value of the new residency's field that the reservations hold; the other field's
pending value becomes 0. -/
def State.writeResidency (s : State) (slot : Nat) (swapped : Bool) : State :=
  match tget s.chans slot with
  | some c =>
    if c.pend.swapped = swapped then s
    else if swapped then
      (if decide (1 ≤ c.pend.slipGran) && s.slipOk slot c.pend.slipGran c then
        s.mapChan slot fun x => { x with pend := { x.pend with swapped := true, partGran := 0 } }
       else s.settingRefused slot)
    else if s.partOk slot c.pend.partGran c then
      s.mapChan slot fun x => { x with pend := { x.pend with swapped := false, slipGran := 0 } }
    else s.settingRefused slot
  | none => s

/-- A write to the RWA word at +0x04 or +0x08 of a channel block. PART_GRANULES is taken before RESIDENCY (DEDUCED, log entry
9). Frozen while an image is armed (R8). -/
def State.rwaWrite (s : State) (fn slot off v : Nat) : State :=
  match s.blockOf fn slot with
  | none => s
  | some _ =>
    if s.easel.arm.isSome then s.settingRefused slot
    else if off = 0x04 then (s.writePart slot (bitsOf v 16 9)).writeResidency slot (hasBit v 0)
    else if off = 0x08 then s.writeSlip slot (bitsOf v 16 9)
    else s

/-- RWA_FIELD_WRITE. -/
def execRwaFieldWrite (fn slot off : Nat) (value : BitVec 32) (s : State) : Answer :=
  whenAnswered (fun s => s.rwaWrite fn slot off value.toNat) s

/-- A write to a channel block's word (R335). With POLICE_ENABLE = 0 the tokens stay full (R350). -/
def State.chanWrite (s : State) (fn slot off v : Nat) : State :=
  match s.blockOf fn slot with
  | none => s
  | some _ =>
    let set := fun (f : Bucket → Bucket) => s.mapChan slot fun c => { c with bucketNext := f c.bucketNext }
    match off with
    | 0x04 | 0x08 => s.rwaWrite fn slot off v
    | 0x0C =>
      s.mapChan slot fun c =>
        { c with deferMax := bitsOf v 0 4, police := hasBit v 4,
                 cTok := if hasBit v 4 then c.cTok else c.bucket.cbs, pTok := if hasBit v 4 then c.pTok else c.bucket.pbs }
    | 0x10 => set fun b => { b with cir := v }
    | 0x14 => set fun b => { b with cbs := v }
    | 0x18 => set fun b => { b with pir := v }
    | 0x1C => set fun b => { b with pbs := v }
    | 0x20 => set fun b => { b with overhead := bitsOf v 0 16 }
    | 0x34 => if hasBit v 0 then s.mapChan slot fun c => { c with refusedW := false } else s
    | _ => s

/-! ### The other registers -/

def EvRing.zero : EvRing := { base := 0, log2 := 0, enable := false, head := 0, tail := 0, dropped := 0, phase := true }
def State.evRing (s : State) (fn : Nat) : EvRing := tgetD s.evRings fn EvRing.zero

def Aperture.zero : Aperture :=
  { unitNo := 0, openPath := false, lastStatus := 0, twinFail := false, failed := false, failOffset := 0, corrected := 0,
    discarded := 0 }
def State.ap (s : State) (fn : Nat) : Aperture := tgetD s.aps fn Aperture.zero
def State.setAp (s : State) (fn : Nat) (a : Aperture) : State := { s with aps := tput s.aps fn a }

/-- A 32-bit word of a number replaced: word 0 the low one. -/
def putWord (n i v : Nat) : Nat := n - bitsOf n (32 * i) 32 * 2 ^ (32 * i) + v * 2 ^ (32 * i)

/-- A write to MB_CMD (R322, R324): without effect while BUSY is 1. -/
def Mailbox.put (m : Mailbox) (off v : Nat) : Mailbox :=
  if m.busy then m
  else
    match off with
    | 0x00 => { m with code := v % 2 ^ 16, tag := v / 2 ^ 16 }
    | 0x04 => { m with chan := BitVec.ofNat 32 v }
    | 0x08 => { m with pbAddr := putWord m.pbAddr 0 v }
    | 0x0C => { m with pbAddr := putWord m.pbAddr 1 v }
    | 0x10 => { m with pbLen := v }
    | _ => { m with args := m.args.take (off - 0x14) ++ toLe 4 v ++ m.args.drop (off - 0x10) }

/-- One 32-bit word written at a BAR0 offset by its access code (R6): registers with a row of their own, and those that
only read, are left alone. -/
def State.wordWrite (s : State) (fn off v : Nat) : State :=
  let ev := s.evRing fn
  if 0x100 ≤ off ∧ off < 0x140 then s.setMb fn ((s.mb fn).put (off - 0x100) v)
  else if 0x3000 ≤ off ∧ off < 0x5000 then s.chanWrite fn ((off - 0x3000) / 64) ((off - 0x3000) % 64) v
  else
    match off with
    | 0x184 =>
      let m := s.mb fn
      s.setMb fn { m with done := m.done && !hasBit v 1, overrun := m.overrun && !hasBit v 2 }
    | 0x880 => s.setAp fn { s.ap fn with unitNo := bitsOf v 0 12, openPath := hasBit v 12 }
    | 0x884 => if hasBit v 31 then s.setAp fn { s.ap fn with failed := false } else s
    | 0x2000 => { s with evRings := tput s.evRings fn { ev with base := putWord ev.base 0 v } }
    | 0x2004 => { s with evRings := tput s.evRings fn { ev with base := putWord ev.base 1 v } }
    | 0x2008 => { s with evRings := tput s.evRings fn { ev with log2 := bitsOf v 0 5, enable := hasBit v 5 } }
    | 0x200C => { s with evRings := tput s.evRings fn { ev with head := bitsOf v 0 16 } }
    | _ => s

/-- W1C bits that the node sets in a word in the same cycle as the write: they read as set afterwards (R7). -/
def State.wordSet (s : State) (fn off v : Nat) : State :=
  match off with
  | 0x184 => let m := s.mb fn
             s.setMb fn { m with done := m.done || hasBit v 1, overrun := m.overrun || hasBit v 2 }
  | 0x884 => s.setAp fn { s.ap fn with failed := (s.ap fn).failed || hasBit v 31 }
  | _ =>
    if 0x3000 ≤ off ∧ off < 0x5000 ∧ (off - 0x3000) % 64 = 0x34 ∧ hasBit v 0 = true then
      (match s.blockOf fn ((off - 0x3000) / 64) with
        | some _ => s.settingRefused ((off - 0x3000) / 64)
        | none => s)
    else s

/-- The bits that a write of the word at 0x0180 sets in MB_STATUS itself: OVERRUN, when it writes GO while BUSY is 1 (R324). -/
def State.goSets (s : State) (fn off v : Nat) : Nat := if off = 0x180 ∧ hasBit v 0 = true ∧ (s.mb fn).busy = true then 4 else 0

/-- A register write (R319): aligned accesses of 4 or 8 bytes; every other access is ignored. `sets` are the bits of the written words
that the node sets in the same cycle: they win over the clearing (R7), as does the OVERRUN that the write's own GO sets. -/
def State.registerWrite (s : State) (fn off size v sets : Nat) : State :=
  if size = 4 ∧ off % 4 = 0 then
    (((s.wordWrite fn off (v % 2 ^ 32)).wordSet fn off (sets % 2 ^ 32))).wordSet fn 0x184 (s.goSets fn off (v % 2 ^ 32))
  else if size = 8 ∧ off % 8 = 0 then
    ((((s.wordWrite fn off (v % 2 ^ 32)).wordWrite fn (off + 4) (v / 2 ^ 32)).wordSet fn off (sets % 2 ^ 32)).wordSet fn (off + 4)
      (sets / 2 ^ 32)).wordSet fn 0x184 (s.goSets fn off (v % 2 ^ 32))
  else s

/-- REGISTER_WRITE: on a node whose host port answers. The GO of a mailbox that is not busy is the row of its command. -/
def execRegisterWrite (fn off size : Nat) (value : RegBits) (s : State) : Answer :=
  whenAnswered (fun s => s.registerWrite fn off size value.value.toNat value.sets.toNat) s

/-- A read of FRAME_NUM_LO latches FRAME_NUM_HI (R23). -/
def execFrameNumLoRead (fn cycle : Nat) (s : State) : Answer :=
  whenAnswered (fun s =>
    ({ s with frame := { s.frame with hiLatch := tput s.frame.hiLatch fn (bitsOf s.frame.num 32 16), cycle := max s.frame.cycle cycle } }).emit
      (.readData fn 0x0800 (bitsOf s.frame.num 0 32))) s

/-- Network time in ns and its fraction in units of 2^−16 ns at a cycle of the present frame (R19, R301). -/
def State.networkTime (s : State) (cycle : Nat) : Nat × Nat :=
  let ns7 := 4 * cycle
  (s.frame.epoch + s.frame.num * s.frame.len * 1000 + ns7 / 7, ns7 % 7 * 65536 / 7)

/-- A read of NT_NS_LO latches NT_NS_HI and NT_FRAC (R301). -/
def execNtNsLoRead (fn cycle : Nat) (s : State) : Answer :=
  whenAnswered (fun s =>
    let t := s.networkTime cycle
    ({ s with time := { s.time with ns := t.1, frac := t.2, latch := tput s.time.latch fn (bitsOf t.1 32 32, t.2) } }).emit
      (.readData fn 0x0900 (bitsOf t.1 0 32))) s

/-! ### The aperture (R240 to R242) -/

/-- The first failing check of an aperture read over [da, da + len), apart from uncorrectable words: status and whether the
twins differ. -/
def State.apertureCheck (s : State) (fn da len : Nat) (openPath : Bool) : Option (Nat × Bool) :=
  let us := (List.range (daUnit (da + len - 1) + 1 - daUnit da)).map (· + daUnit da)
  let mine := fun u => match s.unitOwner u with
    | some n => (match tget s.chans n with | some c => c.fn == fn | none => false)
    | none => false
  let isOpen := fun u => match s.unitKind u with | .opened _ => true | _ => false
  if us.any (fun u => decide (s.totalUnits ≤ u) || s.unitKind u == .zeroing || (fn != 0 && !mine u)) then some (stInvalid, false)
  else if us.any (fun u => isOpen u != openPath) then some (stMismatch, false)
  else none

/-- The rows of an aperture read whose twins differ: the chunk is suspect, or its bytes differ. -/
def State.badTwins (s : State) (da len : Nat) : List Nat :=
  let n := (da + len - 1) / 1024 + 1 - da / 1024
  ((List.range n).map fun i => (da / 1024 + i) * 1024).filter fun r =>
    !twinsEqual s.dram.mem r || (match s.openObject r with | some (k, c) => s.isSuspect k c | none => false)

/-- An aperture access that failed. -/
def State.apertureFail (s : State) (fn off st : Nat) (twin : Bool) : State :=
  (s.setAp fn { s.ap fn with lastStatus := st, twinFail := twin, failed := true, failOffset := off }).emit (.abort fn off)

/-- The data of an aperture read. Where in its units a SEALED or NODE object stands the spec does not say: a byte there is a free value of
its DA and the frame (log entry 92). -/
def State.apertureBytes (s : State) (da len : Nat) : Bytes :=
  match s.unitKind (daUnit da) with
  | .sealed _ | .node => (List.range len).map fun i => BitVec.ofNat 8 (Config.sealedByte (da + i) s.frame.num)
  | _ => memReadN s.dram.mem da len

/-- Whether a read of DRAM meets a word known to be uncorrectable (R392), or a row of a retired pseudo-channel, which can no longer be
read (R390). -/
def State.meetsLost (s : State) (da len : Nat) : Bool :=
  (s.dram.lost.any fun x => decide (da ≤ x.2.1.da + 7) && decide (x.2.1.da < da + len)) ||
  (!s.dram.pcRetired.isEmpty && (List.range ((da + len - 1) / 1024 + 1 - da / 1024)).any fun i =>
    s.dram.pcRetired.contains (32 * daStack ((da / 1024 + i) * 1024) + daPseudo ((da / 1024 + i) * 1024)))

/-- An aperture read of the bytes from da up, once its checks have been run: `bad` is the first that fails (R240, R242). -/
def State.apertureServe (s : State) (fn off len corrected : Nat) (uncorrectable : Bool) (da : Nat) (bad : Option (Nat × Bool)) : State :=
  match bad with
  | some p => s.apertureFail fn off p.1 p.2
  | none =>
    let a := s.ap fn
    if !a.openPath && s.meetsLost da len then s.apertureFail fn off stMedia false
    else if !a.openPath && uncorrectable then (s.wordLost da).apertureFail fn off stMedia false
    else
      let twins := if a.openPath then s.badTwins da len else []
      if !twins.isEmpty then ((twins.filter fun r => !twinsEqual s.dram.mem r).foldl State.twinMismatch s).apertureFail fn off stMedia true
      else
        let s1 := s.setAp fn { a with corrected := a.corrected + BitVec.ofNat 32 corrected }
        (s1.account ((s.unitOwner (daUnit da)).getD 0xFFFF) 2 len).emit (.readBytes fn off (s.apertureBytes da len))

/-- A read through the aperture (R240), its corrections counted. -/
def State.apertureRead (s : State) (fn off len corrected : Nat) (uncorrectable : Bool) : State :=
  s.apertureServe fn off len corrected uncorrectable ((s.ap fn).unitNo * 2 ^ 28 + off)
    (s.apertureCheck fn ((s.ap fn).unitNo * 2 ^ 28 + off) len (s.ap fn).openPath)

/-- APERTURE_READ. -/
def execApertureRead (fn off len : Nat) (corrected : Nat) (uncorrectable : Bool) (s : State) : Answer :=
  whenLive (fun s => if len = 0 then s else s.apertureRead fn off len corrected uncorrectable) s

/-- APERTURE_WRITE (R241): discarded and counted. -/
def execApertureWrite (fn _off _len : Nat) (s : State) : Answer :=
  whenLive (fun s => s.setAp fn { s.ap fn with discarded := (s.ap fn).discarded + 1 }) s

end Sys2Proof.Machine
end

