-- ==== Sys2Proof/Machine/Security.lean ====
section
/-! DEFINITION. Attestation, keys, owners and staged firmware (R364 to R383): ATTEST_REPORT, KEY_INSTALL, OWNER_TAKE, FW_STAGE and
the end of its work. -/

namespace Sys2Proof.Machine

/-- Bytes of a fixed length: cut, or filled with zeros. -/
def fixLen (n : Nat) (b : Bytes) : Bytes := (b ++ List.replicate n 0).take n

/-! ### ATTEST_REPORT (R374 to R378) -/

/-- The ML-KEM-1024 encapsulation key of the key pair in use (R379). -/
def State.encapKey (s : State) : Bytes := fixLen 1568 (Config.kemKey s.keys.kemEpoch)

/-- The identity certificate (R374): what was written at manufacture, with the fields that the spec fixes. -/
def State.certificate (s : State) : Bytes :=
  let c := fixLen 1952 (Config.certificate s.boot.uid)
  toLe 4 0x43455231 ++ slice c 4 2 ++ toLe 1 s.boot.variant ++ toLe 1 s.boot.stepping ++ toLe 16 s.boot.uid ++ slice c 0x18 60 ++
    List.replicate 12 0 ++ c.drop 0x60

/-- Numbers as bytes, each list with its length. -/
def numsBytes (l : List Nat) : Bytes := toLe 8 l.length ++ l.flatMap (toLe 16)

/-- The node configuration (R377, tag 0x04): repair map, excluded and retired units, flash settings. -/
def State.nodeConfig (s : State) : Bytes :=
  numsBytes [s.units.arrExcluded, s.units.arrRetired, s.units.excluded, s.flash.live, s.flash.slcPct, s.flash.flashOp, s.flash.wlSpread,
      s.flash.gcLow, s.flash.gcHigh, s.flash.mapFlush] ++
    numsBytes s.units.fenced ++ numsBytes s.units.spares ++ s.units.repair.flatMap numsBytes ++ numsBytes s.dram.pcRetired ++ numsBytes s.flash.deadDies

/-- The array configuration (R377, tag 0x09): the arguments of ARRAY_JOIN, the relay and the spare-group tables. -/
def State.arrayConfig (s : State) : Bytes :=
  numsBytes [s.frame.logicalId, s.frame.len, s.frame.epoch, if s.frame.exact then 1 else 0, s.frame.buddyLag, s.frame.takeoverHold,
      s.frame.shadowFrames, s.time.priority] ++
    numsBytes (s.member.relay.flatMap fun r => [r.1, r.2]) ++ numsBytes (s.member.groups.flatMap fun g => [g.1, g.2.1, g.2.2])

/-- A digest that the model keeps as a free value, told apart by what it measures. -/
def measureOf (tag : Nat) (b : Bytes) : Nat := Config.measure (16 * le b + tag)

/-- The graphs whose digests a function receives (R377): handle and digest, ascending. -/
def State.graphDigests (s : State) (fn : Nat) : List (Nat × Nat) :=
  sortBy (fun a b => decide (a.1 < b.1)) (s.graphs.filterMap fun p =>
    match tget s.chans (p.1 / 2 ^ 32) with
    | some c => if (fn = 0 ∨ c.fn = fn) ∧ !p.2.image.isEmpty then
        some (4 * 2 ^ 28 + p.1 % 2 ^ 28, le (slice p.2.image 0x18 32)) else none
    | none => none)

/-- The measurements in ascending (TAG, SUBJECT) (R377): tag, subject, digest. -/
def State.measurements (s : State) (fn : Nat) : List (Nat × Nat × Nat) :=
  [(1, 0, Config.measure 1), (2, s.boot.fwVersion, s.boot.fwDigest), (3, 0, measureOf 3 (toLe 16 s.boot.uid)),
   (4, 0, measureOf 4 s.nodeConfig),
   (5, 0, match s.easel.inForce with | some e => e.digest | none => 0),
   (6, 0, match s.easel.arm, s.easel.standby with | some _, some e => e.digest | _, _ => 0),
   (7, 0, match s.easel.gates with | some g => g.digest | none => 0)] ++
  (s.graphDigests fn).map (fun g => (8, g.1, g.2)) ++
  [(9, s.frame.logicalId, measureOf 9 s.arrayConfig), (10, 0, s.boot.ownerHash.getD 0)]

/-- A measurement's 40 bytes. -/
def measurementBytes (m : Nat × Nat × Nat) : Bytes := toLe 4 m.1 ++ toLe 4 m.2.1 ++ toLe 32 m.2.2

/-- The bytes programmed in the log sector of the reserved block. -/
def Boot.sigSpent (b : Boot) : List Nat := b.sigUsed.getD b.sigSector []

/-- The next signature index (R375): the first byte of the sector that reads 0xFF; of a block used up, the first of the next one. -/
def State.sigIndex (s : State) : Nat :=
  1024 * s.boot.sigBlock + ((List.range 1024).find? fun n => !s.boot.sigSpent.contains n).getD 1024

/-- The report (R376): what is signed, the signature, the certificate. -/
def State.report_ (s : State) (g : Go) : Bytes :=
  let ms := s.measurements g.fn
  let q := s.sigIndex
  let head := toLe 4 0x41545331 ++ toLe 2 1 ++ toLe 2 ms.length ++ toLe 8 (s.frame.num % 2 ^ 48) ++ slice g.args 4 32 ++
    toLe 16 s.boot.uid ++ toLe 4 q ++ toLe 4 (1048575 - q) ++ toLe 4 (g.fn % 64 + (if s.boot.ownerHash.isSome then 256 else 0))
  let signed := fixLen 128 head ++ ms.flatMap measurementBytes ++ s.encapKey
  signed ++ fixLen 2964 (Config.hssSign q signed) ++ s.certificate

/-- A write of the device section (R367). -/
def State.writeDevice (s : State) : State := { s with boot := { s.boot with devSeq := s.boot.devSeq + 1 } }

/-- A block used up: the other log sector is erased, and the device section written with the next block and that sector (R375). -/
def State.nextBlock (s : State) : State :=
  let n := 1 - s.boot.sigSector
  State.writeDevice { s with boot := { s.boot with sigBlock := s.boot.sigBlock + 1, sigSector := n, sigUsed := setAt s.boot.sigUsed n fun _ => [] } }

/-- The byte of an index programmed to 0x00 in the sector of its block (R375). -/
def State.programIndex (s : State) (q : Nat) : State :=
  { s with boot := { s.boot with sigUsed := setAt s.boot.sigUsed s.boot.sigSector fun l => insNat (q % 1024) l } }

/-- An index used, before the report signed with it leaves the device (R375). -/
def State.useIndex (s : State) : State :=
  (if s.boot.sigBlock < s.sigIndex / 1024 then s.nextBlock else s).programIndex s.sigIndex

/-- ATTEST_REPORT (R376, R378). -/
def attestReportBody (g : Go) : MbBody := fun s =>
  let len := 6612 + 40 * (s.measurements g.fn).length
  checked (inv [g.strayArgs [(0x18, 0, 256)]] :: g.outRows len) (fun s =>
    if 1048575 < s.sigIndex then (s, MbRes.invalidBare)
    else (s.useIndex.emit (.write g.pbAddr (s.report_ g)), { value := len })) s

def execAttestReport (g : Go) (s : State) : Answer := mailbox false 0x0050 g (attestReportBody g) s

/-! ### KEY_INSTALL (R380 to R383) -/

/-- The 16-byte check value of a channel key (R381). -/
def checkValueOf (key : Bytes) : Nat := le (aes256 (key.take 32) (List.replicate 16 0))

/-- The layout of a key package's first 16 bytes. -/
def keyLayout : Layout := [(0, 0, 32), (4, 0, 2), (4, 4, 7), (8, 0, 64)]

/-- The checks of a package against the arguments and the key pair (R380, R381). The list of R381 has no order and is one row. -/
def packageRow (g : Go) (key : Option Bytes) (target : Nat) (s : State) : List (Bool × Nat) :=
  let pb := g.pb
  let unwrapped := match key with
    | some k => k.length == 64 && (target == 0 || allZero (k.drop 32))
    | none => false
  [stray 0x1000 keyLayout (slice pb 0 16), (rd pb 0 4 != 0x4B455931, 0x1000), (fld pb 4 0 2 != target, 0x1004),
   (fld pb 4 4 7 != g.arg 0x14 4 7, 0x1004), (rd pb 8 4 != (if target = 0 then g.chan.toNat else 0), 0x1008),
   (rd pb 0x10 32 != digest s.encapKey, 0x1010), (!unwrapped, 0x1030)]

/-- A channel key installed (R280, R381): the channel's journal entries that waited for it wait for their program from now on. -/
def State.installKey (s : State) (slot id : Nat) (key : Bytes) : State :=
  let s1 := s.mapChan slot fun c =>
    { c with key := some (match c.checkValue with | some v => v.1 | none => id), keyBytes := key,
             checkValue := some (c.checkValue.getD (id, checkValueOf key)) }
  { s1 with flash := { s1.flash with
      jPending := (s1.flash.heldKey.filter fun e => e.slot == slot) ++ s1.flash.jPending,
      heldKey := s1.flash.heldKey.filter fun e => e.slot != slot } }

/-- KEY_INSTALL by its TARGET: a channel key, a port key, an IDE stream key. -/
def keyInstallBody (g : Go) (key : Option Bytes) : MbBody := fun s =>
  let target := g.arg 0x14 0 2
  let index := g.arg 0x14 4 7
  let k := key.getD []
  let args := inv [g.strayArgs [(0x14, 0, 2), (0x14, 4, 7)], (target == 3, 0x14), (target != 0 && decide (7 < index), 0x14)]
  if target = 0 then
    checked [args] (withChan g fun slot c => checked (g.pbRows 1708 ++
      [inv (packageRow g key 0 s ++
        [(!c.encrypt, 0x04), (c.key.isSome && c.keyBytes != k, 0x165C),
         ((match c.checkValue with | some v => v.2 != checkValueOf k | none => false), 0x165C)])])
      fun s => (s.installKey slot (rd g.pb 0xC 4) k, MbRes.ok)) s
  else
    let id := rd g.pb 0xC 4
    let held := match s.ports[index]? with | some p => p.keyIds.contains id | none => false
    checked (g.pfOnly :: args :: g.pbRows 1708 ++ [inv (packageRow g key target s ++ [(target == 1 && held, 0x100C)])])
      (fun s =>
        if target = 1 then
          (s.mapPort index fun p => { p with keyNext := some id, keyIds := p.keyIds ++ [id] }, MbRes.ok)
        else ({ s with keys := { s.keys with ide := tput s.keys.ide index (le (k.take 32)) } }, MbRes.ok)) s

def execKeyInstallChannel (g : Go) (key : Option Bytes) (s : State) : Answer := mailbox false 0x0051 g (keyInstallBody g key) s

def execKeyInstallPort (g : Go) (key : Option Bytes) (s : State) : Answer := mailbox false 0x0051 g (keyInstallBody g key) s

def execKeyInstallIde (g : Go) (key : Option Bytes) (s : State) : Answer := mailbox false 0x0051 g (keyInstallBody g key) s

/-- A port whose ends announce the same new key takes it at the first commit window after that, with its nonce counter at 0
(R382). -/
def Port.takeKey (p : Port) : Port :=
  match p.keyNext with
  | some k => if p.partnerKey = some k then { p with key := some k, keyNext := none, nonce := 0 } else p
  | none => p

/-- Step of the commit window: port keys. -/
def State.takeKeys (s : State) : State := { s with ports := s.ports.map Port.takeKey }

/-! ### OWNER_TAKE (R371) -/

/-- The checks of an owner record; a signature is needed only of an owned device. -/
def ownerRow (g : Go) (s : State) : List (Bool × Nat) :=
  let pb := g.pb
  [(rd pb 0 4 != 0x4F574E31, 0x1000), (rd pb 4 2 != 1, 0x1004), stray 0x1000 [(0, 0, 32), (4, 0, 16), (8, 0, 128), (0x18, 0, 32), (0x20, 0, 448)] (slice pb 0 0x60),
   (rd pb 8 16 != s.boot.uid, 0x1008), (decide (rd pb 0x18 4 ≤ s.boot.ownerSeq), 0x1018),
   ((match s.boot.ownerHash with | some h => !sigBlockOk 2 h (pb.take 0x60) (pb.drop 0x60) | none => false), 0x1060)]

/-- OWNER_TAKE: refused while a channel exists or an image is armed, or when a check fails. -/
def ownerTakeBody (g : Go) : MbBody := fun s =>
  let sig := match s.boot.ownerHash with
    | some _ => [inv [(decide (g.pbLen < 0x60 + 16 + 1840 * rd g.pb 0x64 1), 0x1064)]]
    | none => []
  checked (g.pfOnly :: inv [g.strayArgs []] :: g.pbRows 0x60 ++ sig ++ [inv (ownerRow g s)])
    (fun s =>
      if !s.chans.isEmpty || s.easel.arm.isSome then (s, MbRes.invalidBare)
      else
        let pk := slice g.pb 0x20 56
        (({ s with boot := { s.boot with ownerHash := if allZero pk then none else some (digest pk),
                                         ownerSeq := rd g.pb 0x18 4 } }).writeDevice, MbRes.ok)) s

def execOwnerTake (g : Go) (s : State) : Answer := mailbox false 0x0052 g (ownerTakeBody g) s

/-! ### FW_STAGE (R370) -/

/-- The bits of a firmware header. -/
def fwLayout : Layout := [(0, 0, 64), (8, 0, 64), (0x10, 0, 256), (0x30, 0, 64)]

/-- The image shorter than its header declares (R457). -/
def fwSizeRows (g : Go) : List CheckRow :=
  let sig := rd g.pb 0x30 4
  [inv [(decide (g.pbLen < rd g.pb 8 8), 0x1008)], inv [(sig != 0 && decide (g.pbLen < sig + rd g.pb 0x34 4), 0x1030)]]

/-- The conditions of the header. -/
def fwRow (g : Go) : CheckRow :=
  let pb := g.pb
  inv [stray 0x1000 fwLayout (slice pb 0 64), (rd pb 0 4 != 0x4657494D, 0x1000), (rd pb 4 2 != 1, 0x1004),
    (decide (2 ^ 25 < rd pb 8 8) || decide (rd pb 8 8 < 64), 0x1008)]

/-- Whether an image's DIGEST and vendor signature are good (R368, R369). -/
def fwGood (img : Bytes) : Bool :=
  digest (slice img 0x40 (rd img 8 8 - 0x40)) == rd img 0x10 32 &&
    sigBlockOk 1 Config.rootOfTrust (img.take (rd img 0x30 4)) (slice img (rd img 0x30 4) (rd img 0x34 4))

/-- FW_STAGE: accepted, the image is verified and written to the slot that is not in force; FW_STAGE_END ends that work. -/
def fwStageBody (g : Go) : MbBody :=
  checked (g.pfOnly :: inv [g.strayArgs []] :: g.pbRows 64 ++ fwSizeRows g ++ [fwRow g])
    fun s =>
      let img : FwImage := { version := rd g.pb 6 2, digest := rd g.pb 0x10 32, good := fwGood g.pb, verified := false }
      ({ s with boot := { s.boot with staged := some img } }, MbRes.ok)

def execFwStage (g : Go) (s : State) : Answer := mailbox true 0x0080 g (fwStageBody g) s

/-- FW_STAGE_END: logged with FW_VERSION and the status; the image is verified when its digest, its signature and the write are
good. A failure's status is INVALID (DESIGN CHOICE, log entry 9). -/
def execFwStageEnd (ok : Bool) (s : State) : Answer :=
  always (fun s =>
    match s.boot.staged with
    | some f =>
      if f.verified then s
      else
        let good := ok && f.good
        ({ s with boot := { s.boot with staged := if good then some { f with verified := true } else none } }).logAdd 0x0A 0 0
          f.version (if good then stOk else stInvalid)
    | none => s) s

end Sys2Proof.Machine
end

