-- ==== Sys2Proof/Machine/Account.lean ====
section
/-! DEFINITION. The closing of a frame (R24, step 7): counters and energy (R355 to R357), heat (R88, R193), queue samples (R314),
saturated palettes (R310), lanes (R311), write-behind captures (R217), the known-answer passes and the thresholds of arrays and tiles
(R185, R388, R389), and the event records with the interrupts of the frame (R321, R349). -/

namespace Sys2Proof.Machine

/-! ### Counters and energy -/

/-- The 16-bit fractions of a µJ that a frame's increments come to (R357), in tenths of a pJ before: K in units of 2^-10 for the core and
array terms, in ACTIVE-LOW times (setpoint ÷ 750 mV)². The sum is rounded down (DESIGN CHOICE, log entry 29). -/
def energyOf (inc : List Nat) (k : Nat) (low : Bool) (mv : Nat) : Nat :=
  let n := fun (i : Nat) => inc.getD i 0
  let cal := 134 * n 0 + 25000 * n 1
  let fixed := 160 * n 2 + 2000 * (n 3 + n 4) + 680 * n 5 + 600 * n 6
  let v := if low then mv * mv else 750 * 750
  65536 * (cal * k * v + fixed * (1024 * (750 * 750))) / (10000000 * (1024 * (750 * 750)))

/-- A frame's work added to counters 0 to 7 (R356). -/
def Acct.close (a : Acct) (frame energy : Nat) : Acct :=
  let e := a.frac + energy
  let inc := setAt a.inc 7 fun _ => e / 65536
  { a with cnt := (addL a.cnt inc).map (· % 2 ^ 64), inc := List.replicate 8 0, frac := e % 65536, last := frame }

/-- The counters that wrap with a frame's work. -/
def Acct.wraps (a : Acct) (energy : Nat) : List Nat :=
  let inc := setAt a.inc 7 fun _ => (a.frac + energy) / 65536
  ((addL a.cnt inc).mapIdx fun i n => (i, n)).filterMap fun p => if 2 ^ 64 ≤ p.2 then some p.1 else none

/-- The energy of some increments in the present power state. -/
def State.energy (s : State) (inc : List Nat) : Nat :=
  energyOf inc (s.power.k.getD s.power.state 1024) (s.power.state == 1) s.power.setpoint

/-- The frame added to every channel's counters and to the node's own (R356). -/
def State.closeAccts (s : State) : State :=
  let s1 := s.accts.foldl (fun acc p => (p.2.wraps (s.energy p.2.inc)).foldl (fun a i => a.raiseChan 0x0C p.1 i 0 0) acc) s
  { s1 with accts := s1.accts.map fun p => (p.1, p.2.close s.frame.num (s.energy p.2.inc))
            nodeAcct := s.nodeAcct.close s.frame.num (s.energy s.nodeAcct.inc) }

/-! ### Heat -/

/-- The formula of R88, saturating. -/
def heatNext (heat shift a : Nat) : Nat := min 0xFFFFFFFF (heat - heat / 2 ^ shift + 256 * a)

/-- A list's heat. -/
def IList.cool (shift : Nat) (l : IList) : IList := { l with heat := heatNext l.heat shift l.scanned, scanned := 0 }

/-- An index's heat. -/
def Index.cool (x : Index) : Index :=
  { x with cur := x.cur.mapLists (IList.cool x.attr.heatShift),
           old := x.old.map fun p => (p.1, p.2.mapLists (IList.cool x.attr.heatShift)) }

/-- The requests and contributions of a shard in the frame (R193). -/
def Table.shardCounts (t : Table) (i : Nat) : List (Nat × Nat) := t.counts.filter fun p => p.1 / t.attr.shardRows == i

/-- The eight rows of a shard with the most requests, by count descending, then row ascending. -/
def topRows (cs : List (Nat × Nat)) : List Nat :=
  ((sortBy (fun a b => decide (b.2 < a.2) || (decide (a.2 = b.2) && decide (a.1 < b.1))) cs).map (·.1)).take 8

/-- A table's heat (R193). -/
def Table.cool (t : Table) : Table :=
  let shards := dedup (t.heat.map (·.1) ++ t.counts.map fun p => p.1 / t.attr.shardRows)
  { t with
    heat := shards.foldl (fun h i => tput h i (heatNext (tgetD h i 0) t.attr.heatShift ((t.shardCounts i).map (·.2)).sum)) t.heat
    top := shards.foldl (fun tp i => tput tp i (topRows (t.shardCounts i))) t.top
    counts := [] }

/-- Heat at the end of a frame. -/
def State.coolAll (s : State) : State :=
  { s with indexes := s.indexes.map fun p => (p.1, Index.cool p.2), tables := s.tables.map fun p => (p.1, Table.cool p.2) }

/-! ### Queue samples (R314) -/

/-- The bucket of a sample. -/
def bucketOf (v : Nat) : Nat := if v = 0 then 0 else min 31 (v.log2 + 1)

/-- One added to a bucket, saturating. -/
def bump (t : Tbl Nat) (v : Nat) : Tbl Nat := tput t (bucketOf v) (min 0xFFFFFFFF (tgetD t (bucketOf v) 0 + 1))

/-- A queue sampled: its SELECT (R330) and when each of its entries came, at time `now`. -/
def State.sampleQueue (now : Nat) (s : State) (q : Nat × List Nat) : State :=
  let delay := match q.2 with
    | [] => 0
    | t :: r => now - r.foldl min t
  let h := s.histo q.1
  { s with histos := tput s.histos q.1 { depth := bump h.depth q.2.length, delay := bump h.delay delay } }

/-- The host submission rings: entries landed and not admitted. -/
def State.ringQueues (s : State) : List (Nat × List Nat) :=
  s.chans.flatMap fun p => (List.range p.2.rings.length).map fun r =>
    (p.1 * 16 + r,
     (s.landings.filter fun l => l.slot == p.1 && l.ring == r).map (·.at_) ++
     (s.work.filter fun c => c.slot == p.1 && c.ring == r && c.adm.isNone && c.done.isNone && c.open).map (·.at_))

/-- Fabric port egress, per class. -/
def State.portQueues (s : State) : List (Nat × List Nat) :=
  (s.ports.mapIdx fun i x => (i, x)).flatMap fun p => (List.range 5).map fun c =>
    (2 ^ 24 + p.1 * 8 + c, (p.2.queue.filter fun q => q.pkt.hdr.cls == c).map (·.at_))

/-- Flash channels: commands outstanding on their dies. -/
def State.flashQueues (s : State) : List (Nat × List Nat) :=
  (bitList 24 s.flash.live).map fun n =>
    (2 * 2 ^ 24 + n,
     (s.flash.reads.filter fun r => s.flash.channelOf r.die == n).map (·.at_) ++
     (s.flash.progs.filter fun p => s.flash.channelOf p.die == n).map (·.at_) ++
     (s.flash.erasing.filter fun e => s.flash.channelOf e.1 == n).map fun e => tgetD s.flash.eraseAt (blockKey e.1 e.2) 0)

/-- Every queue sampled. -/
def State.sampleAll (s : State) : State :=
  (s.ringQueues ++ s.portQueues ++ s.flashQueues).foldl (State.sampleQueue s.nowNs) s

/-! ### Palettes and lanes -/

/-- A stream whose clipped values exceed PAL_SAT_LIMIT raises QUANT_SATURATION (R310). -/
def State.saturation (s : State) (x : Stream) : State :=
  match s.palGen x.slot x.object x.kind with
  | some p => if p.limit < x.clipped then
      s.raiseChan 0x03 x.slot (x.object.toNat + x.kind * 2 ^ 32 + p.gen * 2 ^ 48) x.clipped 0 else s
  | none => s

/-- Every stream; the counts start again. -/
def State.saturations (s : State) : State :=
  let s1 := s.streams.foldl State.saturation s
  { s1 with streams := s1.streams.map fun x => { x with clipped := 0 } }

/-- A port's lanes with 16 failures charged within 64 frames go out of service (R311); a port left with fewer than 3 lanes is down. -/
def State.retireLanes (s : State) (p : Nat) : State :=
  let x := s.port p
  let recent := x.charges.filter fun c => decide (s.frame.num < c.2 + 64)
  let bad := (List.range 4).filter fun l => hasBit x.lanes l && decide (16 ≤ (recent.filter fun c => c.1 == l).length)
  let s1 := s.mapPort p fun y => { y with charges := recent.filter fun c => !bad.contains c.1 }
  let s2 := bad.foldl (fun acc l => (acc.laneDown p [l] 0).faultRecord 10 (4 * p + l) 1 0) s1
  if s.portUp p && !s2.portUp p then s2.faultRecord 11 p 1 0 else s2

/-- Every port. -/
def State.lanesDue (s : State) : State := (List.range s.ports.length).foldl State.retireLanes s

/-! ### Captures (R217) -/

/-- The eligible bound rows as (table key, row), ascending. -/
def State.captureOrder (s : State) : List (Nat × Nat) :=
  s.tables.flatMap fun p =>
    if p.2.attr.bound = 0 ∨ p.2.dropped.isSome then []
    else (p.2.capElig.filter fun r => !(p.2.captures.any fun c => c.row == r)).map fun r => (p.1, r)

/-- One row captured. -/
def State.capture (s : State) (k : Nat × Nat) : State :=
  { s with
    tables := tmap s.tables k.1 fun t =>
      { t with capElig := t.capElig.filter (· != k.2)
               captures := t.captures ++ [{ row := k.2, frame := s.frame.num, image := t.rowNow k.2, written := false }] }
    flash := { s.flash with capLast := k } }

/-- Captures whose locators have been published make room; then up to 256 new ones, from the row after the last one on, wrapping. -/
def State.captureRows (s : State) : State :=
  let s1 := { s with tables := s.tables.map fun (p : Nat × Table) =>
    (p.1, { p.2 with captures := p.2.captures.filter fun c => !c.written || decide (s.frame.num < c.frame + 8) }) }
  let all := s1.captureOrder
  let after := fun (k : Nat × Nat) => decide (s.flash.capLast.1 < k.1) || (s.flash.capLast.1 == k.1 && decide (s.flash.capLast.2 < k.2))
  ((all.filter after ++ all.filter fun k => !after k).take 256).foldl State.capture s1

/-- A function of every table, by slot and handle. -/
def State.eachTable (s : State) (f : State → Nat → Handle → State) : State :=
  (s.tables.map (·.1)).foldl (fun acc k => f acc (k / 2 ^ 32) (BitVec.ofNat 32 (k % 2 ^ 32))) s

/-- Checkpoint passes that start at this commit window (R209). -/
def State.startPasses (s : State) : State :=
  s.eachTable fun acc slot h => match acc.table? slot h with
    | some t => if acc.passDue t then acc.startPass slot h else acc
    | none => acc

/-! ### Known-answer passes and thresholds -/

/-- The functions in whose channels' windows of this frame an array was claimed (R186; DEDUCED, log entry 34). -/
def State.claimants (s : State) (a : Nat) : List Nat :=
  match s.easel.inForce with
  | none => []
  | some ea => dedup (s.frame.ran.filterMap fun n => (ea.entries[n]?).bind fun e =>
      if hasBit (EaselEntry.arrayBits e) a && !e.isNode then (tget s.chans e.slot).map (·.fn) else none)

/-- ARRAY_CHECKS counts a failed check. -/
def State.countCheck (s : State) (a : Nat) : State :=
  (s.claimants a).foldl (fun acc fn => { acc with units := { acc.units with arrChecks := tcount acc.units.arrChecks fn 1 } }) s

/-- An array retired (R185, R389). -/
def State.retireArray (s : State) (a : Nat) : State :=
  if hasBit s.units.arrRetired a then s
  else ({ s with units := { s.units with arrRetired := setBit s.units.arrRetired a } }.faultRecord 3 a 1 0).writeDevice

/-- Whether a third failure of a unit has come within 4,096 frames. -/
def thirdFailure (l : List (Nat × Nat)) (frame u : Nat) : Bool :=
  decide (3 ≤ (l.filter fun p => p.2 == u && decide (frame < p.1 + 4096)).length)

/-- A residue or parity failure of an array (R389): counted; the third within 4,096 frames retires it. -/
def State.residueFail (s : State) (a : Nat) : State :=
  let l := (s.units.arrFails.filter fun p => decide (s.frame.num < p.1 + 4096)) ++ [(s.frame.num, a)]
  let s1 := { s with units := { s.units with arrFails := l } }.countCheck a
  if thirdFailure l s.frame.num a then s1.retireArray a else s1.faultRecord 3 a 0 0

/-- A tile fenced from the next frame (R388). -/
def State.fenceTile (s : State) (t affected : Nat) : State :=
  if s.units.fenced.contains t then s
  else ({ s with units := { s.units with fenced := insNat t s.units.fenced } }.faultRecord 2 t 2 affected).writeDevice

/-- An uncorrectable SRAM word in a tile (R389): the third within 4,096 frames fences it. -/
def State.tileWord (s : State) (t : Nat) : State :=
  let l := (s.units.tileFails.filter fun p => decide (s.frame.num < p.1 + 4096)) ++ [(s.frame.num, t)]
  let s1 := { s with units := { s.units with tileFails := l } }
  if thirdFailure l s.frame.num t then s1.fenceTile t 0 else s1

/-- What the checks of the frame found (R185, R388, R389, R391). -/
def State.checksEnd (s : State) (i : CwIn) : State :=
  let s1 := i.residue.foldl State.residueFail s
  let s2 := (bitList 64 i.arrayFail).foldl (fun acc a => (acc.countCheck a).retireArray a) s1
  let s3 := i.tileFail.foldl (fun acc t => acc.fenceTile t i.tileWork.length) s2
  let s4 := i.tileWords.foldl State.tileWord s3
  if i.selfFail then s4.selfSuspect 14 0 else s4

/-! ### Events and interrupts -/

/-- The 32 bytes of an event record (R349). -/
def Event.bytes (e : Event) (phase : Bool) : Bytes :=
  toLe 4 (e.code + (if phase then 2 ^ 31 else 0)) ++ toLe 4 e.chan ++ toLe 8 (e.frame % 2 ^ 48) ++ toLe 8 e.d0 ++ toLe 4 e.d1 ++ toLe 4 e.d2

/-- The ring cannot take a record: disabled, misconfigured or full. -/
def EvRing.closed (r : EvRing) : Bool :=
  !r.enable || decide (r.log2 < 6) || decide (16 < r.log2) || r.base % 4096 != 0 || (r.tail + 1) % 2 ^ r.log2 == r.head

/-- One record for one function: written and signalled, or dropped. -/
def State.putEvent (s : State) (fn : Nat) (e : Event) : State :=
  let r := s.evRing fn
  if r.closed then { s with evRings := tput s.evRings fn { r with dropped := r.dropped + 1 } }
  else
    let bytes := e.bytes r.phase
    let a := r.base + 32 * r.tail
    let s1 := match e.fn with
      | some _ => s.hostWrite (e.chan % 2 ^ 16) a bytes
      | none => s.emit (.write a bytes)
    let r1 : EvRing := { r with tail := (r.tail + 1) % 2 ^ r.log2, phase := if r.tail + 1 = 2 ^ r.log2 then !r.phase else r.phase }
    { s1 with evRings := tput s1.evRings fn r1 }

/-- The functions that an event goes to: its channel's owner, or each one whose ring is enabled. -/
def State.eventFns (s : State) (e : Event) : List Nat :=
  match e.fn with
  | some fn => [fn]
  | none => (s.evRings.filter fun p => p.2.enable).map (·.1)

/-- The event records of the frame, in code order and then in channel order; vector 1 of each function that got one. -/
def State.flushEvents (s : State) : State :=
  let es := sortBy (fun a b => decide (a.code < b.code) || (decide (a.code = b.code) && decide (a.chan % 2 ^ 16 < b.chan % 2 ^ 16))) s.events
  let tails := s.evRings
  let s1 := es.foldl (fun acc e => (acc.eventFns e).foldl (fun a fn => a.putEvent fn e) acc) { s with events := [] }
  (s1.evRings.filter fun p => (match tget tails p.1 with | some r => r.tail != p.2.tail | none => false)).foldl
    (fun acc p => acc.emit (.msix p.1 1)) s1

/-- The vectors of the rings to which the frame wrote completions (R321), each once. -/
def State.ringVectors (s : State) : State :=
  let due := s.chans.flatMap fun p => (p.2.rings.filter fun r => r.intDue && r.intEn).map fun r => (p.2.fn, r.vector)
  let s1 := { s with chans := s.chans.map fun (p : Nat × Chan) =>
    (p.1, { p.2 with rings := p.2.rings.map fun r => { r with intDue := false } }) }
  (due.eraseDups).foldl (fun acc v => acc.emit (.msix v.1 v.2)) s1

end Sys2Proof.Machine
end

