-- ==== Sys2Proof/Machine/Folios.lean ====
section
/-! DEFINITION. The bytes of folios and lines as the consuming engine and the flash hold them: lines (R65 to R67), record, sketch, table,
weight, map and journal folios (R73, R181, R244 to R246, R258 to R260), and their encryption at rest (R279). -/

namespace Sys2Proof.Machine

/-- Bytes with zeros up to a length. -/
def padTo (n : Nat) (b : Bytes) : Bytes := b ++ List.replicate (n - b.length) 0

/-- The first 16 bytes that the headers of record, sketch and table folios share: magic, format 1, the size of a piece, the object, and the
word at 0x0C. -/
def folioHead (magic size : Nat) (h : Handle) (word : Nat) : Bytes := toLe 4 magic ++ toLe 2 1 ++ toLe 2 size ++ toLe 4 h.toNat ++ toLe 4 word

/-! ### Lines (R65 to R67) -/

/-- A slot's attribute entry; padding and unfilled places have VALID = 0. -/
def attrEntry : Option Slot → Bytes
  | none => List.replicate 16 0
  | some sl => toLe 8 sl.facet ++ toLe 4 sl.row ++ toLe 2 sl.norm.toNat ++ [1] ++ toLe 1 (sl.pub % 256)

/-- A slot's identity entry. -/
def idEntry : Option Slot → Bytes
  | none => List.replicate 20 0
  | some sl => toLe 8 sl.key.toNat ++ toLe 4 sl.folio ++ toLe 4 (sl.record % 2 ^ 11) ++ toLe 4 ((sl.rowsum % 2 ^ 32).toNat)

/-- A slot's sketch. -/
def sketchEntry (bits : Nat) : Option Slot → Bytes
  | none => List.replicate (bits / 8) 0
  | some sl => toLe (bits / 8) sl.sketch

/-- Line j of an extent: slots 16 j to 16 j + 15 in three planes; slot 16 j + i goes to core i. -/
def Extent.line (e : Extent) (bits j : Nat) : Bytes :=
  let slots := (List.range 16).map fun i => e.slot? (16 * j + i)
  slots.flatMap (sketchEntry bits) ++ slots.flatMap attrEntry ++ slots.flatMap idEntry

/-- The extent that holds a line of the index at version g, and the line's number in it (R68, R244). -/
def Index.lineAt (x : Index) (g n : Nat) : Option (Extent × Nat) :=
  ((x.genAt g).lists.flatMap fun r => r.2.map fun l => l.2.extentAt g).findSome? fun e =>
    if !e.centroid.isEmpty && decide (e.firstLine ≤ n) && decide (n < e.firstLine + extentLines x.attr.tipin e.mainSlots) then some (e, n - e.firstLine)
    else none

/-- A line of the index at version g; zero where no extent stands. -/
def Index.line (x : Index) (g n : Nat) : Bytes :=
  match x.lineAt g n with
  | some (e, j) => e.line x.attr.sketchBits j
  | none => List.replicate (lineBytes x.attr.sketchBits) 0

/-! ### Sketch folios (R244) -/

/-- Lines of a sketch folio. -/
def linesPerFolio (bits : Nat) : Nat := 65472 / lineBytes bits

/-- The sketch folio in which a line lies. -/
def sketchFolioOf (bits n : Nat) : Nat := n / linesPerFolio bits

/-- Lines of the index's line space. -/
def Index.lineCount (x : Index) : Nat := (x.spans.map fun p => p.1 + p.2).foldl max 0

/-- Sketch folio k of an index at version g. -/
def Index.sketchFolio (x : Index) (h : Handle) (g k : Nat) : Bytes :=
  let n := linesPerFolio x.attr.sketchBits
  let here := min n (x.lineCount - k * n)
  padTo 65536 (padTo 64 (folioHead 0x4C58534B (lineBytes x.attr.sketchBits) h (k * n) ++ toLe 8 here ++ toLe 8 (g % 2 ^ 48)) ++
    (List.range here).flatMap fun i => x.line g (k * n + i))

/-! ### Record folios (R73) -/

/-- The record folio with a number: header, records with stride R, keys. -/
def State.recordFolio (s : State) (n : Nat) (f : Folio) (a : IndexAttr) : Bytes :=
  let r := recordSize a
  let rpf := recordsPerFolio a
  padTo 65536 (padTo 64 (folioHead 0x4C585246 r f.object (rpf + f.used * 2 ^ 11) ++ toLe 8 (f.closed.getD 0 % 2 ^ 48)) ++
    ((List.range rpf).flatMap fun i => padTo r ((tgetD s.flash.recs (recKey n i) []).take r)) ++
    (List.range rpf).flatMap fun i => toLe 8 (tgetD s.flash.keys (recKey n i) 0).toNat)

/-! ### Table folios (R245) -/

/-- The table folio of an object from a first row, of rows with their version frames. -/
def tableFolioBytes (a : TableAttr) (h : Handle) (first : Nat) (rowOf : Nat → Nat × Bytes) : Bytes :=
  let n := rowsPerFolio a
  let here := min n (a.rows - first)
  padTo 65536 (padTo 64 (folioHead 0x4C585442 (tableStride a) h first ++ toLe 4 here) ++
    padTo (n * tableStride a) ((List.range here).flatMap fun i => padTo (tableStride a) ((rowOf (first + i)).2.take (tableStride a))) ++
    padTo (n * 8) ((List.range here).flatMap fun i => toLe 8 ((rowOf (first + i)).1 % 2 ^ 48)))

/-- The rows of a table as the last passes wrote them. -/
def Table.savedRow (t : Table) (r : Nat) : Nat × Bytes :=
  match tget t.saved r with
  | some v => v
  | none => (0, initRow t.attr r)

/-! ### Stationary layout (R181, R246) -/

/-- A stationary operand of k by n elements of es bytes: blocks of 128 by 128, k-major, in ascending column block and within it in ascending k
block; edges are zero-filled. -/
def stationary (k n es : Nat) (elem : Nat → Nat → Nat) : Bytes :=
  (List.range (ceilDiv n 128)).flatMap fun cb => (List.range (ceilDiv k 128)).flatMap fun kb =>
    (List.range 128).flatMap fun i => (List.range 128).flatMap fun j =>
      toLe es (if 128 * kb + i < k ∧ 128 * cb + j < n then elem (128 * kb + i) (128 * cb + j) else 0)

/-- A centroid table in stationary layout: column n is the n-th centroid. -/
def stationCentroids (dim : Nat) (cs : List (List F16)) : Bytes :=
  stationary dim cs.length 2 fun k n => ((cs.getD n []).getD k 0).toNat

/-- The sketch matrix: G transposed, bf16 signs, column i the row i of G (R132). -/
def stationSketch (a : IndexAttr) : Bytes :=
  stationary a.dim a.sketchBits 2 fun k n => if gSign a.seed (n * a.dim + k) then 0x3F80 else 0xBF80

/-- The rescoring weight folios of a layer (R246): its stationary blocks, the last folio filled with zeros. -/
def weightFolios (dim : Nat) (img : Bytes) (l : Nat) : Bytes :=
  let L := layerOf img l
  let b := stationary (layerIn dim img l) L.outW (layerES L.fmt) fun k n => weight img L k n
  padTo (ceilDiv b.length 65536 * 65536) b

/-! ### Map folios (R257, R258) -/

/-- A map entry's 5 bytes. -/
def mapEntryBytes (e : Option MapEntry) : Bytes := toLe 5 (match e with | some m => m.bits | none => 0)

/-- A map folio as the last program wrote it. -/
def Flash.mapFolioBytes (f : Flash) (mf : Nat) : Bytes :=
  padTo 65536 (padTo 64 ((Config.mapHeader (13094 * mf) (tgetD f.mapWrites mf 0)).take 64) ++
    (List.range 13094).flatMap fun i => mapEntryBytes (tget f.mapSaved (13094 * mf + i)))

/-! ### AES-256-XTS (R279) -/

/-- Multiplication of a tweak by x in GF(2^128), least significant byte first. -/
def xtsDouble (t : Nat) : Nat := ((2 * t) % 2 ^ 128) ^^^ (if t < 2 ^ 127 then 0 else 0x87)

/-- One block. -/
def xtsBlock (key : Bytes) (t : Nat) (b : Bytes) : Bytes :=
  toLe 16 (le (aes256 (key.take 32) (toLe 16 (le b ^^^ t))) ^^^ t)

/-- Whole blocks, and a last short one by ciphertext stealing; n bounds the blocks. -/
def xtsBlocks (key : Bytes) : Nat → Nat → Bytes → Bytes
  | 0, _, _ => []
  | n + 1, t, b =>
    if b.length < 16 then []
    else
      let c := xtsBlock key t (b.take 16)
      let rest := b.drop 16
      if rest.isEmpty then c
      else if 16 ≤ rest.length then c ++ xtsBlocks key n (xtsDouble t) rest
      else xtsBlock key (xtsDouble t) (rest ++ c.drop rest.length) ++ c.take rest.length

/-- A data unit under a channel key of two 32-byte keys, the first for the data and the second for the tweak (the order is PRESUMED, IEEE 1619;
log entry 87). -/
def xts (key : Bytes) (tweak : Nat) (b : Bytes) : Bytes :=
  if b.length < 16 then (if b.isEmpty then [] else Config.shortXts key tweak b)
  else xtsBlocks key b.length (le (aes256 ((key.drop 32).take 32) (toLe 16 tweak))) b

/-- The tweak of a codeword: its folio in bits 31:0, its number 0 to 15 in the folio in bits 35:32. -/
def codewordTweak (folio i : Nat) : Nat := folio % 2 ^ 32 + i % 16 * 2 ^ 32

/-- The tweak of a journal entry body: the folio's SEQ in bits 63:0, the entry's byte offset in bits 79:64. -/
def entryTweak (seq off : Nat) : Nat := seq % 2 ^ 64 + off % 2 ^ 16 * 2 ^ 64

/-- A folio of 16 codewords encrypted, each codeword a data unit. -/
def encryptFolio (key : Bytes) (n : Nat) (b : Bytes) : Bytes :=
  (List.range 16).flatMap fun i => xts key (codewordTweak n i) (slice b (4096 * i) 4096)

/-- What the media hold for a channel: ciphertext when its flash contents are encrypted. -/
def State.atRest (s : State) (slot n : Nat) (b : Bytes) : Bytes :=
  match tget s.chans slot with
  | some c => if c.encrypt then encryptFolio c.keyBytes n b else b
  | none => b

/-- The 64 KiB of a logical folio before LDPC encoding (R243, R257, R279): zeros where it is unmapped. -/
def State.folioBytes (s : State) (n : Nat) : Bytes :=
  match tget s.flash.map n, tget s.flash.folios n with
  | some _, some f =>
    s.atRest f.slot n (if f.kind = 0 then
        (match tget s.indexes (objKey f.slot f.object) with | some x => s.recordFolio n f x.attr | none => List.replicate 65536 0)
      else (match tget s.tables (objKey f.slot f.object) with
        | some t => tableFolioBytes t.attr f.object f.first t.savedRow
        | none => List.replicate 65536 0))
  | _, _ => List.replicate 65536 0

/-- A page of a folio as it is read (R255): the codeword and the segment of a byte. -/
def pageOf (o : Nat) : Nat := o / 16384
def codewordOf (o : Nat) : Nat := o % 16384 / 4096
def segmentOf (o : Nat) : Nat := o % 4096 / 64

/-! ### Journal folios (R259, R260) -/

/-- The body of an entry: 8 bytes for each field, the long one at its length; the spec gives the bodies no widths (DESIGN CHOICE, log entry
11). -/
def State.entryBody (s : State) (e : JEntry) : Bytes := (e.body.mapIdx fun i v => toLe (s.fieldBytes e i) v).flatten

/-- The header of an entry (R260). -/
def State.entryHead (s : State) (e : JEntry) : Bytes :=
  toLe 4 (e.typ + s.entrySize e * 256) ++ toLe 4 e.object.toNat ++ toLe 8 (e.frame % 2 ^ 48)

/-- An entry with a plaintext body. -/
def State.plainEntry (s : State) (e : JEntry) : Bytes := s.entryHead e ++ s.entryBody e

/-- An entry at an offset of the folio with a SEQ: the header plain, the body encrypted for a channel whose flash contents are. -/
def State.entryBytes (s : State) (seq off : Nat) (e : JEntry) : Bytes :=
  let body := s.entryBody e
  let out := match tget s.chans e.slot with
    | some c => if c.encrypt && e.object != 0 then xts c.keyBytes (entryTweak seq off) body else body
    | none => body
  s.entryHead e ++ out

/-- A journal folio (R259). -/
def State.journalFolio (s : State) (seq : Nat) (es : List JEntry) : Bytes :=
  let body := (es.foldl (fun (r : Bytes) e => r ++ s.entryBytes seq (64 + r.length) e) [])
  padTo 65536 (padTo 64 (toLe 4 0x4C584A4E ++ toLe 2 1 ++ toLe 2 es.length ++ toLe 8 seq ++
      toLe 8 ((es.head?.map (·.frame)).getD 0 % 2 ^ 48) ++ toLe 8 ((es.getLast?.map (·.frame)).getD 0 % 2 ^ 48) ++ toLe 4 (crc32 body)) ++ body)

/-- The journal folios written, newest last: SEQ, die and bytes. -/
def State.journalFolios (s : State) : List (Nat × Nat × Bytes) :=
  (s.flash.jFolios.foldl (fun (r : List (Nat × Nat × Bytes) × List JEntry) f =>
    (r.1 ++ [(f.1, f.2.1, s.journalFolio f.1 (r.2.take f.2.2))], r.2.drop f.2.2)) ([], s.flash.journal)).1

end Sys2Proof.Machine
end

