-- ==== Sys2Proof/Machine/Starts.lean ====
section
/-! DEFINITION. Stops and starts (R334, R353, R426 to R439, R449, R450, R455): power loss, the protective stops, the choice of a start,
cold and warm starts, recovery and failures, FW_ACTIVATE, and the events of the host link and of functions. -/

namespace Sys2Proof.Machine

/-! ### What a stop without flush takes back (R429, R431) -/

/-- Every list of both generations of an index changed. -/
def Index.mapLists (x : Index) (f : IList → IList) : Index :=
  { x with cur := x.cur.mapLists f, next := x.next.map fun p => (p.1, p.2.mapLists f) }

/-- The slots of a row changed. -/
def Index.mapRow (x : Index) (row : Nat) (f : Slot → Slot) : Index :=
  x.mapLists fun l => { l with slots := l.slots.map fun sl => if sl.row = row then f sl else sl }

/-- The slot of a row gone. -/
def Index.dropRow (x : Index) (row : Nat) : Index :=
  { x.mapLists (fun l => { l with slots := l.slots.filter fun sl => sl.row != row }) with rowsUsed := x.rowsUsed.filter (· != row) }

/-- A number that stands for a signed 32-bit one. -/
def signed32 (n : Nat) : Int := if n < 2 ^ 31 then (n : Int) else (n : Int) - 2 ^ 32

/-- One published journal entry whose program has not completed taken back: a slot goes, or is again as it was; a tombstone and an
allow-set edit are undone; a generation and a route entry are again the one before. Map changes, list operations and migration steps
stand (log entry 31). -/
def State.undoEntry (s : State) (e : JEntry) : State :=
  match e.typ, e.body, e.undo with
  | 1, _ :: _ :: _ :: row :: _, [_, _, _, _, _, _, sk, nm, rs, fo, rc] =>
    s.mapIndex e.slot e.object fun x => x.mapRow row fun sl =>
      { sl with sketch := sk, norm := BitVec.ofNat 16 nm, rowsum := signed32 rs, folio := fo, record := rc }
  | 1, _ :: _ :: _ :: row :: _, _ => (s.clearRow e.slot e.object row).mapIndex e.slot e.object fun x => x.dropRow row
  | 2, [_, _, _, row], _ =>
    (s.tombBit e.slot e.object row false).mapIndex e.slot e.object fun x =>
      { x.mapRow row (fun sl => { sl with dead := none }) with tombLog := x.tombLog.filter fun t => t.1 != row }
  | 3, [set, _, row, _], [old] =>
    (match s.set? e.slot (BitVec.ofNat 32 set) with
      | some x => s.setBitTo e.slot (BitVec.ofNat 32 set) x row (old == 1)
      | none => s)
  | 5, [0x10, number, _], [old] =>
    (s.mapIndex e.slot e.object fun x => { x with route := setAt x.route number fun _ => old }).mapTable e.slot e.object
      fun t => { t with route := setAt t.route number fun _ => old }
  | 5, [0x11, row, _], [old] => s.mapTable e.slot e.object fun t => { t with hot := tput t.hot row old }
  | 5, [p], _ =>
    s.mapIndex e.slot e.object fun x =>
      match x.old with
      | some (q, g) => if q = p then { x with cur := g, old := none, next := none } else x
      | none => x
  | _, _, _ => s

/-- Everything published and not programmed taken back, the newest first. -/
def State.takeBack (s : State) : State :=
  let s1 := (s.flash.heldKey ++ s.flash.jPending).reverse.foldl State.undoEntry s
  s1.mapFlash fun f => { f with jPending := [], heldKey := [] }

/-! ### What a start leaves (R437, R438) -/

/-- A channel as a start leaves it: DETACHED, rings and key lost. -/
def Chan.detached (c : Chan) : Chan :=
  { c with st := (match c.st with | .active => ChState.detached | x => x), rings := c.rings.map fun _ => Ring.lost, key := none,
           keyBytes := [], cTok := c.bucket.cbs, pTok := c.bucket.pbs, volatile := [], reissues := [],
           homeUsed := List.replicate 6 0, ownUsed := List.replicate 6 0, part := [], pool := [], policed := 0, discards := 0, refusedW := false }

/-- A channel restored from flash: the slipcase and the fault counters are gone too. R8, R9 and R438 speak of the value in force of
an RWA field alone: that pending values are dropped at a cold start, and kept at a warm start, is a DESIGN CHOICE (log entry 71). -/
def Chan.restored (c : Chan) : Chan :=
  { c.detached with pend := c.rwa, slipcase := [], faultAt := [], faults := 0, lastCause := 0 }

/-- A list without what only DRAM held: heat, TIPIN_FULL (R68) and superseded extents. -/
def IList.restored (l : IList) : IList := { l with heat := 0, scanned := 0, tipinFull := false, older := [] }

/-- An index restored from its checkpoint and the journal (R71): a generation that was not in force is lost. -/
def Index.restored (x : Index) : Index :=
  let y := x.mapLists IList.restored
  { y with old := none, next := none, tombLog := [] }

/-- The last journalled replacements of a table's rows (R209, R210). -/
def State.putsOf (s : State) (key : Nat) : List (Nat × Nat × Nat) :=
  s.flash.journal.filterMap fun e =>
    match e.body with
    | [_, r, img] => if e.typ = 4 ∧ objKey e.slot e.object = key then some (r, e.frame, img) else none
    | _ => none

/-- A row replacement replayed, when its frame is later than the restored row's (R210). -/
def replayPut (stride : Nat) (rows : Tbl Row) (p : Nat × Nat × Nat) : Tbl Row :=
  let newer := match tget rows p.1 with | some r => decide (r.frame < p.2.1) | none => true
  if newer then tput rows p.1 { image := toLe stride p.2.2, frame := p.2.1, older := [] } else rows

/-- A table restored (R210): each row from the last pass that wrote it, then the journalled replacements. -/
def State.restoreTable (s : State) (key : Nat) (t : Table) : Table :=
  let puts := s.putsOf key
  let base : Tbl Row := t.saved.map fun p => (p.1, { image := p.2.2, frame := p.2.1, older := [] })
  let touched := (dedup (puts.map (·.1))).foldl (fun l r => insNat r l) []
  { t with rows := puts.foldl (replayPut (tableStride t.attr)) base, heat := [], counts := [], top := [], pass := none,
           changed := touched, capElig := if t.attr.bound != 0 then touched else [], captures := [], fresh := [] }

/-- Memory after a cold start (R226): zero, but for what the restored allow-sets and tombstone sets hold. -/
def State.keptCells (s : State) : List Host.Cell :=
  let units := s.sets.flatMap (fun p => p.2.units) ++ s.indexes.flatMap fun p => p.2.tombUnits
  let twins := units.flatMap fun u => [u, daUnit (twinOf (u * 2 ^ 28))]
  s.dram.mem.filter fun c => twins.contains (daUnit c.1)

/-- A unit's kind after the zeroing of a cold start. -/
def zeroedKind (k : UnitKind) : UnitKind := match k with | .zeroing => .free | x => x

/-- A port as training finds it: its counters, key and copies are gone (R282, R299, R315). -/
def portAt (i : StartIn) (n : Nat) : Port :=
  { Port.reset with lanes := i.lanes.getD n 0 % 16, neighbour := i.neighbours.getD n 0x3FF, delay := i.linkDelays.getD n 0,
                    retryMin := 2 * i.linkDelays.getD n 0 + 200 }

/-- The physical tiles of a sector that passed BIST, of its 105, in ascending order (R169). -/
def StartIn.passing (i : StartIn) (k : Nat) : List Nat := (List.range 105).filter fun t => !i.tileBist.contains (k, t)

/-- Sectors with more than 5 failing tiles (R170), as a mask, and the unused spare tiles of each sector. -/
def StartIn.excluded (i : StartIn) : Nat :=
  ((List.range 16).filter fun k => decide ((StartIn.passing i k).length < 100)).foldl setBit 0
def StartIn.spares (i : StartIn) : List Nat := (List.range 16).map fun k => (StartIn.passing i k).length - 100

/-- The repair map (R169): logical tiles T00 to T99 of each sector on its passing physical tiles, in ascending order. -/
def StartIn.repair (i : StartIn) : List (List Nat) := (List.range 16).map fun k => (StartIn.passing i k).take 100

/-- The arrays of excluded sectors with those that failed (R186). -/
def StartIn.arrays (i : StartIn) : Nat :=
  (bitList 16 (StartIn.excluded i)).foldl (fun m k => m ||| (15 <<< (4 * k))) i.arrayBist

/-- What every start puts at its default or trains anew (R433 to R439): frames, easel, work in progress, ports, time, membership,
power, keys. Admission sequence numbers go on (log entry 5). -/
def State.started (s : State) (i : StartIn) : State :=
  { s with
    frame := { FrameSt.reset with epoch := i.timeNs, seq := s.frame.seq }
    easel := EaselSt.reset, changes := [], planned := [], landings := [], work := [], inbox := [], ownerQs := [], scanParts := [], ownerFs := []
    outbox := [], updIn := [], heldUpd := [], staged := [], took := [], durs := [], listOps := [], migs := [], builds := [], events := []
    ports := (List.range 8).map (portAt i)
    time := { TimeSt.reset with ns := i.timeNs, lockNs := i.timeNs }
    member := Member.reset
    dram := { s.dram with nbRefused := 0, nbLog := [], mismatches := 0, corrected := 0, fixed := 0 }
    flash := { s.flash with reads := [], progs := [], suspended := false, timeouts := [], lateReads := [], overCap := [], retried := [],
                            uncorr := [], erasing := [], eraseAt := [] }
    units := { s.units with arrChecks := [], arrFails := [], tileFails := [], sectorsOn := 0xFFFF - s.units.excluded }
    power := { Power.reset with run := .ready, degraded := s.power.degraded, vlow := s.power.vlow, regAddr := s.power.regAddr }
    keys := { s.keys with kemEpoch := s.keys.kemEpoch + 1, ide := [] } }

/-- The firmware that a start runs: the golden image, or the slot in force. -/
def Boot.running (b : Boot) : Nat × Nat := b.images.getD (if b.golden then 2 else b.slotInForce) (0, 0)

/-- READY is reached: counters, held records, the firmware in force (R432, R435, R415). -/
def State.reachReady (s : State) (i : StartIn) (warm : Bool) : State :=
  let b := s.boot
  let fw := Boot.running b
  let s1 := b.heldCauses.foldl (fun acc c => acc.logAdd c.1 0 0 c.2.1 c.2.2) s
  { s1 with boot := { b with warmFails := 0, coldFails := if warm || b.golden then b.coldFails else 0, heldCauses := [], startCold := false,
                             staged := none, fwVersion := fw.1, fwDigest := fw.2, heard := i.heardFrame } }.selectGm

/-! ### The choice of a start (R432) -/

/-- Recovery (R436): the host port is trained, FAULT_N asserts, no frame runs. -/
def State.enterRecovery (s : State) : State := s.mapPower fun p => { p with run := .recovery, faultN := true, crs := false }

/-- Whether the journal ends in a stop mark (R421). -/
def State.stopped (s : State) : Bool := match s.flash.journal.getLast? with | some e => e.typ == 9 | none => false

/-- The kind of start chosen (R432): the registers of the host port are at their defaults while it runs (R438). -/
def State.chooseStart (s : State) (bootMode : Nat) : State :=
  let b := s.boot
  let s1 := { s with mbs := [], aps := [], evRings := [], boot := { b with bootMode := bootMode },
                     host := { s.host with vfs := 0, fnDiscards := [] } }
  let go := fun (golden warm : Bool) =>
    { s1 with boot := { s1.boot with golden := golden }, power := { s1.power with run := .starting warm, faultN := false } }
  if bootMode = 3 ∨ 3 ≤ b.goldenFails then s1.enterRecovery
  else if bootMode = 2 ∨ 3 ≤ b.coldFails then go true false
  else if bootMode = 1 ∨ 3 ≤ b.warmFails ∨ !s.stopped ∨ b.retention ≠ stackMask ∨ b.startCold then go false false
  else go false true

/-- PWRGOOD_RISE: BOOT_MODE is sampled; a sensor below 0 °C holds the start (R455). -/
def execPwrgoodRise (bootMode : Nat) (cold : Bool) (s : State) : Answer :=
  always (fun s =>
    if s.power.run = .off then
      let s1 := s.mapPower fun p => { p with plossN := false, want := none }
      if cold then { s1 with boot := { s1.boot with bootMode := bootMode % 4 } }.mapPower fun p => { p with run := .hold, faultN := true }
      else s1.chooseStart (bootMode % 4)
    else s) s

/-- TEMPERATURE_HOLD_RELEASE. -/
def execTemperatureHoldRelease (s : State) : Answer :=
  always (fun s => if s.power.run = .hold then s.chooseStart s.boot.bootMode else s) s

/-- RECOVERY, when the choice of R432 has led there. -/
def execRecovery (s : State) : Answer :=
  always (fun s =>
    if s.power.run = .recovery ∨ (s.isStarting = true ∧ (s.boot.bootMode = 3 ∨ 3 ≤ s.boot.goldenFails)) then s.enterRecovery else s) s

/-! ### Failures (R435) -/

/-- A start that fails: its counter rises, the cause is kept in the device section, the retry follows at once with BOOT_MODE as 0
(R452). -/
def State.startFailed (s : State) (cause : Nat) : State :=
  match s.power.run with
  | .starting warm =>
    let b := s.boot
    let b1 := if warm then { b with warmFails := b.warmFails + 1 }
      else if b.golden then { b with goldenFails := b.goldenFails + 1 } else { b with coldFails := b.coldFails + 1 }
    ({ s with boot := { b1 with heldCauses := b1.heldCauses ++ [(0x08, cause, 0)] } }.writeDevice).chooseStart 0
  | _ => s

def execStartFailure (cause : Nat) (s : State) : Answer := always (fun s => s.startFailed cause) s

/-- START_TIME_LIMIT: cause 8. -/
def execStartTimeLimit (s : State) : Answer := always (fun s => s.startFailed 8) s

/-! ### Cold and warm starts (R433, R434) -/

/-- The cause for which a cold start fails, if one does: what its step reports, or what BIST and training found. -/
def State.coldFailure (s : State) (i : StartIn) : Option Nat :=
  match i.fail with
  | some c => some c
  | none =>
    if !i.linear then some 5
    else if StartIn.excluded i = 0xFFFF then some 4
    else if i.stackCount ≠ 8 then some 5
    else if i.stackGib ≠ Boot.stackGib s.boot then some 3
    else none

/-- The regulator at every start (R413, R447): turned on with OPERATION, VOUT_MODE read, the transition rate set to 1 mV per µs. -/
def State.regulatorOn (s : State) : State :=
  ((s.emit (.pmbus 0x01 1)).emit (.pmbus 0x20 0)).emit (.pmbus 0x27 1)

/-- What BIST, training and enumeration found (R169, R170, R186, R253, R433). -/
def State.tested (s : State) (i : StartIn) : State :=
  let ex := StartIn.excluded i
  { s with
    units := { s.units with arrExcluded := StartIn.arrays i, arrRetired := 0, fenced := [], spares := StartIn.spares i,
                            repair := StartIn.repair i, excluded := ex }
    dram := { s.dram with pcRetired := i.badPseudo, pcFails := [], suspects := [], kept := [], mem := s.keptCells,
                          units := s.dram.units.map fun u => (u.1, zeroedKind u.2) }
    flash := { s.flash.enumerated i.flash with
                            retiredBlocks := 0, spread := 0, slcUsed := 0, freeMin := 0,
                            blocks := s.flash.blocks.map (fun (b : Nat × Block) => (b.1, { b.2 with reads := b.2.reads + s.flash.profile.rdLimit / 8 })) }
    power := { s.power with degraded := !i.badPseudo.isEmpty || ex != 0 } }

/-- Checkpointed channels, objects and rows restored (R71, R210, R438); graphs, palettes, the log and the counters are lost. -/
def State.restore (s : State) : State :=
  { s with
    chans := s.chans.map fun p => (p.1, p.2.restored)
    indexes := s.indexes.map fun p => (p.1, p.2.restored)
    tables := s.tables.map fun p => (p.1, s.restoreTable p.1 p.2)
    graphs := [], streams := [], accts := s.accts.map fun p => (p.1, Acct.zero), nodeAcct := Acct.zero, log := [], logNext := 0
    histos := [] }

/-- The flash formatted, with no channels (R433). -/
def State.format (s : State) : State :=
  let f := s.flash
  { s with
    chans := [], indexes := [], sets := [], tables := [], graphs := [], streams := [], accts := [], nodeAcct := Acct.zero
    log := [], logNext := 0, histos := []
    flash := { Flash.reset with live := f.live, populated := f.populated, unused := f.unused, dies := f.dies, profile := f.profile,
                                slcPct := f.slcPct, flashOp := f.flashOp, wlSpread := f.wlSpread, gcLow := f.gcLow, gcHigh := f.gcHigh,
                                mapFlush := f.mapFlush, nextId := f.nextId, rates := f.rates }
    dram := { s.dram with mem := [], units := Dram.reset.units } }

/-- COLD_START. A pseudo-channel that failed makes the node start in TEST (R390, R422). -/
def State.coldStart (s : State) (i : StartIn) : State :=
  match s.coldFailure i with
  | some c => s.startFailed c
  | none =>
    let s1 := ((((s.takeBack.mapFlash Flash.loadMap).rebase fun _ => 0).tested i).trainFlash (trainings i.flash (channelMask ((topology i.flash).map (·.1))))).writeDevice
    let s2 := if i.mapFound then s1.restore else s1.format
    let s3 := (s2.started i).mapPower fun p =>
      { p with service := if i.badPseudo.isEmpty then 1 else 3 }
    { s3 with keys := { s3.keys with pufEpoch := s3.keys.pufEpoch + 1 } }.reachReady i false

def execColdStart (i : StartIn) (s : State) : Answer :=
  always (fun s => if s.power.run = .starting false then s.regulatorOn.coldStart i else s) s

/-- The cause for which a warm start fails, if one does: the topology must match the map (cause 6). -/
def State.warmFailure (s : State) (i : StartIn) : Option Nat :=
  match i.fail with
  | some c => some c
  | none =>
    if !i.linear then some 5
    else if (s.flash.enumerated i.flash).populated ≠ s.flash.populated ∨ (s.flash.enumerated i.flash).dies ≠ s.flash.dies ∨
        (s.flash.enumerated i.flash).profile ≠ s.flash.profile ∨ !s.flash.mapAgrees ∨ !s.stopped then some 6 else none

/-- WARM_START: DRAM is kept. -/
def State.warmStart (s : State) (i : StartIn) : State :=
  match s.warmFailure i with
  | some c => s.startFailed c
  | none =>
    let s1 := s.rebase fun _ => 0
    let s2 := { s1 with chans := s1.chans.map fun (p : Nat × Chan) => (p.1, p.2.detached) }
    (((s2.started i).trainFlash (trainings i.flash s.flash.live)).reachReady i true)

def execWarmStart (i : StartIn) (s : State) : Answer :=
  always (fun s => if s.power.run = .starting true then s.regulatorOn.warmStart i else s) s

/-! ### FW_ACTIVATE (R370, R432) -/

/-- The staged image is started: its slot is in force, the fail counters are 0. -/
def State.activate (s : State) (cold : Bool) : State :=
  match s.boot.staged with
  | some f =>
    let n := 1 - s.boot.slotInForce
    ({ s with boot := { s.boot with slotInForce := n, images := setAt s.boot.images n fun _ => (f.version, f.digest), startCold := cold,
                                    coldFails := 0, warmFails := 0, goldenFails := 0, staged := none },
              power := { s.power with want := none } }.writeDevice).chooseStart 0
  | none => s

/-- FW_ACTIVATE: refused unless a staged image is verified; in recovery it acts at once, else after the drain. -/
def fwActivateBody (g : Go) : MbBody := fun s =>
  let cold := g.arg 0x14 0 1 == 1
  checked [g.pfOnly, inv [g.strayArgs [(0x14, 0, 1)]]] (fun s =>
    match s.boot.staged with
    | some f =>
      if !f.verified then (s, MbRes.invalidBare)
      else if s.power.run = .recovery then (s.activate cold, MbRes.ok)
      else
        let x := s.acceptFrame g.cycle
        (s.mapPower fun p => { p with want := some (if cold then 6 else 5, x),
                                      drainFrom := some (match p.drainFrom with | some f => f | none => x + 1) }, MbRes.ok)
    | none => (s, MbRes.invalidBare)) s

def execFwActivateWarm (g : Go) (s : State) : Answer := mailbox true 0x0081 g (fwActivateBody g) s

def execFwActivateCold (g : Go) (s : State) : Answer := mailbox true 0x0081 g (fwActivateBody g) s

/-- At a commit window after the drain: the steps of R420, the passes only for a cold start, a stop mark of kind 2, and the start. -/
def State.activateDue (s : State) : State :=
  match s.power.want with
  | some (w, x) =>
    if (w = 5 ∨ w = 6) ∧ s.drained x = true then (s.flush (w == 6) 2).activate (w == 6) else s
  | none => s

/-! ### Stops (R426 to R431, R449) -/

/-- Whether a power-loss flush waits for the end of a dip (R431). -/
def State.flushWaits (s : State) : Bool := match s.power.want with | some (7, _) => true | _ => false

/-- Every clock stops; no flush runs, and one that waits for the end of a dip never will (R431). A record of the cause is written at the next start, which is cold (R415, R426, R427). -/
def State.stopFor (s : State) (cause data : Nat) : State :=
  if s.power.run = .off ∨ (s.power.run = .stopped ∧ s.flushWaits = false) then s
  else
    { s with power := { s.power with run := .stopped, faultN := true, want := none },
             boot := { s.boot with startCold := true, retention := 0, heldCauses := s.boot.heldCauses ++ [(0x0E, cause, data)] } }

/-- RESET_THRESHOLD. -/
def execResetThreshold (mv : Nat) (s : State) : Answer := always (fun s => s.stopFor 4 (mv % 65536)) s

/-- THERMTRIP_N: it stays asserted until PWRGOOD falls. -/
def execThermtripN (sensor : Nat) (s : State) : Answer :=
  always (fun s => if s.power.run = .off then s else (s.stopFor 5 (sensor % 256)).mapPower fun p => { p with thermtripN := true }) s

/-- PWRGOOD_FALL: stopped; the outputs are released (R445). Stacks that were not in self-refresh do not keep their contents (R448;
DEDUCED, log entry 32). -/
def execPwrgoodFall (s : State) : Answer :=
  always (fun s =>
    let kept := (s.power.run == .stopped && !s.flushWaits) || decide (3 ≤ s.power.state)
    { s with power := { s.power with run := .off, faultN := false, supplyWarnN := false, thermtripN := false, dip := none, dipTail := 0,
                                     want := none },
             boot := { s.boot with retention := if kept then s.boot.retention else 0 } }) s

/-- The power-loss flush (R429 to R431): what the visible cut holds is programmed, with a stop mark of kind 3; how many bytes that
was is a free value (log entry 2). -/
def State.plossFlush (s : State) : State :=
  let f := s.free
  let s1 := ((f.2.flushFlash).stopMark 3).selfRefresh
  { s1 with boot := { s1.boot with heldCauses := s1.boot.heldCauses ++
      [(0x0E, 3, s.frame.version % 2 ^ 48 * 2 ^ 64 + f.1 % 2 ^ 32 * 2 ^ 128)] } }

/-- PLOSS_N counts: admission and windows stop and their work is discarded. During a dip the programs wait for its end (R431); in
OFF-READY or STANDBY only the stop mark is left; a start is abandoned. -/
def State.ploss (s : State) : State :=
  match s.power.run with
  | .ready =>
    let s1 := { s with power := { s.power with run := .stopped, plossN := true },
                       landings := [], work := [], ownerQs := [], scanParts := [], ownerFs := [], updIn := [], heldUpd := [], staged := [], took := [] }
    if s.power.dip.isSome then s1.mapPower fun p => { p with want := some (7, s.frame.num) } else s1.plossFlush
  | .off | .stopped => s
  | _ => s.mapPower fun p => { p with run := .stopped, plossN := true }

def execPlossN (s : State) : Answer := always State.ploss s

/-- SUPPLY_DIP_END: also the end of a power-loss flush's wait. -/
def execSupplyDipEnd (mv : Nat) (s : State) : Answer :=
  always (fun s =>
    if s.live then s.dipEnd mv
    else match s.power.run, s.power.want with
      | .stopped, some (7, _) => (s.mapPower fun p => { p with dip := none, want := none }).plossFlush
      | _, _ => s) s

/-- RETENTION_FLAG_CLEAR (R421). -/
def execRetentionFlagClear (stack : Nat) (s : State) : Answer :=
  always (fun s => { s with boot := { s.boot with retention := clearBit s.boot.retention stack } }) s

/-! ### The host link and functions (R9, R334, R353, R437, R438, R450) -/

/-- Every channel of a function, or every channel, becomes DETACHED at step 5 of the next commit window (R333). -/
def State.queueDetach (s : State) (mine : Chan → Bool) : State :=
  { s with changes := s.changes ++ (s.chans.filter fun p => mine p.2).map fun p => ChanChange.detach p.1 }

/-- The registers of a function at their defaults. -/
def State.resetFn (s : State) (fn : Nat) : State :=
  { s with
    mbs := tdel s.mbs fn, aps := tdel s.aps fn, evRings := tdel s.evRings fn
    frame := { s.frame with cutoffs := tdel s.frame.cutoffs fn, defers := tdel s.frame.defers fn }
    units := { s.units with arrChecks := tdel s.units.arrChecks fn }
    flash := { s.flash with lateReads := tdel s.flash.lateReads fn, overCap := tdel s.flash.overCap fn,
                            retried := tdel s.flash.retried fn, uncorr := tdel s.flash.uncorr fn }
    host := { s.host with fnDiscards := tdel s.host.fnDiscards fn } }

/-- FUNCTION_LEVEL_RESET. -/
def execFunctionLevelReset (fn : Nat) (s : State) : Answer :=
  whenAnswered (fun s => (s.queueDetach fun c => c.fn == fn).resetFn fn) s

/-- NUMVFS_CHANGE: functions above n are disabled. -/
def execNumvfsChange (n : Nat) (s : State) : Answer :=
  whenAnswered (fun s =>
    if n ≤ 63 then { s.queueDetach (fun c => decide (n < c.fn)) with host := { s.host with vfs := n } } else s) s

/-- PERST: the host port and the PCI Express state of every function are reset; the node, or its start, goes on (R9, R10). -/
def execPerst (s : State) : Answer :=
  always (fun s =>
    let s0 := s.mapPower fun p => { p with perst := true }
    if s.answers then
      let s1 := (List.range 64).foldl State.resetFn (s0.queueDetach fun _ => true)
      { s1 with host := { s1.host with vfs := 0, linkUp := false }, keys := { s1.keys with ide := [] } }
    else s0) s

/-- PE_PERST_N_DEASSERT: configuration requests are answered with Retry Status until step 2 of a start has completed. -/
def execPePerstNDeassert (s : State) : Answer :=
  always (fun s => s.mapPower fun p =>
    { p with perst := false, crs := (match p.run with | .ready | .recovery | .stopped => false | _ => true) }) s

/-- HOST_LINK_DOWN (or a hot reset): every channel is detached at the next commit window; IDE keys are lost (R383). -/
def execHostLinkDown (s : State) : Answer :=
  whenAnswered (fun s =>
    { s.queueDetach (fun _ => true) with host := { s.host with linkUp := false }, keys := { s.keys with ide := [] } }) s

/-- HOST_LINK_UP: the link trains to one of the widths and rates of R316. -/
def execHostLinkUp (width rate : Nat) (s : State) : Answer :=
  always (fun s =>
    if [8, 4, 2, 1].contains width && [128, 64, 32, 16].contains rate then
      { s with host := { s.host with linkUp := true, width := width, rate := rate } }
    else s) s

end Sys2Proof.Machine
end

