-- ==== Sys2Proof/Machine/Commit.lean ====
section
/-! DEFINITION. The commit window (R24 to R26): its seven steps in their order, with what a failed tile had done (R388), the replica
acknowledgements and receipts (R395, R396) and the updates that are on their way to durability (R208). -/

namespace Sys2Proof.Machine

/-! ### Step 1: what did not end in time -/

/-- The entry whose window of a stage ran for a slot in this frame, the last one. -/
def State.ranEntry (s : State) (slot stage : Nat) : Option Nat :=
  match s.easel.inForce with
  | none => none
  | some ea => s.frame.ran.find? fun n => match ea.entries[n]? with
    | some e => e.stage == stage && !e.isNode && e.slot == slot
    | none => false

/-- The stages whose work the tiles do (R147, R155, R197). -/
def tileStages : List Nat := [0x05, 0x06, 0x08, 0x0A, 0x10, 0x11]

/-- Bounded-loss mode: the outputs of a failed tile are withheld, and their command is cut off in the stage that it had in this frame. -/
def State.tileCut (s : State) (w : Nat × Nat × Nat) : State :=
  tileStages.foldl (fun acc st =>
    match acc.ranEntry w.1 st with
    | some n => acc.cutStage st n w.1 fun h q => h == w.2.1 && q == w.2.2
    | none => acc) s

/-- The stages whose work the arrays do (R182). -/
def arrayStages : List Nat := [0x02, 0x04, 0x09, 0x12]

/-- Bounded-loss mode: a command with rows in units that a stopped array has lost is cut off in the stage that it had (R185, R30). -/
def State.arrayCut (s : State) (w : Nat × Nat × Nat) : State :=
  arrayStages.foldl (fun acc st =>
    match acc.ranEntry w.1 st with
    | some n => acc.cutStage st n w.1 fun h q => h == w.2.1 && q == w.2.2
    | none => acc) s

/-- A message of this frame in which an owner answers a query or a LOOKUP, or a home asks for a re-rank. -/
def isOutputOf (home seq : Nat) : Msg → Bool
  | .cands m => m.home == home && m.seq == seq
  | .locals m => m.home == home && m.seq == seq
  | .lookupRows h q _ _ _ => h == home && q == seq
  | .rerank m => m.home == home && m.seq == seq
  | _ => false

/-- A home's SEARCH whose NOMINATE or DELIVER of this frame runs again in the next (R398). A completion that is written stands (log
entry 35). -/
def Cmd.again (num span : Nat) (c : Cmd) : Cmd :=
  if c.op != 0x01 || !c.open then c
  else if c.adm.getD 0 + 2 + c.delay = num then c.mapQ fun q => { q with step := min q.step 2, delay := q.delay + 1, sent := [] }
  else if c.adm.getD 0 + 4 + span + c.delay = num then
    { c with done := none }.mapQ fun q => { q with step := min q.step 3, delay := q.delay + 1 }
  else c

/-- Updates of rows that a failed tile had staged: staged again in the next frame. -/
def State.rowsAgain (s : State) (slot home seq : Nat) : State :=
  let hit := fun (x : Upd × Bool) => x.1.slot == slot && updOnRows x.1 && x.1.home == home && x.1.seq == seq
  let us := (s.took.filter hit).map (·.1)
  if us.isEmpty then s
  else
    let later := us.map fun (u : Upd) => (s.frame.num, { u with frame := u.frame + 1 })
    { s.unstage us with took := s.took.filter (fun x => !hit x), updIn := s.updIn ++ later }.restageRows slot

/-- Exact mode: the outputs are withheld, so that the stage that misses them is replayed (R388, R398, R399). -/
def State.tileReplay (s : State) (w : Nat × Nat × Nat) : State :=
  let s1 := { s with
    outbox := s.outbox.filter fun m => !(m.2.2.1 == w.1 && isOutputOf w.2.1 w.2.2 m.2.2.2)
    work := s.work.map fun (c : Cmd) => if w.2.1 = s.frame.logicalId ∧ c.slot = w.1 ∧ c.seq = w.2.2 then Cmd.again s.frame.num (s.span w.1) c else c }
  s1.rowsAgain w.1 w.2.1 w.2.2

/-- A SEARCH routed in this frame, which ROUTE_1 routes again in the next (R185, R398). -/
def Cmd.routeAgain (num : Nat) (c : Cmd) : Cmd :=
  if c.op == 0x01 && c.open && c.adm.getD 0 + c.delay == num then c.mapQ fun q => { q with step := 0, delay := q.delay + 1 } else c

/-- Exact mode: the frame is replayed (R185): a query's ROUTE_1 in the next frame; what ROUTE_2 and RESCORE have led to is withheld, so that
the stage that misses it is replayed. An update's replay gives the same result in the frame that publishes it (log entry 35). -/
def State.arrayReplay (s : State) (w : Nat × Nat × Nat) : State :=
  { s with
    outbox := s.outbox.filter fun m => !(m.2.2.1 == w.1 && isOutputOf w.2.1 w.2.2 m.2.2.2)
    work := s.work.map fun (c : Cmd) =>
      if w.2.1 = s.frame.logicalId ∧ c.slot = w.1 ∧ c.seq = w.2.2 then Cmd.routeAgain s.frame.num c else c }

/-- The work of stopped arrays. -/
def State.lostArrays (s : State) (l : List (Nat × Nat × Nat)) : State :=
  l.foldl (fun acc w => if acc.frame.exact then acc.arrayReplay w else acc.arrayCut w) s

/-- The work of failed tiles. -/
def State.tileWork (s : State) (l : List (Nat × Nat × Nat)) : State :=
  l.foldl (fun acc w => if acc.frame.exact then acc.tileReplay w else acc.tileCut w) s

/-- A SEARCH that has come past its DELIVER without an outcome is cut off (R42). -/
def State.searchEnd (s : State) : State :=
  (s.unsettled.filter fun c => c.op == 0x01 && decide (s.deliverAt c ≤ s.frame.num)).foldl State.cutCmd s

/-- Everything that step 1 settles: engines still busy (R44), failed tiles, stages without a window (R460, R187), late reads, FETCH
answers, inputs that are missing. -/
def State.drain (s : State) (i : CwIn) : State :=
  let s1 := (((s.cutScans.drainCheck i.busy).tileWork i.tileWork).lostArrays i.arrayWork).missWindows
  let s2 := ((s1.lateReads).answerFetches).settleMissing.searchEnd
  i.partFail.foldl (fun acc p => acc.fault p.1 4 p.2) s2

/-! ### Replica acknowledgements and receipts (R395, R396) -/

/-- The holdings that an update works on here, each with the other holder: object, region or shard, node. -/
def State.updParts (s : State) (u : Upd) : List (Handle × Nat × Nat) :=
  let me := s.frame.logicalId
  let part := fun (n e : Nat) => if rtHolds e me then some (u.object, n, otherHolder e me) else none
  if updOnRows u then
    match s.table? u.slot u.object with
    | some t => dedup ((updRows u).filterMap fun r => part (r / t.attr.shardRows) (t.entry r))
    | none => []
  else dedup ((updRegions u).filterMap fun r => (s.routeEntry u.slot u.object r).bind (part r))

/-- Identifiers of updates in the combine order of R76 and R203, 12 bytes each, and the first 8 bytes of their SHA-256. -/
def idDigest (us : List Upd) : Nat :=
  le ((sha256 ((sortBy updBefore us).flatMap fun u => toLe 4 u.home ++ toLe 8 u.seq)).take 8)

/-- The number of updates from each home. -/
def homeCounts (us : List Upd) : List (Nat × Nat) :=
  (sortBy (fun a b => decide (a < b)) (dedup (us.map (·.home)))).map fun h => (h, (us.filter fun u => u.home == h).length)

/-- What this node has taken up in the frame, for its other holders: in exact mode acknowledgements of what was staged, in bounded-loss
mode receipts of what was received. Its own record is kept beside them, under its own place. -/
def State.replicaSend (s : State) : State :=
  let me := s.frame.logicalId
  let num := s.frame.num
  let took := (s.took.filter fun x => !x.1.next && (x.2 || !s.frame.exact)).map (·.1)
  let keys := dedup (took.flatMap fun u => (s.updParts u).map fun p => (u.slot, p))
  keys.foldl (fun acc k =>
    let us := took.filter fun u => u.slot == k.1 && (s.updParts u).contains k.2
    if s.frame.exact then
      (acc.acceptAck { owner := me, slot := k.1, object := k.2.1, region := k.2.2.1, frame := num }).postAt (num + 1) k.2.2.2 k.1
        (.ack me k.1 k.2.1 k.2.2.1 num)
    else
      (acc.acceptReceipt { owner := me, slot := k.1, object := k.2.1, region := k.2.2.1, frame := num, counts := homeCounts us,
                           digest := idDigest us }).postAt (num + 1) k.2.2.2 k.1
        (.receipt me k.1 k.2.1 k.2.2.1 num (homeCounts us) (idDigest us))) s

/-- The other holder of a region or shard of this node put OUT_OF_STEP, unless it is already. -/
def State.announceSilent (s : State) (slot : Nat) (object : Handle) (number : Nat) : State :=
  match s.routeEntry slot object number with
  | none => s
  | some e =>
    let o := otherHolder e s.frame.logicalId
    if rtHolds e s.frame.logicalId && s.holdingState o slot object number != 1 then s.announceAll [.holding s.frame.logicalId o slot object number 1] else s

/-- Acknowledgements missing for what was staged in the frame before (R395). -/
def State.ackCheck (s : State) : State :=
  let me := s.frame.logicalId
  let own := s.member.acks.filter fun a => a.owner == me && a.frame + 1 == s.frame.num
  own.foldl (fun acc a =>
    if acc.member.acks.any fun b => b.owner != me && b.slot == a.slot && b.object == a.object && b.region == a.region && b.frame == a.frame
    then acc else acc.announceSilent a.slot a.object a.region) s

/-- Receipts of the buddy that are missing or differ, for what the primary published in the frame before (R396). -/
def State.receiptCheck (s : State) : State :=
  let me := s.frame.logicalId
  let own := s.member.receipts.filter fun a => a.owner == me && a.frame + 1 == s.frame.num && s.leads a.slot a.object a.region
  own.foldl (fun acc a =>
    if acc.member.receipts.any fun b => b.owner != me && b.slot == a.slot && b.object == a.object && b.region == a.region &&
        b.frame == a.frame && b.counts == a.counts && b.digest == a.digest
    then acc else acc.announceSilent a.slot a.object a.region) s

/-- Both checks, on a node that takes part, then what is older goes. -/
def State.replicaCheck (s : State) : State :=
  let s1 := if s.member.fenced then s else s.ackCheck.receiptCheck
  { s1 with member := { s1.member with
      acks := s1.member.acks.filter fun a => decide (s.frame.num ≤ a.frame)
      receipts := s1.member.receipts.filter fun a => decide (s.frame.num ≤ a.frame) } }

/-! ### On the way to durability (R208, R209) -/

/-- An OK report of an update stands in the outbox. -/
def State.reportedOk (s : State) (u : Upd) : Bool :=
  s.outbox.any fun m => m.2.2.1 == u.slot && match m.2.2.2 with
    | .report home seq _ st _ _ _ => home == u.home && seq == u.seq && st == stOk
    | _ => false

/-- The updates of this frame that this node will report durable: those that it reports to their home as published. -/
def State.noteDurable (s : State) : State :=
  let us := dedup ((s.took.filter fun x => !Upd.internal x.1 && !setsBound x.1 && !x.1.next && s.reportedOk x.1).map (·.1))
  { s with durs := s.durs ++ us.map fun u =>
      { frame := s.frame.num + (if s.frame.exact then 1 else 0), home := u.home, seq := u.seq, slot := u.slot, object := u.object,
        apply := match u.body with | .apply .. => true | _ => false } }

/-! ### Step 2: publication -/

/-- A report of this node about an update stands in the outbox. -/
def State.hasReported (s : State) (u : Upd) : Bool :=
  s.outbox.any fun m => m.2.2.1 == u.slot && isReport [u] m.2.2.2

/-- The updates of this frame that only the holdings which become ACTING publish are reported by this node (R207, R396; DEDUCED,
log entry 27). -/
def State.reportActing (s after : State) : State :=
  let new := s.took.filter fun x => !Upd.internal x.1 && !x.1.next && !s.hasReported x.1
  let byRegion := new.filter fun x => !updOnRows x.1 && after.reportsRegions x.1
  let s1 := byRegion.foldl (fun acc x => acc.report x.1 (if x.2 then stOk else stCutOff) 0 0 0) s
  { s1 with outbox := (({ after with outbox := s1.outbox }).reportRows (new.filter fun x => updOnRows x.1)).outbox }

/-- What the holdings that become ACTING at this commit window hold is published with the rest (R396). -/
def State.hastenActing (s : State) : State :=
  let me := s.frame.logicalId
  let after := s.install.installOrders
  let hs := after.member.holdings.filter fun h => h.node == me && h.state == 2 && s.holdingState me h.slot h.object h.number != 2
  if hs.isEmpty then s
  else (hs.foldl (fun acc h => acc.hasten h.slot h.object h.number) s).reportActing after

/-- Step 2 (R24), from its cycle on. A fenced node publishes nothing (R391). -/
def State.publishAll (s0 : State) : State :=
  let s := { s0 with frame := { s0.frame with cycle := s0.cw + 875 }, dram := { s0.dram with touched := [] } }
  let s1 := if s.member.fenced then { s with staged := [] } else s.hastenActing.publishOps.publishDue
  let s2 := (s1.carryOutDue false).publishGens.clearFreed
  let s3 := ({ s2 with graphs := s2.graphs.map fun (p : Nat × Graph) => (p.1, Graph.publish s2.frame.num p.2) }.rebuildChunks).schedule
  s3.finishBuilds

/-! ### Steps 4 to 6 -/

/-- Step 4: announced changes and orders; a promotion that is installed ends its command. -/
def State.installStep (s : State) : State :=
  let s1 := s.install.installOrders
  if s1.dueOrders.isEmpty && (s.dueOrders.any fun o => o.kind == 4 && o.phys == s.frame.logicalId) then s1.mbEndCode 0x0063 else s1

/-- Step 5 (R26, R422, R423). -/
def State.changeStep (s : State) : State := (s.applyChanges.carryOutDue true).serviceStep

/-! ### Step 7 -/

/-- What FRAME_DIGEST covers (R410): the records of step 2, the payloads of the packets of classes 2 to 4 in the order of DST, KIND and
emission, and the completion entries of the frame in the order of slot, ring and position. -/
def State.digestBytes (s : State) : Bytes :=
  let sends := sortBy (fun (a b : Nat × Msg) => decide (a.1 < b.1) || (a.1 == b.1 && decide ((msgKind a.2).1 < (msgKind b.2).1))) s.member.sends
  let ends := sortBy (fun (a b : Nat × Nat × Nat × Bytes) => decide (a.1 < b.1) ||
    (a.1 == b.1 && (decide (a.2.1 < b.2.1) || (a.2.1 == b.2.1 && decide (a.2.2.1 < b.2.2.1))))) s.member.ends
  s.member.pubs.flatMap s.plainEntry ++ sends.flatMap (fun m => payloadBytes m.2) ++ ends.flatMap (·.2.2.2)

/-- The frame digest closes (R410): the first 8 bytes of the SHA-256. -/
def State.closeDigest (s : State) : State :=
  let s1 := s.shadowCheck
  { s1 with member := { s1.member with digest := le ((sha256 s1.digestBytes).take 8), pubs := [], sends := [], ends := [] } }

/-- Corrections of the scrub reported once a frame (R238). -/
def State.scrubEvent (s : State) : State :=
  if s.dram.corrected = 0 then s
  else { s.raiseNode 0x07 0 s.dram.corrected 0 with dram := { s.dram with corrected := 0 } }

/-- What was kept for the frame alone, and what no version needs any more. -/
def State.forgetOld (s : State) : State :=
  { s with
    took := []
    scanParts := []
    ownerQs := s.ownerQs.filter fun q => decide (s.frame.num + 1 ≤ q.sc.snapshot + 7)
    chans := s.chans.map fun (p : Nat × Chan) =>
      (p.1, { p.2 with volatile := p.2.volatile.filter fun v => match v.due with | some d => decide (s.frame.num < d) | none => true }) }

/-- Step 7 (R24): versions, membership, the digest, heat, captures and passes, sets, palettes, lanes, queue samples, counters. -/
def State.closeStep (s : State) (i : CwIn) : State :=
  let s1 := { s with frame := { s.frame with cycle := s.cw + 18375 } }
  let s2 := (s1.release6.lead.rollbacks.movesEnd.startRebuilds).closeDigest
  let s3 := (s2.countApplied.coolAll.eachTable State.captureMissed).captureRows.startPasses
  let s4 := (s3.setsEnd.saturations.lanesDue.sampleAll.takeKeys).checksEnd i
  (s4.scrubEvent.forgetOld).holdTick.closeAccts

/-- An engine that has not gone idle by step 2 stops the node at the end of the commit window (R44). -/
def State.stuckStop (s : State) : State :=
  { s.faultRecord 13 s.frame.logicalId 4 0 with power := { s.power with run := .stopped, faultN := true } }

/-- The commit window. -/
def State.commit (s : State) (i : CwIn) : State :=
  let s0 := { s with frame := { s.frame with cycle := s.cw } }
  let s1 := (s0.drain i).replicaSend.replicaCheck.noteDurable
  let s2 := s1.publishAll.publishRestored
  let s3 := { s2 with frame := { s2.frame with version := s2.frame.num, cycle := s2.cw + 14000 } }
  let s4 := s3.installStep.changeStep.easelSwitch
  let s5 := s4.closeStep i
  let s6 := ({ s5 with frame := { s5.frame with committed := true } }.flushEvents).ringVectors
  let s7 := if s6.standbyDue then s6.standbyEnter else s6
  let s8 := if i.stuck then s7.stuckStop else s7
  if s8.live then s8.activateDue else s8

end Sys2Proof.Machine
end

