-- ==== Sys2Proof/Machine/Shadow.lean ====
section
/-! DEFINITION. Shadowing (R409): what a shadowed node mirrors at the end of a frame, the shadow's run of its target's frame f in frame
f + 1 on the mirrored inputs, and the COMMIT_WINDOW command, in which both take place. -/

namespace Sys2Proof.Machine

/-! ### The target -/

/-- The outcomes of this node's FETCH entries so far: read, late, uncorrectable or beyond the cap (R409). -/
def State.fetchOutcomes (s : State) : List Msg :=
  (s.ownerQs.flatMap fun q =>
    (q.reads.filter fun r => r.2 != 0).map (fun r => Msg.mirrorFetch s.frame.num q.sc.home q.sc.seq q.sc.slot r.1.key r.2) ++
      q.beyond.map fun c => Msg.mirrorFetch s.frame.num q.sc.home q.sc.seq q.sc.slot c.key 5) ++
  (s.ownerFs.filter fun q => decide (2 ≤ q.state)).map fun q =>
    Msg.mirrorFetch s.frame.num q.home q.seq q.slot q.key (match q.state with | 2 => 1 | 3 => 2 | 4 => 3 | _ => 5)

/-- The end of a frame's mirror: the outcomes, then the number of items. A mirror that did not fit ends the shadowing (R411). -/
def State.mirrorClose (s : State) : State :=
  match s.member.mirror with
  | none => s
  | some x =>
    if !x.live then s.copyShadow
    else
      let s1 := s.fetchOutcomes.foldl State.mirrorOut s
      match s1.member.mirror with
      | some y =>
        if y.full then { s1 with member := { s1.member with mirror := none } }
        else (s1.toShadow (.mirrorEnd s1.frame.num y.count)).mapMirror fun z => { z with sent := 0, count := 0 }
      | none => s1

/-! ### The inputs of a frame -/

/-- The frame of something mirrored. -/
def mirroredIn : Msg → Nat
  | .mirrorPacket f .. | .mirrorCmd f _ | .mirrorFetch f .. | .mirrorEnd f _ => f
  | _ => 0

/-- Whether a frame's mirror is complete: its end has come, and as many items as it says (R411). -/
def mirrorWhole (inputs : List Msg) : Bool :=
  inputs.any fun m => match m with | .mirrorEnd _ n => n + 1 == inputs.length | _ => false

/-- A mirrored packet consumed again, or a mirrored command that waits for its ADMIT window. -/
def State.takeInput (s : State) (port : Nat) : Msg → State
  | .mirrorPacket _ _ src m groups gen lenOk =>
    s.consume port { hdr := { (default : Header) with src := src, dst := s.frame.logicalId }, msg := m, groups := groups, gen := gen, lenOk := lenOk }
  | .mirrorCmd _ c => { s with work := (s.work.filter fun x => x.land != c.land) ++ [c] }
  | _ => s

/-- Packets consumed before a cycle of the target's frame, in their order. -/
def packetsTo (inputs : List Msg) (from_ end_ : Nat) : List Msg :=
  inputs.filter fun m => match m with | .mirrorPacket _ c .. => decide (from_ ≤ c) && decide (c < end_) | _ => false

/-- The outcome of a FETCH entry of the target in place of the shadow's own (R409). -/
def State.takeOutcome (s : State) : Msg → State
  | .mirrorFetch _ home seq slot key o =>
    { s with
      ownerQs := s.ownerQs.map fun q =>
        if q.sc.home = home ∧ q.sc.seq = seq ∧ q.sc.slot = slot ∧ q.planned then
          (let all := q.reads.map (fun r => r.1) ++ q.beyond
           match all.find? fun c => c.key == key with
           | some c =>
             let reads := q.reads.filter fun r => r.1.key != key
             let beyond := q.beyond.filter fun x => x.key != key
             if o = 5 then { q with reads := reads, beyond := beyond ++ [c] } else { q with reads := reads ++ [(c, o)], beyond := beyond }
           | none => q)
        else q
      ownerFs := s.ownerFs.map fun q =>
        if q.home = home ∧ q.seq = seq ∧ q.slot = slot ∧ q.state = 1 ∨ q.home = home ∧ q.seq = seq ∧ q.slot = slot ∧ q.state = 5 then
          { q with state := match o with | 1 => 2 | 2 => 3 | 3 => 4 | _ => 5 }
        else q }
  | _ => s

/-! ### The run -/

/-- The state that an answer leads to. -/
def ranTo (s : State) : Answer → State
  | .next t => t
  | _ => s

/-- The window of an easel entry, by its stage (R30). -/
def State.runStage (s : State) (n stage : Nat) : State :=
  ranTo s (match stage with
    | 0x01 => execAdmitWindow n s
    | 0x02 => execRoute1 ⟨n, ReadFaults.sound⟩ s
    | 0x03 => execScatter n s
    | 0x04 => execRoute2 ⟨n, ReadFaults.sound⟩ s
    | 0x05 => execScan ⟨n, ReadFaults.sound⟩ s
    | 0x06 => execNominate n s
    | 0x07 => execFetchWindow ⟨n, ReadFaults.sound⟩ s
    | 0x08 => execRank n s
    | 0x09 => execRescore ⟨n, ReadFaults.sound⟩ s
    | 0x0A => execDeliver n s
    | 0x10 => execLookupWindow ⟨n, ReadFaults.sound⟩ s
    | 0x11 => execApplyStage ⟨n, ReadFaults.sound⟩ s
    | 0x12 => execUpdateStage ⟨n, ReadFaults.sound⟩ s
    | 0x20 => execCompact n s
    | 0x21 => execFlashBackground n s
    | 0x22 => execMigrateWindow n s
    | 0x23 => execBuildWindow n s
    | 0x30 => execSwapSave n s
    | 0x31 => execSwapRestore n false s
    | 0x32 => execSetCombine n s
    | _ => .next s)

/-- One entry of the easel in a run: the packets that the target had consumed by then, the window, the target's FETCH outcomes in place of
this node's own reads. -/
def State.runEntry (inputs : List Msg) (port : Nat) (s : State) (x : Nat × EaselEntry) : State :=
  let s1 := (packetsTo inputs s.frame.cycle (x.2.start + x.2.length)).foldl (fun acc m => acc.takeInput port m) s
  let s2 := s1.runStage x.1 x.2.stage
  if x.2.stage = 0x07 then
    inputs.foldl State.takeOutcome (s2.mapFlash fun f => { f with reads := f.reads.filter fun r => r.slot != x.2.slot })
  else s2

/-- The entries of the easel in force that take part in a frame, by START. -/
def State.entriesAt (s : State) (f : Nat) : List (Nat × EaselEntry) :=
  match s.easel.inForce with
  | none => []
  | some ea => sortBy (fun a b => decide (a.2.start < b.2.start)) ((ea.entries.mapIdx fun i e => (i, e)).filter fun p => p.2.takesPart ea.hyper f)

/-- This node as its target at the start of a frame: the place and the number, and what waits for the frame. -/
def State.asTarget (s : State) (target f : Nat) : State :=
  let s1 := { s with
    frame := { s.frame with num := f, cycle := 0, logicalId := target, committed := false, ran := [], version := f - 1 }
    member := { s.member with shadow := none, mirror := none, pubs := [], sends := [], ends := [] }
    chans := s.chans.map fun (p : Nat × Chan) => (p.1, p.2.frameStart f)
    work := (s.work.filter Cmd.open).map fun (c : Cmd) => c.frameStart { s.frame with num := f } }
  ((s1.sendDue.reportDurable.askAll.statsDue).missDeliver.writeDue).settleAll

/-- The commit window of the frame that is run: steps 1, 2 and 4, and of step 7 what concerns the objects. -/
def State.runCommit (s : State) : State :=
  let s1 := (({ s with frame := { s.frame with cycle := s.cw } }.drain default).replicaSend.replicaCheck.noteDurable).publishAll
  let s2 := { s1 with frame := { s1.frame with version := s1.frame.num } }.install
  ((s2.release6.countApplied.coolAll.eachTable State.captureMissed).captureRows.startPasses).setsEnd.forgetOld

/-- What a run leaves (R409): the objects and the work, and the digest of the frame that was run; every output is discarded. -/
def State.afterRun (s t : State) (rest : List Msg) : State :=
  { t with
    frame := { s.frame with seq := t.frame.seq }, ports := s.ports, time := s.time, mbs := s.mbs, out := s.out, events := s.events
    evRings := s.evRings, log := s.log, logNext := s.logNext, power := s.power, boot := s.boot, keys := s.keys, host := s.host, aps := s.aps
    easel := s.easel, pending := s.pending, landings := s.landings, units := s.units
    member := { s.member with
      digest := le ((sha256 t.digestBytes).take 8), holdings := t.member.holdings
      shadow := s.member.shadow.map fun x => { x with inputs := rest } } }

/-- The run of frame f = g − 1 in frame g at a shadow, under the easel in force, on the mirrored inputs of f; a mirror that is not complete
ends the shadowing (R409, R411). -/
def State.shadowRun (s : State) : State :=
  match s.member.shadow with
  | none => s
  | some sh =>
    let f := s.frame.num - 1
    if !sh.copied || decide (f ≤ sh.since) then s
    else
      let inputs := sh.inputs.filter fun m => mirroredIn m == f
      if !mirrorWhole inputs then s.shadowEnd 2
      else
        let cmds := inputs.filter fun m => match m with | .mirrorCmd .. => true | _ => false
        let t0 := cmds.foldl (fun acc m => acc.takeInput sh.port m) (s.asTarget sh.target f)
        let t1 := (t0.entriesAt f).foldl (State.runEntry inputs sh.port) t0
        let t2 := (packetsTo inputs t1.frame.cycle (s.frame.len * 1750)).foldl (fun acc m => acc.takeInput sh.port m) t1
        s.afterRun t2.runCommit (sh.inputs.filter fun m => decide (f < mirroredIn m))

/-! ### The command -/

/-- COMMIT_WINDOW, once a frame. A shadow has run its target's frame by then; a target closes its mirror. -/
def execCommitWindow (i : CwIn) (s : State) : Answer :=
  whenLive (fun s => if s.frame.committed then s else (s.shadowRun.commit i).mirrorClose) s

end Sys2Proof.Machine
end

