-- ==== Sys2Proof/Machine/Dispatch.lean ====
section
/-! DEFINITION. The meaning of every command: one arm per constructor of Instr. -/

namespace Sys2Proof.Machine

def exec (i : Instr) (s : State) : Host.Outcome State Fault Refusal :=
  match i with
  | .identify g => Sys2Proof.Machine.execIdentify g s
  | .channelCreate g => Sys2Proof.Machine.execChannelCreate g s
  | .channelDestroy g => Sys2Proof.Machine.execChannelDestroy g s
  | .channelReset g => Sys2Proof.Machine.execChannelReset g s
  | .easelLoad g => Sys2Proof.Machine.execEaselLoad g s
  | .easelArm g => Sys2Proof.Machine.execEaselArm g s
  | .easelArmCancel g => Sys2Proof.Machine.execEaselArmCancel g s
  | .gatesLoad g => Sys2Proof.Machine.execGatesLoad g s
  | .indexCreate g => Sys2Proof.Machine.execIndexCreate g s
  | .indexDrop g => Sys2Proof.Machine.execIndexDrop g s
  | .tableCreate g => Sys2Proof.Machine.execTableCreate g s
  | .tableDrop g => Sys2Proof.Machine.execTableDrop g s
  | .allowsetCreate g => Sys2Proof.Machine.execAllowsetCreate g s
  | .graphLoad g => Sys2Proof.Machine.execGraphLoad g s
  | .paletteSet g => Sys2Proof.Machine.execPaletteSet g s
  | .buildTrainRegions g => Sys2Proof.Machine.execBuildTrainRegions g s
  | .buildLoad g => Sys2Proof.Machine.execBuildLoad g s
  | .buildTrainLists g => Sys2Proof.Machine.execBuildTrainLists g s
  | .buildPlace g => Sys2Proof.Machine.execBuildPlace g s
  | .buildPublish g => Sys2Proof.Machine.execBuildPublish g s
  | .migrateRegion g => Sys2Proof.Machine.execMigrateRegion g s
  | .migrateShard g => Sys2Proof.Machine.execMigrateShard g s
  | .migrateHotRows g => Sys2Proof.Machine.execMigrateHotRows g s
  | .powerSetActive g => Sys2Proof.Machine.execPowerSetActive g s
  | .powerSetActiveLow g => Sys2Proof.Machine.execPowerSetActiveLow g s
  | .powerSetIdle g => Sys2Proof.Machine.execPowerSetIdle g s
  | .powerSetStandby g => Sys2Proof.Machine.execPowerSetStandby g s
  | .powerSetOffReady g => Sys2Proof.Machine.execPowerSetOffReady g s
  | .powerSetService g => Sys2Proof.Machine.execPowerSetService g s
  | .sectorGate g => Sys2Proof.Machine.execSectorGate g s
  | .modeSet g => Sys2Proof.Machine.execModeSet g s
  | .attestReport g => Sys2Proof.Machine.execAttestReport g s
  | .keyInstallChannel g key => Sys2Proof.Machine.execKeyInstallChannel g key s
  | .keyInstallPort g key => Sys2Proof.Machine.execKeyInstallPort g key s
  | .keyInstallIde g key => Sys2Proof.Machine.execKeyInstallIde g key s
  | .ownerTake g => Sys2Proof.Machine.execOwnerTake g s
  | .arrayJoin g => Sys2Proof.Machine.execArrayJoin g s
  | .arrayLeave g => Sys2Proof.Machine.execArrayLeave g s
  | .shadowStart g relayNames shadowed encrypt => Sys2Proof.Machine.execShadowStart g relayNames shadowed encrypt s
  | .sparePromote g => Sys2Proof.Machine.execSparePromote g s
  | .takeoverConfirm g => Sys2Proof.Machine.execTakeoverConfirm g s
  | .statsRead g => Sys2Proof.Machine.execStatsRead g s
  | .logRead g => Sys2Proof.Machine.execLogRead g s
  | .fwStage g => Sys2Proof.Machine.execFwStage g s
  | .fwActivateWarm g => Sys2Proof.Machine.execFwActivateWarm g s
  | .fwActivateCold g => Sys2Proof.Machine.execFwActivateCold g s
  | .mbUnlistedCode g code => Sys2Proof.Machine.execMbUnlistedCode g code s
  | .overrun fn => Sys2Proof.Machine.execOverrun fn s
  | .mbResp fn => Sys2Proof.Machine.execMbResp fn s
  | .doorbellSubmissionTail fn cycle size value => Sys2Proof.Machine.execDoorbellSubmissionTail fn cycle size value s
  | .doorbellCompletionHead fn cycle size value => Sys2Proof.Machine.execDoorbellCompletionHead fn cycle size value s
  | .search slot ring entry bufs => Sys2Proof.Machine.execSearch slot ring entry bufs s
  | .lookup slot ring entry bufs => Sys2Proof.Machine.execLookup slot ring entry bufs s
  | .apply slot ring entry bufs => Sys2Proof.Machine.execApply slot ring entry bufs s
  | .upsert slot ring entry bufs => Sys2Proof.Machine.execUpsert slot ring entry bufs s
  | .delete slot ring entry => Sys2Proof.Machine.execDelete slot ring entry s
  | .fetch slot ring entry => Sys2Proof.Machine.execFetch slot ring entry s
  | .setEdit slot ring entry bufs => Sys2Proof.Machine.execSetEdit slot ring entry bufs s
  | .fence slot ring entry => Sys2Proof.Machine.execFence slot ring entry s
  | .snapshot slot ring entry => Sys2Proof.Machine.execSnapshot slot ring entry s
  | .replaceRows slot ring entry bufs => Sys2Proof.Machine.execReplaceRows slot ring entry bufs s
  | .stats slot ring entry => Sys2Proof.Machine.execStats slot ring entry s
  | .invalidOpcode slot ring entry => Sys2Proof.Machine.execInvalidOpcode slot ring entry s
  | .hostBufferReadDone slot ring pos bufs => Sys2Proof.Machine.execHostBufferReadDone slot ring pos bufs s
  | .hostAccessFailed slot what => Sys2Proof.Machine.execHostAccessFailed slot what s
  | .rwaFieldWrite fn slot off value => Sys2Proof.Machine.execRwaFieldWrite fn slot off value s
  | .registerWrite fn off size value => Sys2Proof.Machine.execRegisterWrite fn off size value s
  | .frameNumLoRead fn cycle => Sys2Proof.Machine.execFrameNumLoRead fn cycle s
  | .ntNsLoRead fn cycle => Sys2Proof.Machine.execNtNsLoRead fn cycle s
  | .apertureRead fn off len corrected uncorrectable => Sys2Proof.Machine.execApertureRead fn off len corrected uncorrectable s
  | .apertureWrite fn off len => Sys2Proof.Machine.execApertureWrite fn off len s
  | .frameStart => Sys2Proof.Machine.execFrameStart s
  | .admitWindow e => Sys2Proof.Machine.execAdmitWindow e s
  | .route1 w => Sys2Proof.Machine.execRoute1 w s
  | .scatter e => Sys2Proof.Machine.execScatter e s
  | .route2 w => Sys2Proof.Machine.execRoute2 w s
  | .scan w => Sys2Proof.Machine.execScan w s
  | .nominate e => Sys2Proof.Machine.execNominate e s
  | .fetchWindow w => Sys2Proof.Machine.execFetchWindow w s
  | .rank e => Sys2Proof.Machine.execRank e s
  | .rescore w => Sys2Proof.Machine.execRescore w s
  | .deliver e => Sys2Proof.Machine.execDeliver e s
  | .lookupWindow w => Sys2Proof.Machine.execLookupWindow w s
  | .applyStage w => Sys2Proof.Machine.execApplyStage w s
  | .updateStage w => Sys2Proof.Machine.execUpdateStage w s
  | .compact e => Sys2Proof.Machine.execCompact e s
  | .flashBackground e => Sys2Proof.Machine.execFlashBackground e s
  | .migrateWindow e => Sys2Proof.Machine.execMigrateWindow e s
  | .buildWindow e => Sys2Proof.Machine.execBuildWindow e s
  | .swapSave e => Sys2Proof.Machine.execSwapSave e s
  | .swapRestore e uncorrectable => Sys2Proof.Machine.execSwapRestore e uncorrectable s
  | .setCombine e => Sys2Proof.Machine.execSetCombine e s
  | .stageCutOff stage entry slot cmds => Sys2Proof.Machine.execStageCutOff stage entry slot cmds s
  | .resultWriteDeadline cmds => Sys2Proof.Machine.execResultWriteDeadline cmds s
  | .commitWindow x => Sys2Proof.Machine.execCommitWindow x s
  | .easelSwitch => Sys2Proof.Machine.execEaselSwitch s
  | .modeSwitch => Sys2Proof.Machine.execModeSwitch s
  | .generationPublish slot object => Sys2Proof.Machine.execGenerationPublish slot object s
  | .graphPublish slot object => Sys2Proof.Machine.execGraphPublish slot object s
  | .arrayLeaveEffect => Sys2Proof.Machine.execArrayLeaveEffect s
  | .versionRelease => Sys2Proof.Machine.execVersionRelease s
  | .checkpointPassStart slot object => Sys2Proof.Machine.execCheckpointPassStart slot object s
  | .captureDeadline slot object => Sys2Proof.Machine.execCaptureDeadline slot object s
  | .migrationAcceptance id accepted => Sys2Proof.Machine.execMigrationAcceptance id accepted s
  | .migrationFlip id => Sys2Proof.Machine.execMigrationFlip id s
  | .rebuildComplete id => Sys2Proof.Machine.execRebuildComplete id s
  | .packetReceived port p crcOk tagOk words => Sys2Proof.Machine.execPacketReceived port p crcOk tagOk words s
  | .negativeAck port seq => Sys2Proof.Machine.execNegativeAck port seq s
  | .retransmitTimeout port seq => Sys2Proof.Machine.execRetransmitTimeout port seq s
  | .groupResendRequest port dst object gen groups => Sys2Proof.Machine.execGroupResendRequest port dst object gen groups s
  | .controlSlot => Sys2Proof.Machine.execControlSlot s
  | .timeExchange port t1 t2 t3 t4 pps prio gm hops => Sys2Proof.Machine.execTimeExchange port t1 t2 t3 t4 pps prio gm hops s
  | .ullaHeartbeat port hb crcOk => Sys2Proof.Machine.execUllaHeartbeat port hb crcOk s
  | .missReport port => Sys2Proof.Machine.execMissReport port s
  | .replicaAcknowledgement owner slot object region frame => Sys2Proof.Machine.execReplicaAcknowledgement owner slot object region frame s
  | .replicaReceipt owner slot object region frame counts digest => Sys2Proof.Machine.execReplicaReceipt owner slot object region frame counts digest s
  | .announcement frame a => Sys2Proof.Machine.execAnnouncement frame a s
  | .durabilityReport home seq owner => Sys2Proof.Machine.execDurabilityReport home seq owner s
  | .orderInstall => Sys2Proof.Machine.execOrderInstall s
  | .rollback subject => Sys2Proof.Machine.execRollback subject s
  | .shadowPassed => Sys2Proof.Machine.execShadowPassed s
  | .gmAdvertLoss => Sys2Proof.Machine.execGmAdvertLoss s
  | .ppsInEdge offset => Sys2Proof.Machine.execPpsInEdge offset s
  | .ppsTimeout => Sys2Proof.Machine.execPpsTimeout s
  | .nodeUnlockedLimit => Sys2Proof.Machine.execNodeUnlockedLimit s
  | .flashReadComplete id o => Sys2Proof.Machine.execFlashReadComplete id o s
  | .flashProgramComplete id ok => Sys2Proof.Machine.execFlashProgramComplete id ok s
  | .flashEraseComplete die block ok => Sys2Proof.Machine.execFlashEraseComplete die block ok s
  | .flashCommandTimeout chan die rate => Sys2Proof.Machine.execFlashCommandTimeout chan die rate s
  | .patrolScrub da o => Sys2Proof.Machine.execPatrolScrub da o s
  | .nearBankRowStep op a b r allocator => Sys2Proof.Machine.execNearBankRowStep op a b r allocator s
  | .unitZeroed u => Sys2Proof.Machine.execUnitZeroed u s
  | .pwrgoodRise bootMode cold => Sys2Proof.Machine.execPwrgoodRise bootMode cold s
  | .pwrgoodFall => Sys2Proof.Machine.execPwrgoodFall s
  | .coldStart x => Sys2Proof.Machine.execColdStart x s
  | .warmStart x => Sys2Proof.Machine.execWarmStart x s
  | .recovery => Sys2Proof.Machine.execRecovery s
  | .startFailure cause => Sys2Proof.Machine.execStartFailure cause s
  | .startTimeLimit => Sys2Proof.Machine.execStartTimeLimit s
  | .temperatureHoldRelease => Sys2Proof.Machine.execTemperatureHoldRelease s
  | .plossN => Sys2Proof.Machine.execPlossN s
  | .thermtripN sensor => Sys2Proof.Machine.execThermtripN sensor s
  | .thermalWarn sensor milliC => Sys2Proof.Machine.execThermalWarn sensor milliC s
  | .supplyDipStart mv => Sys2Proof.Machine.execSupplyDipStart mv s
  | .supplyDipEnd mv => Sys2Proof.Machine.execSupplyDipEnd mv s
  | .supplyDipLong mv => Sys2Proof.Machine.execSupplyDipLong mv s
  | .resetThreshold mv => Sys2Proof.Machine.execResetThreshold mv s
  | .pmbAlertN status => Sys2Proof.Machine.execPmbAlertN status s
  | .pmbusFailure code => Sys2Proof.Machine.execPmbusFailure code s
  | .pmbusRetry ok => Sys2Proof.Machine.execPmbusRetry ok s
  | .energyCalibration meas leak model => Sys2Proof.Machine.execEnergyCalibration meas leak model s
  | .voutSettled mv => Sys2Proof.Machine.execVoutSettled mv s
  | .standbyEntry => Sys2Proof.Machine.execStandbyEntry s
  | .standbyExit train => Sys2Proof.Machine.execStandbyExit train s
  | .offReadyFlush => Sys2Proof.Machine.execOffReadyFlush s
  | .perst => Sys2Proof.Machine.execPerst s
  | .functionLevelReset fn => Sys2Proof.Machine.execFunctionLevelReset fn s
  | .numvfsChange n => Sys2Proof.Machine.execNumvfsChange n s
  | .hostLinkDown => Sys2Proof.Machine.execHostLinkDown s
  | .gateEntryOpen port entry => Sys2Proof.Machine.execGateEntryOpen port entry s
  | .linkControlSymbols port acks keyId partner => Sys2Proof.Machine.execLinkControlSymbols port acks keyId partner s
  | .pePerstNDeassert => Sys2Proof.Machine.execPePerstNDeassert s
  | .retentionFlagClear stack => Sys2Proof.Machine.execRetentionFlagClear stack s
  | .fwStageEnd ok => Sys2Proof.Machine.execFwStageEnd ok s
  | .hostLinkUp width rate => Sys2Proof.Machine.execHostLinkUp width rate s

end Sys2Proof.Machine
end

