-- ==== Sys2Proof/Machine/RegRead.lean ====
section
/-! DEFINITION. What a read of a BAR0 register returns (R5, R6, R319): each block by its table, reserved fields and write-only
registers as zero, RWA fields as the value in force. The two reads that also change the state (R23, R301) have commands of their
own; every other read leaves the state as it is. -/

namespace Sys2Proof.Machine

/-- A 32-bit word of a list of bytes. -/
def wordAt (b : Bytes) (off : Nat) : Nat := rd b off 4

/-- MB_CMD as bytes (R322). -/
def Mailbox.cmdBytes (m : Mailbox) : Bytes :=
  toLe 2 m.code ++ toLe 2 m.tag ++ toLe 4 m.chan.toNat ++ toLe 8 m.pbAddr ++ toLe 4 m.pbLen ++ m.args.take 44 ++
    List.replicate (44 - m.args.length) 0

/-- MB_RESP as bytes (R323). -/
def Mailbox.respBytes (m : Mailbox) : Bytes :=
  let r := m.resp
  toLe 2 r.status ++ toLe 2 r.tag ++ toLe 4 (r.code % 2 ^ 16) ++ toLe 4 r.handle ++ toLe 4 r.faultOffset ++ toLe 8 (r.frame % 2 ^ 48) ++
    toLe 8 r.value ++ toLe 4 (r.faultBuffer % 2 ^ 16) ++ List.replicate 28 0

/-- STANDBY_IMAGE (R23). -/
def EaselSt.standbyImage (e : EaselSt) : Nat := if e.standby.isNone then 0 else if e.arm.isSome then 2 else 1

/-- The frame status block (R23), read at a core cycle of the frame. -/
def State.frameWord (s : State) (fn cycle off : Nat) : Nat :=
  let arm := match s.easel.arm with | some (a, _) => a | none => 0
  match off with
  | 0x800 => bitsOf s.frame.num 0 32
  | 0x804 => tgetD s.frame.hiLatch fn 0 % 2 ^ 16
  | 0x808 => cycle % 2 ^ 21 + s.frame.num % s.hyper % 64 * 2 ^ 21 + (if s.easel.inForce.isSome then 2 ^ 27 else 0) +
      s.easel.standbyImage * 2 ^ 28
  | 0x80C => s.frame.len % 2 ^ 10 + s.hyper * 2 ^ 10 + (if s.frame.exact then 2 ^ 17 else 0) + (if s.frame.joined then 2 ^ 18 else 0)
  | 0x810 => bitsOf arm 0 32
  | 0x814 => bitsOf arm 32 16
  | 0x818 => (tgetD s.frame.cutoffs fn 0).toNat
  | 0x81C => (tgetD s.frame.defers fn 0).toNat
  | _ => wordAt (toLe 32 (match s.easel.inForce with | some e => e.digest | none => 0)) (off - 0x820)

/-- The array status block (R186). -/
def State.arrayWord (s : State) (fn off : Nat) : Nat :=
  match off with
  | 0x840 => bitsOf s.units.arrExcluded 0 32
  | 0x844 => bitsOf s.units.arrExcluded 32 32
  | 0x848 => bitsOf s.units.arrRetired 0 32
  | 0x84C => bitsOf s.units.arrRetired 32 32
  | 0x850 => (tgetD s.units.arrChecks fn 0).toNat
  | _ => 0

/-- Units of kind FREE (R239). -/
def State.freeUnits (s : State) : Nat := ((List.range s.totalUnits).filter fun u => s.unitKind u == .free).length

/-- The aperture control block (R239). -/
def State.apertureWord (s : State) (fn off : Nat) : Nat :=
  let a := s.ap fn
  match off with
  | 0x880 => a.unitNo % 2 ^ 12 + (if a.openPath then 2 ^ 12 else 0)
  | 0x884 => a.lastStatus % 2 ^ 8 + (if a.twinFail then 2 ^ 8 else 0) + (if a.failed then 2 ^ 31 else 0)
  | 0x888 => bitsOf a.failOffset 0 32
  | 0x88C => bitsOf a.failOffset 32 32
  | 0x890 => a.corrected.toNat
  | 0x894 => a.discarded.toNat
  | 0x898 => s.totalUnits % 2 ^ 16 + s.nodeUnits % 2 ^ 16 * 2 ^ 16
  | 0x89C => s.freeUnits % 2 ^ 16 + min 128 s.openFree * 2 ^ 16
  | 0x8A0 => s.dram.nbRefused.toNat
  | 0x8A4 => s.dram.mismatches.toNat
  | _ => 0

/-- The flash status block (R278). -/
def State.flashWord (s : State) (fn off : Nat) : Nat :=
  let f := s.flash
  match off with
  | 0x8C0 => f.live % 2 ^ 24
  | 0x8C4 => f.dies % 2 ^ 9 + (if f.profile.planes = 4 then 2 else 1) * 2 ^ 9
  | 0x8C8 => s.caps.getD 5 0 % 2 ^ 16
  | 0x8CC => s.journalWindowMin % 2 ^ 21
  | 0x8D0 => (tgetD f.lateReads fn 0).toNat
  | 0x8D4 => (tgetD f.overCap fn 0).toNat
  | 0x8D8 => (tgetD f.retried fn 0).toNat
  | 0x8DC => (tgetD f.uncorr fn 0).toNat
  | 0x8E0 => f.spread % 2 ^ 16
  | 0x8E4 => f.retiredBlocks % 2 ^ 32
  | 0x8E8 => min 255 f.slcUsed + min 255 f.freeMin * 2 ^ 8
  | _ => 0

/-- The time block (R301), read at a core cycle of the frame. -/
def State.timeWord (s : State) (fn cycle off : Nat) : Nat :=
  let t := s.time
  let l := tgetD t.latch fn (0, 0)
  match off with
  | 0x900 => bitsOf (s.networkTime cycle).1 0 32
  | 0x904 => l.1 % 2 ^ 32
  | 0x908 => l.2 % 2 ^ 16 + (if t.locked then 2 ^ 16 else 0) + (if t.ppsLocked then 2 ^ 17 else 0) + (if t.isGm then 2 ^ 18 else 0) +
      t.upPort % 16 * 2 ^ 19 + t.hops % 16 * 2 ^ 23
  | 0x90C => t.gmId % 2 ^ 10 + t.priority % 2 ^ 8 * 2 ^ 10
  | 0x910 => (t.offsetPs % 2 ^ 32).toNat
  | 0x914 => t.gmChanges.toNat
  | _ => 0

/-- The block of port p (R315). -/
def State.portWord (s : State) (p off : Nat) : Nat :=
  match s.ports[p]? with
  | none => 0
  | some x =>
    match off with
    | 0x00 => x.lanes % 16 + (if s.portUp p then 2 ^ 4 else 0) + (if x.encrypted then 2 ^ 5 else 0) + x.neighbour % 2 ^ 10 * 2 ^ 16
    | 0x04 => x.delay % 2 ^ 16 + x.retryMin % 2 ^ 16 * 2 ^ 16
    | 0x08 => x.crcFails.toNat
    | 0x0C => x.retries.toNat
    | 0x10 => x.overflow.toNat
    | 0x14 => x.drops.toNat
    | 0x18 => x.authFails.toNat
    | 0x1C => x.groupResends.toNat
    | _ => 0

/-- The event ring registers (R349). -/
def State.eventWord (s : State) (fn off : Nat) : Nat :=
  let e := s.evRing fn
  match off with
  | 0x2000 => bitsOf e.base 0 32
  | 0x2004 => bitsOf e.base 32 32
  | 0x2008 => e.log2 % 2 ^ 5 + (if e.enable then 2 ^ 5 else 0)
  | 0x200C => e.head % 2 ^ 16
  | 0x2010 => e.tail % 2 ^ 16
  | 0x2014 => e.dropped.toNat
  | _ => 0

/-- STATE of a channel (R333). -/
def ChState.code : ChState → Nat
  | .active => 1
  | .detached => 2
  | .faulted => 3
  | .retired => 4

/-- A word of a channel's block (R335): an RWA field reads its value in force (R6). -/
def Chan.word (c : Chan) (off : Nat) : Nat :=
  match off with
  | 0x00 => c.st.code + c.gen % 2 ^ 8 * 2 ^ 8 + c.fn % 2 ^ 6 * 2 ^ 16 + c.rings.length % 2 ^ 5 * 2 ^ 24
  | 0x04 => (if c.rwa.swapped then 1 else 0) + c.fetchSpan % 2 * 2 + (if c.encrypt then 4 else 0) + c.rwa.partGran % 2 ^ 9 * 2 ^ 16
  | 0x08 => c.partSectors % 2 ^ 16 + c.rwa.slipGran % 2 ^ 9 * 2 ^ 16
  | 0x0C => c.deferMax % 16 + (if c.police then 16 else 0)
  | 0x10 => c.bucketNext.cir % 2 ^ 32
  | 0x14 => c.bucketNext.cbs % 2 ^ 32
  | 0x18 => c.bucketNext.pir % 2 ^ 32
  | 0x1C => c.bucketNext.pbs % 2 ^ 32
  | 0x20 => c.bucketNext.overhead % 2 ^ 16
  | 0x24 => c.cTok % 2 ^ 32
  | 0x28 => c.pTok % 2 ^ 32
  | 0x2C => c.policed.toNat
  | 0x30 => c.discards.toNat
  | 0x34 => if c.refusedW then 1 else 0
  | _ => 0

/-- A word of the channel blocks as a function sees them (R335): its own channels', and for the physical function also the EMPTY
slots', which read the slot's generation. -/
def State.chanWord (s : State) (fn off : Nat) : Nat :=
  let slot := (off - 0x3000) / 64
  match tget s.chans slot with
  | some c => if fn = 0 ∨ c.fn = fn then Chan.word c ((off - 0x3000) % 64) else 0
  | none => if fn = 0 ∧ (off - 0x3000) % 64 = 0 then tgetD s.boot.slotGen slot 0 % 2 ^ 8 * 2 ^ 8 else 0

/-- The 32-bit word that a read of BAR0 returns at an offset that is a multiple of 4 (R319): doorbells and GO are write-only; what the
map does not list reads as zero. -/
def State.wordRead (s : State) (fn cycle off : Nat) : Nat :=
  if off < 0x100 then wordAt (s.identity fn) off
  else if off < 0x140 then wordAt (s.mb fn).cmdBytes (off - 0x100)
  else if off < 0x180 then wordAt (s.mb fn).respBytes (off - 0x140)
  else if off = 0x184 then
    (if (s.mb fn).busy then 1 else 0) + (if (s.mb fn).done then 2 else 0) + (if (s.mb fn).overrun then 4 else 0)
  else if 0x800 ≤ off ∧ off < 0x840 then s.frameWord fn cycle off
  else if 0x840 ≤ off ∧ off < 0x858 then s.arrayWord fn off
  else if 0x880 ≤ off ∧ off < 0x8A8 then s.apertureWord fn off
  else if 0x8C0 ≤ off ∧ off < 0x8EC then s.flashWord fn off
  else if 0x900 ≤ off ∧ off < 0x920 then s.timeWord fn cycle off
  else if 0x940 ≤ off ∧ off < 0xA40 then s.portWord ((off - 0x940) / 32) ((off - 0x940) % 32)
  else if off = 0x1080 then (tgetD s.host.fnDiscards fn 0).toNat
  else if 0x2000 ≤ off ∧ off < 0x2018 then s.eventWord fn off
  else if 0x3000 ≤ off ∧ off < 0x5000 then s.chanWord fn off
  else 0

/-- What a read of a register returns: aligned accesses of 4 or 8 bytes, every other one zero (R319). An 8-byte read of a pair
whose low word latches its high word returns both as they stand (R23, R301). -/
def State.registerRead (s : State) (fn cycle off size : Nat) : Nat :=
  if size = 4 ∧ off % 4 = 0 then s.wordRead fn cycle off
  else if size = 8 ∧ off = 0x800 then s.frame.num % 2 ^ 48
  else if size = 8 ∧ off = 0x900 then (s.networkTime cycle).1 % 2 ^ 64
  else if size = 8 ∧ off % 8 = 0 then s.wordRead fn cycle off + s.wordRead fn cycle (off + 4) * 2 ^ 32
  else 0

end Sys2Proof.Machine
end

