-- ==== Sys2Proof/Safety.lean ====
section
/-! DEFINITION. What the statements call a good state: the stacks' memory is in its canonical form (R220, R226) and the node log
holds the latest records with consecutive numbers (R331), and no channel has more than its shares admitted (R58, R108). -/

namespace Sys2Proof

/-- CODE and the GO of a mailbox command (R325). -/
def Instr.goes : Instr → Option (Nat × Go)
  | .identify g => some (0x01, g)
  | .channelCreate g => some (0x10, g)
  | .channelDestroy g => some (0x11, g)
  | .channelReset g => some (0x12, g)
  | .easelLoad g => some (0x20, g)
  | .easelArm g => some (0x21, g)
  | .easelArmCancel g => some (0x21, g)
  | .gatesLoad g => some (0x22, g)
  | .indexCreate g => some (0x30, g)
  | .indexDrop g => some (0x31, g)
  | .tableCreate g => some (0x32, g)
  | .tableDrop g => some (0x33, g)
  | .allowsetCreate g => some (0x34, g)
  | .graphLoad g => some (0x35, g)
  | .paletteSet g => some (0x36, g)
  | .buildTrainRegions g => some (0x37, g)
  | .buildLoad g => some (0x37, g)
  | .buildTrainLists g => some (0x37, g)
  | .buildPlace g => some (0x37, g)
  | .buildPublish g => some (0x37, g)
  | .migrateRegion g => some (0x38, g)
  | .migrateShard g => some (0x38, g)
  | .migrateHotRows g => some (0x38, g)
  | .powerSetActive g => some (0x40, g)
  | .powerSetActiveLow g => some (0x40, g)
  | .powerSetIdle g => some (0x40, g)
  | .powerSetStandby g => some (0x40, g)
  | .powerSetOffReady g => some (0x40, g)
  | .powerSetService g => some (0x40, g)
  | .sectorGate g => some (0x41, g)
  | .modeSet g => some (0x48, g)
  | .attestReport g => some (0x50, g)
  | .keyInstallChannel g _ => some (0x51, g)
  | .keyInstallPort g _ => some (0x51, g)
  | .keyInstallIde g _ => some (0x51, g)
  | .ownerTake g => some (0x52, g)
  | .arrayJoin g => some (0x60, g)
  | .arrayLeave g => some (0x61, g)
  | .shadowStart g _ _ _ => some (0x62, g)
  | .sparePromote g => some (0x63, g)
  | .takeoverConfirm g => some (0x64, g)
  | .statsRead g => some (0x70, g)
  | .logRead g => some (0x71, g)
  | .fwStage g => some (0x80, g)
  | .fwActivateWarm g => some (0x81, g)
  | .fwActivateCold g => some (0x81, g)
  | .mbUnlistedCode g code => some (code, g)
  | _ => none

/-- The opcode that a ring command lands with, its entry and the buffers it read (R343); `none` for the buffers: they are still
read. -/
def Instr.lands : Instr → Option (Nat × Nat × Nat × Bytes × Option (List Bytes))
  | .search slot ring e b => some (0x01, slot, ring, e, b)
  | .lookup slot ring e b => some (0x02, slot, ring, e, b)
  | .apply slot ring e b => some (0x03, slot, ring, e, b)
  | .upsert slot ring e b => some (0x04, slot, ring, e, b)
  | .delete slot ring e => some (0x05, slot, ring, e, some [])
  | .fetch slot ring e => some (0x06, slot, ring, e, some [])
  | .setEdit slot ring e b => some (0x07, slot, ring, e, b)
  | .snapshot slot ring e => some (0x09, slot, ring, e, some [])
  | .replaceRows slot ring e b => some (0x0A, slot, ring, e, b)
  | .stats slot ring e => some (0x0B, slot, ring, e, some [])
  | _ => none

/-- The easel entry and the stage of a command that runs a window (R28, R30). -/
def Instr.window : Instr → Option (Nat × Nat)
  | .admitWindow n => some (n, 0x01)
  | .route1 w => some (w.entry, 0x02)
  | .scatter n => some (n, 0x03)
  | .route2 w => some (w.entry, 0x04)
  | .scan w => some (w.entry, 0x05)
  | .nominate n => some (n, 0x06)
  | .fetchWindow w => some (w.entry, 0x07)
  | .rank n => some (n, 0x08)
  | .rescore w => some (w.entry, 0x09)
  | .deliver n => some (n, 0x0A)
  | .lookupWindow w => some (w.entry, 0x10)
  | .applyStage w => some (w.entry, 0x11)
  | .updateStage w => some (w.entry, 0x12)
  | .compact n => some (n, 0x20)
  | .flashBackground n => some (n, 0x21)
  | .migrateWindow n => some (n, 0x22)
  | .buildWindow n => some (n, 0x23)
  | .swapSave n => some (n, 0x30)
  | .swapRestore n _ => some (n, 0x31)
  | .setCombine n => some (n, 0x32)
  | _ => none

/-- The commands that run the window of an easel entry (R28). -/
def Instr.isWindow (i : Instr) : Bool := i.window.isSome

end Sys2Proof

namespace Sys2Proof.Machine

/-- The memory of the stacks keeps its canonical form. -/
def State.memOk (s : State) : Prop := memWf s.dram.mem = true

/-- The node log holds at most 65,536 records, and their SEQ numbers are consecutive up to the last one given (R331). -/
def logOk (l : List LogRec) (next : Nat) : Prop :=
  l.length ≤ 65536 ∧ ∀ (i : Nat) (r : LogRec), l[i]? = some r → r.seq + l.length = next + i

/-- A channel's work admitted in this frame, and the re-issues that the coming frames owe it, lie within its shares (R58, R108). -/
def Chan.withinShares (c : Chan) : Prop := leL c.homeUsed c.shares = true ∧ ∀ f, leL (c.reissued f) c.shares = true

/-- Every channel keeps within its shares, the ones still to be created too. -/
def sharesOk (t : Tbl Chan) (l : List ChanChange) : Prop :=
  (∀ p ∈ t, p.2.withinShares) ∧ ∀ x ∈ l, ∀ slot c fn, x = .create slot c fn → c.withinShares

/-- The invariant of the node. -/
def State.Inv (s : State) : Prop := s.memOk ∧ logOk s.log s.logNext ∧ sharesOk s.chans s.changes

/-- VARIANT, STEPPING and UID: what the node is made as (R320, R365). -/
def State.madeAs (s : State) : Nat × Nat × Nat := (s.boot.variant, s.boot.stepping, s.boot.uid)

/-- A step that answers a next state. -/
def Steps (s t : State) : Prop := step s = .next t

/-! ### What a mailbox command needs and leaves (R324) -/


/-- The node runs and the function's mailbox is free. -/
def State.takesGo (s : State) (g : Go) : Prop := s.live = true ∧ (s.mb g.fn).busy = false

/-- The state in which the work of a mailbox command begins: MB_CMD copied, BUSY set. -/
def State.begun (s : State) (code : Nat) (g : Go) : State := s.setMb g.fn ((s.mb g.fn).start code g)

/-- The state that a mailbox command leaves when its work ends in `t` with the end `r`: the response, with the frame of acceptance
(R462), is ready for MB_RESP, or waits for the commit window that carries the work out (R325). -/
def State.answered (s t : State) (code : Nat) (g : Go) (r : MbRes) : State :=
  t.settleMb g.fn code g.tag (s.acceptFrame g.cycle) r

/-! ### Windows -/

/-- What commands from outside and the frame's ends set: the easel, the mailboxes, the event rings, the apertures, network time,
the keys, the boot state, the host port, the histograms, the graphs and the arrays' units. -/
def State.control (s : State) :
    EaselSt × Tbl Mailbox × Tbl EvRing × Tbl Aperture × TimeSt × Keys × Boot × HostPort × Tbl Histo × Tbl Graph × Units :=
  (s.easel, s.mbs, s.evRings, s.aps, s.time, s.keys, s.boot, s.host, s.histos, s.graphs, s.units)

/-- The node runs, entry n of the easel in force opens a window of the stage in this frame (R26, R28, R33, R39), and `e` is that
entry. -/
def State.opens (s : State) (n stage : Nat) (e : EaselEntry) : Prop := s.live = true ∧ s.window? n stage = some e

/-- A window opens, its channel has its windows (R26, R29, R334), and it claims the engines that its stage's work needs (R12, R45). -/
def State.runs (s : State) (n stage : Nat) (e : EaselEntry) : Prop :=
  s.opens n stage e ∧ (s.enter n e).slotRuns e = true ∧ s.able e = true

/-! ### Ring commands -/

/-- The node runs, the entry is the next one of its channel to land, and no fault of the channel (R360) and no fence of the node
(R391) has ended it before its entry was read. -/
def State.landsNext (s : State) (slot ring : Nat) (l : Landing) (ch : Chan) : Prop :=
  s.live = true ∧ s.nextLanding slot ring = some l ∧ tget s.chans slot = some ch ∧ s.lostLanding ch l = none

/-- An aligned doorbell of 8 bytes that names an active channel of the function by SLOT and GEN, one of its rings, and an index
on it, with every other bit 0 (R339). -/
def State.bell (s : State) (fn v : Nat) (c : Chan) (r : Ring) : Prop :=
  tget s.chans (dbSlot v) = some c ∧ c.fn = fn ∧ c.gen = dbGen v ∧ c.rings[dbRing v]? = some r ∧ c.st = .active ∧
    dbReserved v = false ∧ dbIndex v < 2 ^ r.log2

end Sys2Proof.Machine
end

