-- ==== Sys2Proof/Certificates/Slice0/Obligations.lean ====
section
/-! DEFINITION. The statements about the LX1 node for the provers. -/

open Sys2Proof Sys2Proof.Machine

/-! ### The queue and the whole machine -/

/-- A step runs the command at the front of the queue on the state with the queue's rest, and answers what the command answers. -/
def Obligations.StepRunsTheFrontCommand : Prop :=
  ∀ (c : Instr) (rest : List Instr) (s : State), s.pending = c :: rest → step s = exec c { s with pending := rest }

/-- On an empty queue the block idles (the model's choice, log entry 4). -/
def Obligations.EmptyQueueIdles : Prop := ∀ s : State, s.pending = [] → step s = .next s

/-- No command stops the machine: every command answers a next state in every state. -/
def Obligations.EveryCommandAnswers : Prop := ∀ (c : Instr) (s : State), ∃ t, exec c s = .next t

/-- The invariant: the stacks' memory keeps its canonical form, the node log holds at most 65,536 records with consecutive SEQ
numbers (R331), and no channel has more work admitted in a frame, or re-issued into a coming one, than its shares (R58, R108). Every
step keeps it, from every state that has it. -/
def Obligations.EveryStepKeepsTheInvariant : Prop := ∀ s t : State, s.Inv → Steps s t → t.Inv

/-- The invariant holds at reset. -/
def Obligations.ResetHasTheInvariant : Prop := State.reset.Inv

/-- No command but the step itself touches the queue of waiting commands, and none changes what the node is made as: VARIANT,
STEPPING and UID of the colophon. -/
def Obligations.CommandsKeepQueueAndIdentity : Prop :=
  ∀ (c : Instr) (s t : State), exec c s = .next t → t.pending = s.pending ∧ t.madeAs = s.madeAs

/-! ### The mailbox -/

/-- GO while BUSY is 1 is ignored and sets OVERRUN (R324): of every mailbox command nothing else is left. -/
def Obligations.GoWhileBusyOverruns : Prop :=
  ∀ (c : Instr) (code : Nat) (g : Go) (s : State), c.goes = some (code, g) → s.live = true → (s.mb g.fn).busy = true →
    exec c s = .next (s.setMb g.fn { s.mb g.fn with overrun := true })

/-- OVERRUN sets its bit while a command is at work, and MB_RESP writes the response in full, clears BUSY, sets DONE and raises
vector 0 of the function (R321, R323, R324); a code that the table does not list is answered INVALID with the offset of CODE. -/
def Obligations.MailboxEvents : Prop :=
  (∀ (fn : Nat) (s : State), (s.mb fn).busy = true →
    exec (.overrun fn) s = .next (s.setMb fn { s.mb fn with overrun := true })) ∧
  (∀ (fn : Nat) (r : Resp) (s : State), (s.mb fn).ready = some r →
    exec (.mbResp fn) s = .next ((s.setMb fn { s.mb fn with resp := r, ready := none, busy := false, done := true }).emit
      (.msix fn 0))) ∧
  (∀ (g : Go) (code : Nat) (s : State), s.takesGo g →
    exec (.mbUnlistedCode g code) s = .next (s.answered (s.begun code g) code g { status := stInvalid, offset := 0 }))

/-- IDENTIFY writes the 256 bytes of the identity block to its buffer. CHANNEL_CREATE takes, at acceptance, the lowest free sealed granules
and the highest free open units of its block for the slot, gives the slot its next generation, and queues the channel for step 5 of the
commit window; CHANNEL_DESTROY and CHANNEL_RESET queue their change. At step 5 the created channel is in its slot, ACTIVE, and counts from
zero; the destroyed one is in none; the reset one is ACTIVE with the rings of the block, full buckets and no partition. Of each it is said
where its checks pass. -/
def Obligations.ChannelCommandsTakeEffect : Prop :=
  (∀ (g : Go) (s : State), s.takesGo g → decideRows ([inv [g.strayArgs []]] ++ g.outRows 256) = none →
    exec (.identify g) s =
      .next (s.answered ((s.begun 0x01 g).emit (.write g.pbAddr (s.identity g.fn))) 0x01 g MbRes.ok)) ∧
  (∀ (g : Go) (s : State), s.takesGo g →
    decideRows ([g.pfOnly, inv [g.strayArgs []]] ++ g.pbRows 128 ++ [inv (ringsRow g ++ createChecks g s)]) = none →
    let slot := fld g.pb 0 8 7
    let gs := s.freeGroups.take (fld g.pb 12 0 16)
    let s1 := (s.begun 0x10 g).setKinds (gs.flatMap fun u => [u, u + 1, u + 2, u + 3]) (.sealed slot)
    let os := s1.freeHigh.take (fld g.pb 12 16 8)
    let gen := nextGen (tget s.boot.slotGen slot)
    let c := chanFrom g.pb gen gs os.reverse (s.freeRuns (fld g.pb 16 0 16))
    let b := { s.boot with slotGen := tput s.boot.slotGen slot gen }
    exec (.channelCreate g) s =
      .next (s.answered { s1.setKinds os (.opened slot) with changes := s.changes ++ [.create slot c g.fn], boot := b } 0x10 g
        { handle := (chanHandle slot c).toNat, later := true })) ∧
  (∀ (g : Go) (s : State) (slot : Nat) (c : Chan), s.takesGo g → decideRows [g.pfOnly, inv [g.strayArgs []]] = none →
    s.chanOf g.fn g.chan = some (slot, c) →
    exec (.channelDestroy g) s =
      .next (s.answered { s.begun 0x11 g with changes := s.changes ++ [.destroy slot g.fn] } 0x11 g { later := true })) ∧
  (∀ (g : Go) (s : State) (slot : Nat) (c : Chan), s.takesGo g → decideRows [inv [g.strayArgs []]] = none →
    s.chanOf g.fn g.chan = some (slot, c) → c.st ≠ .retired →
    decideRows (g.pbRows 128 ++ [inv (ringsRow g ++ resetChecks g)]) = none →
    exec (.channelReset g) s =
      .next (s.answered { s.begun 0x12 g with changes := s.changes ++ [.reset slot (ringsOf g.pb) g.fn] } 0x12 g { later := true })) ∧
  (∀ (b : Bytes) (gen : Nat) (x y z : List Nat), let c := chanFrom b gen x y z
    c.st = .active ∧ c.gen = gen ∧ c.fn = fld b 0 0 6 ∧ c.rings = ringsOf b ∧ c.cTok = c.bucket.cbs ∧ c.pTok = c.bucket.pbs ∧
      c.homeUsed = List.replicate 6 0 ∧ c.key = none ∧ c.part = []) ∧
  (∀ (s : State) (slot fn : Nat) (c : Chan), tget (s.applyCreate slot c fn).chans slot = some c ∧
    tget (s.applyCreate slot c fn).accts slot = some { Acct.zero with first := s.frame.num }) ∧
  (∀ (s : State) (slot fn : Nat) (c : Chan), tget s.chans slot = some c → tget (s.applyDestroy slot fn).chans slot = none) ∧
  (∀ (s : State) (slot fn : Nat) (rings : List Ring) (c : Chan), tget s.chans slot = some c → c.st ≠ .retired →
    tget (s.applyReset slot rings fn).chans slot =
      some { c with rings := rings, part := [], cTok := c.bucket.cbs, pTok := c.bucket.pbs, st := .active })

/-- EASEL_LOAD replaces the standby image, and GATES_LOAD the standby gate lists; EASEL_ARM arms at ACT_FRAME with its drain count and
with CANCEL disarms; MODE_SET keeps its mode for its frame, in place of an earlier one for that frame; EASEL_LOAD and GATES_LOAD are
refused INVALID while an image is armed. -/
def Obligations.EaselCommandsTakeEffect : Prop :=
  (∀ (g : Go) (s : State), s.takesGo g → decideRows [g.pfOnly, inv [g.strayArgs []]] = none → s.easel.arm = none →
    decideRows (g.pbRows 64 ++ easelSizeRows g) = none →
    decideRows [easelRow s g.pb, s.ownerSigRow g.pb (rd g.pb 0x38 4)] = none →
    exec (.easelLoad g) s =
      .next (s.answered { s.begun 0x20 g with easel := { s.easel with standby := some (easelOf g.pb) } } 0x20 g MbRes.ok)) ∧
  (∀ (g : Go) (s : State), s.takesGo g → decideRows [g.pfOnly, inv [g.strayArgs []]] = none → s.easel.arm = none →
    decideRows (g.pbRows 128 ++ gatesSizeRows g ++ [gatesRow s g.pb, s.ownerSigRow g.pb (rd g.pb 0x40 4)]) = none →
    exec (.gatesLoad g) s =
      .next (s.answered { s.begun 0x22 g with easel := { s.easel with gatesStandby := some (gatesOf g.pb) } } 0x22 g MbRes.ok)) ∧
  (∀ (g : Go) (s : State), s.takesGo g → g.arg 0x14 4 1 ≠ 1 → decideRows [g.pfOnly, inv (armChecks g s)] = none →
    exec (.easelArm g) s =
      .next (s.answered { s.begun 0x21 g with easel := { s.easel with arm := some (g.arg 0x18 0 48, g.arg 0x14 0 4) } } 0x21 g
        MbRes.ok)) ∧
  (∀ (g : Go) (s : State) (a d : Nat), s.takesGo g → g.arg 0x14 4 1 = 1 →
    decideRows [g.pfOnly, inv [g.strayArgs armLayout]] = none → s.easel.arm = some (a, d) → s.frame.num + 1 < a →
    exec (.easelArmCancel g) s =
      .next (s.answered { s.begun 0x21 g with easel := { s.easel with arm := none } } 0x21 g MbRes.ok)) ∧
  (∀ (g : Go) (s : State), s.takesGo g →
    decideRows [g.pfOnly, inv [g.strayArgs [(0x14, 0, 1), (0x14, 8, 5), (0x18, 0, 48)],
      (decide (16 < orDefault (g.arg 0x14 8 5) 2), 0x15),
      (g.arg 0x18 0 48 % s.hyperAt (g.arg 0x18 0 48) != 0 || decide (g.arg 0x18 0 48 ≤ s.frame.num + 1), 0x18)]] = none →
    let l := insertBy (fun a b => decide (a.1 < b.1)) (g.arg 0x18 0 48, g.arg 0x14 0 1 == 1, orDefault (g.arg 0x14 8 5) 2)
      (s.frame.pendModes.filter fun p => p.1 != g.arg 0x18 0 48)
    exec (.modeSet g) s =
      .next (s.answered { s.begun 0x48 g with frame := { s.frame with pendModes := l } } 0x48 g MbRes.ok)) ∧
  (∀ (c : Instr) (code : Nat) (g : Go) (s : State), (c = .easelLoad g ∧ code = 0x20) ∨ (c = .gatesLoad g ∧ code = 0x22) →
    s.takesGo g → decideRows [g.pfOnly, inv [g.strayArgs []]] = none → s.easel.arm.isSome →
    ∃ t r, exec c s = .next (s.answered t code g r) ∧ r.status = stInvalid ∧ t.easel = s.easel)

/-- INDEX_CREATE makes the index with its attributes and route table, its lists blank, no row used, and its tombstone set in the first open
units left to the channel, zeroed; TABLE_CREATE makes the table with its attributes and route table, every row at its initial value. Both
are there at once. INDEX_DROP and TABLE_DROP plan the drop for the commit window of the frame of acceptance. Of each it is said where it
is accepted: its checks pass, and the reservations hold it (R64, R71, R188, R325). -/
def Obligations.IndexAndTableCommandsTakeEffect : Prop :=
  (∀ (g : Go) (s : State) (slot : Nat) (c : Chan), s.takesGo g → decideRows [inv [g.strayArgs []]] = none →
    s.chanOf g.fn g.chan = some (slot, c) → c.st ≠ .retired → decideRows (g.pbRows 64) = none →
    decideRows [indexRow s slot c g.pb] = none → g.fail1 = none → badRoute g.ext1 (indexAttrOf g.pb).regions = none →
    indexFits s slot c (indexAttrOf g.pb) (routeOf g.ext1 (indexAttrOf g.pb).regions) = true →
    let a := indexAttrOf g.pb
    let us := (s.openLeft slot c).take (bitmapUnits a.rows)
    let x : Index :=
      { attr := a, route := routeOf g.ext1 a.regions,
        cur := { blank := some (a.regions, a.listsInit, a.dim, a.tipin), centroids := [], lists := [] }, old := none, next := none,
        rowsUsed := [], rowsFreeable := [], tombUnits := us, tombRows := [], tombLog := [], dropped := none }
    exec (.indexCreate g) s =
      .next (s.answered { s.begun 0x30 g with
          indexes := tput s.indexes (objKey slot (BitVec.ofNat 32 (rd g.pb 0 4))) x,
          dram := { s.dram with mem := zeroUnits s.dram.mem us } } 0x30 g
        { handle := (BitVec.ofNat 32 (rd g.pb 0 4) : Handle).toNat })) ∧
  (∀ (g : Go) (s : State) (slot : Nat) (c : Chan), s.takesGo g → decideRows [inv [g.strayArgs []]] = none →
    s.chanOf g.fn g.chan = some (slot, c) → c.st ≠ .retired → decideRows (g.pbRows 96) = none →
    decideRows [tableRow s slot g.pb] = none → g.fail1 = none → badRoute g.ext1 (shardCount (tableAttrOf g.pb)) = none →
    tableFits s slot c (tableAttrOf g.pb) (routeOf g.ext1 (shardCount (tableAttrOf g.pb))) = true →
    let a := tableAttrOf g.pb
    let t : Table :=
      { attr := a, route := routeOf g.ext1 (shardCount a), hot := [], rows := [], heat := [], counts := [], top := [], saved := [],
        pass := none, changed := [], closed := 0, capElig := [], captures := [], items := [], fresh := [], dropped := none }
    exec (.tableCreate g) s =
      .next (s.answered { (s.begun 0x32 g).forgetPuts slot (BitVec.ofNat 32 (rd g.pb 0 4)) with
          tables := tput s.tables (objKey slot (BitVec.ofNat 32 (rd g.pb 0 4))) t } 0x32 g
        { handle := (BitVec.ofNat 32 (rd g.pb 0 4) : Handle).toNat })) ∧
  (∀ (g : Go) (s : State) (slot : Nat) (c : Chan), s.takesGo g → decideRows [inv [g.strayArgs [(0x14, 0, 32)]]] = none →
    s.chanOf g.fn g.chan = some (slot, c) → c.st ≠ .retired →
    ((s.index? slot (Go.object g)).isSome → exec (.indexDrop g) s =
      .next (s.answered ((s.begun 0x31 g).plan (s.acceptFrame g.cycle) g.fn (.dropIndex slot (Go.object g))) 0x31 g
        { later := true })) ∧
    ((s.table? slot (Go.object g)).isSome → exec (.tableDrop g) s =
      .next (s.answered ((s.begun 0x33 g).plan (s.acceptFrame g.cycle) g.fn (.dropTable slot (Go.object g))) 0x33 g
        { later := true })))

/-- ALLOWSET_CREATE plans the set for the commit window of its frame of acceptance; GRAPH_LOAD puts the graph beside the one in
force and those that wait for other activation frames, in place of one that waits for its own; PALETTE_SET plans its generation for the commit window at which an update of that frame is
published: one frame later in bounded mode, two in exact mode. Of each it is said where it is accepted. -/
def Obligations.SetGraphAndPaletteCommandsTakeEffect : Prop :=
  (∀ (g : Go) (s : State) (slot : Nat) (c : Chan) (x : Index), s.takesGo g →
    s.chanOf g.fn g.chan = some (slot, c) → c.st ≠ .retired → decideRows [setRow g s slot c] = none →
    s.index? slot (BitVec.ofNat 32 (g.arg 0x18 0 32)) = some x →
    (g.arg 0x1C 8 1 = 1 → ∀ h ∈ (setOperands g).take (((setOps g).take (opCount (setOps g))).length + 1), (s.set? slot h).isSome) →
    let d := g.arg 0x1C 8 1 == 1
    let ops := (setOps g).take (opCount (setOps g))
    let y : AllowSet :=
      { index := BitVec.ofNat 32 (g.arg 0x18 0 32), derived := d, ops := ops,
        sets := if d then (setOperands g).take (ops.length + 1) else [],
        units := (s.openLeft slot c).take (bitmapUnits x.attr.rows), stamp := 0, fresh := true, dirty := [], inits := 0, rows := [],
        bitLog := [], dropped := none }
    exec (.allowsetCreate g) s =
      .next (s.answered ((s.begun 0x34 g).plan (s.acceptFrame g.cycle) g.fn (.createSet slot (Go.object g) y)) 0x34 g
        { handle := (Go.object g).toNat, later := true })) ∧
  (∀ (g : Go) (s : State) (slot : Nat) (c : Chan) (x : Index), s.takesGo g →
    decideRows [inv [g.strayArgs [(0x14, 0, 32), (0x18, 0, 48)], (decide (g.arg 0x18 0 48 ≤ s.frame.num + 1), 0x18)]] = none →
    s.chanOf g.fn g.chan = some (slot, c) → c.st ≠ .retired → s.index? slot (Go.object g) = some x →
    decideRows (g.pbRows 64 ++ graphSizeRows g ++
      [graphRow s slot c x.attr g.pb, s.ownerSigRow g.pb (rd g.pb 0x38 4)]) = none →
    let y := withNextGraph (tget s.graphs (objKey slot (Go.object g))) (g.arg 0x18 0 48) (g.pb.take (rd g.pb 16 8))
    exec (.graphLoad g) s =
      .next (s.answered { s.begun 0x35 g with graphs := tput s.graphs (objKey slot (Go.object g)) y } 0x35 g
        { handle := 4 * 2 ^ 28 + hNumber (Go.object g) })) ∧
  (∀ (t : Option Graph) (act : Nat) (img : Bytes), let y := withNextGraph t act img
    (act, img) ∈ y.next ∧ (∀ i, (act, i) ∈ y.next → i = img) ∧
    (∀ z, t = some z → y.image = z.image ∧ y.older = z.older ∧ ∀ p, p.1 ≠ act → (p ∈ y.next ↔ p ∈ z.next)) ∧
    (t = none → y.image = [] ∧ y.older = [] ∧ y.next = [(act, img)])) ∧
  (∀ (g : Go) (s : State) (slot : Nat) (c : Chan), s.takesGo g → decideRows [inv [g.strayArgs []]] = none →
    s.chanOf g.fn g.chan = some (slot, c) → c.st ≠ .retired →
    decideRows (g.pbRows 64 ++ paletteSizeRows g ++ paletteRows s slot g.pb ++ [s.ownerSigRow g.pb (rd g.pb 0x38 4)]) = none →
    let p : Palette :=
      { gen := rd g.pb 12 2, code := fld g.pb 4 18 1, dim := fld g.pb 16 0 13, limit := fld g.pb 20 0 24, scales := palScales g.pb,
        pub := 0 }
    exec (.paletteSet g) s =
      .next (s.answered ((s.begun 0x36 g).plan (s.acceptFrame g.cycle + (if s.frame.exact then 2 else 1)) g.fn
        (.palette slot (BitVec.ofNat 32 (rd g.pb 8 4)) (fld g.pb 4 16 2) p)) 0x36 g { later := true }))

/-- BUILD begins its phase: the build of the index stands at the phase of the arguments, at work since the frame of acceptance, in place of
what it was; TRAIN_REGIONS frees the rows of a generation that is built anew, and with PUBLISH the generation waits for its frame. MIGRATE
takes its move up with every argument and journals that it has begun, and a destination tells the source that it accepts. Of each it is
said where it is accepted (R85, R87, R89, R218, R260). -/
def Obligations.BuildAndMigrateCommandsTakeEffect : Prop :=
  (∀ (i : Instr) (g : Go) (s : State) (slot : Nat) (c : Chan) (x : Index),
    i = .buildTrainRegions g ∨ i = .buildLoad g ∨ i = .buildTrainLists g ∨ i = .buildPlace g ∨ i = .buildPublish g →
    s.takesGo g → s.chanOf g.fn g.chan = some (slot, c) → c.st ≠ .retired → s.index? slot (Go.object g) = some x →
    decideRows [buildRow g (s.begun 0x37 g) slot c x] = none → decideRows (buildDataRows g x.attr) = none →
    let b := ((s.build? slot (Go.object g)).getD (Build.empty slot (Go.object g))).begin g (s.acceptFrame g.cycle) x.attr
    let s0 := if b.phase = 0 then (s.begun 0x37 g).freeBuilt slot (Go.object g) else s.begun 0x37 g
    let t := { s0 with builds := (s.builds.filter fun y => !(y.slot == slot && y.object == Go.object g)) ++ [b] }
    exec i s = .next (s.answered (if b.phase = 4 then t.mapIndex slot (Go.object g) fun y =>
      { y with next := some (g.arg 0x28 0 48, b.gen) } else t) 0x37 g MbRes.ok) ∧
    b.phase = g.arg 0x18 0 3 ∧ b.since = s.acceptFrame g.cycle ∧ b.running = true) ∧
  (∀ (i : Instr) (g : Go) (s : State) (slot : Nat) (c : Chan) (x : Index), i = .migrateRegion g ∧ g.arg 0x18 0 2 = 0 →
    s.takesGo g → s.chanOf g.fn g.chan = some (slot, c) → c.st ≠ .retired → s.index? slot (Go.object g) = some x →
    decideRows [migrateRow g s slot c 0 x.route none] = none →
    let n := g.arg 0x20 0 32
    let source := s.frame.logicalId != g.arg 0x18 8 10
    let src := roleHolder (x.route.getD n 0) (g.arg 0x18 2 1)
    let m : Mig :=
      { id := migId 0 slot (Go.object g) (g.arg 0x18 2 1) n, what := 0, slot := slot, object := Go.object g, number := n,
        role := g.arg 0x18 2 1, dest := g.arg 0x18 8 10, peer := if source then g.arg 0x18 8 10 else src,
        folios := orDefault (g.arg 0x1C 0 9) 32, start := g.arg 0x28 0 48, rows := [], source := source, accepted := !source,
        table := false, extents := [], done := 0, fwd := [], sent := (0, 0), cancel := false, ended := none, bytes := (0, 0),
        space := if source then 0 else Config.regionBytes (objKey slot (Go.object g)) n (g.arg 0x28 0 48) }
    let t := ({ s.begun 0x38 g with migs := s.migs ++ [m] }).keepEntry 0x05 slot (Go.object g) [0x12, n, 0] []
    exec i s = .next (s.answered (if source then t else t.send src (some slot) (.move src (.accepted m.id))) 0x38 g MbRes.ok)) ∧
  (∀ (i : Instr) (g : Go) (s : State) (slot : Nat) (c : Chan) (x : Table),
    (i = .migrateShard g ∧ g.arg 0x18 0 2 = 1) ∨ (i = .migrateHotRows g ∧ g.arg 0x18 0 2 = 2) →
    s.takesGo g → s.chanOf g.fn g.chan = some (slot, c) → c.st ≠ .retired → s.table? slot (Go.object g) = some x →
    decideRows [migrateRow g s slot c (g.arg 0x18 0 2) x.route (some x)] = none →
    (g.arg 0x18 0 2 = 2 → g.fail1 = none ∧ badHotRow s g x = none) →
    let hot := g.arg 0x18 0 2 = 2
    let rows := if hot then migRows g else []
    let n := if hot then rows.headD 0 else g.arg 0x20 0 32
    let source := s.frame.logicalId != g.arg 0x18 8 10
    let src := roleHolder (if hot then x.entry ((migRows g).headD 0) else x.route.getD (g.arg 0x20 0 32) 0) (g.arg 0x18 2 1)
    let m : Mig :=
      { id := migId (g.arg 0x18 0 2) slot (Go.object g) (g.arg 0x18 2 1) n, what := g.arg 0x18 0 2, slot := slot, object := Go.object g,
        number := n, role := g.arg 0x18 2 1, dest := g.arg 0x18 8 10, peer := if source then g.arg 0x18 8 10 else src,
        folios := orDefault (g.arg 0x1C 0 9) 32, start := g.arg 0x28 0 48, rows := rows, source := source, accepted := !source,
        table := false, extents := [], done := 0, fwd := [], sent := (0, 0), cancel := false, ended := none, bytes := (0, 0),
        space := if source then 0 else (if hot then rows.length else shardLen x.attr n) * tableStride x.attr }
    let t := ({ s.begun 0x38 g with migs := s.migs ++ [m] }).keepEntry 0x05 slot (Go.object g) [0x12, n, 0] []
    exec i s = .next (s.answered (if source then t else t.send src (some slot) (.move src (.accepted m.id))) 0x38 g MbRes.ok))

/-- A request of a power state that is not the present one waits with its frame of acceptance, and its response with it; a stop also
starts the drain in the next frame; a request of a service state alone waits for step 5 of a commit window; SECTOR_GATE is planned
for the commit window of its frame of acceptance. A request of both a state and a service state keeps both, a request of what is in force
already keeps nothing, and a state asked for while another is waited for is not taken up. Of each it is said where it is accepted (R418,
R422, R423). -/
def Obligations.PowerCommandsTakeEffect : Prop :=
  (∀ (i : Instr) (g : Go) (s : State), (i = .powerSetActive g ∧ g.arg 0x14 0 3 = 0) ∨
      (i = .powerSetActiveLow g ∧ g.arg 0x14 0 3 = 1) ∨ (i = .powerSetIdle g ∧ g.arg 0x14 0 3 = 2) ∨
      (i = .powerSetStandby g ∧ g.arg 0x14 0 3 = 3) ∨ (i = .powerSetOffReady g ∧ g.arg 0x14 0 3 = 4) →
    s.takesGo g → decideRows [g.pfOnly, inv [g.strayArgs [(0x14, 0, 3), (0x14, 4, 3)], (s.stateBroken (g.arg 0x14 0 3), 0x14)]] = none →
    g.arg 0x14 6 1 = 1 → g.arg 0x14 0 3 ≠ s.power.state → s.power.want = none →
    exec i s = .next (s.answered ((s.begun 0x40 g).wantState (g.arg 0x14 0 3) (s.acceptFrame g.cycle)) 0x40 g { later := true })) ∧
  (∀ (s : State) (st x : Nat), (s.wantState st x).power.want = some (st, x) ∧
    (3 ≤ st → s.power.drainFrom = none → (s.wantState st x).power.drainFrom = some (x + 1))) ∧
  (∀ (g : Go) (s : State), s.takesGo g → g.arg 0x14 0 3 = 7 → g.arg 0x14 6 1 ≠ 1 → g.arg 0x14 4 2 ≠ s.power.service →
    decideRows [g.pfOnly, inv [g.strayArgs [(0x14, 0, 3), (0x14, 4, 3)], (s.serviceBroken (g.arg 0x14 4 2), 0x14)]] = none →
    exec (.powerSetService g) s =
      .next (s.answered ((s.begun 0x40 g).mapPower fun p =>
        { p with wantService := some (g.arg 0x14 4 2, s.acceptFrame g.cycle) }) 0x40 g { later := true })) ∧
  (∀ (i : Instr) (g : Go) (s : State), i = .powerSetActive g ∨ i = .powerSetActiveLow g ∨ i = .powerSetIdle g ∨
      i = .powerSetStandby g ∨ i = .powerSetOffReady g ∨ i = .powerSetService g → s.takesGo g →
    let st := g.arg 0x14 0 3
    let keep := g.arg 0x14 6 1 == 1
    decideRows [g.pfOnly, inv [g.strayArgs [(0x14, 0, 3), (0x14, 4, 3)],
      (s.stateBroken st || (!keep && s.serviceBroken (g.arg 0x14 4 2)), 0x14)]] = none →
    let s0 := s.begun 0x40 g
    let s1 := if keep || g.arg 0x14 4 2 == s.power.service then s0
      else s0.mapPower fun p => { p with wantService := some (g.arg 0x14 4 2, s.acceptFrame g.cycle) }
    let s2 := if st = 7 ∨ st = s.power.state ∨ s.power.want.isSome then s1 else s1.wantState st (s.acceptFrame g.cycle)
    exec i s = .next (s.answered s2 0x40 g
      (if s2.power.want.isNone && s2.power.wantService.isNone then MbRes.ok else { later := true }))) ∧
  (∀ (g : Go) (s : State), s.takesGo g →
    decideRows [g.pfOnly, inv [g.strayArgs [(0x14, 0, 16)], (s.gateBroken (g.arg 0x14 0 16), 0x14)]] = none →
    exec (.sectorGate g) s =
      .next (s.answered ((s.begun 0x41 g).plan (s.acceptFrame g.cycle) g.fn (.sectors (g.arg 0x14 0 16))) 0x41 g
        { later := true }))

/-- ATTEST_REPORT writes the report and uses one signature index; KEY_INSTALL installs a channel key, announces a port key, or keeps an
IDE stream key; OWNER_TAKE takes or releases the owner with its SEQ and writes the device section; FW_STAGE stages its image
unverified; FW_ACTIVATE of a verified image waits for the drain that it starts, and in recovery activates at once. Of each it is said where
it is accepted (R370 to R383). -/
def Obligations.SecurityCommandsTakeEffect : Prop :=
  (∀ (g : Go) (s : State), s.takesGo g → s.sigIndex ≤ 1048575 →
    decideRows (inv [g.strayArgs [(0x18, 0, 256)]] :: g.outRows (6612 + 40 * (s.measurements g.fn).length)) = none →
    exec (.attestReport g) s = .next (s.answered
      ((s.begun 0x50 g).useIndex.emit (.write g.pbAddr (s.report_ g))) 0x50 g
      { value := 6612 + 40 * (s.measurements g.fn).length })) ∧
  (∀ (g : Go) (key : Bytes) (s : State) (slot : Nat) (c : Chan), s.takesGo g → g.arg 0x14 0 2 = 0 →
    decideRows [inv [g.strayArgs [(0x14, 0, 2), (0x14, 4, 7)]]] = none →
    s.chanOf g.fn g.chan = some (slot, c) → c.st ≠ .retired →
    decideRows (g.pbRows 1708 ++ [inv (packageRow g (some key) 0 s ++
        [(!c.encrypt, 0x04), (c.key.isSome && c.keyBytes != key, 0x165C),
         ((match c.checkValue with | some v => v.2 != checkValueOf key | none => false), 0x165C)])]) = none →
    exec (.keyInstallChannel g (some key)) s =
      .next (s.answered ((s.begun 0x51 g).installKey slot (rd g.pb 0xC 4) key) 0x51 g MbRes.ok)) ∧
  (∀ (g : Go) (key : Bytes) (s : State), s.takesGo g → g.arg 0x14 0 2 = 1 →
    decideRows (g.pfOnly :: inv [g.strayArgs [(0x14, 0, 2), (0x14, 4, 7)], (decide (7 < g.arg 0x14 4 7), 0x14)] ::
      g.pbRows 1708 ++ [inv (packageRow g (some key) 1 s ++
        [((match s.ports[g.arg 0x14 4 7]? with | some p => p.keyIds.contains (rd g.pb 0xC 4) | none => false), 0x100C)])]) = none →
    exec (.keyInstallPort g (some key)) s =
      .next (s.answered ((s.begun 0x51 g).mapPort (g.arg 0x14 4 7) fun p =>
        { p with keyNext := some (rd g.pb 0xC 4), keyIds := p.keyIds ++ [rd g.pb 0xC 4] }) 0x51 g MbRes.ok)) ∧
  (∀ (g : Go) (key : Bytes) (s : State), s.takesGo g → g.arg 0x14 0 2 = 2 →
    decideRows (g.pfOnly :: inv [g.strayArgs [(0x14, 0, 2), (0x14, 4, 7)], (decide (7 < g.arg 0x14 4 7), 0x14)] ::
      g.pbRows 1708 ++ [inv (packageRow g (some key) 2 s)]) = none →
    exec (.keyInstallIde g (some key)) s =
      .next (s.answered { s.begun 0x51 g with keys := { s.keys with ide := tput s.keys.ide (g.arg 0x14 4 7) (le (key.take 32)) } }
        0x51 g MbRes.ok)) ∧
  (∀ (g : Go) (s : State), s.takesGo g → s.chans = [] → s.easel.arm = none →
    decideRows (g.pfOnly :: inv [g.strayArgs []] :: g.pbRows 0x60 ++
      (match s.boot.ownerHash with
        | some _ => [inv [(decide (g.pbLen < 0x60 + 16 + 1840 * rd g.pb 0x64 1), 0x1064)]]
        | none => []) ++ [inv (ownerRow g s)]) = none →
    let b := { s.boot with ownerHash := (if allZero (slice g.pb 0x20 56) then none else some (digest (slice g.pb 0x20 56))),
                           ownerSeq := rd g.pb 0x18 4, devSeq := s.boot.devSeq + 1 }
    exec (.ownerTake g) s = .next (s.answered { s.begun 0x52 g with boot := b } 0x52 g MbRes.ok)) ∧
  (∀ (g : Go) (s : State), s.takesGo g →
    decideRows (g.pfOnly :: inv [g.strayArgs []] :: g.pbRows 64 ++ fwSizeRows g ++ [fwRow g]) = none →
    let f : FwImage := { version := rd g.pb 6 2, digest := rd g.pb 0x10 32, good := fwGood g.pb, verified := false }
    exec (.fwStage g) s = .next (s.answered { s.begun 0x80 g with boot := { s.boot with staged := some f } } 0x80 g MbRes.ok)) ∧
  (∀ (i : Instr) (g : Go) (s : State) (f : FwImage),
    (i = .fwActivateWarm g ∧ g.arg 0x14 0 1 = 0) ∨ (i = .fwActivateCold g ∧ g.arg 0x14 0 1 = 1) → (s.mb g.fn).busy = false →
    decideRows [g.pfOnly, inv [g.strayArgs [(0x14, 0, 1)]]] = none → s.boot.staged = some f → f.verified = true →
    (s.power.run = .ready →
      let d := match s.power.drainFrom with | some x => x | none => s.acceptFrame g.cycle + 1
      let p := { s.power with want := some (5 + g.arg 0x14 0 1, s.acceptFrame g.cycle), drainFrom := some d }
      exec i s = .next (s.answered { s.begun 0x81 g with power := p } 0x81 g MbRes.ok)) ∧
    (s.power.run = .recovery →
      exec i s = .next (s.answered ((s.begun 0x81 g).activate (g.arg 0x14 0 1 == 1)) 0x81 g MbRes.ok)))

/-- TAKEOVER_CONFIRM issues the confirmation of its takeover order, and SPARE_PROMOTE the order that moves a place to this node; SHADOW_START
begins a shadow of its target on the auxiliary port to it. ARRAY_JOIN keeps every argument for the commit window of its frame of acceptance,
from which the node is in the array at its logical ID with the frame number that the epoch gives; ARRAY_LEAVE keeps its frame, before
which the node leaves. Of each it is said where it is accepted (R18, R405 to R411). -/
def Obligations.ArrayCommandsTakeEffect : Prop :=
  (∀ (g : Go) (s : State), s.takesGo g →
    decideRows [g.pfOnly, inv [g.strayArgs [(0x14, 0, 10), (0x18, 0, 48)],
      (!(s.member.orders.any fun o => o.kind == 1 && o.subject == g.arg 0x14 0 10 && o.frame == g.arg 0x18 0 48), 0x14),
      (decide (g.arg 0x18 0 48 + s.holdFrames ≤ s.frame.num), 0x18)]] = none →
    exec (.takeoverConfirm g) s = .next (s.answered
      ((s.begun 0x64 g).issue { kind := 3, subject := g.arg 0x14 0 10, phys := 0, issuer := s.frame.logicalId,
                                frame := s.acceptFrame g.cycle }) 0x64 g MbRes.ok)) ∧
  (∀ (g : Go) (s : State), s.takesGo g →
    decideRows [g.pfOnly, inv [g.strayArgs [(0x14, 0, 10), (0x18, 0, 48)],
      (!(match s.member.shadow with | some sh => sh.passed | none => false) || !s.placeOpen (g.arg 0x14 0 10), 0x14),
      (decide (g.arg 0x18 0 48 < s.acceptFrame g.cycle + 16), 0x18)]] = none →
    exec (.sparePromote g) s = .next (s.answered
      ((s.begun 0x63 g).issue { kind := 4, subject := g.arg 0x14 0 10, phys := s.frame.logicalId, issuer := s.frame.logicalId,
                                frame := g.arg 0x18 0 48 }) 0x63 g { later := true })) ∧
  (∀ (g : Go) (encrypt : Bool) (s : State) (p : Nat), s.takesGo g → s.auxPort (g.arg 0x14 0 10) = some p → s.frame.joined = true →
    512 ≤ s.frame.logicalId → s.member.fenced = false → (s.member.groups.any fun x => x.2.2 == s.frame.logicalId) = false →
    (encrypt = true → (s.port p).encrypted = true) → decideRows [g.pfOnly, inv [g.strayArgs [(0x14, 0, 10)]]] = none →
    let sh : Shadow := { target := g.arg 0x14 0 10, port := p, copied := false, clean := 0, passed := false, inputs := [], since := 0 }
    exec (.shadowStart g false false encrypt) s =
      .next (s.answered { s.begun 0x62 g with member := { s.member with shadow := some sh } } 0x62 g MbRes.ok)) ∧
  (∀ (g : Go) (s : State), s.takesGo g → s.frame.joined = false → s.frame.join = none → s.power.service ≠ 3 →
    decideRows [g.pfOnly] = none →
    decideRows [inv [g.strayArgs joinLayout, (decide (575 < g.arg 0x14 0 10), 0x14),
          (decide (g.arg 0x14 16 10 < 50) || decide (1000 < g.arg 0x14 16 10), 0x16),
          (s.unlikeHeard (g.arg64 0x18) (g.arg 0x14 16 10), 0x16),
          (g.arg64 0x20 == 0 || g.arg64 0x20 % 64 != 0, 0x20), (decide (16 < orDefault (g.arg 0x28 9 5) 2), 0x29),
          (g.arg64 0x30 == 0 || g.arg64 0x30 % 64 != 0, 0x30)]] = none →
    g.fail1 = none → badRelay g.ext1 = none → g.fail2 = none → badGroups g.ext2 = none →
    let j : Join :=
      { logicalId := g.arg 0x14 0 10, frameLen := g.arg 0x14 16 10, epoch := g.arg64 0x18, gmPriority := g.arg 0x28 0 8,
        exact := g.arg 0x28 8 1 == 1, buddyLag := orDefault (g.arg 0x28 9 5) 2, takeoverHold := orDefault (g.arg 0x2C 0 16) 100,
        shadowFrames := orDefault (g.arg 0x2C 16 16) 1024, relay := (relayOf g.ext1).map (·.2),
        groups := (groupsOf 64 g.ext2 0).map fun x => (x.1, x.2.1, x.2.2.1) }
    exec (.arrayJoin g) s =
      .next (s.answered { s.begun 0x60 g with frame := { s.frame with join := some (s.acceptFrame g.cycle, j) } } 0x60 g
        { later := true })) ∧
  (∀ (g : Go) (s : State), s.takesGo g → s.frame.joined = true → decideRows [g.pfOnly, inv [g.strayArgs [(0x18, 0, 48)]]] = none →
    exec (.arrayLeave g) s =
      .next (s.answered { s.begun 0x61 g with frame := { s.frame with leave := some (g.arg 0x18 0 48) } } 0x61 g
        { later := true })) ∧
  (∀ (s : State) (j : Join), let t := s.joinNow j
    t.frame.joined = true ∧ t.frame.num = firstFrame s.frameEnd j.epoch j.frameLen ∧ t.frame.join = none ∧ t.frame.logicalId = j.logicalId ∧ t.frame.len = j.frameLen ∧ t.frame.epoch = j.epoch ∧
      t.frame.exact = j.exact ∧ t.frame.buddyLag = j.buddyLag ∧ t.frame.takeoverHold = j.takeoverHold ∧
      t.frame.shadowFrames = j.shadowFrames ∧ t.member.groups = j.groups) ∧
  (∀ s : State, s.leaveNow.frame.joined = false ∧ s.leaveNow.frame.leave = none)

/-- STATS_READ writes the record of its class to the buffer and answers with its length: the node's totals and a channel's counters (class
0), a histogram (1), an index's heat (2), a table's heat and hottest rows (3), the running builds and moves (4); with CLEAR it clears the
counters or the histogram it has read, and without it nothing. LOG_READ writes the first records from FROM_SEQ up that the function may
see, PB_LEN ÷ 64 of them at most, and answers with the SEQ after the last one examined (R330, R331, R355). -/
def Obligations.ReadCommandsTakeEffect : Prop :=
  (∀ (g : Go) (s : State), s.takesGo g → decideRows [inv [g.strayArgs statsArgLayout, (decide (4 < g.arg 0x14 0 8), 0x14)]] = none →
    let t := s.begun 0x70 g
    let out := fun (bs : Bytes) => ({ t with freeTick := s.freeTick + 1 } : State).emit (.write g.pbAddr bs)
    let sel := g.arg 0x18 0 32
    let clears := g.arg 0x14 8 1 = 1
    (∀ bs : Bytes, bs = acctBytes s.nodeTotals (min ((s.chans.map fun p => p.2.faults).sum) 0xFFFF) 0 →
      g.arg 0x14 0 8 = 0 → sel = 0 → g.fn = 0 → decideRows (g.outRows bs.length) = none →
      let u := { out bs with nodeAcct := s.nodeAcct.clear s.frame.num, accts := s.accts.map fun p => (p.1, p.2.clear s.frame.num) }
      exec (.statsRead g) s = .next (s.answered (if clears then u else out bs) 0x70 g { value := bs.length })) ∧
    (∀ (slot : Nat) (c : Chan) (bs : Bytes), bs = s.statsData slot c (g.arg 0x14 0 8) (chanHandle slot c) →
      (g.arg 0x14 0 8 = 0 ∧ sel ≠ 0) ∨ g.arg 0x14 0 8 = 4 → s.chanOf g.fn (BitVec.ofNat 32 sel) = some (slot, c) → c.st ≠ .retired →
      decideRows (g.outRows bs.length) = none →
      exec (.statsRead g) s = .next (s.answered
        (if clears ∧ g.arg 0x14 0 8 = 0 then (out bs).mapAcct slot fun a => a.clear s.frame.num else out bs) 0x70 g
        { value := bs.length })) ∧
    (∀ (ch : Chan) (bs : Bytes), bs = (s.histo sel).bytes →
      g.arg 0x14 0 8 = 1 → sel / 2 ^ 16 % 2 ^ 8 = 0 →
      (sel / 2 ^ 24 = 0 ∧ tget s.chans (sel % 2 ^ 16 / 16) = some ch ∧ (g.fn = 0 ∨ ch.fn = g.fn) ∧ sel % 2 ^ 16 % 16 < ch.rings.length) ∨
        (sel / 2 ^ 24 = 1 ∧ g.fn = 0 ∧ sel % 2 ^ 16 / 8 < 8 ∧ sel % 2 ^ 16 % 8 < 5) ∨
        (sel / 2 ^ 24 = 2 ∧ g.fn = 0 ∧ sel % 2 ^ 16 < 24) → decideRows (g.outRows bs.length) = none →
      let u := { out bs with histos := tdel s.histos sel }
      exec (.statsRead g) s = .next (s.answered (if clears then u else out bs) 0x70 g { value := bs.length })) ∧
    (∀ (slot : Nat) (c : Chan) (bs : Bytes), bs = s.statsData slot c (g.arg 0x14 0 8) (BitVec.ofNat 32 sel) →
      g.arg 0x14 0 8 = 2 ∨ g.arg 0x14 0 8 = 3 → s.chanOf g.fn g.chan = some (slot, c) → c.st ≠ .retired →
      (statsSize s slot c (g.arg 0x14 0 8) (BitVec.ofNat 32 sel)).isSome → decideRows (g.outRows bs.length) = none →
      exec (.statsRead g) s = .next (s.answered (out bs) 0x70 g { value := bs.length }))) ∧
  (∀ (g : Go) (s : State), s.takesGo g → decideRows (inv [g.strayArgs [(0x18, 0, 64)]] :: g.outRows 0) = none →
    let r := examine g.fn (g.pbLen / 64) (max (g.arg64 0x18) (s.logNext - s.log.length)) (s.log.filter fun x => decide (g.arg64 0x18 ≤ x.seq))
    exec (.logRead g) s = .next (s.answered ((s.begun 0x71 g).emit (.write g.pbAddr (r.1.flatMap LogRec.bytes))) 0x71 g { value := r.2 })) ∧
  (∀ (fn n next : Nat) (l : List LogRec), (examine fn n next l).1 = (l.filter fun r => r.seenBy fn).take n ∧
    ((examine fn n next l).2 = next ∨ ∃ r ∈ l, (examine fn n next l).2 = r.seq + 1) ∧
    (l ≠ [] → 0 < n → (l.filter fun r => r.seenBy fn).length < n → (examine fn n next l).2 = (l.map (·.seq)).getLastD next + 1))

/-! ### The rings -/

/-- A submission tail hands the entries up to its index to the ring's reads, in ring order, eligible from R21's frame; a tail
that would pass the head (the model counts one that reaches it as passing), and any doorbell that is not 8 bytes or names no
ring of an active channel of the function, is discarded and counted (R339, R340). A completion head frees what the host has
read, and is discarded and counted where it goes beyond what has been written (R340). -/
def Obligations.DoorbellsTakeEffect : Prop :=
  (∀ (fn cycle : Nat) (w : BitVec 64) (s : State) (c : Chan) (r : Ring), s.live = true → s.bell fn w.toNat c r → dbKind w.toNat = 0 →
    let size := 2 ^ r.log2
    let n := (dbIndex w.toNat + size - r.sqTail) % size
    (r.sqTail + size - r.sqHead) % size + n < size →
    exec (.doorbellSubmissionTail fn cycle 8 w) s =
      .next ((s.landAll (dbSlot w.toNat) (dbRing w.toNat) r.log2 r.sqTail n (s.eligible cycle)
        (s.frame.num * s.frame.len * 1000 + cycle * 4 / 7)).mapChan (dbSlot w.toNat) fun c =>
          { c with rings := setAt c.rings (dbRing w.toNat) fun x => { x with sqTail := dbIndex w.toNat } })) ∧
  (∀ (fn cycle : Nat) (w : BitVec 64) (s : State) (c : Chan) (r : Ring), s.live = true → s.bell fn w.toNat c r → dbKind w.toNat = 0 →
    2 ^ r.log2 ≤ (r.sqTail + 2 ^ r.log2 - r.sqHead) % 2 ^ r.log2 + (dbIndex w.toNat + 2 ^ r.log2 - r.sqTail) % 2 ^ r.log2 →
    exec (.doorbellSubmissionTail fn cycle 8 w) s = .next (s.discardDoorbell fn (some (dbSlot w.toNat)))) ∧
  (∀ (x : Instr) (fn cycle size : Nat) (w : BitVec 64) (s : State),
    x = .doorbellSubmissionTail fn cycle size w ∨ x = .doorbellCompletionHead fn cycle size w → s.live = true →
    (size ≠ 8 ∨ ∀ c, tget s.chans (dbSlot w.toNat) = some c → c.fn ≠ fn ∨ c.gen ≠ dbGen w.toNat) →
    exec x s = .next (s.discardDoorbell fn none)) ∧
  (∀ (fn cycle : Nat) (w : BitVec 64) (s : State) (c : Chan) (r : Ring), s.live = true → s.bell fn w.toNat c r → dbKind w.toNat = 1 →
    let n := (dbIndex w.toNat + 2 ^ r.log2 - r.cqHead) % 2 ^ r.log2
    n ≤ r.unread →
    exec (.doorbellCompletionHead fn cycle 8 w) s =
      .next (s.mapChan (dbSlot w.toNat) fun c =>
        { c with rings := setAt c.rings (dbRing w.toNat) fun x => { x with cqHead := dbIndex w.toNat, unread := x.unread - n } })) ∧
  (∀ (fn cycle : Nat) (w : BitVec 64) (s : State) (c : Chan) (r : Ring), s.live = true → s.bell fn w.toNat c r → dbKind w.toNat = 1 →
    r.unread < (dbIndex w.toNat + 2 ^ r.log2 - r.cqHead) % 2 ^ r.log2 →
    exec (.doorbellCompletionHead fn cycle 8 w) s = .next (s.discardDoorbell fn (some (dbSlot w.toNat)))) ∧
  (∀ (x : Instr) (fn cycle : Nat) (w : BitVec 64) (s : State) (c : Chan),
    x = .doorbellSubmissionTail fn cycle 8 w ∨ x = .doorbellCompletionHead fn cycle 8 w → s.live = true →
    tget s.chans (dbSlot w.toNat) = some c → c.fn = fn → c.gen = dbGen w.toNat →
    (c.st ≠ .active ∨ dbReserved w.toNat = true ∨ ∀ r, c.rings[dbRing w.toNat]? = some r → 2 ^ r.log2 ≤ dbIndex w.toNat) →
    exec x s = .next (s.discardDoorbell fn (some (dbSlot w.toNat)))) ∧
  (∀ (s : State) (fn slot : Nat),
    let h := { s.host with fnDiscards := tcount s.host.fnDiscards fn 1 }
    s.discardDoorbell fn none = { s with host := h } ∧
    s.discardDoorbell fn (some slot) = s.mapChan slot fun c => { c with discards := c.discards + 1 })

/-- A command is eligible in the first frame whose start is at least 20 µs (35,000 cycles) after it lands (R21): in that frame and
every later one, and in none before. -/
def Obligations.EligibleFrame : Prop :=
  ∀ (s : State) (cycle f : Nat), 20 ≤ s.frame.len → cycle < s.frame.len * 1750 →
    (s.eligible cycle ≤ f ↔ s.frame.num * (s.frame.len * 1750) + cycle + 35000 ≤ f * (s.frame.len * 1750))

/-- A ring command (SEARCH, LOOKUP, APPLY, UPSERT, DELETE, FETCH, SET_EDIT, SNAPSHOT, REPLACE_ROWS and STATS, as Instr.lands names them)
that is the next of its channel to land, whose checks all pass, whose buffers have been read and whose channel is not policed, goes on
to admission: the submission head passes its entry, its bytes are accounted, and the command stands last among the channel's work; one
whose buffers are still read stands there and waits for them. FENCE, once it has landed, is written as
soon as it is due (R338, R348, R350). -/
def Obligations.RingCommandsTakeEffect : Prop :=
  (∀ (x : Instr) (op slot ring : Nat) (e : Bytes) (bs : List Bytes) (s : State) (l : Landing) (ch : Chan),
    x.lands = some (op, slot, ring, e, some bs) → s.landsNext slot ring l ch → ch.police = false →
    let p := s.takeEntry l op e (some bs)
    decideBuf (landingRows p.2 slot ch op e bs) = none →
    exec x s = .next (p.2.mapCmd l.land fun c => { c with passed := true })) ∧
  (∀ (slot ring : Nat) (e : Bytes) (s : State) (l : Landing) (ch : Chan),
    s.landsNext slot ring l ch → ch.police = false → decideBuf (fenceRows e) = none →
    let p := s.takeEntry l 0x08 e (some [])
    exec (.fence slot ring e) s = .next (p.2.mapCmd l.land fun c => { c with passed := true }).fences) ∧
  (∀ (x : Instr) (op slot ring : Nat) (e : Bytes) (s : State) (l : Landing) (ch : Chan),
    x.lands = some (op, slot, ring, e, none) → s.landsNext slot ring l ch →
    let p := s.takeEntry l op e none
    decideBuf (entryRow p.2 slot ch op e) = none → exec x s = .next p.2)

/-- What stops a ring command at landing: the first check that fails refuses it with that check's status, field and buffer
(R458); an opcode that the table does not list is INVALID with the offset of OPCODE (R343); a policed command takes 64 bytes, its
charge and the overhead from both buckets, or is POLICED when either does not hold them (R350); one whose channel has faulted, or whose
node has been fenced, before its entry was read is completed without checks, CHANNEL_FAULT or ABANDONED (R360, R391). -/
def Obligations.RingCommandsAreRefusedOrPoliced : Prop :=
  (∀ (x : Instr) (op slot ring : Nat) (e : Bytes) (bs : List Bytes) (s : State) (l : Landing) (ch : Chan) (r : Nat × Nat × Nat),
    x.lands = some (op, slot, ring, e, some bs) → s.landsNext slot ring l ch →
    let p := s.takeEntry l op e (some bs)
    decideBuf (landingRows p.2 slot ch op e bs) = some r → exec x s = .next (p.2.refuseCmd p.1 r.1 r.2.1 r.2.2)) ∧
  (∀ (slot ring : Nat) (e : Bytes) (s : State) (l : Landing) (ch : Chan), s.landsNext slot ring l ch →
    let p := s.takeEntry l 0x00 e (some [])
    exec (.invalidOpcode slot ring e) s = .next (p.2.refuseCmd p.1 stInvalid 0x00 0)) ∧
  (∀ (x : Instr) (op slot ring : Nat) (e : Bytes) (bs : List Bytes) (s : State) (l : Landing) (ch : Chan),
    x.lands = some (op, slot, ring, e, some bs) → s.landsNext slot ring l ch → ch.police = true →
    let p := s.takeEntry l op e (some bs)
    decideBuf (landingRows p.2 slot ch op e bs) = none →
    let n := 64 + p.2.policedBytes slot op e + ch.bucket.overhead
    exec x s = .next (if n ≤ ch.cTok ∧ n ≤ ch.pTok then
        (p.2.mapChan slot fun c => { c with cTok := c.cTok - n, pTok := c.pTok - n }).mapCmd l.land fun c => { c with passed := true }
      else (p.2.mapChan slot fun c => { c with policed := c.policed + 1 }).refuseCmd p.1 stPoliced 0 0)) ∧
  (∀ (x : Instr) (op slot ring : Nat) (e : Bytes) (b : Option (List Bytes)) (s : State) (l : Landing) (ch : Chan) (st : Nat),
    x.lands = some (op, slot, ring, e, b) → s.live = true → s.nextLanding slot ring = some l → tget s.chans slot = some ch →
    s.lostLanding ch l = some st →
    let p := s.takeEntry l op e b
    exec x s = .next (p.2.settle l.land (s.frame.num + 1) (p.1.outcome s st))) ∧
  (∀ (s : State) (l : Landing) (ch : Chan),
    (ch.st = .faulted ∨ ch.st = .retired → s.lostLanding ch l = some stFault) ∧
    (ch.st ≠ .faulted → ch.st ≠ .retired → s.member.fenced = true → l.land < s.member.fenceLand → s.lostLanding ch l = some stAbandoned))

/-- The end of a command's buffer reads runs its checks: it goes on to admission where they pass, and is refused by the first that fails;
without such a command nothing happens. A host access that failed: an entry's read or a completion's write faults the channel with cause 2
and the ring (R359), a buffer's read ends the command INVALID at the byte (R458), an event record's write counts DROPPED (R349). -/
def Obligations.HostAccesses : Prop :=
  (∀ (slot ring pos : Nat) (bs : List Bytes) (s : State) (c : Cmd) (ch : Chan), s.live = true → s.reading slot ring pos = some c →
    tget s.chans slot = some ch → ch.police = false →
    let t := (s.mapCmd c.land fun x => { x with bufs := some bs }).account slot 6 ((bs.map (·.length)).sum)
    decideBuf (landingRows t c.slot ch c.op c.entry bs) = none →
    exec (.hostBufferReadDone slot ring pos bs) s = .next (t.mapCmd c.land fun x => { x with passed := true })) ∧
  (∀ (slot ring pos : Nat) (bs : List Bytes) (s : State) (c : Cmd) (ch : Chan) (r : Nat × Nat × Nat), s.live = true →
    s.reading slot ring pos = some c → tget s.chans slot = some ch →
    let t := (s.mapCmd c.land fun x => { x with bufs := some bs }).account slot 6 ((bs.map (·.length)).sum)
    decideBuf (landingRows t c.slot ch c.op c.entry bs) = some r →
    exec (.hostBufferReadDone slot ring pos bs) s = .next (t.refuseCmd { c with bufs := some bs } r.1 r.2.1 r.2.2)) ∧
  (∀ (slot ring pos : Nat) (bs : List Bytes) (s : State), s.reading slot ring pos = none →
    exec (.hostBufferReadDone slot ring pos bs) s = .next s) ∧
  (∀ (slot ring : Nat) (s : State) (ch : Chan), s.live = true → tget s.chans slot = some ch →
    exec (.hostAccessFailed slot (.entryRead ring)) s = .next (s.fault slot 2 ring) ∧
    exec (.hostAccessFailed slot (.write ring)) s = .next ((s.unsignal slot ring).fault slot 2 ring)) ∧
  (∀ (slot ring pos field byte : Nat) (s : State) (c : Cmd), s.live = true → s.reading slot ring pos = some c →
    exec (.hostAccessFailed slot (.buffer ring pos field byte)) s =
      .next (s.refuseCmd c stInvalid (min (0x1000 + byte) 0xFFFFFFFE) field)) ∧
  (∀ (slot fn : Nat) (s : State), s.live = true →
    exec (.hostAccessFailed slot (.event fn)) s =
      .next { s with evRings := tmap s.evRings fn fun r => { r with dropped := r.dropped + 1 } })

/-! ### Registers -/

/-- A write to a channel's residency fields (R8, R335, R341): frozen while an image is armed, and then REFUSED_W is set. Otherwise
PART_GRANULES and SLIPCASE_GRANULES become pending where the reservations hold them, and then a new RESIDENCY, of whose own field a value
must be pending that the reservations hold, with the other field at 0; a write that fails a check only sets REFUSED_W. -/
def Obligations.ResidencyFieldWrites : Prop :=
  (∀ (fn slot off : Nat) (w : BitVec 32) (s : State) (c : Chan), s.answers = true → s.blockOf fn slot = some c → s.easel.arm.isSome →
    exec (.rwaFieldWrite fn slot off w) s = .next (s.mapChan slot fun c => { c with refusedW := true })) ∧
  (∀ (fn slot : Nat) (w : BitVec 32) (s : State) (c : Chan), s.answers = true → s.blockOf fn slot = some c → s.easel.arm = none →
    let g := bitsOf w.toNat 16 9
    exec (.rwaFieldWrite fn slot 0x08 w) s =
      .next (if s.slipOk slot g c && !(c.pend.swapped && g == 0) then
          s.mapChan slot fun x => { x with pend := { x.pend with slipGran := g } }
        else s.mapChan slot fun x => { x with refusedW := true })) ∧
  (∀ (fn slot : Nat) (w : BitVec 32) (s : State) (c : Chan), s.answers = true → s.blockOf fn slot = some c → s.easel.arm = none →
    c.pend.swapped = hasBit w.toNat 0 →
    let g := bitsOf w.toNat 16 9
    exec (.rwaFieldWrite fn slot 0x04 w) s =
      .next (if s.partOk slot g c then s.mapChan slot fun x => { x with pend := { x.pend with partGran := g } }
        else s.mapChan slot fun x => { x with refusedW := true })) ∧
  (∀ (fn slot : Nat) (w : BitVec 32) (s : State) (c : Chan), s.answers = true → s.blockOf fn slot = some c → s.easel.arm = none →
    exec (.rwaFieldWrite fn slot 0x04 w) s =
      .next ((s.writePart slot (bitsOf w.toNat 16 9)).writeResidency slot (hasBit w.toNat 0))) ∧
  (∀ (s : State) (slot : Nat) (c : Chan), tget s.chans slot = some c →
    (∀ b : Bool, c.pend.swapped = b → s.writeResidency slot b = s) ∧
    (c.pend.swapped = false → s.writeResidency slot true =
      if 1 ≤ c.pend.slipGran ∧ s.slipOk slot c.pend.slipGran c = true then
        s.mapChan slot fun x => { x with pend := { x.pend with swapped := true, partGran := 0 } }
      else s.mapChan slot fun x => { x with refusedW := true }) ∧
    (c.pend.swapped = true → s.writeResidency slot false =
      if s.partOk slot c.pend.partGran c = true then
        s.mapChan slot fun x => { x with pend := { x.pend with swapped := false, slipGran := 0 } }
      else s.mapChan slot fun x => { x with refusedW := true }))

/-- An access of 4 or 8 aligned bytes writes its words, the low one first, each by its own access code (R319, R6); bits that the node sets
in the same cycle, and the OVERRUN that a GO to a busy mailbox sets, read as set afterwards (R7). A busy mailbox takes no write of its
command registers (R324), MB_STATUS's DONE and OVERRUN clear by writing 1, DEFER_MAX and POLICE_ENABLE are at work at once, and every
other access is ignored. What a read returns leaves the state as it is: GO and every offset that the map does not list read as 0 (R6, R5), an
RWA field reads its value in force whatever is pending (R6), and MB_STATUS its three bits. -/
def Obligations.RegisterAccesses : Prop :=
  (∀ (fn off : Nat) (w sets : BitVec 64) (s : State), s.answers = true → off % 4 = 0 →
    exec (.registerWrite fn off 4 ⟨w, sets⟩) s =
      .next (((s.wordWrite fn off (w.toNat % 2 ^ 32)).wordSet fn off (sets.toNat % 2 ^ 32)).wordSet fn 0x184
        (s.goSets fn off (w.toNat % 2 ^ 32)))) ∧
  (∀ (fn off : Nat) (w sets : BitVec 64) (s : State), s.answers = true → off % 8 = 0 →
    exec (.registerWrite fn off 8 ⟨w, sets⟩) s =
      .next (((((s.wordWrite fn off (w.toNat % 2 ^ 32)).wordWrite fn (off + 4) (w.toNat / 2 ^ 32)).wordSet fn off
        (sets.toNat % 2 ^ 32)).wordSet fn (off + 4) (sets.toNat / 2 ^ 32)).wordSet fn 0x184 (s.goSets fn off (w.toNat % 2 ^ 32)))) ∧
  (∀ (fn off size : Nat) (w sets : BitVec 64) (s : State), ¬(size = 4 ∧ off % 4 = 0) → ¬(size = 8 ∧ off % 8 = 0) →
    exec (.registerWrite fn off size ⟨w, sets⟩) s = .next s) ∧
  (∀ (fn v : Nat) (s : State),
    s.wordWrite fn 0x184 v =
      s.setMb fn { s.mb fn with done := (s.mb fn).done && !hasBit v 1, overrun := (s.mb fn).overrun && !hasBit v 2 } ∧
    s.wordSet fn 0x184 v =
      s.setMb fn { s.mb fn with done := (s.mb fn).done || hasBit v 1, overrun := (s.mb fn).overrun || hasBit v 2 }) ∧
  (∀ (fn v : Nat) (s : State), hasBit v 0 = true → (s.mb fn).busy = true → s.goSets fn 0x180 v = 4) ∧
  (∀ (fn off v : Nat) (s : State), off ≠ 0x180 ∨ hasBit v 0 = false ∨ (s.mb fn).busy = false → s.goSets fn off v = 0) ∧
  (∀ (m : Mailbox) (off v : Nat), m.busy = true → m.put off v = m) ∧
  (∀ (fn slot v : Nat) (s : State) (c : Chan), slot < 128 → s.blockOf fn slot = some c →
    s.wordWrite fn (0x3000 + 64 * slot + 0x0C) v = s.mapChan slot fun c =>
      { c with deferMax := bitsOf v 0 4, police := hasBit v 4,
               cTok := if hasBit v 4 then c.cTok else c.bucket.cbs, pTok := if hasBit v 4 then c.pTok else c.bucket.pbs }) ∧
  (∀ (s : State) (fn cycle : Nat), s.wordRead fn cycle 0x180 = 0 ∧
    s.wordRead fn cycle 0x184 =
      (if (s.mb fn).busy then 1 else 0) + (if (s.mb fn).done then 2 else 0) + (if (s.mb fn).overrun then 4 else 0) ∧
    ∀ off, (0x188 ≤ off ∧ off < 0x800) ∨ (0xA40 ≤ off ∧ off < 0x1080) ∨ (0x1084 ≤ off ∧ off < 0x2000) ∨ (0x2018 ≤ off ∧ off < 0x3000) ∨
      0x5000 ≤ off → s.wordRead fn cycle off = 0) ∧
  (∀ (c : Chan) (p : Rwa) (off : Nat), Chan.word { c with pend := p } off = Chan.word c off)

/-- A read of FRAME_NUM_LO answers bits 31..0 of the frame number and keeps bits 47..32 for the function's FRAME_NUM_HI (R23).
A read of NT_NS_LO answers bits 31..0 of network time in nanoseconds and keeps bits 63..32 and the fraction for the function's
NT_NS_HI and NT_FRAC (R301). -/
def Obligations.FrameAndTimeReads : Prop :=
  (∀ (fn cycle : Nat) (s : State), s.answers = true →
      let f := { s.frame with hiLatch := tput s.frame.hiLatch fn (bitsOf s.frame.num 32 16), cycle := max s.frame.cycle cycle }
      exec (.frameNumLoRead fn cycle) s = .next (({ s with frame := f } : State).emit (.readData fn 0x0800 (bitsOf s.frame.num 0 32)))) ∧
  (∀ (fn cycle : Nat) (s : State), s.answers = true →
      let ns := s.frame.epoch + s.frame.num * s.frame.len * 1000 + 4 * cycle / 7
      let frac := 4 * cycle % 7 * 65536 / 7
      let n := { s.time with ns := ns, frac := frac, latch := tput s.time.latch fn (bitsOf ns 32 32, frac) }
      exec (.ntNsLoRead fn cycle) s = .next (({ s with time := n } : State).emit (.readData fn 0x0900 (bitsOf ns 0 32))))

/-- Every write through an aperture is discarded and counted (R241). -/
def Obligations.ApertureWritesAreDiscarded : Prop :=
  ∀ (fn off len : Nat) (s : State), s.live = true →
    exec (.apertureWrite fn off len) s = .next (s.setAp fn { s.ap fn with discarded := (s.ap fn).discarded + 1 })

/-- A read through the aperture. Where its checks pass it answers the bytes from its DA, adds its corrections and charges the owner: through
the open path those that both twins hold, through the sealed path those of the unit's objects (whose places the spec does not give: they
are free values, log entry 92). A failed check ends it with the check's status, an uncorrectable word, on the sealed path, with MEDIA_ERROR,
and twins that differ, on the open path, with MEDIA_ERROR and TWIN_FAIL, each as an abort with the failed offset kept (R236, R240, R242). -/
def Obligations.ApertureReads : Prop :=
  ∀ (fn off len k da : Nat) (u : Bool) (s : State), s.live = true → 0 < len → da = (s.ap fn).unitNo * 2 ^ 28 + off →
    let bad := s.badTwins da len
    let t := (s.setAp fn { s.ap fn with corrected := (s.ap fn).corrected + BitVec.ofNat 32 k }).account
        ((s.unitOwner (daUnit da)).getD 0xFFFF) 2 len
    let r := exec (.apertureRead fn off len k u) s
    (∀ (st : Nat) (tw : Bool), s.apertureCheck fn da len (s.ap fn).openPath = some (st, tw) → r = .next (s.apertureFail fn off st tw)) ∧
    ((s.ap fn).openPath = true → s.apertureCheck fn da len true = none →
      (bad = [] → ∀ n, s.unitKind (daUnit da) = .opened n → r = .next (t.emit (.readBytes fn off (memReadN s.dram.mem da len)))) ∧
      (bad ≠ [] → r = .next (((bad.filter fun x => !twinsEqual s.dram.mem x).foldl State.twinMismatch s).apertureFail fn off stMedia true)) ∧
      (∀ x, x ∈ bad ↔ da / 1024 * 1024 ≤ x ∧ x < da + len ∧ x % 1024 = 0 ∧
        (twinsEqual s.dram.mem x = false ∨ ∃ key i, s.openObject x = some (key, i) ∧ s.isSuspect key i = true))) ∧
    ((s.ap fn).openPath = false → s.apertureCheck fn da len false = none →
      (s.meetsLost da len = true → r = .next (s.apertureFail fn off stMedia false)) ∧
      (s.meetsLost da len = false → u = true → r = .next ((s.wordLost da).apertureFail fn off stMedia false)) ∧
      (s.meetsLost da len = false → u = false → r = .next (t.emit (.readBytes fn off (s.apertureBytes da len)))))

/-! ### Frames and windows -/

/-- Frame f has phase f mod HYPERFRAME_LEN, and an entry takes part in frame f when that bit of its PHASE_MASK is set (R33);
the window of entry n opens with its stage in the present frame exactly when the entry stands there in the easel in force and
takes part, windows run in this frame, and it has not opened in this frame. A window whose entry is not due, or has opened in
this frame already, does nothing at all; a window whose channel does not run its windows, or whose entry claims none of the engines
that its stage needs, only passes (R12, R26, R29, R33, R334). -/
def Obligations.WindowsOpenWhenTheyTakePart : Prop :=
  (∀ (e : EaselEntry) (hyper f : Nat), e.takesPart hyper f = e.phases.testBit (f % hyper)) ∧
  (∀ (s : State) (n stage : Nat) (e : EaselEntry),
    s.window? n stage = some e ↔
      ∃ ea, s.easel.inForce = some ea ∧ ea.entries[n]? = some e ∧ e.stage = stage ∧ s.windowsOpen = true ∧
        e.phases.testBit (s.frame.num % ea.hyper) = true ∧ n ∉ s.frame.ran) ∧
  (∀ (s : State) (n stage : Nat) (e : EaselEntry), (s.enter n e).window? n stage = none) ∧
  (∀ (x : Instr) (n stage : Nat) (s : State), x.window = some (n, stage) → s.window? n stage = none → exec x s = .next s) ∧
  (∀ (x : Instr) (n stage : Nat) (e : EaselEntry) (s : State), x.window = some (n, stage) → s.opens n stage e →
    ((s.enter n e).slotRuns e = false ∧ e.isNode = false) ∨ s.able e = false → exec x s = .next (s.enter n e))

/-- The ten windows of a query (R97 to R119): each runs its stage for the channel of its entry, after what its reads of the stacks have met
(R223, R392); ROUTE_1, ROUTE_2 and RESCORE then cut off the commands whose jobs the window's arrays do not finish (R184), FETCH goes on
with background work as fill (R267), and DELIVER replays what DELIVER showed to be missing (R399). -/
def Obligations.QueryWindowsTakeEffect : Prop :=
  ∀ (n : Nat) (e : EaselEntry) (rf : ReadFaults) (s : State), let t := s.enter n e
    (s.runs n 0x01 e → exec (.admitWindow n) s = .next (t.admitWindow e)) ∧
    (s.runs n 0x02 e → exec (.route1 ⟨n, rf⟩) s =
      .next (((t.meetFaults e.slot rf).route1 e).cutLate 0x02 n e (t.arraysOf e) (t.route1Jobs (t.route1Cmds e.slot)))) ∧
    (s.runs n 0x03 e → exec (.scatter n) s = .next (t.scatterWindow e)) ∧
    (s.runs n 0x04 e → exec (.route2 ⟨n, rf⟩) s =
      .next (((t.meetFaults e.slot rf).route2 e).cutLate 0x04 n e (t.arraysOf e) (t.route2Jobs e.slot (t.route2Queries e.slot)))) ∧
    (s.runs n 0x05 e → exec (.scan ⟨n, rf⟩) s = .next ((t.meetFaults e.slot rf).scanWindow n e)) ∧
    (s.runs n 0x06 e → exec (.nominate n) s = .next (t.nominateWindow n e)) ∧
    (s.runs n 0x07 e → exec (.fetchWindow ⟨n, rf⟩) s = .next (((t.meetFaults e.slot rf).fetchWindow e).fill e)) ∧
    (s.runs n 0x08 e → exec (.rank n) s = .next (t.rankWindow e)) ∧
    (s.runs n 0x09 e → exec (.rescore ⟨n, rf⟩) s =
      .next (((t.meetFaults e.slot rf).rescoreWindow e).cutLate 0x09 n e (t.arraysOf e) (t.rescoreJobs e).2)) ∧
    (s.runs n 0x0A e → exec (.deliver n) s = .next ((t.deliverWindow e).replayNow))

/-- The windows of the tables, the updates and the sets, the windows that the node too may own, and those of list maintenance, builds
and swaps (R195, R202, R207, R81, R82, R253, R92, R86, R50, R52): each runs its stage, those of the tables and updates after what their
reads of the stacks have met (R223, R392), and UPDATE_STAGE then cuts off the commands whose jobs the window's arrays do not finish
(R184). -/
def Obligations.OtherWindowsTakeEffect : Prop :=
  ∀ (n : Nat) (e : EaselEntry) (rf : ReadFaults) (s : State), let t := s.enter n e
    (s.runs n 0x10 e → exec (.lookupWindow ⟨n, rf⟩) s = .next ((t.meetFaults e.slot rf).lookupWindow n e)) ∧
    (s.runs n 0x11 e → exec (.applyStage ⟨n, rf⟩) s = .next ((t.meetFaults e.slot rf).applyStage n e)) ∧
    (s.runs n 0x12 e → exec (.updateStage ⟨n, rf⟩) s =
      .next (((t.meetFaults e.slot rf).updateStage e).cutLate 0x12 n e (t.arraysOf e)
        (t.updateJobs e.slot ((t.sendFresh e.slot).regionArrivals e.slot)))) ∧
    (s.runs n 0x32 e → exec (.setCombine n) s = .next (t.combineWindow e)) ∧
    (s.runs n 0x20 e → exec (.compact n) s = .next (t.compactWindow e)) ∧
    (s.opens n 0x21 e → e.isNode = true ∨ t.slotRuns e = true → s.able e = true →
      exec (.flashBackground n) s = .next (t.background e)) ∧
    (s.opens n 0x22 e → e.isNode = true ∨ t.slotRuns e = true → s.able e = true →
      exec (.migrateWindow n) s = .next (t.migrateThen e)) ∧
    (s.runs n 0x23 e → exec (.buildWindow n) s = .next (t.buildWindow e)) ∧
    (s.runs n 0x30 e → exec (.swapSave n) s = .next (t.swapSave e)) ∧
    (∀ u : Bool, s.runs n 0x31 e → exec (.swapRestore n u) s = .next (t.swapRestore e u))

/-- No window, whatever its stage and data, touches the easel and its gate lists, a mailbox, an event ring, an aperture, network
time, a key, the boot state, the host port, a histogram, a graph or an array's unit, nor the frame number. -/
def Obligations.WindowsKeepControl : Prop :=
  ∀ (x : Instr) (s t : State), x.isWindow = true → exec x s = .next t → t.control = s.control ∧ t.frame.num = s.frame.num

/-- A command that does not fit what is left of its channel's share, or whose buffers are still read, is deferred with every later one of
its ring, which counts, or completes LATE when it has been deferred ADMIT_DEFER_MAX times; one whose object is gone completes NO_OBJECT; one
that fits is admitted, in this frame, with the next sequence number of the node, charged and counted, and begins its work (R58, R59, R101,
R195). In frame M − 1 of a MODE_SET no update is admitted (R55), and none of them counts as deferred (the model's choice, log entry 73). -/
def Obligations.AdmissionOfOneCommand : Prop :=
  (∀ (s : State) (c : Cmd) (ch : Chan) (b : Bool), tget s.chans c.slot = some ch →
    let charges := s.charges s.frame.exact c.slot c.op c.entry
    (s.updateGap = true → isUpdate c.op = true → State.admitOne { st := s, stopped := b } c = { st := s, stopped := b }) ∧
    (s.updateGap = false ∨ isUpdate c.op = false →
      State.admitOne { st := s, stopped := true } c = { st := s.deferCmd c, stopped := true } ∧
      (c.passed = false → State.admitOne { st := s, stopped := false } c = { st := s.deferCmd c, stopped := true }) ∧
      (c.passed = true → s.objectGone c = true →
        State.admitOne { st := s, stopped := false } c = { st := s.refuseCmd c stNoObject 0 0, stopped := false }) ∧
      (c.passed = true → s.objectGone c = false →
        (leL (addL ch.homeUsed charges) ch.shares = true →
          State.admitOne { st := s, stopped := false } c = { st := s.admitCmd c charges, stopped := false }) ∧
        (leL (addL ch.homeUsed charges) ch.shares = false →
          State.admitOne { st := s, stopped := false } c = { st := s.deferCmd c, stopped := true })))) ∧
  (∀ (s : State) (c : Cmd) (ch : Chan), tget s.chans c.slot = some ch →
    (c.deferred < ch.deferMax → s.deferCmd c =
      ({ s with frame := { s.frame with defers := tcount s.frame.defers ch.fn 1 } } : State).mapCmd c.land fun x =>
        { x with deferred := x.deferred + 1, elig := s.frame.num + 1 }) ∧
    (ch.deferMax ≤ c.deferred → s.deferCmd c = s.refuseCmd c stLate 0 0)) ∧
  (∀ (s : State) (c : Cmd) (charges : List Nat),
    let c1 := { c with adm := some s.frame.num, exact := s.frame.exact, seq := s.frame.seq,
                       q := if c.op = 0x01 then some (Query.init (seNP c.entry) (seWEff c.entry)) else some (Query.init 0 0) }
    let t := (s.mapChan c.slot fun x => { x with homeUsed := addL x.homeUsed charges }).mapAcct c.slot fun a =>
      { a with admitted := a.admitted + 1 }
    let f := { s.frame with seq := s.frame.seq + 1 }
    s.admitCmd c charges =
      ((({ t with frame := f } : State).mapCmd c.land fun _ => c1).mirrorOut (.mirrorCmd s.frame.num c)).begin c1)

/-- STAGE_CUT_OFF and RESULT_WRITE_DEADLINE cut off the commands they name, before the commit window only: the stage's work of those
commands takes the outcome of R30 with the event of R44, one for a stage and an entry of a channel in a frame, that counts them all, and
completions that the host port has not accepted become CUT_OFF (R318). -/
def Obligations.CutOffsTakeEffect : Prop :=
  (∀ (stage entry slot : Nat) (cmds : List (Nat × Nat)) (s : State), s.live = true → s.frame.committed = false →
    exec (.stageCutOff stage entry slot cmds) s = .next (s.cutStage stage entry slot fun h q => cmds.contains (h, q))) ∧
  (∀ (cmds : List (Nat × Nat)) (s : State), s.live = true → s.frame.committed = false →
    exec (.resultWriteDeadline cmds) s = .next (s.resultDeadline cmds)) ∧
  (∀ (stage entry slot : Nat) (cmds : List (Nat × Nat)) (s : State), s.frame.committed = true →
    exec (.stageCutOff stage entry slot cmds) s = .next s ∧ exec (.resultWriteDeadline cmds) s = .next s) ∧
  (∀ (cmds : List (Nat × Nat)) (s : State), ∃ t, s.resultDeadline cmds =
      (s.work.filter fun c => c.wrote.isSome && cmds.contains (c.slot, c.land)).foldl State.cutWritten t ∧ t.work = s.work) ∧
  (∀ (s : State) (slot stage entry n : Nat) (c : Chan), tget s.chans slot = some c → 0 < n →
    let f := { s.frame with cutoffs := tcount s.frame.cutoffs c.fn n }
    let t : State := { s with frame := f }
    let same := fun (v : Event) =>
      v.code == 0x0B && v.frame == s.frame.num && v.chan == (chanHandle slot c).toNat && v.d0 == stage + entry * 2 ^ 16
    (s.events.any same = false →
      s.cutEvent slot stage entry n = t.raise 0x0B (some c.fn) (chanHandle slot c).toNat (stage + entry * 2 ^ 16) n 0) ∧
    (s.events.any same = true → let l := s.events.map fun v => if same v then { v with d1 := v.d1 + n } else v
      s.cutEvent slot stage entry n = { t with events := l }))

/-! ### Frame starts, commit windows and what takes force there -/

/-- FRAME_START begins the next frame: without a join or a leave due the number grows by 1, the cycle is 0, no window has run
and the commit window is still to come; each channel's tokens are refilled from the bucket settings written before, and its
share of the frame is charged with the re-issues that fall due (R19, R341, R350, R108). COMMIT_WINDOW carries out the commit
window once a frame, at its cycle; a second one in a frame does nothing. Publication comes before the announcements, these before the
channel changes, these before the switch of the easel, and the digest, the ends of the frame and the event rings close it (R24). A shadow
has run its target's frame before, and a node that is shadowed closes its mirror after (R409); on any other node neither does anything. -/
def Obligations.FramesStartAndCommit : Prop :=
  (∀ s : State, s.live = true →
    let t := s.nextNumber.frameSettings
    exec .frameStart s =
      .next ((((t.announceFaults.movesStart.sendDue.reportDurable.askAll.statsDue).deferStart).missDeliver.writeDue).settleAll)) ∧
  (∀ s : State, s.frame.join = none → s.frame.leave = none →
    let f := { s.frame with num := s.frame.num + 1, cycle := 0, committed := false, ran := [] }
    s.nextNumber = { s with frame := f }) ∧
  (∀ (c : Chan) (f : Nat), let b := c.bucketNext
    (c.frameStart f).bucket = b ∧
    (c.police = true → (c.frameStart f).cTok = min b.cbs (c.cTok + b.cir) ∧ (c.frameStart f).pTok = min b.pbs (c.pTok + b.pir)) ∧
    (c.police = false → (c.frameStart f).cTok = b.cbs ∧ (c.frameStart f).pTok = b.pbs) ∧
    (c.frameStart f).homeUsed = c.reissued f ∧ (c.frameStart f).shares = c.shares ∧ (c.frameStart f).st = c.st) ∧
  (∀ (i : CwIn) (s : State), s.live = true →
      (s.frame.committed = true → exec (.commitWindow i) s = .next s) ∧
      (s.frame.committed = false → exec (.commitWindow i) s = .next ((s.shadowRun.commit i).mirrorClose))) ∧
  (∀ (i : CwIn) (s : State),
    let f := { s.frame with cycle := s.cw }
    let s2 := (((({ s with frame := f } : State).drain i).replicaSend.replicaCheck).noteDurable).publishAll.publishRestored
    let g := { s2.frame with version := s2.frame.num, cycle := s2.cw + 14000 }
    let s5 := State.closeStep ((State.installStep { s2 with frame := g }).changeStep.easelSwitch) i
    let h := { s5.frame with committed := true }
    let s6 := (State.flushEvents { s5 with frame := h }).ringVectors
    let s7 := if s6.standbyDue then s6.standbyEnter else s6
    let s8 := if i.stuck then s7.stuckStop else s7
    s.commit i = if s8.live then s8.activateDue else s8) ∧
  (∀ s : State, (s.member.shadow = none → s.shadowRun = s) ∧ (s.member.mirror = none → s.mirrorClose = s))

/-- At the commit window of frame A − 1 the armed image and gate lists take force and every channel's pending values with
them; the standby areas are then empty and nothing is armed; at any other frame, and without an arm, nothing changes (R35, R8,
R40). MODE_SWITCH: the mode and the buddy's lag of a MODE_SET take force at its frame, and not before (R55). -/
def Obligations.EaselAndModeSwitches : Prop :=
  (∀ (s : State) (a d : Nat), s.live = true → s.easel.arm = some (a, d) → s.frame.num + 1 = a →
    let gates := match s.easel.gatesStandby with | some g => some g | none => s.easel.gates
    let e := { s.easel with inForce := s.easel.standby, standby := none, arm := none, lastA := some a, gates := gates, gatesStandby := none }
    exec .easelSwitch s = .next { s with easel := e, chans := s.chans.map fun p => (p.1, p.2.takePending) }) ∧
  (∀ s : State, (∀ a d, s.easel.arm = some (a, d) → s.frame.num + 1 ≠ a) → exec .easelSwitch s = .next s) ∧
  (∀ c : Chan, c.takePending.rwa = c.pend ∧ c.takePending.pend = c.pend ∧
    (c.pend = c.rwa → c.takePending.part = c.part ∧ c.takePending.slipcase = c.slipcase) ∧
    (c.pend.swapped ≠ c.rwa.swapped → c.takePending.part = [] ∧ c.takePending.slipcase = [])) ∧
  (∀ (s : State) (m : Nat) (x : Bool) (lag : Nat), s.live = true → s.frame.pendModes = [(m, x, lag)] → m ≤ s.frame.num →
    let f := { s.frame with pendModes := [], exact := x, buddyLag := lag }
    exec .modeSwitch s = .next { s with frame := f }) ∧
  (∀ s : State, (∀ p ∈ s.frame.pendModes, s.frame.num < p.1) → exec .modeSwitch s = .next s)

/-- What is published by its own event: a generation at the commit window of its frame P, the one before staying readable (R87); a
graph at the commit window before its frame (R137, R53); every version no longer readable is released (R24, R53). -/
def Obligations.PublicationsTakeEffect : Prop :=
  (∀ (slot : Nat) (h : Handle) (s : State) (x : Index) (g : IndexGen), s.live = true → s.index? slot h = some x →
    x.next = some (s.frame.num, g) →
    exec (.generationPublish slot h) s =
      .next ((s.mapIndex slot h fun y => { y with cur := g, old := some (s.frame.num, y.cur), next := none }).journal 0x05 slot h
        [s.frame.num])) ∧
  (∀ (slot : Nat) (h : Handle) (s : State) (x : Index) (p : Nat) (g : IndexGen), s.index? slot h = some x → x.next = some (p, g) →
    p ≠ s.frame.num → exec (.generationPublish slot h) s = .next s) ∧
  (∀ (slot : Nat) (h : Handle) (s : State), s.live = true →
    exec (.graphPublish slot h) s = .next { s with graphs := tmap s.graphs (objKey slot h) (Graph.publish s.frame.num) }) ∧
  (∀ (x : Graph) (f a : Nat) (img : Bytes) (l : List (Nat × Bytes)), x.next = (a, img) :: l → a ≤ f + 1 → (∀ p ∈ l, f + 1 < p.1) →
    Graph.publish f x = { image := img, older := x.older ++ [(f, x.image)], next := l }) ∧
  (∀ (x : Graph) (f : Nat), (∀ p ∈ x.next, f + 1 < p.1) → Graph.publish f x = x) ∧
  (∀ s : State, s.live = true → exec .versionRelease s = .next s.clearFreed.release6) ∧
  (∀ (s : State) (t : Table), s.releaseTable t =
    { t with rows := t.rows.map fun r => (r.1, { r.2 with older := r.2.older.filter fun o => !s.released o.1 }) }) ∧
  (∀ (s : State) (p : Nat), s.released p = true ↔ p + 6 ≤ s.frame.num)

/-- A checkpoint pass starts in the commit window of a frame c with c mod CKPT_FRAMES = 0, over the rows changed since the
previous one started, and a pass without rows closes at once (R209); a capture not written by its deadline is dropped, its row
eligible again, or, in exact mode, kept, with the record of either (R217); ARRAY_LEAVE takes effect before its frame (R18). The events of
moves: an acceptance lets the source go on and a refusal stops the move with its record (R89); the flip makes, in the frame after the move's
last copy, the announcement of the new route (R90); and a finished rebuild announces its holding as in step, where no shadow takes it
(R397). -/
def Obligations.PassesAndMovesTakeEffect : Prop :=
  (∀ (slot : Nat) (h : Handle) (s : State) (t : Table), s.live = true → s.frame.committed = true → s.table? slot h = some t →
    0 < t.attr.ckpt → s.frame.num % t.attr.ckpt = 0 → t.pass = none → t.closed ≠ s.frame.num →
    exec (.checkpointPassStart slot h) s =
      .next (if t.changed.isEmpty then s.closePass slot h s.frame.num
        else s.mapTable slot h fun y => { y with pass := some (s.frame.num, y.changed), changed := [] })) ∧
  (∀ (slot : Nat) (h : Handle) (s : State) (t : Table), s.table? slot h = some t →
    (t.attr.ckpt = 0 ∨ s.frame.num % t.attr.ckpt ≠ 0 ∨ s.frame.committed = false) →
    exec (.checkpointPassStart slot h) s = .next s) ∧
  (∀ (slot : Nat) (h : Handle) (s : State), s.live = true → s.frame.committed = true →
    exec (.captureDeadline slot h) s = .next (s.captureMissed slot h)) ∧
  (∀ (slot : Nat) (h : Handle) (s : State) (t : Table) (c : Capture), s.table? slot h = some t → s.power.heldStarts = [] → s.frame.exact = false →
    t.captures = [c] → c.written = false →
    (s.frame.num < c.frame + 8 → s.captureMissed slot h = s) ∧
    (c.frame + 8 ≤ s.frame.num →
      s.captureMissed slot h =
        (s.mapTable slot h fun y => { y with captures := y.captures.filter (fun c' => c' != c), capElig := insNat c.row y.capElig }).faultRecord
          7 0 0 0)) ∧
  (∀ (slot : Nat) (h : Handle) (s : State) (t : Table) (c : Capture), s.table? slot h = some t → s.power.heldStarts = [] → s.frame.exact = true →
    t.captures = [c] → c.written = false → c.frame + 8 ≤ s.frame.num → s.captureMissed slot h = s.faultRecord 7 0 0 0) ∧
  (∀ (s : State) (a : Nat), s.live = true → s.frame.committed = true → s.frame.leave = some a →
    exec .arrayLeaveEffect s = .next (if a ≤ s.frame.num + 1 then s.leaveNow else s)) ∧
  (∀ (id : Nat) (s : State) (m : Mig), s.live = true → (s.migs.find? fun m => m.id == id && m.source && !m.accepted) = some m →
    exec (.migrationAcceptance id true) s =
      .next { s with migs := s.migs.map fun x => if x.id = m.id ∧ x.source = m.source then { x with accepted := true } else x } ∧
    exec (.migrationAcceptance id false) s = .next ((s.logMove m 1).dropMig m)) ∧
  (∀ (id : Nat) (s : State) (m : Mig), s.live = true → (s.migs.find? fun m => m.id == id && m.source) = some m →
    exec (.migrationFlip id) s = .next (s.flip m)) ∧
  (∀ (id : Nat) (s : State) (m : Mig), s.live = true → (s.migs.find? fun m => m.id == id && m.source && m.what == 3) = some m →
    exec (.rebuildComplete id) s = .next (s.flip m)) ∧
  (∀ (id : Nat) (s : State), (s.migs.find? fun m => m.id == id && m.source) = none →
    exec (.migrationFlip id) s = .next s ∧ exec (.rebuildComplete id) s = .next s) ∧
  (∀ (s : State) (m : Mig) (c : Nat), m.ended = some c → m.source = true → s.frame.num = c + 1 →
    (m.what = 3 → s.mirrorTo m.dest = none →
      s.flip m = s.announceAll [.holding s.frame.logicalId m.dest m.slot m.object m.number 0]) ∧
    (m.what = 3 → (s.mirrorTo m.dest).isSome → s.flip m = s) ∧
    (m.what ≠ 3 → s.flip m = s.announceAll (s.moveEntries m fun e => entryMoved e m.role m.dest))) ∧
  (∀ (s : State) (m : Mig), (∀ c, m.ended = some c → s.frame.num ≠ c + 1) → s.flip m = s)

/-! ### The fabric -/

/-- A packet received: on a port that is down, or in OFF-READY, nothing; one whose CRC fails or whose header is bad is discarded and
counted, one whose tag fails is discarded; every other one is acknowledged, once it is known a second copy does no more, and what is
for this node is mirrored where the node is shadowed (R409) and consumed, while the rest goes on with one hop less (R285 to R288, R312,
R313). -/
def Obligations.PacketsAreReceived : Prop :=
  (∀ (port : Nat) (p : Packet) (crcOk tagOk : Bool) (words : List (Nat × Nat)) (s : State), s.live = true →
    exec (.packetReceived port p crcOk tagOk words) s =
      .next ((s.receive port p crcOk tagOk words).settleMoved.installLate.replayNow.settleAll)) ∧
  (∀ (port : Nat) (p : Packet) (crcOk tagOk : Bool) (words : List (Nat × Nat)) (s : State),
    (s.portUp port = false ∨ 3 ≤ s.power.state → s.receive port p crcOk tagOk words = s) ∧
    (s.portUp port = true → s.power.state < 3 →
      (crcOk = false ∨ badHeader s.frame.logicalId p.hdr = true →
        s.receive port p crcOk tagOk words = s.crcFail port p.hdr.seq words) ∧
      (crcOk = true → badHeader s.frame.logicalId p.hdr = false →
        ((s.port port).encrypted = true → tagOk = false → s.receive port p crcOk tagOk words = s.authFail port p.hdr.seq) ∧
        ((s.port port).encrypted = false ∨ tagOk = true →
          (p.hdr.seq ∈ (s.port port).rxSeqs → s.receive port p crcOk tagOk words = s.emit (.acked port p.hdr.seq)) ∧
          (p.hdr.seq ∉ (s.port port).rxSeqs →
            let s2 := (s.emit (.acked port p.hdr.seq)).mapPort port fun x =>
              { x with rxSeqs := (x.rxSeqs ++ [p.hdr.seq]).drop (x.rxSeqs.length + 1 - 4096) }
            let h := { p.hdr with hops := p.hdr.hops - 1 }
            s.receive port p crcOk tagOk words =
              if p.hdr.dst = s.frame.logicalId ∨ p.hdr.dst = 0x3FF then (s2.mirrorPacket p).consume port p
              else s2.forwardPacket true { p with hdr := h })))))

/-- A negative acknowledgement and a retransmission timeout send the kept copy again, once and where the retry slot holds it;
a copy that has been sent again already, or does not fit, is lost and counted (R287). A request for groups sends the groups
that it names again, as a new packet on the port that sent the message, where the retry slot holds them (R309); a gate entry
opens its classes (R291 to R293); link control symbols retire the copies that they acknowledge and set the key and the side of
the nonces (R287, R312). -/
def Obligations.PortEventsTakeEffect : Prop :=
  (∀ (port seq : Nat) (s : State) (pk : Packet) (again nack : Bool), s.live = true →
      ((s.port port).kept.find? fun k => k.1.hdr.seq == seq) = some (pk, again, nack) →
      let n := wireBytes (s.port port).encrypted pk
      (again = true ∨ (s.port port).retryLeft < n →
        let t := s.mapPort port fun y => { y with overflow := y.overflow + 1, kept := y.kept.filter fun k => k.1.hdr.seq != seq }
        exec (.negativeAck port seq) s = .next t ∧ exec (.retransmitTimeout port seq) s = .next t) ∧
      (again = false → n ≤ (s.port port).retryLeft →
        let t := (s.mapPort port fun y =>
          { y with retries := y.retries + 1, retryLeft := y.retryLeft - n, nonce := if y.key.isSome then y.nonce + 1 else y.nonce,
                   kept := y.kept.map fun k => if k.1.hdr.seq = seq then (k.1, true, k.2.2) else k }).emit (.packet port pk)
        let r := if pk.hdr.node || pk.hdr.src != s.frame.logicalId then t else t.account pk.hdr.slot 5 n
        exec (.negativeAck port seq) s = .next r ∧ exec (.retransmitTimeout port seq) s = .next r)) ∧
  (∀ (port dst : Nat) (object : Handle) (gen : Nat) (groups : List Nat) (s : State), s.live = true →
    exec (.groupResendRequest port dst object gen groups) s = .next (s.resendGroups port dst object gen groups)) ∧
  (∀ (port dst : Nat) (object : Handle) (gen : Nat) (groups : List Nat) (s : State), (s.port port).palSent = [] →
    exec (.groupResendRequest port dst object gen groups) s = .next s) ∧
  (∀ (port n : Nat) (e : GateEntry) (s : State), s.live = true → (s.gateList port)[n]? = some e →
    exec (.gateEntryOpen port n) s = .next (s.gateOpen port e)) ∧
  (∀ (port : Nat) (e : GateEntry) (s : State), s.portUp port = false ∨ 3 ≤ s.power.state ∨ s.member.fenced = true →
    s.gateOpen port e = s) ∧
  (∀ (port : Nat) (acks : List Nat) (k : Option Nat) (partner : Nat) (s : State), s.live = true →
    exec (.linkControlSymbols port acks k partner) s =
      .next (s.mapPort port fun x =>
        { x with kept := x.kept.filter fun c => !acks.contains c.1.hdr.seq, partnerKey := k,
                 nonceSide := if partner < s.boot.uid then 1 else 0 }))

/-! ### Network time -/

/-- A time exchange keeps the partner's advertisement, sets the port's link delay and, on the upstream port, the offset and the lock:
locked after 64 consecutive exchanges within 2 ns, unlocked after 4 consecutive ones beyond 5 ns (R297, R298). The steer is a free
value within 0.1 ppm (log entry 2). -/
def Obligations.TimeExchanges : Prop :=
  (∀ (port t1 t2 t3 t4 pps prio gm hops : Nat) (s : State), s.live = true → s.power.state ≠ 4 →
    exec (.timeExchange port t1 t2 t3 t4 pps prio gm hops) s = .next (s.timeExchange port t1 t2 t3 t4 pps prio gm hops)) ∧
  (∀ (t : TimeSt) (off2 : Int),
    (off2.natAbs ≤ 4 → t.goodRun = 63 → (t.exchange off2).locked = true) ∧
    (off2.natAbs ≤ 4 → t.goodRun < 63 → (t.exchange off2).locked = t.locked ∧ (t.exchange off2).goodRun = t.goodRun + 1) ∧
    (4 < off2.natAbs → off2.natAbs ≤ 10 → (t.exchange off2).locked = t.locked ∧ (t.exchange off2).goodRun = 0) ∧
    (10 < off2.natAbs → t.badRun = 3 → (t.exchange off2).locked = false) ∧
    (10 < off2.natAbs → t.badRun < 3 → (t.exchange off2).locked = t.locked ∧ (t.exchange off2).badRun = t.badRun + 1)) ∧
  (∀ s : State, -((s.frame.len / 10 : Nat) : Int) ≤ s.steerFree.time.steer ∧ s.steerFree.time.steer ≤ (s.frame.len / 10 : Nat)) ∧
  (∀ (s : State) (n : TimeSt) (k : Nat), { s.steerFree with time := n, freeTick := k } = { s with time := n, freeTick := k })

/-- The grandmaster: a node that has not joined is its own; a joined one follows the best advertisement on an up port where that ranks
above its own. A lost advertisement and a PPS timeout select anew; PPS_LOCKED is set by 16 consecutive edges within 50 ns and
cleared by one beyond 1 µs (R297, R300). A node unlocked for too long suspects itself (R391). -/
def Obligations.GrandmasterSelection : Prop :=
  (∀ s : State, s.frame.joined = false → s.selectGm.time.isGm = true ∧ s.selectGm.time.gmId = s.frame.logicalId ∧
    s.selectGm.time.hops = 0) ∧
  (∀ (s : State) (a : Nat × Nat × Nat × Nat × Nat), s.frame.joined = true → bestAdvert s.goodAdverts = some a →
    rankLt (a.2.1, a.2.2.1, a.2.2.2.1) s.ownRank = true →
    s.selectGm.time.isGm = false ∧ s.selectGm.time.gmId = a.2.2.2.1 ∧ s.selectGm.time.hops = a.2.2.2.2 + 1 ∧
      s.selectGm.time.upPort = a.1) ∧
  (∀ s : State, s.live = true →
    let n := { s.time with adverts := s.time.adverts.filter fun a => a.2.2.2.1 != s.time.gmId, silent := 0 }
    let p := { s.time with ppsRun := 0, ppsLocked := false }
    exec .gmAdvertLoss s = .next (State.selectGm { s with time := n }) ∧ exec .ppsTimeout s = .next (State.selectGm { s with time := p })) ∧
  (∀ (off : Int) (s : State), s.live = true →
    let run := if off.natAbs ≤ 50 then s.time.ppsRun + 1 else 0
    let n := { s.time with ppsRun := run, ppsLocked := if 1000 < off.natAbs then false else if 16 ≤ run then true else s.time.ppsLocked }
    exec (.ppsInEdge off) s = .next ((if n.isGm then State.steerFree { s with time := n } else { s with time := n }).selectGm)) ∧
  (∀ s : State, s.live = true →
    exec .nodeUnlockedLimit s = .next (if s.time.locked then s else s.selfSuspect 13 s.frame.logicalId))

/-! ### Members -/

/-- The control slot counts the grandmaster's silence and puts out the node's time exchange on every up port; a node that has
joined also counts a miss for every up port that no heartbeat came on, judges, and puts out its heartbeat (R289, R300, R402,
R403). A heartbeat that fails its CRC, names another frame or comes from a fenced node is not taken; one that is valid clears
its sender's misses, sets its port's neighbour, its reports and orders are merged, new orders are logged (R406), and what it says of
itself, as suspect or as a shadow, is kept (R408). Of two orders of one failure of a place the one with the lower ISSUER prevails (R406; that
effect frames within 16 frames are of one failure is the model's reading, log entry 96). -/
def Obligations.ControlSlotsAndHeartbeats : Prop :=
  (∀ s : State, s.live = true → exec .controlSlot s = .next s.controlSlot) ∧
  (∀ s : State, s.frame.joined = false →
    let n := { s.time with silent := s.time.silent + 1 }
    s.controlSlot = ((List.range 8).filter s.portUp).foldl (fun acc p => acc.emit (.timeSync p (if s.time.ppsLocked then 0 else 1)
      s.time.priority s.time.gmId s.time.hops)) ({ s with time := n } : State)) ∧
  (∀ (port : Nat) (hb : Heartbeat) (b : Bool) (s : State),
    b = false ∨ hb.frame ≠ s.frame.num ∨ hb.fenced = true ∨ s.frame.joined = false → exec (.ullaHeartbeat port hb b) s = .next s) ∧
  (∀ (hb : Heartbeat) (b : Bool) (s : State), s.validBeat hb b = true ↔ b = true ∧ hb.frame = s.frame.num ∧ hb.fenced = false ∧
    (hb.entryDigest = s.activeDigest ∨ (∃ a d, s.easel.arm = some (a, d) ∧ a ≤ s.frame.num + 2 ∧ s.frame.num ≤ a + 1) ∨
      ∃ a, s.easel.lastA = some a ∧ a ≤ s.frame.num + 2 ∧ s.frame.num ≤ a + 1)) ∧
  (∀ (port : Nat) (hb : Heartbeat) (s : State), s.live = true → s.frame.joined = true → s.validBeat hb true = true →
    let said := s.member.selfSaid.filter fun p => p.1 != hb.sender
    let target := match s.member.shadow with
      | some sh => if sh.target = hb.sender then some hb.frameDigest else s.member.targetDigest
      | none => s.member.targetDigest
    let m := { s.member with miss := tdel s.member.miss hb.sender, heard := insNat port s.member.heard,
                             reports := hb.reports.foldl mergeReport s.member.reports,
                             orders := hb.orders.foldl mergeOrder s.member.orders, targetDigest := target,
                             selfSaid := if hb.selfSuspect then said ++ [(hb.sender, s.frame.num)] else said }
    let t : State := { s.mapPort port fun p => { p with neighbour := hb.sender } with member := m }
    exec (.ullaHeartbeat port hb true) s =
      .next (((m.orders.filter fun o => !s.member.orders.contains o).foldl State.logOrder t).seenShadow port hb).judge) ∧
  (∀ (port n : Nat) (s : State), s.live = true → s.partner port = some n → 3 ≤ tgetD s.member.miss n 0 →
    (s.member.reports.any fun r => r.witness == s.frame.logicalId && r.missing == n) = false →
    let m := { s.member with reports := s.member.reports ++
      [{ witness := s.frame.logicalId, missing := n, frame := s.frame.num % 2 ^ 32 }] }
    exec (.missReport port) s = .next (State.judge { s with member := m })) ∧
  (∀ (l : List Order) (o x : Order), o.kind = 1 → (l.find? fun y => (y.kind == 1 || y.kind == 5) && y.subject == o.subject) = some x →
    o ∉ l → x.frame < o.frame + 16 → o.frame < x.frame + 16 →
    mergeOrder l o = if o.issuer < x.issuer then (l.filter fun y => y != x) ++ [o] else l)

/-- What members tell each other is kept once: acknowledgements (R395), receipts (R396), announcements until step 4 of the
commit window of their frame, those of a frame whose window has passed installed at once (the model's choice, log entry 40); a
durability report counts for the command of this home alone (R209). Orders: every order whose frame has come is installed at
step 4 of the commit window (R406); the leader rolls a takeover back when no CONFIRM came in time (R407); a shadow that has
passed is ready (R409). -/
def Obligations.MemberEventsTakeEffect : Prop :=
  (∀ (owner slot : Nat) (h : Handle) (region frame : Nat) (s : State), s.live = true →
    let a : Ack := { owner := owner, slot := slot, object := h, region := region, frame := frame }
    let m := { s.member with acks := s.member.acks ++ [a] }
    exec (.replicaAcknowledgement owner slot h region frame) s = .next (if a ∈ s.member.acks then s else { s with member := m })) ∧
  (∀ (owner slot : Nat) (h : Handle) (region frame : Nat) (cs : List (Nat × Nat)) (d : Nat) (s : State), s.live = true →
    let r : Receipt := { owner := owner, slot := slot, object := h, region := region, frame := frame, counts := cs, digest := d }
    let m := { s.member with receipts := s.member.receipts ++ [r] }
    exec (.replicaReceipt owner slot h region frame cs d) s = .next (if r ∈ s.member.receipts then s else { s with member := m })) ∧
  (∀ (frame : Nat) (a : Announce) (s : State), s.live = true → (frame, a) ∉ s.member.announced →
    let m := { s.member with announced := s.member.announced ++ [(frame, a)] }
    exec (.announcement frame a) s = .next (State.installLate { s with member := m })) ∧
  (∀ (home seq owner : Nat) (s : State), s.live = true →
    exec (.durabilityReport home seq owner) s =
      .next (if home = s.frame.logicalId then (s.accept (.durable home seq owner)).settleAll else s)) ∧
  (∀ s : State, s.live = true → exec .orderInstall s = .next s.installOrders) ∧
  (∀ (s : State) (sh : Shadow), s.live = true → s.member.shadow = some sh →
    let m := { s.member with shadow := some { sh with passed := true } }
    exec .shadowPassed s = .next (if s.frame.shadowFrames ≤ sh.clean then { s with member := m } else s)) ∧
  (∀ (subject : Nat) (s : State) (o : Order) (g : Nat × Nat × Nat), s.live = true →
    (s.member.orders.find? fun o => o.subject == subject && s.rollbackDue o) = some o → s.groupOf subject = some g →
    s.leaderOf g = some s.frame.logicalId → s.member.fenced = false →
    exec (.rollback subject) s =
      .next (s.issue { kind := 2, subject := subject, phys := o.phys, issuer := s.frame.logicalId,
                       frame := o.frame + s.holdFrames + 32 })) ∧
  (∀ (subject : Nat) (s : State), (∀ o ∈ s.member.orders, o.subject = subject → o.kind ≠ 1) → exec (.rollback subject) s = .next s)

/-! ### The stacks -/

/-- A near-bank row step on open rows writes its 1 KiB row and that row's twin with the operation's result, byte by byte, and
leaves every other byte of memory, and everything else, as it was (R227, R229). A step that names a row outside the open
units, other than the allocator's INIT of a zeroing unit, does nothing to memory: it is counted and logged with its operation
and row, and the node suspects itself (R229, R391). Rows that do not lie in one bank pair have no unit that could combine them: there is no
such step, and the command does nothing (R227; the model's reading, log entry 97). -/
def Obligations.NearBankSteps : Prop :=
  (∀ (op : NbOp) (a b r : Nat) (al : Bool) (s : State), s.live = true → oneUnit (nbRows op a b r) = true →
    (∀ x ∈ nbRows op a b r, ∃ n, s.unitKind (daUnit x) = .opened n) →
    ∃ m, exec (.nearBankRowStep op a b r al) s = .next { s with dram := { s.dram with mem := m } } ∧
      (∀ d, (d < rowOf r ∨ rowOf r + 1024 ≤ d) → (d < rowOf (twinOf r) ∨ rowOf (twinOf r) + 1024 ≤ d) →
        memRead m d = memRead s.dram.mem d) ∧
      (∀ i < 1024,
        memRead m (rowOf r + i) = nbByte op (memRead s.dram.mem (rowOf a + i)) (memRead s.dram.mem (rowOf b + i)) i) ∧
      ((∀ x ∈ nbRows op a b r, rowOf (twinOf x) ≠ rowOf r) → ∀ i < 1024,
        memRead m (rowOf (twinOf r) + i) =
          nbByte op (memRead s.dram.mem (rowOf (twinOf a) + i)) (memRead s.dram.mem (rowOf (twinOf b) + i)) i)) ∧
  (∀ (p : BitVec 64) (r : Nat) (s : State), s.live = true → s.unitKind (daUnit r) = .zeroing →
    ∃ m, exec (.nearBankRowStep (.init p) 0 0 r true) s = .next { s with dram := { s.dram with mem := m } } ∧
      (∀ d, d < rowOf r ∨ rowOf r + 1024 ≤ d → memRead m d = memRead s.dram.mem d) ∧
      (∀ i < 1024, memRead m (rowOf r + i) = BitVec.ofNat 8 (p.toNat / 2 ^ (8 * (i % 8))))) ∧
  (∀ (op : NbOp) (a b r x : Nat) (s : State), s.live = true → oneUnit (nbRows op a b r) = true →
      ((nbRows op a b r).find? fun x => match s.unitKind (daUnit x) with | .opened _ => false | _ => true) = some x →
      exec (.nearBankRowStep op a b r false) s = .next (s.nbRefuse (nbCode op) x) ∧
      (s.nbRefuse (nbCode op) x).dram.mem = s.dram.mem ∧
      (s.nbRefuse (nbCode op) x).dram.nbRefused = s.dram.nbRefused + 1 ∧
      (s.nbRefuse (nbCode op) x).dram.nbLog = s.dram.nbLog ++ [(nbCode op, x)]) ∧
  (∀ (op : NbOp) (a b r : Nat) (al : Bool) (s : State), oneUnit (nbRows op a b r) = false →
    exec (.nearBankRowStep op a b r al) s = .next s) ∧
  (∀ a b r : Nat, oneUnit [a, b, r] = true ↔ daStack b = daStack a ∧ daStack r = daStack a ∧ daPseudo b = daPseudo a ∧
    daPseudo r = daPseudo a ∧ daBank b / 2 = daBank a / 2 ∧ daBank r / 2 = daBank a / 2)

/-- A zeroing unit that has been zeroed is FREE and reads zero, and every byte of another unit reads as before; a unit that is
not zeroing is left alone (R226). Patrol scrub visits the rows in ascending DA, round the part's units: it does nothing at a row that is not
the next, and goes on past every one that it visits; corrections are added up for the frame's event and recorded, twins that differ make
their chunk suspect, an uncorrectable word is lost, logged, and keeps a FREE unit out of allocation, and a zeroing unit is skipped (R236,
R238). -/
def Obligations.ZeroingAndScrub : Prop :=
  (∀ (u : Nat) (s : State), s.live = true → s.unitKind u = .zeroing →
    exec (.unitZeroed u) s =
      .next (State.setKinds { s with dram := { s.dram with mem := zeroUnits s.dram.mem [u] } } [u] .free)) ∧
  (∀ (m : List Host.Cell) (u d : Nat), memRead (zeroUnits m [u]) d = if daUnit d = u then 0 else memRead m d) ∧
  (∀ (u : Nat) (s : State), s.unitKind u ≠ .zeroing → exec (.unitZeroed u) s = .next s) ∧
  (∀ (s : State) (da : Nat), s.nextScrub da = if s.totalUnits * 2 ^ 28 ≤ da + 1024 then 0 else da + 1024) ∧
  (∀ (da : Nat) (o : ScrubOutcome) (s : State), rowOf da ≠ s.dram.scrubAt → exec (.patrolScrub da o) s = .next s) ∧
  (∀ (da : Nat) (o : ScrubOutcome) (s : State), s.live = true → rowOf da = s.dram.scrubAt →
    exec (.patrolScrub da o) s = .next ((s.scrubPast (rowOf da)).scrubRow da o)) ∧
  (∀ (da : Nat) (s : State), let d := { s.dram with scrubAt := s.nextScrub da }
    s.scrubPast da = { s with dram := d }) ∧
  (∀ (da : Nat) (s : State),
    (∀ n, s.unitKind (daUnit da) = .opened n → s.scrubRow da .twinsDiffer = s.twinMismatch (firstTwin da)) ∧
    ((∀ n, s.unitKind (daUnit da) ≠ .opened n) → s.unitKind (daUnit da) ≠ .zeroing →
      (∀ n : Nat, let e := { s.dram with corrected := s.dram.corrected + n }
        s.scrubRow da (.corrected n) = State.faultRecord { s with dram := e } 4 da 0 0) ∧
      (s.unitKind (daUnit da) ≠ .free → s.scrubRow da .uncorrectable = s.wordLost da) ∧
      (s.unitKind (daUnit da) = .free → let e := { (s.wordLost da).dram with kept := insNat (daUnit da) (s.wordLost da).dram.kept }
        s.scrubRow da .uncorrectable = { s.wordLost da with dram := e })) ∧
    s.scrubRow da .sound = s ∧ (∀ o, s.unitKind (daUnit da) = .zeroing → s.scrubRow da o = s))

/-- An open byte written is written on both twins, 0x1000 apart, and nowhere else (R224); the bit of a row written in an open
bitmap reads back, on both twins, and no other row's bit changes (R225, R233). The usable offset o of unit u lies at DA u ×
2^28 + ⌊o ÷ 4,096⌋ × 8,192 + (o mod 4,096), and its twin lies at that DA + 0x1000 (R225, R224). -/
def Obligations.OpenMemory : Prop :=
  (∀ (m : List Host.Cell) (da d : Nat) (b : Byte),
    memRead (twinWrite m da b) d = if d = firstTwin da ∨ d = firstTwin da + 0x1000 then b else memRead m d) ∧
  (∀ (m : List Host.Cell) (us : List Nat) (r : Nat) (b : Bool), r < us.length * 2 ^ 30 →
    bitRead (bitWrite m us r b) us r = b ∧
    memRead (bitWrite m us r b) ((bitDa us r).1 + 0x1000) = memRead (bitWrite m us r b) (bitDa us r).1) ∧
  (∀ (m : List Host.Cell) (us : List Nat) (r q : Nat) (b : Bool), us.Nodup → r < us.length * 2 ^ 30 → q < us.length * 2 ^ 30 → q ≠ r →
    bitRead (bitWrite m us r b) us q = bitRead m us q) ∧
  (∀ u o : Nat, o < 2 ^ 27 →
      openDa u o = u * 2 ^ 28 + o / 4096 * 8192 + o % 4096 ∧ firstTwin (openDa u o) = openDa u o ∧
      twinOf (openDa u o) = openDa u o + 0x1000 ∧ twinOf (openDa u o + 0x1000) = openDa u o ∧ daUnit (openDa u o) = u)

/-! ### Flash -/

/-- Completions of flash reads and programs: the read, or the program, stands no more, its die's timeouts are forgotten, and
what the outcome brings is done; a completion of nothing that stands is nothing (R256, R267). An erase that ends well leaves
its block empty with one more erase, and retires it at PE_LIMIT; one that fails retires its block; a command that times out is
issued again, at the rate of the training, and the third time, or with failed training, its flash channel is retired (R268, R275, R276). -/
def Obligations.FlashEventsTakeEffect : Prop :=
  (∀ (id : Nat) (o : ReadOutcome) (s : State), s.live = true → exec (.flashReadComplete id o) s = .next (s.readDone id o)) ∧
  (∀ (id : Nat) (s : State) (r : FRead), (s.flash.reads.find? fun r => r.id == id) = some r →
    (s.readDone id .late).flash.reads = s.flash.reads.filter fun x => x.id != id) ∧
  (∀ (id : Nat) (s : State) (p : FProg), s.live = true → (s.flash.progs.find? fun p => p.id == id) = some p →
    let f := { s.flash with progs := s.flash.progs.filter (fun x => x.id != id),
                            timeouts := s.flash.timeouts.filter fun t => t.1 != p.die }
    exec (.flashProgramComplete id true) s = .next ((State.progDone { s with flash := f } p).mapFlash Flash.refresh) ∧
    exec (.flashProgramComplete id false) s = .next ((State.progFailed { s with flash := f } p).mapFlash Flash.refresh)) ∧
  (∀ (id : Nat) (o : ReadOutcome) (ok : Bool) (s : State), (∀ r ∈ s.flash.reads, r.id ≠ id) → (∀ p ∈ s.flash.progs, p.id ≠ id) →
    exec (.flashReadComplete id o) s = .next s ∧ exec (.flashProgramComplete id ok) s = .next s) ∧
  (∀ (die b : Nat) (s : State), s.live = true → s.flash.erasing.contains (die, b) = true →
    let f := { s.flash with erasing := s.flash.erasing.filter (· != (die, b)), eraseAt := tdel s.flash.eraseAt (blockKey die b),
                            timeouts := s.flash.timeouts.filter fun t => t.1 != die }
    let u : State := { s with flash := f }
    let t := (u.mapFlash fun x => Flash.releaseParity (x.erasedPages die b)).mapFlash fun x => x.mapBlock die b fun y =>
      { y with erases := y.erases + 1, reads := 0, next := 0, checked := [] }
    (t.flash.profile.peLimit ≤ (t.flash.block die b).erases →
      exec (.flashEraseComplete die b true) s = .next ((t.retireBlock die b 2).mapFlash Flash.refresh)) ∧
    ((t.flash.block die b).erases < t.flash.profile.peLimit →
      exec (.flashEraseComplete die b true) s = .next (t.mapFlash Flash.refresh)) ∧
    exec (.flashEraseComplete die b false) s = .next ((u.retireBlock die b 0).mapFlash Flash.refresh)) ∧
  (∀ (die b : Nat) (ok : Bool) (s : State), s.flash.erasing.contains (die, b) = false →
    exec (.flashEraseComplete die b ok) s = .next s) ∧
  (∀ (ch die rate : Nat) (s : State), s.live = true → s.flash.timeouts = [] →
    let f := { s.flash with timeouts := [(die, 1)], rates := tput s.flash.rates ch rate }
    exec (.flashCommandTimeout ch die (some rate)) s = .next (State.faultRecord { s with flash := f } 9 ch 0 0)) ∧
  (∀ (ch die : Nat) (rate : Option Nat) (s : State), s.live = true → s.flash.timeouts = [(die, 2)] →
    exec (.flashCommandTimeout ch die rate) s = .next (s.retireFlash ch 0)) ∧
  (∀ (ch die : Nat) (s : State), s.live = true → s.flash.timeouts = [] →
    exec (.flashCommandTimeout ch die none) s = .next (s.retireFlash ch 1)) ∧
  (∀ (ch cause : Nat) (s : State), hasBit s.flash.live ch = false → s.retireFlash ch cause = s)

/-! ### Starts and stops -/

/-- Which start the sequencer chooses when PWRGOOD rises (R432): recovery by BOOT_MODE 3 or after three failed golden starts;
the golden image by BOOT_MODE 2 or after three failed cold starts; a cold start by BOOT_MODE 1, after three failed warm
starts, or where the stop mark, a retention flag or the cause of the stop does not let the start be warm; else a warm start. A
sensor below 0 °C holds the start, with FAULT_N (R455), until the hold is released. The host port's registers are at their defaults while the start runs (R438). A start that fails counts for its kind,
keeps its cause for the next log, and is tried again at once with BOOT_MODE as 0 (R435, R452); START_TIME_LIMIT is cause 8. Recovery
is entered where the choice of R432 leads there, and asserts FAULT_N (R436). -/
def Obligations.StartsAreChosenAndCounted : Prop :=
  (∀ (m : Nat) (s : State), s.power.run = .off →
    let p := { s.power with plossN := false, want := none }
    let b := { s.boot with bootMode := m % 4 }
    let q := { p with run := .hold, faultN := true }
    exec (.pwrgoodRise m false) s = .next (State.chooseStart { s with power := p } (m % 4)) ∧
    exec (.pwrgoodRise m true) s = .next { s with power := q, boot := b }) ∧
  (∀ (m : Nat) (c : Bool) (s : State), s.power.run ≠ .off → exec (.pwrgoodRise m c) s = .next s) ∧
  (∀ (m : Nat) (s : State), (s.chooseStart m).mbs = [] ∧ (s.chooseStart m).aps = [] ∧ (s.chooseStart m).evRings = [] ∧
    (s.chooseStart m).host.vfs = 0 ∧ (s.chooseStart m).boot.bootMode = m) ∧
  (∀ s : State, s.power.run = .hold → exec .temperatureHoldRelease s = .next (s.chooseStart s.boot.bootMode)) ∧
  (∀ s : State, s.power.run ≠ .hold → exec .temperatureHoldRelease s = .next s) ∧
  (∀ (m : Nat) (s : State), m = 3 ∨ 3 ≤ s.boot.goldenFails →
    (s.chooseStart m).power.run = .recovery ∧ (s.chooseStart m).power.faultN = true) ∧
  (∀ (m : Nat) (s : State), m ≠ 3 → s.boot.goldenFails < 3 → (m = 2 ∨ 3 ≤ s.boot.coldFails) →
    (s.chooseStart m).power.run = .starting false ∧ (s.chooseStart m).boot.golden = true) ∧
  (∀ (m : Nat) (s : State), m ≠ 3 → m ≠ 2 → s.boot.goldenFails < 3 → s.boot.coldFails < 3 →
    (s.chooseStart m).boot.golden = false ∧ (s.chooseStart m).power.faultN = false ∧
    (m = 1 ∨ 3 ≤ s.boot.warmFails ∨ s.stopped = false ∨ s.boot.retention ≠ stackMask ∨ s.boot.startCold = true →
      (s.chooseStart m).power.run = .starting false) ∧
    (m ≠ 1 → s.boot.warmFails < 3 → s.stopped = true → s.boot.retention = stackMask → s.boot.startCold = false →
      (s.chooseStart m).power.run = .starting true)) ∧
  (∀ (c : Nat) (s : State), s.power.run = .starting true →
    let b := { s.boot with warmFails := s.boot.warmFails + 1, heldCauses := s.boot.heldCauses ++ [(0x08, c, 0)] }
    exec (.startFailure c) s = .next ((State.writeDevice { s with boot := b }).chooseStart 0)) ∧
  (∀ (c : Nat) (s : State), s.power.run = .starting false → s.boot.golden = false →
    let b := { s.boot with coldFails := s.boot.coldFails + 1, heldCauses := s.boot.heldCauses ++ [(0x08, c, 0)] }
    exec (.startFailure c) s = .next ((State.writeDevice { s with boot := b }).chooseStart 0)) ∧
  (∀ (c : Nat) (s : State), s.power.run = .starting false → s.boot.golden = true →
    let b := { s.boot with goldenFails := s.boot.goldenFails + 1, heldCauses := s.boot.heldCauses ++ [(0x08, c, 0)] }
    exec (.startFailure c) s = .next ((State.writeDevice { s with boot := b }).chooseStart 0)) ∧
  (∀ s : State, exec .startTimeLimit s = exec (.startFailure 8) s) ∧
  (∀ (c : Nat) (s : State), (∀ w, s.power.run ≠ .starting w) → exec (.startFailure c) s = .next s) ∧
  (∀ s : State, s.power.run = .recovery ∨ (s.isStarting = true ∧ (s.boot.bootMode = 3 ∨ 3 ≤ s.boot.goldenFails)) →
    let p := { s.power with run := .recovery, faultN := true, crs := false }
    exec .recovery s = .next { s with power := p })

/-- A start turns the regulator on (R413). A cold start whose steps find no fault restores what the flash map holds, or formats the flash where
none is found, and a warm start keeps the stacks; either way the node then runs: in ACTIVE, in frame 0 of its own numbering, with no easel,
no work and no queued change, its channels not attached, without keys or rings; graphs and palettes are lost at a cold start. One that finds
a fault fails with its cause (R433 to R439). -/
def Obligations.StartsReachReady : Prop :=
  (∀ (i : StartIn) (s : State), s.power.run = .starting false → s.coldFailure i = none →
    ∃ t, exec (.coldStart i) s = .next t ∧ t.live = true ∧ t.power.state = 0 ∧ t.frame.num = 0 ∧ t.easel.inForce = none ∧
      t.work = [] ∧ t.landings = [] ∧ t.changes = [] ∧ t.keys.pufEpoch = s.keys.pufEpoch + 1 ∧
      t.boot.warmFails = 0 ∧ t.boot.heldCauses = [] ∧ t.graphs = [] ∧ t.streams = [] ∧
      (∀ p ∈ t.chans, p.2.st ≠ .active ∧ p.2.key = none ∧ ∀ r ∈ p.2.rings, r = Ring.lost) ∧
      (i.mapFound = false → t.chans = [] ∧ t.indexes = [] ∧ t.tables = [] ∧ t.dram.mem = [])) ∧
  (∀ (i : StartIn) (s : State), s.power.run = .starting true → s.warmFailure i = none →
    ∃ t, exec (.warmStart i) s = .next t ∧ t.live = true ∧ t.power.state = 0 ∧ t.frame.num = 0 ∧ t.easel.inForce = none ∧
      t.work = [] ∧ t.landings = [] ∧ t.changes = [] ∧ t.dram.mem = s.dram.mem ∧ t.keys.pufEpoch = s.keys.pufEpoch ∧
      t.boot.warmFails = 0 ∧ t.boot.heldCauses = [] ∧ t.chans.map (·.1) = s.chans.map (·.1) ∧
      (∀ p ∈ t.chans, p.2.st ≠ .active ∧ p.2.key = none ∧ ∀ r ∈ p.2.rings, r = Ring.lost)) ∧
  (∀ (i : StartIn) (s : State) (c : Nat), s.power.run = .starting false → s.coldFailure i = some c →
    exec (.coldStart i) s = .next (s.regulatorOn.startFailed c)) ∧
  (∀ (i : StartIn) (s : State) (c : Nat), s.power.run = .starting true → s.warmFailure i = some c →
    exec (.warmStart i) s = .next (s.regulatorOn.startFailed c)) ∧
  (∀ s : State, s.regulatorOn = ((s.emit (.pmbus 0x01 1)).emit (.pmbus 0x20 0)).emit (.pmbus 0x27 1)) ∧
  (∀ (i : StartIn) (s : State), (∀ w, s.power.run ≠ .starting w) → exec (.coldStart i) s = .next s ∧ exec (.warmStart i) s = .next s)

/-- What stops the node: RESET_THRESHOLD and THERMTRIP_N stop it without a flush, one that still waited for the end of a dip among them, the
next start is cold and writes the record of the cause (R426, R427, R431); PLOSS_N stops it with its work discarded and the power-loss flush,
which waits for the end of a dip (R429 to R431), or stops a start; the fall of PWRGOOD turns it off, and the retention flags stand only
where the stacks refreshed themselves: in a stop whose flush, where it has one, has run, or in STANDBY and OFF-READY (the model's choice,
log entry 32). -/
def Obligations.StopsTakeEffect : Prop :=
  (∀ (mv sensor : Nat) (s : State), s.power.run ≠ .off → (s.power.run = .stopped → s.flushWaits = true) →
    let p := { s.power with run := .stopped, faultN := true, want := none }
    let q := { p with thermtripN := true }
    let b := { s.boot with startCold := true, retention := 0, heldCauses := s.boot.heldCauses ++ [(0x0E, 4, mv % 65536)] }
    let d := { s.boot with startCold := true, retention := 0, heldCauses := s.boot.heldCauses ++ [(0x0E, 5, sensor % 256)] }
    exec (.resetThreshold mv) s = .next { s with power := p, boot := b } ∧
    exec (.thermtripN sensor) s = .next { s with power := q, boot := d }) ∧
  (∀ (mv sensor : Nat) (s : State), s.power.run = .stopped → s.flushWaits = false →
    let p := { s.power with thermtripN := true }
    exec (.resetThreshold mv) s = .next s ∧ exec (.thermtripN sensor) s = .next { s with power := p }) ∧
  (∀ s : State, s.flushWaits = true ↔ ∃ f, s.power.want = some (7, f)) ∧
  (∀ s : State, s.live = true →
    let p := { s.power with run := .stopped, plossN := true }
    let t : State := { s with power := p, landings := [], work := [], ownerQs := [], scanParts := [], ownerFs := [], updIn := [],
                              heldUpd := [], staged := [], took := [] }
    let q := { p with want := some (7, s.frame.num) }
    (s.power.dip = none → exec .plossN s = .next t.plossFlush) ∧ (s.power.dip ≠ none → exec .plossN s = .next { t with power := q })) ∧
  (∀ s : State, s.isStarting = true ∨ s.power.run = .hold ∨ s.power.run = .recovery →
    let p := { s.power with run := .stopped, plossN := true }
    exec .plossN s = .next { s with power := p }) ∧
  (∀ s : State,
    let p := { s.power with run := .off, faultN := false, supplyWarnN := false, thermtripN := false, dip := none, dipTail := 0, want := none }
    let b := { s.boot with retention := 0 }
    exec .pwrgoodFall s = .next (if (s.power.run = .stopped ∧ s.flushWaits = false) ∨ 3 ≤ s.power.state then { s with power := p }
      else { s with power := p, boot := b }))

/-! ### Supply, temperature and power states -/

/-- A dip of the supply asserts SUPPLY_WARN and holds program and erase starts until 100 µs after its end (in whole frames:
the model's choice, log entry 28), when SUPPLY_WARN_EVENT gives the lowest voltage and the frames touched; a dip of three
frames is reported and logged, and every 4,096 frames after it reported again (R424, R425). A sensor above 105 °C raises
THERMAL_WARN (R427). The regulator: PMB_ALERT_N reads, logs and clears the status (R414); three failed transactions are logged and
freeze the energy scale until a retry succeeds (R358, R414); a calibration sets the scale of the next frame for the present
power state, between a half and two, and adds the leakage to the node's energy (R358); VOUT_SETTLED ends a change to
ACTIVE-LOW within 10 mV of VLOW (R418). -/
def Obligations.SupplyEventsTakeEffect : Prop :=
  (∀ (mv : Nat) (s : State), s.live = true → s.power.dip = none →
    let p := { s.power with dip := some (s.frame.num, mv), supplyWarnN := true }
    exec (.supplyDipStart mv) s = .next { s with power := p }) ∧
  (∀ (mv first low : Nat) (s : State), s.live = true → s.power.dip = some (first, low) → s.power.want = none →
    let p := { s.power with dip := none, dipTail := ceilDiv 100 (max 1 s.frame.len) }
    exec (.supplyDipStart mv) s = .next s ∧
    exec (.supplyDipEnd mv) s = .next { s.raiseNode 0x01 (min low mv) (s.frame.num + 1 - first) 0 with power := p }) ∧
  (∀ (mv first low : Nat) (s : State), s.live = true → s.power.dip = some (first, low) →
    let n := s.frame.num + 1 - first
    let p := { s.power with dip := some (first, min low mv) }
    let t : State := { s.raiseNode 0x01 (min low mv) n 0 with power := p }
    (n < 3 → exec (.supplyDipLong mv) s = .next s) ∧ (n = 3 → exec (.supplyDipLong mv) s = .next (t.logAdd 0x0E 0 0 6 n)) ∧
    (3 < n → n < 4099 → exec (.supplyDipLong mv) s = .next s) ∧ (n = 4099 → exec (.supplyDipLong mv) s = .next t)) ∧
  (∀ (sensor mC : Nat) (s : State), s.live = true → sensor < 28 →
    exec (.thermalWarn sensor mC) s = .next (if 105000 < mC then s.raiseNode 0x02 mC sensor 0 else s)) ∧
  (∀ (st : Nat) (s : State), s.live = true →
    exec (.pmbAlertN st) s = .next (((s.emit (.pmbus pmbStatus st)).logAdd 0x0E 0 0 2 (st % 65536)).emit (.pmbus pmbClear 0))) ∧
  (∀ (c : Nat) (s : State), s.live = true → s.power.pmbusOk = true →
    let p := { s.power with pmbusOk := false }
    exec (.pmbusFailure c) s = .next (State.logAdd { s with power := p } 0x0E 0 0 1 (c % 256)) ∧ exec (.pmbusRetry true) s = .next s) ∧
  (∀ (ok : Bool) (c a b d : Nat) (s : State), s.live = true → s.power.pmbusOk = false →
    let p := { s.power with pmbusOk := ok }
    exec (.pmbusFailure c) s = .next s ∧ exec (.energyCalibration a b d) s = .next s ∧
      exec (.pmbusRetry ok) s = .next { s with power := p }) ∧
  (∀ (meas leak model : Nat) (s : State), s.live = true → s.power.pmbusOk = true → 0 < model →
    let p := { s.power with kNext := some (s.power.state, min 2048 (max 512 ((2048 * (meas - leak) + model) / (2 * model)))) }
    let a := { s.nodeAcct with cnt := setAt s.nodeAcct.cnt 7 fun n => (n + leak) % 2 ^ 64 }
    exec (.energyCalibration meas leak model) s = .next { s with power := p, nodeAcct := a }) ∧
  (∀ (meas leak model free : Nat), 512 ≤ scaleOf meas leak model free ∧ scaleOf meas leak model free ≤ 2048) ∧
  (∀ (mv x : Nat) (s : State), s.live = true → s.power.want = some (1, x) →
    let p := { s.power with vout := mv }
    let q := { s.power with vout := mv, want := none }
    (s.power.state = 1 → mv ≤ s.power.vlow + 10 → s.power.vlow ≤ mv + 10 →
      exec (.voutSettled mv) s = .next (State.powerEnd { s with power := q })) ∧
    (s.power.vlow + 10 < mv ∨ mv + 10 < s.power.vlow → exec (.voutSettled mv) s = .next { s with power := p }))

/-- STANDBY is entered in a commit window from the eighth after its acceptance, once everything is programmed; its exit trains the ports and the live flash channels and resumes windows
and admission at the first hyperframe boundary at least a frame later; the flush to OFF-READY runs when the node has drained (R39,
R418 to R420). -/
def Obligations.StandbyAndOffReady : Prop :=
  (∀ (x : Nat) (s : State), s.live = true → s.frame.committed = true → s.power.want = some (3, x) → x + 8 ≤ s.frame.num →
    s.programmed = true →
    let p := { s.power with state := 3, want := none }
    exec .standbyEntry s = .next (((State.unpowered { s with power := p }).selfRefresh).setpoint 750).powerEnd) ∧
  (∀ (x : Nat) (s : State), s.power.want = some (3, x) → s.frame.num < x + 8 → exec .standbyEntry s = .next s) ∧
  (∀ (lanes : List Nat) (train : List (Nat × Option Nat)) (st x : Nat) (s : State), s.live = true → s.power.want = some (st, x) →
    s.power.state = 3 → st < 3 →
    let p := { s.power with state := st, want := none, drainFrom := none }
    let f := s.hyperFrom (s.frame.num + 1)
    let e := { s.easel with resume := f }
    let g := { s.frame with admitFrom := max s.frame.admitFrom f }
    let t : State := { s with power := p, ports := trainPorts s.ports lanes, easel := e, frame := g }
    exec (.standbyExit ⟨lanes, train⟩) s =
      .next (((if st = 1 then t.setpoint s.power.vlow else t).trainFlash (train.filter fun c => hasBit s.flash.live c.1)).powerEnd)) ∧
  (∀ (x : Nat) (s : State), s.live = true → s.power.want = some (4, x) → s.drained x = true →
    exec .offReadyFlush s =
      .next ((((s.flush true 1).mapPower fun p => { p with state := 4, want := none }).unpowered.setpoint 750).powerEnd)) ∧
  (∀ (x : Nat) (s : State), s.power.want = some (4, x) → s.drained x = false → exec .offReadyFlush s = .next s)

/-! ### The host port and the security processor's ends -/

/-- PERST and the loss of the host link queue the detach of every channel for the next commit window and drop the IDE keys, PERST with the
registers of every function at their defaults; a function-level reset queues the detach of the function's channels and puts its registers
at their defaults; NUMVFS disables the functions above it; all this in recovery and during a start too, where the host port answers (R10,
R316, R334, R383, R438, R450). PERST released and the link's training are noted. -/
def Obligations.HostPortEvents : Prop :=
  (∀ s : State,
    let l := s.changes ++ (s.chans.filter fun _ => true).map fun p => ChanChange.detach p.1
    let p := { s.power with perst := true }
    let t := (List.range 64).foldl State.resetFn { s with power := p, changes := l }
    let h := { t.host with vfs := 0, linkUp := false }
    let y := { t.keys with ide := [] }
    let h2 := { s.host with linkUp := false }
    let y2 := { s.keys with ide := [] }
    (s.answers = true → exec .perst s = .next { t with host := h, keys := y } ∧
      exec .hostLinkDown s = .next { s with changes := l, host := h2, keys := y2 }) ∧
    (s.answers = false → exec .perst s = .next { s with power := p } ∧ exec .hostLinkDown s = .next s)) ∧
  (∀ (fn : Nat) (s : State), s.answers = true →
    let l := s.changes ++ (s.chans.filter fun p => p.2.fn == fn).map fun p => ChanChange.detach p.1
    exec (.functionLevelReset fn) s = .next (State.resetFn { s with changes := l } fn)) ∧
  (∀ (n : Nat) (s : State), s.answers = true → n ≤ 63 →
    let l := s.changes ++ (s.chans.filter fun p => decide (n < p.2.fn)).map fun p => ChanChange.detach p.1
    let h := { s.host with vfs := n }
    exec (.numvfsChange n) s = .next { s with changes := l, host := h }) ∧
  (∀ (w r : Nat) (s : State), w ∈ [8, 4, 2, 1] → r ∈ [128, 64, 32, 16] →
    let h := { s.host with linkUp := true, width := w, rate := r }
    exec (.hostLinkUp w r) s = .next { s with host := h }) ∧
  (∀ s : State,
    let c := match s.power.run with | .ready | .recovery | .stopped => false | _ => true
    let p := { s.power with perst := false, crs := c }
    exec .pePerstNDeassert s = .next { s with power := p }) ∧
  (∀ (s : State) (fn : Nat), let t := s.resetFn fn
    t.mb fn = Mailbox.zero ∧ t.ap fn = Aperture.zero ∧ t.evRing fn = EvRing.zero ∧ tget t.host.fnDiscards fn = none ∧
      t.chans = s.chans ∧ t.frame.num = s.frame.num ∧
      ∀ g, g ≠ fn → t.mb g = s.mb g ∧ t.ap g = s.ap g ∧ t.evRing g = s.evRing g ∧ tget t.host.fnDiscards g = tget s.host.fnDiscards g)

/-- The end of FW_STAGE's work verifies the staged image or drops it, with its record (R370); a retention flag cleared is the stack's
alone (R421). -/
def Obligations.ImageAndRetention : Prop :=
  (∀ (ok : Bool) (s : State) (f : FwImage), s.boot.staged = some f → f.verified = false →
    let b := { s.boot with staged := if ok && f.good then some { f with verified := true } else none }
    exec (.fwStageEnd ok) s = .next (State.logAdd { s with boot := b } 0x0A 0 0 f.version (if ok && f.good then stOk else stInvalid))) ∧
  (∀ (ok : Bool) (s : State), s.boot.staged = none → exec (.fwStageEnd ok) s = .next s) ∧
  (∀ (n : Nat) (s : State),
    let b := { s.boot with retention := clearBit s.boot.retention n }
    exec (.retentionFlagClear n) s = .next { s with boot := b }) ∧
  (∀ m n i : Nat, hasBit (clearBit m n) i = (hasBit m i && i != n))

/-! ### Rules of numbers and selection -/

/-- Normalisation: −0.0 becomes +0.0, a NaN becomes +infinity, and every other score, the infinities among them, is kept (R122). The
order key of a normalised score is its pattern with bit 31 inverted where that is 0, else the pattern's complement; order keys compare
as the scores do, and lie from 0x007F_FFFF to 0xFF80_0000 (R148). -/
def Obligations.ScoresAreOrdered : Prop :=
  (∀ x : F32, normScore x = if isNan x then 0x7F800000 else if x = 0x80000000 then 0 else x) ∧
  (∀ x : F32, BitVec.ofNat 32 (orderKey x) =
    if (normScore x).getMsbD 0 = false then normScore x ^^^ 0x80000000 else ~~~ normScore x) ∧
  (∀ x y : F32, orderKey x < orderKey y ↔ flt (normScore x) (normScore y) = true) ∧
  (∀ x : F32, 0x007FFFFF ≤ orderKey x ∧ orderKey x ≤ 0xFF800000)

/-- The capacities of R56 at FRAME_LEN of 200 µs and above; below 200 µs each but the read units is ⌊capacity × FRAME_LEN ÷ 200 ÷ 16⌋
× 16 (R57), and the read units are 16 × DIES, below 200 µs ⌊16 × FRAME_LEN ÷ 200⌋ × DIES (R272). -/
def Obligations.CapacitiesOfAFrame : Prop :=
  ∀ s : State,
    (200 ≤ s.frame.len → s.caps = [8192, 65536, 2048, 65536, 262144, 16 * s.flash.dies]) ∧
    (s.frame.len < 200 → s.caps =
      [8192 * s.frame.len / 200 / 16 * 16, 65536 * s.frame.len / 200 / 16 * 16, 2048 * s.frame.len / 200 / 16 * 16,
       65536 * s.frame.len / 200 / 16 * 16, 262144 * s.frame.len / 200 / 16 * 16, 16 * s.frame.len / 200 * s.flash.dies])

/-- What a core keeps by the batches of R153 is exactly the KC smallest words that it was offered, in ascending order: no more than KC
words, every offered word once as often as it was offered, and none left out that is smaller than one kept. The words are comparison
words (R149), which stay below the threshold of an empty list. -/
def Obligations.KeepListsHoldTheSmallest : Prop :=
  ∀ (n : Nat) (ws : List Nat), 0 < n → (∀ w ∈ ws, w < 0xFFFFFFFFFFFFFFFF) →
    let k := keepList (min n 64) ws
    k = bestWords (min n 64) ws ∧ k.length = min (min n 64) ws.length ∧ k.Pairwise (· ≤ ·) ∧
      ∃ rest, (k ++ rest).Perm ws ∧ ∀ a ∈ k, ∀ b ∈ rest, a ≤ b

/-- A cut with collapse keeps at most n entries, one of each item key; of the entries with one key no other is better than the one that
stays (R164), every input key stays before the cut, and what is cut off is not before what is kept (R161). -/
def Obligations.CutsCollapseDuplicates : Prop :=
  ∀ (graph : Bool) (n : Nat) (es ties : List Cand),
    (cut graph n es ties).1 = (collapse graph es).take n ∧
    ((collapse graph es).map (·.key)).Nodup ∧
    (∀ c ∈ collapse graph es, c ∈ es) ∧
    (∀ e ∈ es, ∃ c ∈ collapse graph es, c.key = e.key ∧ candBetter graph e c = false)

/-- A channel's fault takes it to FAULTED, and the fourth counted within 65,536 frames to RETIRED (R362); the completion ring's tail goes
on by one and the phase inverts at each wrap (R342). -/
def Obligations.FaultsAndRings : Prop :=
  (∀ (c : Chan) (f cause : Nat) (dead : List Nat),
    ((c.recentFaults f).length < 4 → (c.afterFault f cause dead).st = .faulted) ∧
    (4 ≤ (c.recentFaults f).length → (c.afterFault f cause dead).st = .retired) ∧
    (c.afterFault f cause dead).lastCause = cause ∧ (c.afterFault f cause dead).faults = min (c.faults + 1) 0xFFFF) ∧
  (∀ (c : Chan) (f a b d : Nat), c.faultAt = [a, b, d] → f < a + 65536 → f < b + 65536 → f < d + 65536 →
    4 ≤ (c.recentFaults f).length) ∧
  (∀ (c : Chan) (f a b d : Nat), c.faultAt = [a, b, d] → a + 65536 ≤ f → (c.recentFaults f).length < 4) ∧
  (∀ r : Ring, r.cqTail < 2 ^ r.log2 →
    (r.cqTail + 1 < 2 ^ r.log2 → r.advance.cqTail = r.cqTail + 1 ∧ r.advance.phase = r.phase) ∧
    (r.cqTail + 1 = 2 ^ r.log2 → r.advance.cqTail = 0 ∧ r.advance.phase = !r.phase) ∧ r.advance.unread = r.unread + 1)

/-- Where the sum of ROWS_RESERVED over all indexes of the node would exceed 3 × 2^30, INDEX_CREATE is refused with INVALID, and no index
is made (R64). -/
def Obligations.IndexRowsAreLimited : Prop :=
  ∀ (g : Go) (s : State) (slot : Nat) (c : Chan), s.takesGo g → decideRows [inv [g.strayArgs []]] = none →
    s.chanOf g.fn g.chan = some (slot, c) → c.st ≠ .retired → decideRows (g.pbRows 64) = none →
    3 * 2 ^ 30 < s.rowsReserved + (indexAttrOf g.pb).rows →
    ∃ t r, exec (.indexCreate g) s = .next (s.answered t 0x30 g r) ∧ r.status = stInvalid ∧ t.indexes = s.indexes
end

