-- ==== Sys2Proof/Laws/Bytes.lean ====
section
/-! SUPPORT. What the byte and table operations do, once. -/

namespace Sys2Proof.Machine

@[simp] theorem toLe_length (n w : Nat) : (toLe n w).length = n := by
  induction n generalizing w with
  | zero => rfl
  | succ n ih => simp [toLe, ih]

theorem le_toLe (n w : Nat) : le (toLe n w) = w % 256 ^ n := by
  induction n generalizing w with
  | zero => simp [toLe, le, Nat.mod_one]
  | succ n ih =>
    simp only [toLe, le, ih, BitVec.toNat_ofNat]
    have h : (256 : Nat) ^ (n + 1) = 256 * 256 ^ n := by rw [Nat.pow_succ, Nat.mul_comm]
    rw [h, Nat.mod_mul]

@[simp] theorem tget_tput_same {α : Type} (t : Tbl α) (k : Nat) (v : α) : tget (tput t k v) k = some v := by
  induction t with
  | nil => simp [tput, tget]
  | cons p r ih =>
    obtain ⟨j, w⟩ := p
    simp only [tput]
    split
    · simp [tget]
    · split
      · simp [tget]
      · rename_i h1 h2
        have : ¬ j = k := fun h => h2 h.symm
        simp [tget, this, ih]

@[simp] theorem tget_tput_other {α : Type} (t : Tbl α) (k j : Nat) (v : α) (h : j ≠ k) :
    tget (tput t k v) j = tget t j := by
  induction t with
  | nil => simp [tput, tget, Ne.symm h]
  | cons p r ih =>
    obtain ⟨i, w⟩ := p
    simp only [tput]
    split
    · simp [tget, Ne.symm h]
    · split
      · rename_i h2; subst h2; simp [tget, Ne.symm h]
      · simp only [tget, ih]

@[simp] theorem tget_tdel_same {α : Type} (t : Tbl α) (k : Nat) : tget (tdel t k) k = none := by
  induction t with
  | nil => rfl
  | cons p r ih =>
    obtain ⟨i, w⟩ := p
    simp only [tdel, List.filter_cons] at ih ⊢
    split
    · rename_i h
      have : ¬ i = k := by simpa using h
      simp [tget, this, ih]
    · exact ih

@[simp] theorem tget_tdel_other {α : Type} (t : Tbl α) (k j : Nat) (h : j ≠ k) : tget (tdel t k) j = tget t j := by
  induction t with
  | nil => rfl
  | cons p r ih =>
    obtain ⟨i, w⟩ := p
    simp only [tdel, List.filter_cons] at ih ⊢
    split
    · simp [tget, ih]
    · rename_i hk
      have hi : i = k := by simpa using hk
      subst hi
      simp [tget, Ne.symm h, ih]

theorem tgetD_tput_same {α : Type} (t : Tbl α) (k : Nat) (v d : α) : tgetD (tput t k v) k d = v := by
  simp [tgetD]

theorem tget_tmap_some {α : Type} (t : Tbl α) (k : Nat) (f : α → α) (v : α) (h : tget t k = some v) :
    tget (tmap t k f) k = some (f v) := by
  simp [tmap, h]

theorem tget_tmap_other {α : Type} (t : Tbl α) (k j : Nat) (f : α → α) (h : j ≠ k) :
    tget (tmap t k f) j = tget t j := by
  unfold tmap
  split
  · exact tget_tput_other t k j _ h
  · rfl

end Sys2Proof.Machine
end

