-- ==== Sys2Proof/Laws/Calm.lean ====
section
/-! SUPPORT. What no window touches: `Calm` is said of one state, so that one lemma per operation carries it. -/

namespace Sys2Proof.Machine

/-- The parts of a state that `Calm` speaks of. -/
def CalmOf (k : EaselSt × Tbl Mailbox × Tbl EvRing × Tbl Aperture × TimeSt × Keys × Boot × HostPort × Tbl Histo × Tbl Graph × Units × Nat)
    (e : EaselSt) (m : Tbl Mailbox) (v : Tbl EvRing) (a : Tbl Aperture) (t : TimeSt) (y : Keys) (b : Boot) (h : HostPort)
    (o : Tbl Histo) (g : Tbl Graph) (u : Units) (n : Nat) : Prop :=
  (e, m, v, a, t, y, b, h, o, g, u, n) = k

variable {k : EaselSt × Tbl Mailbox × Tbl EvRing × Tbl Aperture × TimeSt × Keys × Boot × HostPort × Tbl Histo × Tbl Graph × Units × Nat}

/-- The control state is `k`. -/
def Calm (k : EaselSt × Tbl Mailbox × Tbl EvRing × Tbl Aperture × TimeSt × Keys × Boot × HostPort × Tbl Histo × Tbl Graph × Units × Nat)
    (t : State) : Prop :=
  CalmOf k t.easel t.mbs t.evRings t.aps t.time t.keys t.boot t.host t.histos t.graphs t.units t.frame.num

theorem calm_of {t : State} (h : CalmOf k t.easel t.mbs t.evRings t.aps t.time t.keys t.boot t.host t.histos t.graphs t.units t.frame.num) :
    Calm k t := h

theorem calm_to {t : State} (h : Calm k t) :
    CalmOf k t.easel t.mbs t.evRings t.aps t.time t.keys t.boot t.host t.histos t.graphs t.units t.frame.num := h

theorem calm_ite {c : Prop} [Decidable c] {a b : State} (h1 : Calm k a) (h2 : Calm k b) : Calm k (if c then a else b) := by
  split <;> assumption

theorem calm_foldl {α : Type} {f : State → α → State} {s : State} {l : List α} (hs : Calm k s)
    (hf : ∀ a x, Calm k a → Calm k (f a x)) : Calm k (l.foldl f s) := by
  induction l generalizing s with
  | nil => exact hs
  | cons x r ih => exact ih (hf s x hs)

theorem calm_foldl1 {α β : Type} {f : State × β → α → State × β} {s : State × β} {l : List α} (hs : Calm k s.1)
    (hf : ∀ a x, Calm k a.1 → Calm k (f a x).1) : Calm k (l.foldl f s).1 := by
  induction l generalizing s with
  | nil => exact hs
  | cons x r ih => exact ih (hf s x hs)

theorem calm_foldlOf {ρ α : Type} (st : ρ → State) {f : ρ → α → ρ} {r : ρ} {l : List α} (hs : Calm k (st r))
    (hf : ∀ a x, Calm k (st a) → Calm k (st (f a x))) : Calm k (st (l.foldl f r)) := by
  induction l generalizing r with
  | nil => exact hs
  | cons x r ih => exact ih (hf _ x hs)

theorem calm_foldlOf1 {ρ α β : Type} (st : ρ → State) {f : ρ × β → α → ρ × β} {r : ρ × β} {l : List α} (hs : Calm k (st r.1))
    (hf : ∀ a x, Calm k (st a.1) → Calm k (st (f a x).1)) : Calm k (st (l.foldl f r).1) := by
  induction l generalizing r with
  | nil => exact hs
  | cons x r ih => exact ih (hf _ x hs)

theorem calm_cut (z : State) {p : Prop} (h : Calm k z) (c : Calm k z → p) : p := c h

theorem calm_self (t : State) :
    Calm (t.easel, t.mbs, t.evRings, t.aps, t.time, t.keys, t.boot, t.host, t.histos, t.graphs, t.units, t.frame.num) t := rfl

end Sys2Proof.Machine
end

