-- ==== Sys2Proof/Laws/CalmOps.lean ====
section
/-! SUPPORT. The operations of Ops.lean that windows use keep what `Calm` says. -/

namespace Sys2Proof.Machine

set_option linter.tactic.unusedName false

variable {K : EaselSt × Tbl Mailbox × Tbl EvRing × Tbl Aperture × TimeSt × Keys × Boot × HostPort × Tbl Histo × Tbl Graph × Units × Nat}

theorem mapChan_calm (s : State) (slot : Nat) (f : Chan → Chan) (h0 : Calm K s) :
    Calm K (State.mapChan s slot f) := by
  unfold State.mapChan
  repeat' first
    | with_reducible assumption | with_reducible refine calm_ite ?_ ?_
    | (refine calm_of ?_; dsimp only; refine calm_to ?_)

theorem free_calm (s : State) (h0 : Calm K s) :
    Calm K (State.free s).2 := by
  unfold State.free
  repeat' first
    | with_reducible assumption | with_reducible refine calm_ite ?_ ?_ | (refine calm_of ?_; dsimp only; refine calm_to ?_)

theorem emit_calm (s : State) (o : Out) (h0 : Calm K s) :
    Calm K (State.emit s o) := by
  unfold State.emit
  repeat' first
    | with_reducible assumption | with_reducible refine calm_ite ?_ ?_ | (refine calm_of ?_; dsimp only; refine calm_to ?_)

theorem logAdd_calm (s : State) (typ : Nat) (chan : Nat) (object : Nat) (d0 : Nat) (data : Nat) (h0 : Calm K s) :
    Calm K (State.logAdd s typ chan object d0 data) := by
  unfold State.logAdd
  repeat' first
    | with_reducible assumption | with_reducible refine calm_ite ?_ ?_
    | (extract_lets +onlyGivenNames z1; first | refine calm_cut z1 ?_ fun hz => ?_ | skip)
    | (refine calm_of ?_; dsimp only; refine calm_to ?_) | dsimp +zetaDelta only

theorem faultRecordOf_calm (s : State) (chan : Nat) (object : Nat) (kind : Nat) (unit : Nat) (action : Nat) (affected : Nat) (h0 : Calm K s) :
    Calm K (State.faultRecordOf s chan object kind unit action affected) := by
  unfold State.faultRecordOf
  repeat' first
    | with_reducible assumption | with_reducible refine calm_ite ?_ ?_ | with_reducible apply logAdd_calm
    | (refine calm_of ?_; dsimp only; refine calm_to ?_)

theorem faultRecord_calm (s : State) (kind : Nat) (unit : Nat) (action : Nat) (affected : Nat) (h0 : Calm K s) :
    Calm K (State.faultRecord s kind unit action affected) := by
  unfold State.faultRecord
  repeat' first
    | with_reducible assumption | with_reducible refine calm_ite ?_ ?_ | with_reducible apply faultRecordOf_calm
    | (refine calm_of ?_; dsimp only; refine calm_to ?_)

theorem raise_calm (s : State) (code : Nat) (fn : Option Nat) (chan : Nat) (d0 : Nat) (d1 : Nat) (d2 : Nat) (h0 : Calm K s) :
    Calm K (State.raise s code fn chan d0 d1 d2) := by
  unfold State.raise
  repeat' first
    | with_reducible assumption | with_reducible refine calm_ite ?_ ?_ | (refine calm_of ?_; dsimp only; refine calm_to ?_)

theorem raiseChan_calm (s : State) (code : Nat) (slot : Nat) (d0 : Nat) (d1 : Nat) (d2 : Nat) (h0 : Calm K s) :
    Calm K (State.raiseChan s code slot d0 d1 d2) := by
  unfold State.raiseChan
  repeat' first
    | with_reducible assumption | with_reducible refine calm_ite ?_ ?_ | with_reducible apply raise_calm | split
    | (refine calm_of ?_; dsimp only; refine calm_to ?_)

theorem account_calm (s : State) (slot : Nat) (i : Nat) (n : Nat) (h0 : Calm K s) :
    Calm K (State.account s slot i n) := by
  unfold State.account
  repeat' first
    | with_reducible assumption | with_reducible refine calm_ite ?_ ?_ | split | (refine calm_of ?_; dsimp only; refine calm_to ?_)

theorem mapAcct_calm (s : State) (slot : Nat) (f : Acct → Acct) (h0 : Calm K s) :
    Calm K (State.mapAcct s slot f) := by
  unfold State.mapAcct
  repeat' first
    | with_reducible assumption | with_reducible refine calm_ite ?_ ?_ | (refine calm_of ?_; dsimp only; refine calm_to ?_)

theorem hostWrite_calm (s : State) (slot : Nat) (addr : Nat) (bs : Bytes) (h0 : Calm K s) :
    Calm K (State.hostWrite s slot addr bs) := by
  unfold State.hostWrite
  repeat' first
    | with_reducible assumption | with_reducible refine calm_ite ?_ ?_ | with_reducible apply emit_calm
    | with_reducible apply account_calm | (refine calm_of ?_; dsimp only; refine calm_to ?_)

theorem mapCmd_calm (s : State) (land : Nat) (f : Cmd → Cmd) (h0 : Calm K s) :
    Calm K (State.mapCmd s land f) := by
  unfold State.mapCmd
  repeat' first
    | with_reducible assumption | with_reducible refine calm_ite ?_ ?_ | intro _ | split
    | (refine calm_of ?_; dsimp only; refine calm_to ?_) | dsimp +zetaDelta only

theorem fault_calm (s : State) (slot : Nat) (cause : Nat) (ring : Nat) (h0 : Calm K s) :
    Calm K (State.fault s slot cause ring) := by
  unfold State.fault
  repeat' first
    | with_reducible assumption | with_reducible refine calm_ite ?_ ?_
    | (refine calm_of ?_; dsimp only; refine calm_to ?_)

theorem dropCmd_calm (s : State) (land : Nat) (h0 : Calm K s) :
    Calm K (State.dropCmd s land) := by
  unfold State.dropCmd
  repeat' first
    | with_reducible assumption | with_reducible refine calm_ite ?_ ?_ | intro _
    | (refine calm_of ?_; dsimp only; refine calm_to ?_) | dsimp +zetaDelta only

theorem write_calm (s : State) (c : Cmd) (d : Done) (h0 : Calm K s) :
    Calm K (State.write s c d) := by
  unfold State.write
  repeat' first
    | with_reducible assumption | with_reducible refine calm_ite ?_ ?_ | with_reducible apply mapChan_calm
    | with_reducible apply hostWrite_calm | with_reducible apply mapCmd_calm | with_reducible apply fault_calm
    | with_reducible apply dropCmd_calm | with_reducible refine calm_foldl ?_ ?_
    | with_reducible refine calm_foldl1 ?_ ?_ | intro _
    | (extract_lets +onlyGivenNames z1; first | refine calm_cut z1 ?_ fun hz => ?_ | refine calm_cut z1.1 ?_ fun hz => ?_ | refine calm_cut z1.2 ?_ fun hz => ?_ | refine calm_cut z1.st ?_ fun hz => ?_ | skip)
    | split | (refine calm_of ?_; dsimp only; refine calm_to ?_) | dsimp +zetaDelta only

theorem fences_calm (s : State) (h0 : Calm K s) :
    Calm K (State.fences s) := by
  unfold State.fences
  repeat' first
    | with_reducible assumption | with_reducible refine calm_ite ?_ ?_ | with_reducible apply write_calm
    | with_reducible refine calm_foldl ?_ ?_ | with_reducible refine calm_foldl1 ?_ ?_ | intro _ | split
    | (refine calm_of ?_; dsimp only; refine calm_to ?_) | dsimp +zetaDelta only

theorem settle_calm (s : State) (land : Nat) (due : Nat) (d : Done) (h0 : Calm K s) :
    Calm K (State.settle s land due d) := by
  unfold State.settle
  repeat' first
    | with_reducible assumption | with_reducible refine calm_ite ?_ ?_ | with_reducible apply mapCmd_calm
    | with_reducible apply write_calm | with_reducible apply fences_calm | intro _ | split
    | (refine calm_of ?_; dsimp only; refine calm_to ?_) | dsimp +zetaDelta only

end Sys2Proof.Machine
end

