-- ==== Sys2Proof/Laws/CalmFlashMap.lean ====
section
/-! SUPPORT. The operations of FlashMap.lean that windows use keep what `Calm` says. -/

namespace Sys2Proof.Machine

set_option linter.tactic.unusedName false

variable {K : EaselSt × Tbl Mailbox × Tbl EvRing × Tbl Aperture × TimeSt × Keys × Boot × HostPort × Tbl Histo × Tbl Graph × Units × Nat}

theorem mapFlash_calm (s : State) (f : Flash → Flash) (h0 : Calm K s) :
    Calm K (State.mapFlash s f) := by
  unfold State.mapFlash
  repeat' first
    | with_reducible assumption | with_reducible refine calm_ite ?_ ?_ | (refine calm_of ?_; dsimp only; refine calm_to ?_)

theorem nodeEntry_calm (s : State) (typ : Nat) (body : List Nat) (h0 : Calm K s) :
    Calm K (State.nodeEntry s typ body) := by
  unfold State.nodeEntry
  repeat' first
    | with_reducible assumption | with_reducible refine calm_ite ?_ ?_ | with_reducible apply mapFlash_calm | intro _
    | (refine calm_of ?_; dsimp only; refine calm_to ?_) | dsimp +zetaDelta only

theorem keepEntry_calm (s : State) (typ : Nat) (slot : Nat) (h : Handle) (body : List Nat) (undo : List Nat) (h0 : Calm K s) :
    Calm K (State.keepEntry s typ slot h body undo) := by
  unfold State.keepEntry
  repeat' first
    | with_reducible assumption | with_reducible refine calm_ite ?_ ?_
    | (extract_lets +onlyGivenNames z1; first | refine calm_cut z1 ?_ fun hz => ?_ | skip) | split
    | (refine calm_of ?_; dsimp only; refine calm_to ?_) | dsimp +zetaDelta only

theorem setMap_calm (s : State) (folio : Nat) (e : Option MapEntry) (h0 : Calm K s) :
    Calm K (State.setMap s folio e) := by
  unfold State.setMap
  repeat' first
    | with_reducible assumption | with_reducible refine calm_ite ?_ ?_ | with_reducible apply mapFlash_calm
    | with_reducible apply nodeEntry_calm | intro _
    | (extract_lets +onlyGivenNames z1; first | refine calm_cut z1 ?_ fun hz => ?_ | refine calm_cut z1.1 ?_ fun hz => ?_ | skip)
    | split | (refine calm_of ?_; dsimp only; refine calm_to ?_) | dsimp +zetaDelta only

end Sys2Proof.Machine
end

