-- ==== Sys2Proof/Laws/CalmGrants.lean ====
section
/-! SUPPORT. The operations of Grants.lean that windows use keep what `Calm` says. -/

namespace Sys2Proof.Machine

set_option linter.tactic.unusedName false

variable {K : EaselSt × Tbl Mailbox × Tbl EvRing × Tbl Aperture × TimeSt × Keys × Boot × HostPort × Tbl Histo × Tbl Graph × Units × Nat}

theorem checked_calm (rows : List CheckRow) (work : MbBody) (s : State) (h : Calm K s)
    (hw : ∀ t, Calm K t → Calm K (work t).1) : Calm K (checked rows work s).1 := by
  unfold checked
  split
  · exact h
  · exact hw s h

end Sys2Proof.Machine
end

