-- ==== Sys2Proof/Laws/CalmAccept.lean ====
section
/-! SUPPORT. The operations of Accept.lean that windows use keep what `Calm` says. -/

namespace Sys2Proof.Machine

set_option linter.tactic.unusedName false

variable {K : EaselSt × Tbl Mailbox × Tbl EvRing × Tbl Aperture × TimeSt × Keys × Boot × HostPort × Tbl Histo × Tbl Graph × Units × Nat}

theorem mapSeq_calm (s : State) (seq : Nat) (f : Cmd → Cmd) (h0 : Calm K s) :
    Calm K (State.mapSeq s seq f) := by
  unfold State.mapSeq
  repeat' first
    | with_reducible assumption | with_reducible refine calm_ite ?_ ?_ | intro _ | split
    | (refine calm_of ?_; dsimp only; refine calm_to ?_) | dsimp +zetaDelta only

theorem acceptScatter_calm (s : State) (m : Scatter) (h0 : Calm K s) :
    Calm K (State.acceptScatter s m) := by
  unfold State.acceptScatter
  repeat' first
    | with_reducible assumption | with_reducible refine calm_ite ?_ ?_ | intro _
    | (extract_lets +onlyGivenNames z1; first | refine calm_cut z1 ?_ fun hz => ?_ | skip) | split
    | (refine calm_of ?_; dsimp only; refine calm_to ?_) | dsimp +zetaDelta only

theorem acceptAck_calm (s : State) (a : Ack) (h0 : Calm K s) :
    Calm K (State.acceptAck s a) := by
  unfold State.acceptAck
  repeat' first
    | with_reducible assumption | with_reducible refine calm_ite ?_ ?_ | split | (refine calm_of ?_; dsimp only; refine calm_to ?_)

theorem acceptReceipt_calm (s : State) (r : Receipt) (h0 : Calm K s) :
    Calm K (State.acceptReceipt s r) := by
  unfold State.acceptReceipt
  repeat' first
    | with_reducible assumption | with_reducible refine calm_ite ?_ ?_ | split | (refine calm_of ?_; dsimp only; refine calm_to ?_)

theorem acceptAnnounce_calm (s : State) (frame : Nat) (a : Announce) (h0 : Calm K s) :
    Calm K (State.acceptAnnounce s frame a) := by
  unfold State.acceptAnnounce
  repeat' first
    | with_reducible assumption | with_reducible refine calm_ite ?_ ?_ | split | (refine calm_of ?_; dsimp only; refine calm_to ?_)

theorem volDurable_calm (s : State) (seq : Nat) (owner : Nat) (h0 : Calm K s) :
    Calm K (State.volDurable s seq owner) := by
  unfold State.volDurable
  repeat' first
    | with_reducible assumption | with_reducible refine calm_ite ?_ ?_
    | intro _
    | (extract_lets +onlyGivenNames z1; first | refine calm_cut z1 ?_ fun hz => ?_ | refine calm_cut z1.1 ?_ fun hz => ?_ | refine calm_cut z1.2 ?_ fun hz => ?_ | skip)
    | split | (refine calm_of ?_; dsimp only; refine calm_to ?_) | dsimp +zetaDelta only

theorem acceptBits_calm (s : State) (slot : Nat) (object : Handle) (region : Nat) (key : Key) (next : Bool) (adm : Nat) (sets : List (Handle × Bool)) (h0 : Calm K s) :
    Calm K (State.acceptBits s slot object region key next adm sets) := by
  unfold State.acceptBits
  repeat' first
    | with_reducible assumption | with_reducible refine calm_ite ?_ ?_ | intro _
    | (extract_lets +onlyGivenNames z1; first | refine calm_cut z1 ?_ fun hz => ?_ | refine calm_cut z1.1 ?_ fun hz => ?_ | refine calm_cut z1.2 ?_ fun hz => ?_ | refine calm_cut z1.st ?_ fun hz => ?_ | skip)
    | split | (refine calm_of ?_; dsimp only; refine calm_to ?_) | dsimp +zetaDelta only

theorem acceptWithdraw_calm (s : State) (home : Nat) (seq : Nat) (slot : Nat) (object : Handle) (h0 : Calm K s) :
    Calm K (State.acceptWithdraw s home seq slot object) := by
  unfold State.acceptWithdraw
  repeat' first
    | with_reducible assumption | with_reducible refine calm_ite ?_ ?_ | intro _ | split
    | (refine calm_of ?_; dsimp only; refine calm_to ?_) | dsimp +zetaDelta only

theorem mirrorIn_calm (s : State) (m : Msg) (h0 : Calm K s) :
    Calm K (State.mirrorIn s m) := by
  unfold State.mirrorIn
  repeat' first
    | with_reducible assumption | with_reducible refine calm_ite ?_ ?_ | intro _
    | (refine calm_of ?_; dsimp only; refine calm_to ?_) | dsimp +zetaDelta only

theorem accept_calm (s : State) (x0 : Msg) (h0 : Calm K s) :
    Calm K (State.accept s x0) := by
  unfold State.accept
  repeat' first
    | with_reducible assumption | with_reducible refine calm_ite ?_ ?_ | with_reducible apply mapSeq_calm
    | with_reducible apply acceptScatter_calm | with_reducible apply acceptAck_calm | with_reducible apply acceptReceipt_calm
    | with_reducible apply acceptAnnounce_calm | with_reducible apply volDurable_calm | with_reducible apply acceptBits_calm
    | with_reducible apply acceptWithdraw_calm | with_reducible apply mirrorIn_calm | intro _
    | (extract_lets +onlyGivenNames z1; first | refine calm_cut z1 ?_ fun hz => ?_ | refine calm_cut z1.1 ?_ fun hz => ?_ | refine calm_cut z1.st ?_ fun hz => ?_ | skip)
    | split | (refine calm_of ?_; dsimp only; refine calm_to ?_) | dsimp +zetaDelta only

end Sys2Proof.Machine
end

