-- ==== Sys2Proof/Laws/CalmObjects.lean ====
section
/-! SUPPORT. The operations of Objects.lean that windows use keep what `Calm` says. -/

namespace Sys2Proof.Machine

set_option linter.tactic.unusedName false

variable {K : EaselSt × Tbl Mailbox × Tbl EvRing × Tbl Aperture × TimeSt × Keys × Boot × HostPort × Tbl Histo × Tbl Graph × Units × Nat}

theorem plan_calm (s : State) (frame : Nat) (fn : Nat) (w : Plan) (h0 : Calm K s) :
    Calm K (State.plan s frame fn w) := by
  unfold State.plan
  repeat' first
    | with_reducible assumption | with_reducible refine calm_ite ?_ ?_ | (refine calm_of ?_; dsimp only; refine calm_to ?_)

end Sys2Proof.Machine
end

