-- ==== Sys2Proof/Laws/CalmLists.lean ====
section
/-! SUPPORT. The operations of Lists.lean that windows use keep what `Calm` says. -/

namespace Sys2Proof.Machine

set_option linter.tactic.unusedName false

variable {K : EaselSt × Tbl Mailbox × Tbl EvRing × Tbl Aperture × TimeSt × Keys × Boot × HostPort × Tbl Histo × Tbl Graph × Units × Nat}

theorem mapIndex_calm (s : State) (slot : Nat) (h : Handle) (f : Index → Index) (h0 : Calm K s) :
    Calm K (State.mapIndex s slot h f) := by
  unfold State.mapIndex
  repeat' first
    | with_reducible assumption | with_reducible refine calm_ite ?_ ?_ | (refine calm_of ?_; dsimp only; refine calm_to ?_)

theorem mapTable_calm (s : State) (slot : Nat) (h : Handle) (f : Table → Table) (h0 : Calm K s) :
    Calm K (State.mapTable s slot h f) := by
  unfold State.mapTable
  repeat' first
    | with_reducible assumption | with_reducible refine calm_ite ?_ ?_ | (refine calm_of ?_; dsimp only; refine calm_to ?_)

theorem tombBit_calm (s : State) (slot : Nat) (h : Handle) (row : Nat) (b : Bool) (h0 : Calm K s) :
    Calm K (State.tombBit s slot h row b) := by
  unfold State.tombBit
  repeat' first
    | with_reducible assumption | with_reducible refine calm_ite ?_ ?_ | with_reducible apply mapIndex_calm | intro _ | split
    | (refine calm_of ?_; dsimp only; refine calm_to ?_)
    | dsimp +zetaDelta only

theorem placeRecord_calm (s : State) (slot : Nat) (h : Handle) (a : IndexAttr) (key : Key) (r : Bytes) (h0 : Calm K s) :
    Calm K (State.placeRecord s slot h a key r).2 := by
  unfold State.placeRecord
  repeat' first
    | with_reducible assumption | with_reducible refine calm_ite ?_ ?_ | with_reducible apply mapFlash_calm | intro _
    | (extract_lets +onlyGivenNames z1; first | refine calm_cut z1 ?_ fun hz => ?_ | refine calm_cut z1.1 ?_ fun hz => ?_ | refine calm_cut z1.2 ?_ fun hz => ?_ | skip)
    | split | (refine calm_of ?_; dsimp only; refine calm_to ?_) | dsimp +zetaDelta only

end Sys2Proof.Machine
end

