-- ==== Sys2Proof/Laws/CalmFabric.lean ====
section
/-! SUPPORT. The operations of Fabric.lean that windows use keep what `Calm` says. -/

namespace Sys2Proof.Machine

set_option linter.tactic.unusedName false

variable {K : EaselSt × Tbl Mailbox × Tbl EvRing × Tbl Aperture × TimeSt × Keys × Boot × HostPort × Tbl Histo × Tbl Graph × Units × Nat}

theorem mapPort_calm (s : State) (p : Nat) (f : Port → Port) (h0 : Calm K s) :
    Calm K (State.mapPort s p f) := by
  unfold State.mapPort
  repeat' first
    | with_reducible assumption | with_reducible refine calm_ite ?_ ?_ | (refine calm_of ?_; dsimp only; refine calm_to ?_)

theorem dropAt_calm (s : State) (port : Nat) (part : Option Nat) (h0 : Calm K s) :
    Calm K (State.dropAt s port part) := by
  unfold State.dropAt
  repeat' first
    | with_reducible assumption | with_reducible refine calm_ite ?_ ?_ | with_reducible apply mapAcct_calm
    | with_reducible apply mapPort_calm | intro _
    | (extract_lets +onlyGivenNames z1; first | refine calm_cut z1 ?_ fun hz => ?_ | skip) | split
    | (refine calm_of ?_; dsimp only; refine calm_to ?_) | dsimp +zetaDelta only

theorem enqueue_calm (s : State) (port : Nat) (relayed : Bool) (p : Packet) (h0 : Calm K s) :
    Calm K (State.enqueue s port relayed p) := by
  unfold State.enqueue
  repeat' first
    | with_reducible assumption | with_reducible refine calm_ite ?_ ?_ | with_reducible apply mapAcct_calm
    | with_reducible apply mapPort_calm | with_reducible apply dropAt_calm | intro _
    | (extract_lets +onlyGivenNames z1; first | refine calm_cut z1 ?_ fun hz => ?_ | skip) | split
    | (refine calm_of ?_; dsimp only; refine calm_to ?_) | dsimp +zetaDelta only

theorem putOut_calm (s : State) (port : Nat) (q : Queued) (h0 : Calm K s) :
    Calm K (State.putOut s port q) := by
  unfold State.putOut
  repeat' first
    | with_reducible assumption | with_reducible refine calm_ite ?_ ?_ | with_reducible apply emit_calm
    | with_reducible apply account_calm | with_reducible apply mapPort_calm | intro _
    | (extract_lets +onlyGivenNames z1; first | refine calm_cut z1 ?_ fun hz => ?_ | skip) | split
    | (refine calm_of ?_; dsimp only; refine calm_to ?_) | dsimp +zetaDelta only

theorem forwardPacket_calm (s : State) (relayed : Bool) (p : Packet) (h0 : Calm K s) :
    Calm K (State.forwardPacket s relayed p) := by
  unfold State.forwardPacket
  repeat' first
    | with_reducible assumption | with_reducible refine calm_ite ?_ ?_ | with_reducible apply dropAt_calm
    | with_reducible apply enqueue_calm | with_reducible apply putOut_calm
    | (extract_lets +onlyGivenNames z1; first | refine calm_cut z1 ?_ fun hz => ?_ | skip) | split
    | (refine calm_of ?_; dsimp only; refine calm_to ?_) | dsimp +zetaDelta only

theorem send_calm (s : State) (dst : Nat) (slot : Option Nat) (m : Msg) (h0 : Calm K s) :
    Calm K (State.send s dst slot m) := by
  unfold State.send
  repeat' first
    | with_reducible assumption | with_reducible refine calm_ite ?_ ?_ | with_reducible apply accept_calm
    | with_reducible apply forwardPacket_calm
    | (extract_lets +onlyGivenNames z1; first | refine calm_cut z1 ?_ fun hz => ?_ | refine calm_cut z1.2 ?_ fun hz => ?_ | skip)
    | split | (refine calm_of ?_; dsimp only; refine calm_to ?_) | dsimp +zetaDelta only

theorem sendAll_calm (s : State) (m : Msg) (h0 : Calm K s) :
    Calm K (State.sendAll s m) := by
  unfold State.sendAll
  repeat' first
    | with_reducible assumption | with_reducible refine calm_ite ?_ ?_ | with_reducible apply accept_calm
    | with_reducible apply send_calm | with_reducible refine calm_foldl ?_ ?_ | with_reducible refine calm_foldl1 ?_ ?_ | intro _
    | (refine calm_of ?_; dsimp only; refine calm_to ?_) | dsimp +zetaDelta only

theorem mapMirror_calm (s : State) (f : Mirror → Mirror) (h0 : Calm K s) :
    Calm K (State.mapMirror s f) := by
  unfold State.mapMirror
  repeat' first
    | with_reducible assumption | with_reducible refine calm_ite ?_ ?_ | (refine calm_of ?_; dsimp only; refine calm_to ?_)

theorem toShadow_calm (s : State) (m : Msg) (h0 : Calm K s) :
    Calm K (State.toShadow s m) := by
  unfold State.toShadow
  repeat' first
    | with_reducible assumption | with_reducible refine calm_ite ?_ ?_ | with_reducible apply forwardPacket_calm | split
    | (refine calm_of ?_; dsimp only; refine calm_to ?_)

theorem mirrorOut_calm (s : State) (m : Msg) (h0 : Calm K s) :
    Calm K (State.mirrorOut s m) := by
  unfold State.mirrorOut
  repeat' first
    | with_reducible assumption | with_reducible refine calm_ite ?_ ?_ | with_reducible apply mapMirror_calm
    | with_reducible apply toShadow_calm | intro _ | split | (refine calm_of ?_; dsimp only; refine calm_to ?_)
    | dsimp +zetaDelta only

end Sys2Proof.Machine
end

