-- ==== Sys2Proof/Laws/CalmHoldings.lean ====
section
/-! SUPPORT. The operations of Holdings.lean that windows use keep what `Calm` says. -/

namespace Sys2Proof.Machine

set_option linter.tactic.unusedName false

variable {K : EaselSt × Tbl Mailbox × Tbl EvRing × Tbl Aperture × TimeSt × Keys × Boot × HostPort × Tbl Histo × Tbl Graph × Units × Nat}

theorem putHolding_calm (s : State) (node : Nat) (slot : Nat) (object : Handle) (number : Nat) (st : Nat) (h0 : Calm K s) :
    Calm K (State.putHolding s node slot object number st) := by
  unfold State.putHolding
  repeat' first
    | with_reducible assumption | with_reducible refine calm_ite ?_ ?_ | intro _
    | (extract_lets +onlyGivenNames z1; first | refine calm_cut z1 ?_ fun hz => ?_ | skip) | split
    | (refine calm_of ?_; dsimp only; refine calm_to ?_) | dsimp +zetaDelta only

theorem setHolding_calm (s : State) (node : Nat) (slot : Nat) (object : Handle) (number : Nat) (st : Nat) (h0 : Calm K s) :
    Calm K (State.setHolding s node slot object number st) := by
  unfold State.setHolding
  repeat' first
    | with_reducible assumption | with_reducible refine calm_ite ?_ ?_ | with_reducible apply faultRecordOf_calm
    | with_reducible apply putHolding_calm | (extract_lets +onlyGivenNames z1; first | refine calm_cut z1 ?_ fun hz => ?_ | skip)
    | split | (refine calm_of ?_; dsimp only; refine calm_to ?_) | dsimp +zetaDelta only

theorem announce_calm (s : State) (a : Announce) (h0 : Calm K s) :
    Calm K (State.announce s a) := by
  unfold State.announce
  repeat' first
    | with_reducible assumption | with_reducible refine calm_ite ?_ ?_ | with_reducible apply sendAll_calm
    | (refine calm_of ?_; dsimp only; refine calm_to ?_)

theorem journalRoute_calm (s : State) (tag : Nat) (slot : Nat) (object : Handle) (number : Nat) (entry : Nat) (old : Option Nat) (h0 : Calm K s) :
    Calm K (State.journalRoute s tag slot object number entry old) := by
  unfold State.journalRoute
  repeat' first
    | with_reducible assumption | with_reducible refine calm_ite ?_ ?_ | with_reducible apply keepEntry_calm | split
    | (refine calm_of ?_; dsimp only; refine calm_to ?_)

theorem installOne_calm (s : State) (x0 : Announce) (h0 : Calm K s) :
    Calm K (State.installOne s x0) := by
  unfold State.installOne
  repeat' first
    | with_reducible assumption | with_reducible refine calm_ite ?_ ?_ | with_reducible apply mapIndex_calm
    | with_reducible apply mapTable_calm | with_reducible apply setHolding_calm | with_reducible apply journalRoute_calm | intro _
    | split | (refine calm_of ?_; dsimp only; refine calm_to ?_) | dsimp +zetaDelta only

theorem install_calm (s : State) (h0 : Calm K s) :
    Calm K (State.install s) := by
  unfold State.install
  repeat' first
    | with_reducible assumption | with_reducible refine calm_ite ?_ ?_ | with_reducible apply installOne_calm
    | with_reducible refine calm_foldl ?_ ?_ | with_reducible refine calm_foldl1 ?_ ?_ | intro _
    | (extract_lets +onlyGivenNames z1; first | refine calm_cut z1 ?_ fun hz => ?_ | refine calm_cut z1.1 ?_ fun hz => ?_ | refine calm_cut z1.2 ?_ fun hz => ?_ | skip)
    | (refine calm_of ?_; dsimp only; refine calm_to ?_) | dsimp +zetaDelta only

end Sys2Proof.Machine
end

