-- ==== Sys2Proof/Laws/CalmMoves.lean ====
section
/-! SUPPORT. The operations of Moves.lean that windows use keep what `Calm` says. -/

namespace Sys2Proof.Machine

set_option linter.tactic.unusedName false

variable {K : EaselSt × Tbl Mailbox × Tbl EvRing × Tbl Aperture × TimeSt × Keys × Boot × HostPort × Tbl Histo × Tbl Graph × Units × Nat}

theorem mapMig_calm (s : State) (m : Mig) (f : Mig → Mig) (h0 : Calm K s) :
    Calm K (State.mapMig s m f) := by
  unfold State.mapMig
  repeat' first
    | with_reducible assumption | with_reducible refine calm_ite ?_ ?_ | intro _ | split
    | (refine calm_of ?_; dsimp only; refine calm_to ?_) | dsimp +zetaDelta only

theorem copyList_calm (x : Index) (g : Nat) (r : CopyRun) (p : Nat × IList) (h0 : Calm K r.st) :
    Calm K (copyList x g r p).st := by
  unfold copyList
  repeat' first
    | with_reducible assumption | with_reducible refine calm_ite ?_ ?_ | with_reducible apply account_calm
    | with_reducible apply send_calm | intro _
    | (extract_lets +onlyGivenNames z1; first | refine calm_cut z1 ?_ fun hz => ?_ | refine calm_cut z1.1 ?_ fun hz => ?_ | refine calm_cut z1.2 ?_ fun hz => ?_ | refine calm_cut z1.st ?_ fun hz => ?_ | skip)
    | split | (refine calm_of ?_; dsimp only; refine calm_to ?_) | dsimp +zetaDelta only

theorem copyRegion_calm (s : State) (e : EaselEntry) (m : Mig) (x : Index) (h0 : Calm K s) :
    Calm K (State.copyRegion s e m x) := by
  unfold State.copyRegion
  repeat' first
    | with_reducible assumption | with_reducible refine calm_ite ?_ ?_ | with_reducible apply send_calm
    | with_reducible apply mapMig_calm | with_reducible apply copyList_calm | with_reducible refine calm_foldl ?_ ?_
    | with_reducible refine calm_foldl1 ?_ ?_ | with_reducible refine calm_foldlOf CopyRun.st ?_ ?_ | intro _
    | (extract_lets +onlyGivenNames z1; first | refine calm_cut z1 ?_ fun hz => ?_ | refine calm_cut z1.1 ?_ fun hz => ?_ | refine calm_cut z1.2 ?_ fun hz => ?_ | refine calm_cut z1.st ?_ fun hz => ?_ | skip)
    | split | (refine calm_of ?_; dsimp only; refine calm_to ?_) | dsimp +zetaDelta only

theorem copyShard_calm (s : State) (m : Mig) (t : Table) (h0 : Calm K s) :
    Calm K (State.copyShard s m t) := by
  unfold State.copyShard
  repeat' first
    | with_reducible assumption | with_reducible refine calm_ite ?_ ?_ | with_reducible apply send_calm
    | with_reducible apply mapMig_calm | intro _
    | (extract_lets +onlyGivenNames z1; first | refine calm_cut z1 ?_ fun hz => ?_ | refine calm_cut z1.1 ?_ fun hz => ?_ | refine calm_cut z1.2 ?_ fun hz => ?_ | skip)
    | split | (refine calm_of ?_; dsimp only; refine calm_to ?_) | dsimp +zetaDelta only

theorem copyHot_calm (s : State) (m : Mig) (t : Table) (h0 : Calm K s) :
    Calm K (State.copyHot s m t) := by
  unfold State.copyHot
  repeat' first
    | with_reducible assumption | with_reducible refine calm_ite ?_ ?_ | with_reducible apply send_calm
    | with_reducible apply mapMig_calm | intro _ | split | (refine calm_of ?_; dsimp only; refine calm_to ?_)
    | dsimp +zetaDelta only

theorem copiedStep_calm (s : State) (m : Mig) (h0 : Calm K s) :
    Calm K (State.copiedStep s m) := by
  unfold State.copiedStep
  repeat' first
    | with_reducible assumption | with_reducible refine calm_ite ?_ ?_ | with_reducible apply keepEntry_calm | intro _ | split
    | (refine calm_of ?_; dsimp only; refine calm_to ?_) | dsimp +zetaDelta only

theorem copyPart_calm (s : State) (e : EaselEntry) (m : Mig) (h0 : Calm K s) :
    Calm K (State.copyPart s e m) := by
  unfold State.copyPart
  repeat' first
    | with_reducible assumption | with_reducible refine calm_ite ?_ ?_ | with_reducible apply copyRegion_calm
    | with_reducible apply copyShard_calm | with_reducible apply copyHot_calm | split
    | (refine calm_of ?_; dsimp only; refine calm_to ?_)

theorem copyMove_calm (s : State) (e : EaselEntry) (m : Mig) (h0 : Calm K s) :
    Calm K (State.copyMove s e m) := by
  unfold State.copyMove
  repeat' first
    | with_reducible assumption | with_reducible refine calm_ite ?_ ?_ | with_reducible apply copiedStep_calm
    | with_reducible apply copyPart_calm | (refine calm_of ?_; dsimp only; refine calm_to ?_)

theorem noRowLeft_calm (s : State) (slot : Nat) (object : Handle) (region : Nat) (h0 : Calm K s) :
    Calm K (State.noRowLeft s slot object region) := by
  unfold State.noRowLeft
  repeat' first
    | with_reducible assumption | with_reducible refine calm_ite ?_ ?_ | intro _ | split
    | (refine calm_of ?_; dsimp only; refine calm_to ?_) | dsimp +zetaDelta only

theorem takeExtent_calm (s : State) (slot : Nat) (object : Handle) (region : Nat) (list : Nat) (mainSlots : Nat) (c : List F16) (slots : List Slot) (h0 : Calm K s) :
    Calm K (State.takeExtent s slot object region list mainSlots c slots) := by
  unfold State.takeExtent
  repeat' first
    | with_reducible assumption | with_reducible refine calm_ite ?_ ?_ | with_reducible apply mapIndex_calm
    | with_reducible apply tombBit_calm | with_reducible apply noRowLeft_calm | with_reducible refine calm_foldl ?_ ?_
    | with_reducible refine calm_foldl1 ?_ ?_ | with_reducible refine calm_foldlOf CopyRun.st ?_ ?_ | intro _
    | (extract_lets +onlyGivenNames z1; first | refine calm_cut z1 ?_ fun hz => ?_ | refine calm_cut z1.1 ?_ fun hz => ?_ | refine calm_cut z1.2 ?_ fun hz => ?_ | skip)
    | split | (refine calm_of ?_; dsimp only; refine calm_to ?_) | dsimp +zetaDelta only

theorem takeRecord_calm (s : State) (slot : Nat) (object : Handle) (region : Nat) (r : Nat × Nat × Bytes) (h0 : Calm K s) :
    Calm K (State.takeRecord s slot object region r) := by
  unfold State.takeRecord
  repeat' first
    | with_reducible assumption | with_reducible refine calm_ite ?_ ?_ | with_reducible apply mapIndex_calm
    | with_reducible apply placeRecord_calm | intro _
    | (extract_lets +onlyGivenNames z1; first | refine calm_cut z1 ?_ fun hz => ?_ | refine calm_cut z1.1 ?_ fun hz => ?_ | refine calm_cut z1.2 ?_ fun hz => ?_ | skip)
    | split | (refine calm_of ?_; dsimp only; refine calm_to ?_) | dsimp +zetaDelta only

theorem takeCentroids_calm (s : State) (slot : Nat) (object : Handle) (region : Nat) (ls : List (Nat × List F16)) (h0 : Calm K s) :
    Calm K (State.takeCentroids s slot object region ls) := by
  unfold State.takeCentroids
  repeat' first
    | with_reducible assumption | with_reducible refine calm_ite ?_ ?_ | with_reducible apply mapIndex_calm | intro _ | split
    | (refine calm_of ?_; dsimp only; refine calm_to ?_) | dsimp +zetaDelta only

theorem takeMove_calm (s : State) (x0 : Move) (h0 : Calm K s) :
    Calm K (State.takeMove s x0) := by
  unfold State.takeMove
  repeat' first
    | with_reducible assumption | with_reducible refine calm_ite ?_ ?_ | with_reducible apply mapTable_calm
    | with_reducible apply takeExtent_calm | with_reducible apply takeRecord_calm | with_reducible apply takeCentroids_calm
    | with_reducible refine calm_foldl ?_ ?_ | with_reducible refine calm_foldl1 ?_ ?_
    | with_reducible refine calm_foldlOf CopyRun.st ?_ ?_ | intro _
    | (extract_lets +onlyGivenNames z1; first | refine calm_cut z1 ?_ fun hz => ?_ | refine calm_cut z1.1 ?_ fun hz => ?_ | refine calm_cut z1.2 ?_ fun hz => ?_ | refine calm_cut z1.st ?_ fun hz => ?_ | skip)
    | split | (refine calm_of ?_; dsimp only; refine calm_to ?_) | dsimp +zetaDelta only

theorem migrateWindow_calm (s : State) (e : EaselEntry) (h0 : Calm K s) :
    Calm K (State.migrateWindow s e) := by
  unfold State.migrateWindow
  repeat' first
    | with_reducible assumption | with_reducible refine calm_ite ?_ ?_ | with_reducible apply copyMove_calm
    | with_reducible apply takeMove_calm | with_reducible refine calm_foldl ?_ ?_ | with_reducible refine calm_foldl1 ?_ ?_
    | with_reducible refine calm_foldlOf CopyRun.st ?_ ?_ | intro _
    | (extract_lets +onlyGivenNames z1; first | refine calm_cut z1 ?_ fun hz => ?_ | refine calm_cut z1.2 ?_ fun hz => ?_ | skip)
    | split | (refine calm_of ?_; dsimp only; refine calm_to ?_) | dsimp +zetaDelta only

end Sys2Proof.Machine
end

