-- ==== Sys2Proof/Laws/CalmMembers.lean ====
section
/-! SUPPORT. The operations of Members.lean that windows use keep what `Calm` says. -/

namespace Sys2Proof.Machine

set_option linter.tactic.unusedName false

variable {K : EaselSt × Tbl Mailbox × Tbl EvRing × Tbl Aperture × TimeSt × Keys × Boot × HostPort × Tbl Histo × Tbl Graph × Units × Nat}

theorem selfSuspect_calm (s : State) (kind : Nat) (unit : Nat) (h0 : Calm K s) :
    Calm K (State.selfSuspect s kind unit) := by
  unfold State.selfSuspect
  repeat' first
    | with_reducible assumption | with_reducible refine calm_ite ?_ ?_ | with_reducible apply faultRecord_calm | split
    | (refine calm_of ?_; dsimp only; refine calm_to ?_)

theorem logOrder_calm (s : State) (o : Order) (h0 : Calm K s) :
    Calm K (State.logOrder s o) := by
  unfold State.logOrder
  repeat' first
    | with_reducible assumption | with_reducible refine calm_ite ?_ ?_ | with_reducible apply logAdd_calm
    | (refine calm_of ?_; dsimp only; refine calm_to ?_)

theorem issue_calm (s : State) (o : Order) (h0 : Calm K s) :
    Calm K (State.issue s o) := by
  unfold State.issue
  repeat' first
    | with_reducible assumption | with_reducible refine calm_ite ?_ ?_ | with_reducible apply logOrder_calm
    | (refine calm_of ?_; dsimp only; refine calm_to ?_)

theorem lead_calm (s : State) (h0 : Calm K s) :
    Calm K (State.lead s) := by
  unfold State.lead
  repeat' first
    | with_reducible assumption | with_reducible refine calm_ite ?_ ?_ | with_reducible apply issue_calm
    | with_reducible refine calm_foldl ?_ ?_ | with_reducible refine calm_foldl1 ?_ ?_ | intro _
    | (extract_lets +onlyGivenNames z1; first | refine calm_cut z1 ?_ fun hz => ?_ | refine calm_cut z1.2 ?_ fun hz => ?_ | skip)
    | split | (refine calm_of ?_; dsimp only; refine calm_to ?_) | dsimp +zetaDelta only

end Sys2Proof.Machine
end

