-- ==== Sys2Proof/Laws/CalmWindows.lean ====
section
/-! SUPPORT. The operations of Windows.lean that windows use keep what `Calm` says. -/

namespace Sys2Proof.Machine

set_option linter.tactic.unusedName false

variable {K : EaselSt × Tbl Mailbox × Tbl EvRing × Tbl Aperture × TimeSt × Keys × Boot × HostPort × Tbl Histo × Tbl Graph × Units × Nat}

theorem enter_calm (s : State) (n : Nat) (e : EaselEntry) (h0 : Calm K s) :
    Calm K (State.enter s n e) := by
  unfold State.enter
  repeat' first
    | with_reducible assumption | with_reducible refine calm_ite ?_ ?_ | (refine calm_of ?_; dsimp only; refine calm_to ?_)

theorem coreFree_calm (s : State) (slot : Nat) (h0 : Calm K s) :
    Calm K (State.coreFree s slot) := by
  unfold State.coreFree
  repeat' first
    | with_reducible assumption | with_reducible refine calm_ite ?_ ?_ | with_reducible apply free_calm
    | with_reducible apply account_calm | (refine calm_of ?_; dsimp only; refine calm_to ?_)

theorem cutCmd_calm (s : State) (c : Cmd) (h0 : Calm K s) :
    Calm K (State.cutCmd s c) := by
  unfold State.cutCmd
  repeat' first
    | with_reducible assumption | with_reducible refine calm_ite ?_ ?_ | with_reducible apply mapCmd_calm
    | with_reducible apply settle_calm | intro _ | (refine calm_of ?_; dsimp only; refine calm_to ?_) | dsimp +zetaDelta only

theorem mediaCmd_calm (s : State) (c : Cmd) (h0 : Calm K s) :
    Calm K (State.mediaCmd s c) := by
  unfold State.mediaCmd
  repeat' first
    | with_reducible assumption | with_reducible refine calm_ite ?_ ?_ | with_reducible apply mapCmd_calm
    | with_reducible apply settle_calm | intro _ | (refine calm_of ?_; dsimp only; refine calm_to ?_) | dsimp +zetaDelta only

theorem cutEvent_calm (s : State) (slot : Nat) (stage : Nat) (entry : Nat) (n : Nat) (h0 : Calm K s) :
    Calm K (State.cutEvent s slot stage entry n) := by
  unfold State.cutEvent
  repeat' first
    | with_reducible assumption | with_reducible refine calm_ite ?_ ?_ | with_reducible apply raiseChan_calm | intro _
    | (extract_lets +onlyGivenNames z1; first | refine calm_cut z1 ?_ fun hz => ?_ | skip) | split
    | (refine calm_of ?_; dsimp only; refine calm_to ?_) | dsimp +zetaDelta only

end Sys2Proof.Machine
end

