-- ==== Sys2Proof/Laws/CalmRings.lean ====
section
/-! SUPPORT. The operations of Rings.lean that windows use keep what `Calm` says. -/

namespace Sys2Proof.Machine

set_option linter.tactic.unusedName false

variable {K : EaselSt × Tbl Mailbox × Tbl EvRing × Tbl Aperture × TimeSt × Keys × Boot × HostPort × Tbl Histo × Tbl Graph × Units × Nat}

theorem refuseCmd_calm (s : State) (c : Cmd) (status : Nat) (offset : Nat) (buf : Nat) (h0 : Calm K s) :
    Calm K (State.refuseCmd s c status offset buf) := by
  unfold State.refuseCmd
  repeat' first
    | with_reducible assumption | with_reducible refine calm_ite ?_ ?_ | with_reducible apply mapAcct_calm
    | with_reducible apply settle_calm | intro _ | split | (refine calm_of ?_; dsimp only; refine calm_to ?_)
    | dsimp +zetaDelta only

theorem police_calm (s : State) (ch : Chan) (c : Cmd) (h0 : Calm K s) :
    Calm K (State.police s ch c) := by
  unfold State.police
  repeat' first
    | with_reducible assumption | with_reducible refine calm_ite ?_ ?_ | with_reducible apply mapChan_calm
    | with_reducible apply mapCmd_calm | with_reducible apply refuseCmd_calm | intro _
    | (extract_lets +onlyGivenNames z1; first | refine calm_cut z1 ?_ fun hz => ?_ | skip) | split
    | (refine calm_of ?_; dsimp only; refine calm_to ?_) | dsimp +zetaDelta only

theorem checkCmd_calm (s : State) (ch : Chan) (c : Cmd) (bufs : List Bytes) (h0 : Calm K s) :
    Calm K (State.checkCmd s ch c bufs) := by
  unfold State.checkCmd
  repeat' first
    | with_reducible assumption | with_reducible refine calm_ite ?_ ?_ | with_reducible apply refuseCmd_calm
    | with_reducible apply police_calm | split | (refine calm_of ?_; dsimp only; refine calm_to ?_)

theorem takeEntry_calm (s : State) (l : Landing) (op : Nat) (entry : Bytes) (bufs : Option (List Bytes)) (h0 : Calm K s) :
    Calm K (State.takeEntry s l op entry bufs).2 := by
  unfold State.takeEntry
  repeat' first
    | with_reducible assumption | with_reducible refine calm_ite ?_ ?_ | with_reducible apply mapChan_calm
    | with_reducible apply account_calm | intro _
    | (extract_lets +onlyGivenNames z1; first | refine calm_cut z1 ?_ fun hz => ?_ | skip)
    | (refine calm_of ?_; dsimp only; refine calm_to ?_) | dsimp +zetaDelta only

theorem land_calm (s : State) (op : Nat) (slot : Nat) (ring : Nat) (entry : Bytes) (bufs : Option (List Bytes)) (h0 : Calm K s) :
    Calm K (State.land s op slot ring entry bufs) := by
  unfold State.land
  repeat' first
    | with_reducible assumption | with_reducible refine calm_ite ?_ ?_ | with_reducible apply settle_calm
    | with_reducible apply refuseCmd_calm | with_reducible apply checkCmd_calm | with_reducible apply takeEntry_calm
    | (extract_lets +onlyGivenNames z1; first | refine calm_cut z1 ?_ fun hz => ?_ | refine calm_cut z1.1 ?_ fun hz => ?_ | refine calm_cut z1.2 ?_ fun hz => ?_ | skip)
    | split | (refine calm_of ?_; dsimp only; refine calm_to ?_) | dsimp +zetaDelta only

end Sys2Proof.Machine
end

