-- ==== Sys2Proof/Laws/CalmAdmit.lean ====
section
/-! SUPPORT. The operations of Admit.lean that windows use keep what `Calm` says. -/

namespace Sys2Proof.Machine

set_option linter.tactic.unusedName false

variable {K : EaselSt × Tbl Mailbox × Tbl EvRing × Tbl Aperture × TimeSt × Keys × Boot × HostPort × Tbl Histo × Tbl Graph × Units × Nat}

theorem nextRoutes_calm (s : State) (h0 : Calm K s) :
    Calm K (State.nextRoutes s) := by
  unfold State.nextRoutes
  repeat' first
    | with_reducible assumption | with_reducible refine calm_ite ?_ ?_ | with_reducible apply install_calm
    | (refine calm_of ?_; dsimp only; refine calm_to ?_)

theorem sendUpd_calm (s : State) (slot : Nat) (seq : Nat) (h : Handle) (dst : Nat) (body : UpdBody) (h0 : Calm K s) :
    Calm K (State.sendUpd s slot seq h dst body) := by
  unfold State.sendUpd
  repeat' first
    | with_reducible assumption | with_reducible refine calm_ite ?_ ?_ | with_reducible apply send_calm
    | (refine calm_of ?_; dsimp only; refine calm_to ?_)

theorem sendNext_calm (s : State) (c : Cmd) (h : Handle) (x : Index) (nodes : List Nat) (body : UpdBody) (h0 : Calm K s) :
    Calm K (State.sendNext s c h x nodes body) := by
  unfold State.sendNext
  repeat' first
    | with_reducible assumption | with_reducible refine calm_ite ?_ ?_ | with_reducible apply send_calm
    | with_reducible refine calm_foldl ?_ ?_ | with_reducible refine calm_foldl1 ?_ ?_
    | with_reducible refine calm_foldlOf AdmitRun.st ?_ ?_ | intro _ | split | (refine calm_of ?_; dsimp only; refine calm_to ?_)
    | dsimp +zetaDelta only

theorem sendRegions_calm (s : State) (c : Cmd) (h : Handle) (regions : List Nat) (body : UpdBody) (row : Option (Key × Bytes)) (h0 : Calm K s) :
    Calm K (State.sendRegions s c h regions body row) := by
  unfold State.sendRegions
  repeat' first
    | with_reducible assumption | with_reducible refine calm_ite ?_ ?_ | with_reducible apply mapCmd_calm
    | with_reducible apply land_calm | with_reducible apply nextRoutes_calm | with_reducible apply sendUpd_calm
    | with_reducible refine calm_foldl ?_ ?_ | with_reducible refine calm_foldl1 ?_ ?_
    | with_reducible refine calm_foldlOf AdmitRun.st ?_ ?_ | intro _
    | (extract_lets +onlyGivenNames z1; first | refine calm_cut z1 ?_ fun hz => ?_ | refine calm_cut z1.1 ?_ fun hz => ?_ | refine calm_cut z1.2 ?_ fun hz => ?_ | skip)
    | split | (refine calm_of ?_; dsimp only; refine calm_to ?_) | dsimp +zetaDelta only

theorem countClipped_calm (s : State) (slot : Nat) (h : Handle) (kind : Nat) (n : Nat) (h0 : Calm K s) :
    Calm K (State.countClipped s slot h kind n) := by
  unfold State.countClipped
  repeat' first
    | with_reducible assumption | with_reducible refine calm_ite ?_ ?_ | intro _ | split
    | (refine calm_of ?_; dsimp only; refine calm_to ?_) | dsimp +zetaDelta only

theorem sendApply_calm (s : State) (c : Cmd) (t : Table) (h0 : Calm K s) :
    Calm K (State.sendApply s c t) := by
  unfold State.sendApply
  repeat' first
    | with_reducible assumption | with_reducible refine calm_ite ?_ ?_ | with_reducible apply mapCmd_calm
    | with_reducible apply land_calm | with_reducible apply nextRoutes_calm | with_reducible apply sendUpd_calm
    | with_reducible apply countClipped_calm | with_reducible refine calm_foldl ?_ ?_ | with_reducible refine calm_foldl1 ?_ ?_
    | with_reducible refine calm_foldlOf AdmitRun.st ?_ ?_ | intro _
    | (extract_lets +onlyGivenNames z1; first | refine calm_cut z1 ?_ fun hz => ?_ | refine calm_cut z1.1 ?_ fun hz => ?_ | refine calm_cut z1.2 ?_ fun hz => ?_ | skip)
    | (refine calm_of ?_; dsimp only; refine calm_to ?_) | dsimp +zetaDelta only

theorem sendReplace_calm (s : State) (c : Cmd) (t : Table) (h0 : Calm K s) :
    Calm K (State.sendReplace s c t) := by
  unfold State.sendReplace
  repeat' first
    | with_reducible assumption | with_reducible refine calm_ite ?_ ?_ | with_reducible apply mapCmd_calm
    | with_reducible apply land_calm | with_reducible apply nextRoutes_calm | with_reducible apply sendUpd_calm
    | with_reducible refine calm_foldl ?_ ?_ | with_reducible refine calm_foldl1 ?_ ?_
    | with_reducible refine calm_foldlOf AdmitRun.st ?_ ?_ | intro _
    | (extract_lets +onlyGivenNames z1; first | refine calm_cut z1 ?_ fun hz => ?_ | refine calm_cut z1.1 ?_ fun hz => ?_ | refine calm_cut z1.2 ?_ fun hz => ?_ | skip)
    | (refine calm_of ?_; dsimp only; refine calm_to ?_) | dsimp +zetaDelta only

theorem sendEdits_calm (s0 : State) (c : Cmd) (set : AllowSet) (h0 : Calm K s0) :
    Calm K (State.sendEdits s0 c set) := by
  unfold State.sendEdits
  repeat' first
    | with_reducible assumption | with_reducible refine calm_ite ?_ ?_ | with_reducible apply mapCmd_calm
    | with_reducible apply land_calm | with_reducible apply nextRoutes_calm | with_reducible apply sendUpd_calm
    | with_reducible apply sendNext_calm | with_reducible refine calm_foldl ?_ ?_ | with_reducible refine calm_foldl1 ?_ ?_
    | with_reducible refine calm_foldlOf AdmitRun.st ?_ ?_ | intro _
    | (extract_lets +onlyGivenNames z1; first | refine calm_cut z1 ?_ fun hz => ?_ | refine calm_cut z1.1 ?_ fun hz => ?_ | refine calm_cut z1.2 ?_ fun hz => ?_ | skip)
    | split | (refine calm_of ?_; dsimp only; refine calm_to ?_) | dsimp +zetaDelta only

theorem sendUpsert_calm (s : State) (c : Cmd) (x : Index) (h0 : Calm K s) :
    Calm K (State.sendUpsert s c x) := by
  unfold State.sendUpsert
  repeat' first
    | with_reducible assumption | with_reducible refine calm_ite ?_ ?_ | with_reducible apply mapCmd_calm
    | with_reducible apply settle_calm | with_reducible apply cutCmd_calm | with_reducible apply land_calm
    | with_reducible apply sendNext_calm | with_reducible apply sendRegions_calm | with_reducible apply countClipped_calm | intro _
    | (extract_lets +onlyGivenNames z1; first | refine calm_cut z1 ?_ fun hz => ?_ | refine calm_cut z1.1 ?_ fun hz => ?_ | refine calm_cut z1.2 ?_ fun hz => ?_ | skip)
    | split | (refine calm_of ?_; dsimp only; refine calm_to ?_) | dsimp +zetaDelta only

theorem deferCmd_calm (s : State) (c : Cmd) (h0 : Calm K s) :
    Calm K (State.deferCmd s c) := by
  unfold State.deferCmd
  repeat' first
    | with_reducible assumption | with_reducible refine calm_ite ?_ ?_ | with_reducible apply mapCmd_calm
    | with_reducible apply refuseCmd_calm | with_reducible apply land_calm | intro _ | split
    | (refine calm_of ?_; dsimp only; refine calm_to ?_) | dsimp +zetaDelta only

theorem begin_calm (s : State) (c : Cmd) (h0 : Calm K s) :
    Calm K (State.begin s c) := by
  unfold State.begin
  repeat' first
    | with_reducible assumption | with_reducible refine calm_ite ?_ ?_ | with_reducible apply settle_calm
    | with_reducible apply land_calm | with_reducible apply sendNext_calm | with_reducible apply sendRegions_calm
    | with_reducible apply sendApply_calm | with_reducible apply sendReplace_calm | with_reducible apply sendEdits_calm
    | (extract_lets +onlyGivenNames z1; first | refine calm_cut z1 ?_ fun hz => ?_ | skip) | split
    | (refine calm_of ?_; dsimp only; refine calm_to ?_) | dsimp +zetaDelta only

theorem admitCmd_calm (s : State) (c : Cmd) (charges : List Nat) (h0 : Calm K s) :
    Calm K (State.admitCmd s c charges) := by
  unfold State.admitCmd
  repeat' first
    | with_reducible assumption | with_reducible refine calm_ite ?_ ?_ | with_reducible apply mapChan_calm
    | with_reducible apply mapAcct_calm | with_reducible apply mapCmd_calm | with_reducible apply mirrorOut_calm
    | with_reducible apply land_calm | with_reducible apply begin_calm | intro _
    | (extract_lets +onlyGivenNames z1; first | refine calm_cut z1 ?_ fun hz => ?_ | skip) | split
    | (refine calm_of ?_; dsimp only; refine calm_to ?_) | dsimp +zetaDelta only

theorem admitOne_calm (r : AdmitRun) (c : Cmd) (h0 : Calm K r.st) :
    Calm K (State.admitOne r c).st := by
  unfold State.admitOne
  repeat' first
    | with_reducible assumption | with_reducible refine calm_ite ?_ ?_ | with_reducible apply refuseCmd_calm
    | with_reducible apply deferCmd_calm | with_reducible apply admitCmd_calm
    | (extract_lets +onlyGivenNames z1; first | refine calm_cut z1 ?_ fun hz => ?_ | refine calm_cut z1.st ?_ fun hz => ?_ | skip)
    | split | (refine calm_of ?_; dsimp only; refine calm_to ?_) | dsimp +zetaDelta only

theorem admitRings_calm (s : State) (slot : Nat) (h0 : Calm K s) :
    Calm K (State.admitRings s slot) := by
  unfold State.admitRings
  repeat' first
    | with_reducible assumption | with_reducible refine calm_ite ?_ ?_ | with_reducible apply admitOne_calm
    | with_reducible refine calm_foldl ?_ ?_ | with_reducible refine calm_foldl1 ?_ ?_
    | with_reducible refine calm_foldlOf AdmitRun.st ?_ ?_ | intro _ | split | (refine calm_of ?_; dsimp only; refine calm_to ?_)
    | dsimp +zetaDelta only

theorem admitWindow_calm (s : State) (e : EaselEntry) (h0 : Calm K s) :
    Calm K (State.admitWindow s e) := by
  unfold State.admitWindow
  repeat' first
    | with_reducible assumption | with_reducible refine calm_ite ?_ ?_ | with_reducible apply admitRings_calm | split
    | (refine calm_of ?_; dsimp only; refine calm_to ?_)

end Sys2Proof.Machine
end

