-- ==== Sys2Proof/Laws/CalmArrays.lean ====
section
/-! SUPPORT. The operations of Arrays.lean that windows use keep what `Calm` says. -/

namespace Sys2Proof.Machine

set_option linter.tactic.unusedName false

variable {K : EaselSt × Tbl Mailbox × Tbl EvRing × Tbl Aperture × TimeSt × Keys × Boot × HostPort × Tbl Histo × Tbl Graph × Units × Nat}

theorem arrayWork_calm (s : State) (e : EaselEntry) (slot : Nat) (jobs : List Job) (h0 : Calm K s) :
    Calm K (State.arrayWork s e slot jobs) := by
  unfold State.arrayWork
  repeat' first
    | with_reducible assumption | with_reducible refine calm_ite ?_ ?_ | with_reducible apply account_calm | intro _
    | (extract_lets +onlyGivenNames z1; first | refine calm_cut z1 ?_ fun hz => ?_ | skip) | split
    | (refine calm_of ?_; dsimp only; refine calm_to ?_) | dsimp +zetaDelta only

end Sys2Proof.Machine
end

