-- ==== Sys2Proof/Laws/CalmStacks.lean ====
section
/-! SUPPORT. The operations of Stacks.lean that windows use keep what `Calm` says. -/

namespace Sys2Proof.Machine

set_option linter.tactic.unusedName false

variable {K : EaselSt × Tbl Mailbox × Tbl EvRing × Tbl Aperture × TimeSt × Keys × Boot × HostPort × Tbl Histo × Tbl Graph × Units × Nat}

theorem countWord_calm (s : State) (da : Nat) (h0 : Calm K s) :
    Calm K (State.countWord s da) := by
  unfold State.countWord
  repeat' first
    | with_reducible assumption | with_reducible refine calm_ite ?_ ?_ | with_reducible apply faultRecord_calm
    | with_reducible apply selfSuspect_calm | (extract_lets +onlyGivenNames z1; first | refine calm_cut z1 ?_ fun hz => ?_ | skip)
    | split | (refine calm_of ?_; dsimp only; refine calm_to ?_) | dsimp +zetaDelta only

theorem keepLost_calm (s : State) (slot : Nat) (w : LostWord) (h0 : Calm K s) :
    Calm K (State.keepLost s slot w) := by
  unfold State.keepLost
  repeat' first
    | with_reducible assumption | with_reducible refine calm_ite ?_ ?_ | with_reducible apply announce_calm | intro _
    | (extract_lets +onlyGivenNames z1; first | refine calm_cut z1 ?_ fun hz => ?_ | skip) | split
    | (refine calm_of ?_; dsimp only; refine calm_to ?_) | dsimp +zetaDelta only

theorem wordMet_calm (s : State) (slot : Nat) (w : LostWord) (h0 : Calm K s) :
    Calm K (State.wordMet s slot w) := by
  unfold State.wordMet
  repeat' first
    | with_reducible assumption | with_reducible refine calm_ite ?_ ?_ | with_reducible apply logAdd_calm
    | with_reducible apply faultRecordOf_calm | with_reducible apply countWord_calm | with_reducible apply keepLost_calm | intro _
    | split | (refine calm_of ?_; dsimp only; refine calm_to ?_) | dsimp +zetaDelta only

theorem meetFaults_calm (s : State) (slot : Nat) (rf : ReadFaults) (h0 : Calm K s) :
    Calm K (State.meetFaults s slot rf) := by
  unfold State.meetFaults
  repeat' first
    | with_reducible assumption | with_reducible refine calm_ite ?_ ?_ | with_reducible apply wordMet_calm
    | with_reducible refine calm_foldl ?_ ?_ | with_reducible refine calm_foldl1 ?_ ?_ | intro _
    | (refine calm_of ?_; dsimp only; refine calm_to ?_) | dsimp +zetaDelta only

theorem restorePieces_calm (s : State) (mine : Nat → Bool) (h0 : Calm K s) :
    Calm K (State.restorePieces s mine) := by
  unfold State.restorePieces
  repeat' first
    | with_reducible assumption | with_reducible refine calm_ite ?_ ?_ | with_reducible refine calm_foldl ?_ ?_
    | with_reducible refine calm_foldl1 ?_ ?_ | intro _
    | (extract_lets +onlyGivenNames z1; first | refine calm_cut z1 ?_ fun hz => ?_ | refine calm_cut z1.1 ?_ fun hz => ?_ | refine calm_cut z1.2 ?_ fun hz => ?_ | skip)
    | split | (refine calm_of ?_; dsimp only; refine calm_to ?_) | dsimp +zetaDelta only

theorem twinMismatch_calm (s : State) (da : Nat) (h0 : Calm K s) :
    Calm K (State.twinMismatch s da) := by
  unfold State.twinMismatch
  repeat' first
    | with_reducible assumption | with_reducible refine calm_ite ?_ ?_ | with_reducible apply faultRecordOf_calm
    | with_reducible apply raiseChan_calm | with_reducible apply countWord_calm
    | (extract_lets +onlyGivenNames z1; first | refine calm_cut z1 ?_ fun hz => ?_ | skip) | split
    | (refine calm_of ?_; dsimp only; refine calm_to ?_) | dsimp +zetaDelta only

theorem readChunk_calm (s : State) (key : Nat) (chunk : Nat) (h0 : Calm K s) :
    Calm K (State.readChunk s key chunk) := by
  unfold State.readChunk
  repeat' first
    | with_reducible assumption | with_reducible refine calm_ite ?_ ?_ | with_reducible apply twinMismatch_calm
    | (extract_lets +onlyGivenNames z1; first | refine calm_cut z1 ?_ fun hz => ?_ | skip) | split
    | (refine calm_of ?_; dsimp only; refine calm_to ?_) | dsimp +zetaDelta only

theorem rebuilt_calm (s : State) (key : Nat) (chunk : Nat) (h0 : Calm K s) :
    Calm K (State.rebuilt s key chunk) := by
  unfold State.rebuilt
  repeat' first
    | with_reducible assumption | with_reducible refine calm_ite ?_ ?_ | with_reducible apply logAdd_calm | intro _
    | (extract_lets +onlyGivenNames z1; first | refine calm_cut z1 ?_ fun hz => ?_ | refine calm_cut z1.1 ?_ fun hz => ?_ | refine calm_cut z1.2 ?_ fun hz => ?_ | skip)
    | split | (refine calm_of ?_; dsimp only; refine calm_to ?_) | dsimp +zetaDelta only

theorem nbRefuse_calm (s : State) (op : Nat) (da : Nat) (h0 : Calm K s) :
    Calm K (State.nbRefuse s op da) := by
  unfold State.nbRefuse
  repeat' first
    | with_reducible assumption | with_reducible refine calm_ite ?_ ?_ | with_reducible apply logAdd_calm
    | with_reducible apply selfSuspect_calm | (extract_lets +onlyGivenNames z1; first | refine calm_cut z1 ?_ fun hz => ?_ | skip)
    | (refine calm_of ?_; dsimp only; refine calm_to ?_) | dsimp +zetaDelta only

end Sys2Proof.Machine
end

