-- ==== Sys2Proof/Laws/CalmHome.lean ====
section
/-! SUPPORT. The operations of Home.lean that windows use keep what `Calm` says. -/

namespace Sys2Proof.Machine

set_option linter.tactic.unusedName false

variable {K : EaselSt × Tbl Mailbox × Tbl EvRing × Tbl Aperture × TimeSt × Keys × Boot × HostPort × Tbl Histo × Tbl Graph × Units × Nat}

theorem reissue_calm (s : State) (c : Cmd) (q : Query) (a : IndexAttr) (t : State) (h : s.reissue c q a = some t)
    (h0 : Calm K s) : Calm K t := by
  unfold State.reissue at h
  dsimp only at h
  split at h
  · cases h
  · split at h
    · cases h
      with_reducible apply mapCmd_calm
      refine calm_of ?_
      dsimp only
      exact calm_to (mapChan_calm _ _ _ h0)
    · cases h

theorem mapQuery_calm (s : State) (land : Nat) (f : Query → Query) (h0 : Calm K s) :
    Calm K (State.mapQuery s land f) := by
  unfold State.mapQuery
  repeat' first
    | with_reducible assumption | with_reducible refine calm_ite ?_ ?_ | with_reducible apply mapCmd_calm
    | with_reducible apply land_calm | intro _ | (refine calm_of ?_; dsimp only; refine calm_to ?_) | dsimp +zetaDelta only

theorem routeQuery_calm (s : State) (c : Cmd) (q : Query) (h0 : Calm K s) :
    Calm K (State.routeQuery s c q) := by
  unfold State.routeQuery
  repeat' first
    | with_reducible assumption | with_reducible refine calm_ite ?_ ?_ | with_reducible apply cutCmd_calm
    | with_reducible apply mediaCmd_calm | with_reducible apply land_calm | with_reducible apply mapQuery_calm | intro _
    | (extract_lets +onlyGivenNames z1; first | refine calm_cut z1 ?_ fun hz => ?_ | skip) | split
    | (refine calm_of ?_; dsimp only; refine calm_to ?_) | dsimp +zetaDelta only

theorem route1_calm (s : State) (e : EaselEntry) (h0 : Calm K s) :
    Calm K (State.route1 s e) := by
  unfold State.route1
  repeat' first
    | with_reducible assumption | with_reducible refine calm_ite ?_ ?_ | with_reducible apply cutCmd_calm
    | with_reducible apply mediaCmd_calm | with_reducible apply sendUpsert_calm | with_reducible apply arrayWork_calm
    | with_reducible apply routeQuery_calm | with_reducible refine calm_foldl ?_ ?_ | with_reducible refine calm_foldl1 ?_ ?_
    | intro _
    | (extract_lets +onlyGivenNames z1; first | refine calm_cut z1 ?_ fun hz => ?_ | refine calm_cut z1.1 ?_ fun hz => ?_ | refine calm_cut z1.2 ?_ fun hz => ?_ | skip)
    | split | (refine calm_of ?_; dsimp only; refine calm_to ?_) | dsimp +zetaDelta only

theorem scatterTo_calm (s : State) (c : Cmd) (q : Query) (o : Nat × List Nat) (h0 : Calm K s) :
    Calm K (State.scatterTo s c q o) := by
  unfold State.scatterTo
  repeat' first
    | with_reducible assumption | with_reducible refine calm_ite ?_ ?_ | with_reducible apply send_calm | intro _
    | (refine calm_of ?_; dsimp only; refine calm_to ?_) | dsimp +zetaDelta only

theorem scatterSome_calm (s : State) (e : EaselEntry) (c : Cmd) (q : Query) (h0 : Calm K s) :
    Calm K (State.scatterSome s e c q) := by
  unfold State.scatterSome
  repeat' first
    | with_reducible assumption | with_reducible refine calm_ite ?_ ?_ | with_reducible apply land_calm
    | with_reducible apply mapQuery_calm | with_reducible apply scatterTo_calm | with_reducible refine calm_foldl ?_ ?_
    | with_reducible refine calm_foldl1 ?_ ?_ | intro _
    | (extract_lets +onlyGivenNames z1; first | refine calm_cut z1 ?_ fun hz => ?_ | refine calm_cut z1.1 ?_ fun hz => ?_ | skip)
    | (refine calm_of ?_; dsimp only; refine calm_to ?_) | dsimp +zetaDelta only

theorem scatterQuery_calm (s : State) (e : EaselEntry) (c : Cmd) (q : Query) (h0 : Calm K s) :
    Calm K (State.scatterQuery s e c q) := by
  unfold State.scatterQuery
  repeat' first
    | with_reducible assumption | with_reducible refine calm_ite ?_ ?_ | with_reducible apply plan_calm
    | with_reducible apply cutCmd_calm | with_reducible apply land_calm | with_reducible apply countClipped_calm
    | with_reducible apply mapQuery_calm | with_reducible apply scatterSome_calm | intro _
    | (extract_lets +onlyGivenNames z1; first | refine calm_cut z1 ?_ fun hz => ?_ | refine calm_cut z1.1 ?_ fun hz => ?_ | refine calm_cut z1.2 ?_ fun hz => ?_ | skip)
    | split | (refine calm_of ?_; dsimp only; refine calm_to ?_) | dsimp +zetaDelta only

theorem scatterWindow_calm (s : State) (e : EaselEntry) (h0 : Calm K s) :
    Calm K (State.scatterWindow s e) := by
  unfold State.scatterWindow
  repeat' first
    | with_reducible assumption | with_reducible refine calm_ite ?_ ?_ | with_reducible apply scatterSome_calm
    | with_reducible apply scatterQuery_calm | with_reducible refine calm_foldl ?_ ?_ | with_reducible refine calm_foldl1 ?_ ?_
    | intro _
    | (extract_lets +onlyGivenNames z1; first | refine calm_cut z1 ?_ fun hz => ?_ | refine calm_cut z1.1 ?_ fun hz => ?_ | refine calm_cut z1.2 ?_ fun hz => ?_ | skip)
    | (refine calm_of ?_; dsimp only; refine calm_to ?_) | dsimp +zetaDelta only

theorem sendReranks_calm (s : State) (c : Cmd) (again : Bool) (l : List (Nat × List Cand)) (h0 : Calm K s) :
    Calm K (State.sendReranks s c again l) := by
  unfold State.sendReranks
  repeat' first
    | with_reducible assumption | with_reducible refine calm_ite ?_ ?_ | with_reducible apply send_calm
    | with_reducible refine calm_foldl ?_ ?_ | with_reducible refine calm_foldl1 ?_ ?_ | intro _
    | (refine calm_of ?_; dsimp only; refine calm_to ?_) | dsimp +zetaDelta only

theorem nominateLater_calm (s : State) (n : Nat) (c : Cmd) (h0 : Calm K s) :
    Calm K (State.nominateLater s n c) := by
  unfold State.nominateLater
  repeat' first
    | with_reducible assumption | with_reducible refine calm_ite ?_ ?_ | with_reducible apply cutCmd_calm
    | with_reducible apply cutEvent_calm | split | (refine calm_of ?_; dsimp only; refine calm_to ?_)

theorem nominateNow_calm (s : State) (n : Nat) (e : EaselEntry) (c : Cmd) (q : Query) (h0 : Calm K s) :
    Calm K (State.nominateNow s n e c q) := by
  unfold State.nominateNow
  repeat' first
    | with_reducible assumption | with_reducible refine calm_ite ?_ ?_ | with_reducible apply land_calm
    | with_reducible apply mapQuery_calm | with_reducible apply sendReranks_calm | with_reducible apply nominateLater_calm
    | intro _
    | (extract_lets +onlyGivenNames z1; first | refine calm_cut z1 ?_ fun hz => ?_ | refine calm_cut z1.1 ?_ fun hz => ?_ | refine calm_cut z1.2 ?_ fun hz => ?_ | skip)
    | split | (refine calm_of ?_; dsimp only; refine calm_to ?_) | dsimp +zetaDelta only
  rename_i heq
  split at heq
  · split at heq
    · exact reissue_calm _ _ _ _ _ heq h0
    · cases heq
  · cases heq

theorem nominateQuery_calm (s : State) (n : Nat) (e : EaselEntry) (c : Cmd) (q : Query) (h0 : Calm K s) :
    Calm K (State.nominateQuery s n e c q) := by
  unfold State.nominateQuery
  repeat' first
    | with_reducible assumption | with_reducible refine calm_ite ?_ ?_ | with_reducible apply cutCmd_calm
    | with_reducible apply land_calm | with_reducible apply mapQuery_calm | with_reducible apply nominateNow_calm | intro _
    | (extract_lets +onlyGivenNames z1; first | refine calm_cut z1 ?_ fun hz => ?_ | refine calm_cut z1.1 ?_ fun hz => ?_ | skip)
    | split | (refine calm_of ?_; dsimp only; refine calm_to ?_) | dsimp +zetaDelta only

theorem nominateWindow_calm (s : State) (n : Nat) (e : EaselEntry) (h0 : Calm K s) :
    Calm K (State.nominateWindow s n e) := by
  unfold State.nominateWindow
  repeat' first
    | with_reducible assumption | with_reducible refine calm_ite ?_ ?_ | with_reducible apply coreFree_calm
    | with_reducible apply nominateQuery_calm | with_reducible refine calm_foldl ?_ ?_ | with_reducible refine calm_foldl1 ?_ ?_
    | intro _ | (refine calm_of ?_; dsimp only; refine calm_to ?_) | dsimp +zetaDelta only

theorem deliverNow_calm (s : State) (c : Cmd) (q : Query) (h0 : Calm K s) :
    Calm K (State.deliverNow s c q) := by
  unfold State.deliverNow
  repeat' first
    | with_reducible assumption | with_reducible refine calm_ite ?_ ?_ | with_reducible apply settle_calm
    | with_reducible apply land_calm | (extract_lets +onlyGivenNames z1; first | refine calm_cut z1 ?_ fun hz => ?_ | skip)
    | split | (refine calm_of ?_; dsimp only; refine calm_to ?_) | dsimp +zetaDelta only

theorem deliverQuery_calm (s : State) (c : Cmd) (q : Query) (h0 : Calm K s) :
    Calm K (State.deliverQuery s c q) := by
  unfold State.deliverQuery
  repeat' first
    | with_reducible assumption | with_reducible refine calm_ite ?_ ?_ | with_reducible apply cutCmd_calm
    | with_reducible apply land_calm | with_reducible apply mapQuery_calm | with_reducible apply sendReranks_calm
    | with_reducible apply deliverNow_calm | intro _
    | (extract_lets +onlyGivenNames z1; first | refine calm_cut z1 ?_ fun hz => ?_ | refine calm_cut z1.1 ?_ fun hz => ?_ | refine calm_cut z1.2 ?_ fun hz => ?_ | skip)
    | split | (refine calm_of ?_; dsimp only; refine calm_to ?_) | dsimp +zetaDelta only

theorem deliverWindow_calm (s : State) (e : EaselEntry) (h0 : Calm K s) :
    Calm K (State.deliverWindow s e) := by
  unfold State.deliverWindow
  repeat' first
    | with_reducible assumption | with_reducible refine calm_ite ?_ ?_ | with_reducible apply coreFree_calm
    | with_reducible apply deliverQuery_calm | with_reducible refine calm_foldl ?_ ?_ | with_reducible refine calm_foldl1 ?_ ?_
    | intro _ | (refine calm_of ?_; dsimp only; refine calm_to ?_) | dsimp +zetaDelta only

end Sys2Proof.Machine
end

