-- ==== Sys2Proof/Laws/CalmOwner.lean ====
section
/-! SUPPORT. The operations of Owner.lean that windows use keep what `Calm` says. -/

namespace Sys2Proof.Machine

set_option linter.tactic.unusedName false

variable {K : EaselSt × Tbl Mailbox × Tbl EvRing × Tbl Aperture × TimeSt × Keys × Boot × HostPort × Tbl Histo × Tbl Graph × Units × Nat}

theorem mapOwner_calm (s : State) (q : OwnerQ) (f : OwnerQ → OwnerQ) (h0 : Calm K s) :
    Calm K (State.mapOwner s q f) := by
  unfold State.mapOwner
  repeat' first
    | with_reducible assumption | with_reducible refine calm_ite ?_ ?_ | intro _ | split
    | (refine calm_of ?_; dsimp only; refine calm_to ?_) | dsimp +zetaDelta only

theorem post_calm (s : State) (dst : Nat) (slot : Nat) (m : Msg) (h0 : Calm K s) :
    Calm K (State.post s dst slot m) := by
  unfold State.post
  repeat' first
    | with_reducible assumption | with_reducible refine calm_ite ?_ ?_ | (refine calm_of ?_; dsimp only; refine calm_to ?_)

theorem routeLists_calm (s : State) (q : OwnerQ) (h0 : Calm K s) :
    Calm K (State.routeLists s q) := by
  unfold State.routeLists
  repeat' first
    | with_reducible assumption | with_reducible refine calm_ite ?_ ?_ | with_reducible apply mapOwner_calm | intro _
    | (extract_lets +onlyGivenNames z1; first | refine calm_cut z1 ?_ fun hz => ?_ | refine calm_cut z1.1 ?_ fun hz => ?_ | refine calm_cut z1.2 ?_ fun hz => ?_ | skip)
    | split | (refine calm_of ?_; dsimp only; refine calm_to ?_) | dsimp +zetaDelta only

theorem route2_calm (s : State) (e : EaselEntry) (h0 : Calm K s) :
    Calm K (State.route2 s e) := by
  unfold State.route2
  repeat' first
    | with_reducible assumption | with_reducible refine calm_ite ?_ ?_ | with_reducible apply arrayWork_calm
    | with_reducible apply routeLists_calm | with_reducible refine calm_foldl ?_ ?_ | with_reducible refine calm_foldl1 ?_ ?_
    | with_reducible refine calm_foldlOf ScanRun.st ?_ ?_ | with_reducible refine calm_foldlOf PlanRun.st ?_ ?_
    | with_reducible refine calm_foldlOf1 PlanRun.st ?_ ?_ | intro _
    | (extract_lets +onlyGivenNames z1; first | refine calm_cut z1 ?_ fun hz => ?_ | skip)
    | (refine calm_of ?_; dsimp only; refine calm_to ?_) | dsimp +zetaDelta only

theorem scanOne_calm (x : Index) (key : Nat) (units : Option (Nat × List Nat)) (r : ScanRun) (p : Probe) (h0 : Calm K r.st) :
    Calm K (scanOne x key units r p).st := by
  unfold scanOne
  repeat' first
    | with_reducible assumption | with_reducible refine calm_ite ?_ ?_ | with_reducible apply mapIndex_calm
    | with_reducible apply readChunk_calm | with_reducible refine calm_foldl ?_ ?_ | with_reducible refine calm_foldl1 ?_ ?_
    | with_reducible refine calm_foldlOf ScanRun.st ?_ ?_ | with_reducible refine calm_foldlOf PlanRun.st ?_ ?_
    | with_reducible refine calm_foldlOf1 PlanRun.st ?_ ?_ | intro _
    | (extract_lets +onlyGivenNames z1; first | refine calm_cut z1 ?_ fun hz => ?_ | refine calm_cut z1.1 ?_ fun hz => ?_ | refine calm_cut z1.2 ?_ fun hz => ?_ | refine calm_cut z1.st ?_ fun hz => ?_ | skip)
    | split | (refine calm_of ?_; dsimp only; refine calm_to ?_) | dsimp +zetaDelta only

theorem countPasses_calm (s : State) (slot : Nat) (ps : List ScanPart) (h0 : Calm K s) :
    Calm K (State.countPasses s slot ps) := by
  unfold State.countPasses
  repeat' first
    | with_reducible assumption | with_reducible refine calm_ite ?_ ?_ | with_reducible apply account_calm | intro _
    | (extract_lets +onlyGivenNames z1; first | refine calm_cut z1 ?_ fun hz => ?_ | refine calm_cut z1.1 ?_ fun hz => ?_ | refine calm_cut z1.2 ?_ fun hz => ?_ | skip)
    | (refine calm_of ?_; dsimp only; refine calm_to ?_) | dsimp +zetaDelta only

theorem sendCands_calm (s : State) (q : OwnerQ) (covered : List (Nat × Bool)) (unscanned : Nat) (cutOff : Bool) (cands : List Cand) (h0 : Calm K s) :
    Calm K (State.sendCands s q covered unscanned cutOff cands) := by
  unfold State.sendCands
  repeat' first
    | with_reducible assumption | with_reducible refine calm_ite ?_ ?_ | with_reducible apply mapOwner_calm
    | with_reducible apply post_calm | intro _ | (refine calm_of ?_; dsimp only; refine calm_to ?_) | dsimp +zetaDelta only

theorem scanQuery_calm (entry : Nat) (r0 : State × List ScanPart) (q0 : OwnerQ) (h0 : Calm K r0.1) :
    Calm K (State.scanQuery entry r0 q0).1 := by
  unfold State.scanQuery
  repeat' first
    | with_reducible assumption | with_reducible refine calm_ite ?_ ?_ | with_reducible apply mapChan_calm
    | with_reducible apply scanOne_calm | with_reducible apply sendCands_calm
    | with_reducible refine calm_foldl ?_ ?_ | with_reducible refine calm_foldl1 ?_ ?_
    | with_reducible refine calm_foldlOf ScanRun.st ?_ ?_ | with_reducible refine calm_foldlOf PlanRun.st ?_ ?_
    | with_reducible refine calm_foldlOf1 PlanRun.st ?_ ?_ | intro _
    | (extract_lets +onlyGivenNames z1; first | refine calm_cut z1 ?_ fun hz => ?_ | refine calm_cut z1.1 ?_ fun hz => ?_ | refine calm_cut z1.2 ?_ fun hz => ?_ | refine calm_cut z1.st ?_ fun hz => ?_ | skip)
    | split | (refine calm_of ?_; dsimp only; refine calm_to ?_) | dsimp +zetaDelta only

theorem scanWindow_calm (s : State) (n : Nat) (e : EaselEntry) (h0 : Calm K s) :
    Calm K (State.scanWindow s n e) := by
  unfold State.scanWindow
  repeat' first
    | with_reducible assumption | with_reducible refine calm_ite ?_ ?_ | with_reducible apply countPasses_calm
    | with_reducible apply scanQuery_calm | with_reducible refine calm_foldl ?_ ?_ | with_reducible refine calm_foldl1 ?_ ?_
    | with_reducible refine calm_foldlOf ScanRun.st ?_ ?_ | with_reducible refine calm_foldlOf PlanRun.st ?_ ?_
    | with_reducible refine calm_foldlOf1 PlanRun.st ?_ ?_ | intro _
    | (extract_lets +onlyGivenNames z1; first | refine calm_cut z1 ?_ fun hz => ?_ | refine calm_cut z1.1 ?_ fun hz => ?_ | refine calm_cut z1.2 ?_ fun hz => ?_ | skip)
    | (refine calm_of ?_; dsimp only; refine calm_to ?_) | dsimp +zetaDelta only

theorem PlanRun_plan_calm (r : PlanRun) (slot : Nat) (home : Nat) (seq : Nat) (key : Key) (a : IndexAttr) (sl : Slot) (isFetch : Bool) (h0 : Calm K r.st) :
    Calm K (PlanRun.plan r slot home seq key a sl isFetch).1.st := by
  unfold PlanRun.plan
  repeat' first
    | with_reducible assumption | with_reducible refine calm_ite ?_ ?_ | with_reducible apply mapChan_calm
    | intro _
    | (extract_lets +onlyGivenNames z1; first | refine calm_cut z1 ?_ fun hz => ?_ | refine calm_cut z1.st ?_ fun hz => ?_ | skip)
    | split | (refine calm_of ?_; dsimp only; refine calm_to ?_) | dsimp +zetaDelta only

theorem PlanRun_query_calm (r : PlanRun) (q : OwnerQ) (rr : Rerank) (h0 : Calm K r.st) :
    Calm K (PlanRun.query r q rr).st := by
  unfold PlanRun.query
  repeat' first
    | with_reducible assumption | with_reducible refine calm_ite ?_ ?_ | with_reducible apply plan_calm
    | with_reducible apply mapOwner_calm | with_reducible apply PlanRun_plan_calm | with_reducible refine calm_foldl ?_ ?_
    | with_reducible refine calm_foldl1 ?_ ?_ | with_reducible refine calm_foldlOf ScanRun.st ?_ ?_
    | with_reducible refine calm_foldlOf PlanRun.st ?_ ?_ | with_reducible refine calm_foldlOf1 PlanRun.st ?_ ?_ | intro _
    | (extract_lets +onlyGivenNames z1; first | refine calm_cut z1 ?_ fun hz => ?_ | refine calm_cut z1.1 ?_ fun hz => ?_ | refine calm_cut z1.2 ?_ fun hz => ?_ | refine calm_cut z1.st ?_ fun hz => ?_ | skip)
    | split | (refine calm_of ?_; dsimp only; refine calm_to ?_) | dsimp +zetaDelta only

theorem mapOwnerF_calm (s : State) (q : OwnerF) (f : OwnerF → OwnerF) (h0 : Calm K s) :
    Calm K (State.mapOwnerF s q f) := by
  unfold State.mapOwnerF
  repeat' first
    | with_reducible assumption | with_reducible refine calm_ite ?_ ?_ | intro _ | split
    | (refine calm_of ?_; dsimp only; refine calm_to ?_) | dsimp +zetaDelta only

theorem PlanRun_fetch_calm (r : PlanRun) (q : OwnerF) (h0 : Calm K r.st) :
    Calm K (PlanRun.fetch r q).st := by
  unfold PlanRun.fetch
  repeat' first
    | with_reducible assumption | with_reducible refine calm_ite ?_ ?_ | with_reducible apply plan_calm
    | with_reducible apply PlanRun_plan_calm | with_reducible apply mapOwnerF_calm | intro _
    | (extract_lets +onlyGivenNames z1; first | refine calm_cut z1 ?_ fun hz => ?_ | refine calm_cut z1.1 ?_ fun hz => ?_ | refine calm_cut z1.2 ?_ fun hz => ?_ | refine calm_cut z1.st ?_ fun hz => ?_ | skip)
    | split | (refine calm_of ?_; dsimp only; refine calm_to ?_) | dsimp +zetaDelta only

theorem PlanRun_again_calm (r : PlanRun) (q : OwnerQ) (h0 : Calm K r.st) :
    Calm K (PlanRun.again r q).st := by
  unfold PlanRun.again
  repeat' first
    | with_reducible assumption | with_reducible refine calm_ite ?_ ?_ | with_reducible apply plan_calm
    | with_reducible apply mapOwner_calm | with_reducible apply PlanRun_plan_calm | with_reducible refine calm_foldl ?_ ?_
    | with_reducible refine calm_foldl1 ?_ ?_ | with_reducible refine calm_foldlOf ScanRun.st ?_ ?_
    | with_reducible refine calm_foldlOf PlanRun.st ?_ ?_ | with_reducible refine calm_foldlOf1 PlanRun.st ?_ ?_ | intro _
    | (extract_lets +onlyGivenNames z1; first | refine calm_cut z1 ?_ fun hz => ?_ | refine calm_cut z1.1 ?_ fun hz => ?_ | refine calm_cut z1.2 ?_ fun hz => ?_ | refine calm_cut z1.st ?_ fun hz => ?_ | skip)
    | split | (refine calm_of ?_; dsimp only; refine calm_to ?_) | dsimp +zetaDelta only

theorem fetchWindow_calm (s : State) (e : EaselEntry) (h0 : Calm K s) :
    Calm K (State.fetchWindow s e) := by
  unfold State.fetchWindow
  repeat' first
    | with_reducible assumption | with_reducible refine calm_ite ?_ ?_ | with_reducible apply mapFlash_calm
    | with_reducible apply PlanRun_query_calm | with_reducible apply PlanRun_fetch_calm | with_reducible apply PlanRun_again_calm
    | with_reducible refine calm_foldl ?_ ?_ | with_reducible refine calm_foldl1 ?_ ?_
    | with_reducible refine calm_foldlOf ScanRun.st ?_ ?_ | with_reducible refine calm_foldlOf PlanRun.st ?_ ?_
    | with_reducible refine calm_foldlOf1 PlanRun.st ?_ ?_ | intro _
    | (extract_lets +onlyGivenNames z1; first | refine calm_cut z1 ?_ fun hz => ?_ | refine calm_cut z1.1 ?_ fun hz => ?_ | refine calm_cut z1.2 ?_ fun hz => ?_ | refine calm_cut z1.st ?_ fun hz => ?_ | skip)
    | split | (refine calm_of ?_; dsimp only; refine calm_to ?_) | dsimp +zetaDelta only

theorem sendLocal_calm (s : State) (q : OwnerQ) (rr : Rerank) (graph : Bool) (cs : List Cand) (h0 : Calm K s) :
    Calm K (State.sendLocal s q rr graph cs) := by
  unfold State.sendLocal
  repeat' first
    | with_reducible assumption | with_reducible refine calm_ite ?_ ?_ | with_reducible apply mapOwner_calm
    | with_reducible apply post_calm | intro _
    | (extract_lets +onlyGivenNames z1; first | refine calm_cut z1 ?_ fun hz => ?_ | refine calm_cut z1.1 ?_ fun hz => ?_ | refine calm_cut z1.2 ?_ fun hz => ?_ | skip)
    | split | (refine calm_of ?_; dsimp only; refine calm_to ?_) | dsimp +zetaDelta only

theorem rankQuery_calm (s : State) (q : OwnerQ) (rr : Rerank) (h0 : Calm K s) :
    Calm K (State.rankQuery s q rr) := by
  unfold State.rankQuery
  repeat' first
    | with_reducible assumption | with_reducible refine calm_ite ?_ ?_ | with_reducible apply mapOwner_calm
    | with_reducible apply PlanRun_query_calm | with_reducible apply sendLocal_calm | intro _
    | (extract_lets +onlyGivenNames z1; first | refine calm_cut z1 ?_ fun hz => ?_ | refine calm_cut z1.1 ?_ fun hz => ?_ | refine calm_cut z1.2 ?_ fun hz => ?_ | skip)
    | split | (refine calm_of ?_; dsimp only; refine calm_to ?_) | dsimp +zetaDelta only

theorem rankWindow_calm (s : State) (e : EaselEntry) (h0 : Calm K s) :
    Calm K (State.rankWindow s e) := by
  unfold State.rankWindow
  repeat' first
    | with_reducible assumption | with_reducible refine calm_ite ?_ ?_ | with_reducible apply coreFree_calm
    | with_reducible apply rankQuery_calm | with_reducible refine calm_foldl ?_ ?_ | with_reducible refine calm_foldl1 ?_ ?_
    | with_reducible refine calm_foldlOf ScanRun.st ?_ ?_ | with_reducible refine calm_foldlOf PlanRun.st ?_ ?_
    | with_reducible refine calm_foldlOf1 PlanRun.st ?_ ?_ | intro _ | (refine calm_of ?_; dsimp only; refine calm_to ?_)
    | dsimp +zetaDelta only

theorem rescoreQuery_calm (s : State) (img : Bytes) (l : Nat) (q : OwnerQ) (rr : Rerank) (h0 : Calm K s) :
    Calm K (State.rescoreQuery s img l q rr) := by
  unfold State.rescoreQuery
  repeat' first
    | with_reducible assumption | with_reducible refine calm_ite ?_ ?_ | with_reducible apply mapOwner_calm
    | with_reducible apply sendLocal_calm | intro _
    | (extract_lets +onlyGivenNames z1; first | refine calm_cut z1 ?_ fun hz => ?_ | refine calm_cut z1.1 ?_ fun hz => ?_ | refine calm_cut z1.2 ?_ fun hz => ?_ | skip)
    | split | (refine calm_of ?_; dsimp only; refine calm_to ?_) | dsimp +zetaDelta only

theorem rescoreWindow_calm (s : State) (e : EaselEntry) (h0 : Calm K s) :
    Calm K (State.rescoreWindow s e) := by
  unfold State.rescoreWindow
  repeat' first
    | with_reducible assumption | with_reducible refine calm_ite ?_ ?_ | with_reducible apply arrayWork_calm
    | with_reducible apply sendLocal_calm | with_reducible apply rescoreQuery_calm | with_reducible refine calm_foldl ?_ ?_
    | with_reducible refine calm_foldl1 ?_ ?_ | with_reducible refine calm_foldlOf ScanRun.st ?_ ?_
    | with_reducible refine calm_foldlOf PlanRun.st ?_ ?_ | with_reducible refine calm_foldlOf1 PlanRun.st ?_ ?_ | intro _
    | (extract_lets +onlyGivenNames z1; first | refine calm_cut z1 ?_ fun hz => ?_ | refine calm_cut z1.1 ?_ fun hz => ?_ | refine calm_cut z1.2 ?_ fun hz => ?_ | skip)
    | split | (refine calm_of ?_; dsimp only; refine calm_to ?_) | dsimp +zetaDelta only

theorem rescoreAll_calm (s : State) (q : OwnerQ) (rr : Rerank) (h0 : Calm K s) :
    Calm K (State.rescoreAll s q rr) := by
  unfold State.rescoreAll
  repeat' first
    | with_reducible assumption | with_reducible refine calm_ite ?_ ?_ | with_reducible apply rescoreQuery_calm
    | with_reducible refine calm_foldl ?_ ?_ | with_reducible refine calm_foldl1 ?_ ?_
    | with_reducible refine calm_foldlOf ScanRun.st ?_ ?_ | with_reducible refine calm_foldlOf PlanRun.st ?_ ?_
    | with_reducible refine calm_foldlOf1 PlanRun.st ?_ ?_ | intro _ | split | (refine calm_of ?_; dsimp only; refine calm_to ?_)
    | dsimp +zetaDelta only

theorem chargeAgain_calm (q : OwnerQ) (r : State × List Cand × List Cand) (c : Cand) (h0 : Calm K r.1) :
    Calm K (State.chargeAgain q r c).1 := by
  unfold State.chargeAgain
  repeat' first
    | with_reducible assumption | with_reducible refine calm_ite ?_ ?_ | with_reducible apply mapChan_calm
    | intro _
    | (extract_lets +onlyGivenNames z1; first | refine calm_cut z1 ?_ fun hz => ?_ | refine calm_cut z1.1 ?_ fun hz => ?_ | refine calm_cut z1.2 ?_ fun hz => ?_ | skip)
    | split | (refine calm_of ?_; dsimp only; refine calm_to ?_) | dsimp +zetaDelta only

theorem replayQuery_calm (s : State) (q : OwnerQ) (h0 : Calm K s) :
    Calm K (State.replayQuery s q) := by
  unfold State.replayQuery
  repeat' first
    | with_reducible assumption | with_reducible refine calm_ite ?_ ?_ | with_reducible apply mapOwner_calm
    | with_reducible apply PlanRun_again_calm | with_reducible apply rankQuery_calm | with_reducible apply rescoreAll_calm
    | with_reducible apply chargeAgain_calm | with_reducible refine calm_foldl ?_ ?_ | with_reducible refine calm_foldl1 ?_ ?_
    | with_reducible refine calm_foldlOf ScanRun.st ?_ ?_ | with_reducible refine calm_foldlOf PlanRun.st ?_ ?_
    | with_reducible refine calm_foldlOf1 PlanRun.st ?_ ?_ | intro _
    | (extract_lets +onlyGivenNames z1; first | refine calm_cut z1 ?_ fun hz => ?_ | refine calm_cut z1.1 ?_ fun hz => ?_ | refine calm_cut z1.2 ?_ fun hz => ?_ | skip)
    | split | (refine calm_of ?_; dsimp only; refine calm_to ?_) | dsimp +zetaDelta only

theorem replayNow_calm (s : State) (h0 : Calm K s) :
    Calm K (State.replayNow s) := by
  unfold State.replayNow
  repeat' first
    | with_reducible assumption | with_reducible refine calm_ite ?_ ?_ | with_reducible apply replayQuery_calm
    | with_reducible refine calm_foldl ?_ ?_ | with_reducible refine calm_foldl1 ?_ ?_
    | with_reducible refine calm_foldlOf ScanRun.st ?_ ?_ | with_reducible refine calm_foldlOf PlanRun.st ?_ ?_
    | with_reducible refine calm_foldlOf1 PlanRun.st ?_ ?_ | intro _ | (refine calm_of ?_; dsimp only; refine calm_to ?_)

end Sys2Proof.Machine
end

