-- ==== Sys2Proof/Laws/CalmTables.lean ====
section
/-! SUPPORT. The operations of Tables.lean that windows use keep what `Calm` says. -/

namespace Sys2Proof.Machine

set_option linter.tactic.unusedName false

variable {K : EaselSt × Tbl Mailbox × Tbl EvRing × Tbl Aperture × TimeSt × Keys × Boot × HostPort × Tbl Histo × Tbl Graph × Units × Nat}

theorem countRows_calm (s : State) (slot : Nat) (h : Handle) (rows : List Nat) (h0 : Calm K s) :
    Calm K (State.countRows s slot h rows) := by
  unfold State.countRows
  repeat' first
    | with_reducible assumption | with_reducible refine calm_ite ?_ ?_ | with_reducible apply mapTable_calm
    | with_reducible refine calm_foldl ?_ ?_ | with_reducible refine calm_foldl1 ?_ ?_
    | with_reducible refine calm_foldlOf LookupRun.st ?_ ?_ | intro _ | (refine calm_of ?_; dsimp only; refine calm_to ?_)
    | dsimp +zetaDelta only

theorem lookupOne_calm (slot : Nat) (budget : Nat) (tiles : List Nat) (r : LookupRun) (q : LookupReq) (h0 : Calm K r.st) :
    Calm K (lookupOne slot budget tiles r q).st := by
  unfold lookupOne
  repeat' first
    | with_reducible assumption | with_reducible refine calm_ite ?_ ?_ | with_reducible apply post_calm
    | with_reducible apply countRows_calm | intro _
    | (extract_lets +onlyGivenNames z1; first | refine calm_cut z1 ?_ fun hz => ?_ | refine calm_cut z1.1 ?_ fun hz => ?_ | refine calm_cut z1.2 ?_ fun hz => ?_ | refine calm_cut z1.st ?_ fun hz => ?_ | skip)
    | split | (refine calm_of ?_; dsimp only; refine calm_to ?_) | dsimp +zetaDelta only

theorem useOwn_calm (s : State) (slot : Nat) (i : Nat) (n : Nat) (h0 : Calm K s) :
    Calm K (State.useOwn s slot i n) := by
  unfold State.useOwn
  repeat' first
    | with_reducible assumption | with_reducible refine calm_ite ?_ ?_ | with_reducible apply mapChan_calm
    | intro _ | (refine calm_of ?_; dsimp only; refine calm_to ?_) | dsimp +zetaDelta only

theorem lookupWindow_calm (s : State) (n : Nat) (e : EaselEntry) (h0 : Calm K s) :
    Calm K (State.lookupWindow s n e) := by
  unfold State.lookupWindow
  repeat' first
    | with_reducible assumption | with_reducible refine calm_ite ?_ ?_ | with_reducible apply account_calm
    | with_reducible apply coreFree_calm | with_reducible apply cutEvent_calm | with_reducible apply lookupOne_calm
    | with_reducible apply useOwn_calm | with_reducible refine calm_foldl ?_ ?_ | with_reducible refine calm_foldl1 ?_ ?_
    | with_reducible refine calm_foldlOf LookupRun.st ?_ ?_ | intro _
    | (extract_lets +onlyGivenNames z1; first | refine calm_cut z1 ?_ fun hz => ?_ | refine calm_cut z1.2 ?_ fun hz => ?_ | refine calm_cut z1.st ?_ fun hz => ?_ | skip)
    | split | (refine calm_of ?_; dsimp only; refine calm_to ?_) | dsimp +zetaDelta only

theorem postAt_calm (s : State) (frame : Nat) (dst : Nat) (slot : Nat) (m : Msg) (h0 : Calm K s) :
    Calm K (State.postAt s frame dst slot m) := by
  unfold State.postAt
  repeat' first
    | with_reducible assumption | with_reducible refine calm_ite ?_ ?_ | (refine calm_of ?_; dsimp only; refine calm_to ?_)

theorem report_calm (s : State) (u : Upd) (status : Nat) (accepted : Nat) (dropped : Nat) (found : Nat) (h0 : Calm K s) :
    Calm K (State.report s u status accepted dropped found) := by
  unfold State.report
  repeat' first
    | with_reducible assumption | with_reducible refine calm_ite ?_ ?_ | with_reducible apply postAt_calm
    | (refine calm_of ?_; dsimp only; refine calm_to ?_)

theorem keepStep_calm (s : State) (slot : Nat) (h : Handle) (row : Nat) (eta : F32) (g : List F32) (h0 : Calm K s) :
    Calm K (State.keepStep s slot h row eta g) := by
  unfold State.keepStep
  repeat' first
    | with_reducible assumption | with_reducible refine calm_ite ?_ ?_ | intro _ | split
    | (refine calm_of ?_; dsimp only; refine calm_to ?_) | dsimp +zetaDelta only

theorem stageRow_calm (s : State) (slot : Nat) (h : Handle) (t : Table) (us : List Upd) (row : Nat) (h0 : Calm K s) :
    Calm K (State.stageRow s slot h t us row) := by
  unfold State.stageRow
  repeat' first
    | with_reducible assumption | with_reducible refine calm_ite ?_ ?_ | with_reducible apply lead_calm
    | with_reducible apply keepStep_calm | intro _
    | (extract_lets +onlyGivenNames z1; first | refine calm_cut z1 ?_ fun hz => ?_ | refine calm_cut z1.1 ?_ fun hz => ?_ | refine calm_cut z1.2 ?_ fun hz => ?_ | refine calm_cut z1.st ?_ fun hz => ?_ | skip)
    | split | (refine calm_of ?_; dsimp only; refine calm_to ?_) | dsimp +zetaDelta only

theorem reportRows_calm (s : State) (took : List (Upd × Bool)) (h0 : Calm K s) :
    Calm K (State.reportRows s took) := by
  unfold State.reportRows
  repeat' first
    | with_reducible assumption | with_reducible refine calm_ite ?_ ?_ | with_reducible apply report_calm
    | with_reducible refine calm_foldl ?_ ?_ | with_reducible refine calm_foldl1 ?_ ?_
    | with_reducible refine calm_foldlOf LookupRun.st ?_ ?_ | intro _
    | (extract_lets +onlyGivenNames z1; first | refine calm_cut z1 ?_ fun hz => ?_ | refine calm_cut z1.1 ?_ fun hz => ?_ | refine calm_cut z1.2 ?_ fun hz => ?_ | skip)
    | split | (refine calm_of ?_; dsimp only; refine calm_to ?_) | dsimp +zetaDelta only

theorem unstage_calm (s : State) (us : List Upd) (h0 : Calm K s) :
    Calm K (State.unstage s us) := by
  unfold State.unstage
  repeat' first
    | with_reducible assumption | with_reducible refine calm_ite ?_ ?_ | intro _
    | (refine calm_of ?_; dsimp only; refine calm_to ?_) | dsimp +zetaDelta only

theorem unstageRows_calm (s : State) (slot : Nat) (us : List Upd) (h0 : Calm K s) :
    Calm K (State.unstageRows s slot us) := by
  unfold State.unstageRows
  repeat' first
    | with_reducible assumption | with_reducible refine calm_ite ?_ ?_ | with_reducible apply unstage_calm | intro _ | split
    | (refine calm_of ?_; dsimp only; refine calm_to ?_) | dsimp +zetaDelta only

theorem stageTable_calm (s : State) (slot : Nat) (h : Handle) (us : List Upd) (h0 : Calm K s) :
    Calm K (State.stageTable s slot h us) := by
  unfold State.stageTable
  repeat' first
    | with_reducible assumption | with_reducible refine calm_ite ?_ ?_ | with_reducible apply stageRow_calm
    | with_reducible refine calm_foldl ?_ ?_ | with_reducible refine calm_foldl1 ?_ ?_
    | with_reducible refine calm_foldlOf LookupRun.st ?_ ?_ | intro _
    | (extract_lets +onlyGivenNames z1; first | refine calm_cut z1 ?_ fun hz => ?_ | refine calm_cut z1.st ?_ fun hz => ?_ | skip)
    | split | (refine calm_of ?_; dsimp only; refine calm_to ?_) | dsimp +zetaDelta only

theorem restageRows_calm (s : State) (slot : Nat) (h0 : Calm K s) :
    Calm K (State.restageRows s slot) := by
  unfold State.restageRows
  repeat' first
    | with_reducible assumption | with_reducible refine calm_ite ?_ ?_ | with_reducible apply reportRows_calm
    | with_reducible apply unstageRows_calm | with_reducible apply stageTable_calm | with_reducible refine calm_foldl ?_ ?_
    | with_reducible refine calm_foldl1 ?_ ?_ | with_reducible refine calm_foldlOf LookupRun.st ?_ ?_ | intro _
    | (extract_lets +onlyGivenNames z1; first | refine calm_cut z1 ?_ fun hz => ?_ | refine calm_cut z1.1 ?_ fun hz => ?_ | refine calm_cut z1.2 ?_ fun hz => ?_ | refine calm_cut z1.st ?_ fun hz => ?_ | skip)
    | (refine calm_of ?_; dsimp only; refine calm_to ?_) | dsimp +zetaDelta only

theorem takeForwards_calm (s : State) (slot : Nat) (h0 : Calm K s) :
    Calm K (State.takeForwards s slot) := by
  unfold State.takeForwards
  repeat' first
    | with_reducible assumption | with_reducible refine calm_ite ?_ ?_ | with_reducible apply takeMove_calm
    | with_reducible refine calm_foldl ?_ ?_ | with_reducible refine calm_foldl1 ?_ ?_
    | with_reducible refine calm_foldlOf LookupRun.st ?_ ?_ | intro _
    | (extract_lets +onlyGivenNames z1; first | refine calm_cut z1 ?_ fun hz => ?_ | refine calm_cut z1.2 ?_ fun hz => ?_ | skip)
    | split | (refine calm_of ?_; dsimp only; refine calm_to ?_) | dsimp +zetaDelta only

theorem mediaUpds_calm (s : State) (slot : Nat) (rows : Bool) (reports : State → Upd → Bool) (h0 : Calm K s) :
    Calm K (State.mediaUpds s slot rows reports) := by
  unfold State.mediaUpds
  repeat' first
    | with_reducible assumption | with_reducible refine calm_ite ?_ ?_ | with_reducible apply report_calm
    | with_reducible refine calm_foldl ?_ ?_ | with_reducible refine calm_foldl1 ?_ ?_
    | with_reducible refine calm_foldlOf LookupRun.st ?_ ?_ | intro _
    | (extract_lets +onlyGivenNames z1; first | refine calm_cut z1 ?_ fun hz => ?_ | refine calm_cut z1.2 ?_ fun hz => ?_ | skip)
    | (refine calm_of ?_; dsimp only; refine calm_to ?_) | dsimp +zetaDelta only

theorem noteItems_calm (s : State) (took : List (Upd × Bool)) (h0 : Calm K s) :
    Calm K (State.noteItems s took) := by
  unfold State.noteItems
  repeat' first
    | with_reducible assumption | with_reducible refine calm_ite ?_ ?_ | with_reducible apply mapTable_calm
    | with_reducible refine calm_foldl ?_ ?_ | with_reducible refine calm_foldl1 ?_ ?_
    | with_reducible refine calm_foldlOf LookupRun.st ?_ ?_ | intro _ | split | (refine calm_of ?_; dsimp only; refine calm_to ?_)
    | dsimp +zetaDelta only

theorem applyStage_calm (s : State) (n : Nat) (e : EaselEntry) (h0 : Calm K s) :
    Calm K (State.applyStage s n e) := by
  unfold State.applyStage
  repeat' first
    | with_reducible assumption | with_reducible refine calm_ite ?_ ?_ | with_reducible apply account_calm
    | with_reducible apply coreFree_calm | with_reducible apply cutEvent_calm | with_reducible apply useOwn_calm
    | with_reducible apply restageRows_calm | with_reducible apply takeForwards_calm | with_reducible apply mediaUpds_calm
    | with_reducible apply noteItems_calm | with_reducible refine calm_foldl ?_ ?_ | with_reducible refine calm_foldl1 ?_ ?_
    | with_reducible refine calm_foldlOf LookupRun.st ?_ ?_ | intro _
    | (extract_lets +onlyGivenNames z1; first | refine calm_cut z1 ?_ fun hz => ?_ | refine calm_cut z1.1 ?_ fun hz => ?_ | refine calm_cut z1.2 ?_ fun hz => ?_ | refine calm_cut z1.st ?_ fun hz => ?_ | skip)
    | split | (refine calm_of ?_; dsimp only; refine calm_to ?_) | dsimp +zetaDelta only

end Sys2Proof.Machine
end

