-- ==== Sys2Proof/Laws/CalmUpdates.lean ====
section
/-! SUPPORT. The operations of Updates.lean that windows use keep what `Calm` says. -/

namespace Sys2Proof.Machine

set_option linter.tactic.unusedName false

variable {K : EaselSt × Tbl Mailbox × Tbl EvRing × Tbl Aperture × TimeSt × Keys × Boot × HostPort × Tbl Histo × Tbl Graph × Units × Nat}

theorem stage_calm (s : State) (u : Upd) (region : Nat) (i : Stage) (h0 : Calm K s) :
    Calm K (State.stage s u region i) := by
  unfold State.stage
  repeat' first
    | with_reducible assumption | with_reducible refine calm_ite ?_ ?_ | with_reducible apply lead_calm
    | (refine calm_of ?_; dsimp only; refine calm_to ?_)

theorem stageTombs_calm (s : State) (u : Upd) (key : Key) (es : List (Nat × Held)) (h0 : Calm K s) :
    Calm K (State.stageTombs s u key es) := by
  unfold State.stageTombs
  repeat' first
    | with_reducible assumption | with_reducible refine calm_ite ?_ ?_ | with_reducible apply stage_calm
    | with_reducible refine calm_foldl ?_ ?_ | with_reducible refine calm_foldl1 ?_ ?_ | intro _
    | (refine calm_of ?_; dsimp only; refine calm_to ?_) | dsimp +zetaDelta only

theorem markFull_calm (s : State) (u : Upd) (region : Nat) (list : Nat) (h0 : Calm K s) :
    Calm K (State.markFull s u region list) := by
  unfold State.markFull
  repeat' first
    | with_reducible assumption | with_reducible refine calm_ite ?_ ?_ | with_reducible apply mapIndex_calm | intro _
    | (refine calm_of ?_; dsimp only; refine calm_to ?_) | dsimp +zetaDelta only

theorem sendBits_calm (s : State) (u : Upd) (key : Key) (target : Nat) (prior : Nat) (es : List (Nat × Held)) (h0 : Calm K s) :
    Calm K (State.sendBits s u key target prior es) := by
  unfold State.sendBits
  repeat' first
    | with_reducible assumption | with_reducible refine calm_ite ?_ ?_ | with_reducible apply send_calm
    | with_reducible refine calm_foldl ?_ ?_ | with_reducible refine calm_foldl1 ?_ ?_ | intro _
    | (extract_lets +onlyGivenNames z1; first | refine calm_cut z1 ?_ fun hz => ?_ | refine calm_cut z1.1 ?_ fun hz => ?_ | refine calm_cut z1.2 ?_ fun hz => ?_ | skip)
    | split | (refine calm_of ?_; dsimp only; refine calm_to ?_) | dsimp +zetaDelta only

theorem refuseUpsert_calm (s : State) (u : Upd) (prior : Nat) (target : Nat) (h0 : Calm K s) :
    Calm K (State.refuseUpsert s u prior target).1 := by
  unfold State.refuseUpsert
  repeat' first
    | with_reducible assumption | with_reducible refine calm_ite ?_ ?_ | with_reducible apply send_calm
    | with_reducible refine calm_foldl ?_ ?_ | with_reducible refine calm_foldl1 ?_ ?_ | intro _
    | (refine calm_of ?_; dsimp only; refine calm_to ?_) | dsimp +zetaDelta only

theorem stageUpsert_calm (s : State) (u : Upd) (key : Key) (facet : Nat) (vec : Bytes) (payload : Bytes) (prior : Nat) (target : Nat) (h0 : Calm K s) :
    Calm K (State.stageUpsert s u key facet vec payload prior target).1 := by
  unfold State.stageUpsert
  repeat' first
    | with_reducible assumption | with_reducible refine calm_ite ?_ ?_ | with_reducible apply stage_calm
    | with_reducible apply stageTombs_calm | with_reducible apply markFull_calm | with_reducible apply sendBits_calm
    | with_reducible apply refuseUpsert_calm | intro _
    | (extract_lets +onlyGivenNames z1; first | refine calm_cut z1 ?_ fun hz => ?_ | refine calm_cut z1.2 ?_ fun hz => ?_ | refine calm_cut z1.st ?_ fun hz => ?_ | skip)
    | split | (refine calm_of ?_; dsimp only; refine calm_to ?_) | dsimp +zetaDelta only

theorem stageDelete_calm (s : State) (u : Upd) (key : Key) (prior : Nat) (h0 : Calm K s) :
    Calm K (State.stageDelete s u key prior).1 := by
  unfold State.stageDelete
  repeat' first
    | with_reducible assumption | with_reducible refine calm_ite ?_ ?_ | with_reducible apply stageTombs_calm | split
    | (refine calm_of ?_; dsimp only; refine calm_to ?_)

theorem stageEdits_calm (s : State) (u : Upd) (set : Handle) (edits : List (Nat × Key × Nat × Bool)) (h0 : Calm K s) :
    Calm K (State.stageEdits s u set edits).1 := by
  unfold State.stageEdits
  repeat' first
    | with_reducible assumption | with_reducible refine calm_ite ?_ ?_ | with_reducible apply lead_calm
    | with_reducible apply stage_calm | with_reducible refine calm_foldl ?_ ?_ | with_reducible refine calm_foldl1 ?_ ?_ | intro _
    | (extract_lets +onlyGivenNames z1; first | refine calm_cut z1 ?_ fun hz => ?_ | refine calm_cut z1.1 ?_ fun hz => ?_ | refine calm_cut z1.2 ?_ fun hz => ?_ | refine calm_cut z1.st ?_ fun hz => ?_ | skip)
    | split | (refine calm_of ?_; dsimp only; refine calm_to ?_) | dsimp +zetaDelta only

theorem stageRewrite_calm (s : State) (u : Upd) (x : Index) (region : Nat) (list : Nat) (key : Key) (vec : Bytes) (h0 : Calm K s) :
    Calm K (State.stageRewrite s u x region list key vec) := by
  unfold State.stageRewrite
  repeat' first
    | with_reducible assumption | with_reducible refine calm_ite ?_ ?_ | with_reducible apply stage_calm
    | (extract_lets +onlyGivenNames z1; first | refine calm_cut z1 ?_ fun hz => ?_ | refine calm_cut z1.st ?_ fun hz => ?_ | skip)
    | (refine calm_of ?_; dsimp only; refine calm_to ?_) | dsimp +zetaDelta only

theorem tellItem_calm (s : State) (u : Upd) (key : Key) (region : Nat) (h0 : Calm K s) :
    Calm K (State.tellItem s u key region) := by
  unfold State.tellItem
  repeat' first
    | with_reducible assumption | with_reducible refine calm_ite ?_ ?_ | with_reducible apply send_calm
    | with_reducible apply lead_calm | split | (refine calm_of ?_; dsimp only; refine calm_to ?_)

theorem handOver_calm (s : State) (u : Upd) (key : Key) (vec : Bytes) (a : IndexAttr) (r : Nat) (e : Held) (target : Nat) (h0 : Calm K s) :
    Calm K (State.handOver s u key vec a r e target) := by
  unfold State.handOver
  repeat' first
    | with_reducible assumption | with_reducible refine calm_ite ?_ ?_ | with_reducible apply send_calm
    | with_reducible apply stage_calm | with_reducible refine calm_foldl ?_ ?_ | with_reducible refine calm_foldl1 ?_ ?_ | intro _
    | (extract_lets +onlyGivenNames z1; first | refine calm_cut z1 ?_ fun hz => ?_ | refine calm_cut z1.1 ?_ fun hz => ?_ | refine calm_cut z1.2 ?_ fun hz => ?_ | refine calm_cut z1.st ?_ fun hz => ?_ | skip)
    | split | (refine calm_of ?_; dsimp only; refine calm_to ?_) | dsimp +zetaDelta only

theorem stageBound_calm (s : State) (u : Upd) (key : Key) (vec : Bytes) (prior : Nat) (target : Nat) (h0 : Calm K s) :
    Calm K (State.stageBound s u key vec prior target).1 := by
  unfold State.stageBound
  repeat' first
    | with_reducible assumption | with_reducible refine calm_ite ?_ ?_ | with_reducible apply useOwn_calm
    | with_reducible apply stage_calm | with_reducible apply stageRewrite_calm | with_reducible apply tellItem_calm
    | with_reducible apply handOver_calm
    | (extract_lets +onlyGivenNames z1; first | refine calm_cut z1 ?_ fun hz => ?_ | refine calm_cut z1.st ?_ fun hz => ?_ | skip)
    | split | (refine calm_of ?_; dsimp only; refine calm_to ?_) | dsimp +zetaDelta only

theorem stageUpd_calm (s : State) (u : Upd) (h0 : Calm K s) :
    Calm K (State.stageUpd s u).1 := by
  unfold State.stageUpd
  repeat' first
    | with_reducible assumption | with_reducible refine calm_ite ?_ ?_ | with_reducible apply useOwn_calm
    | with_reducible apply stageUpsert_calm | with_reducible apply stageDelete_calm | with_reducible apply stageEdits_calm
    | with_reducible apply stageBound_calm | split | (refine calm_of ?_; dsimp only; refine calm_to ?_)

theorem stageReport_calm (s : State) (x : Upd × Bool) (h0 : Calm K s) :
    Calm K (State.stageReport s x) := by
  unfold State.stageReport
  repeat' first
    | with_reducible assumption | with_reducible refine calm_ite ?_ ?_ | with_reducible apply report_calm
    | with_reducible apply stageUpd_calm
    | (extract_lets +onlyGivenNames z1; first | refine calm_cut z1 ?_ fun hz => ?_ | refine calm_cut z1.1 ?_ fun hz => ?_ | refine calm_cut z1.2 ?_ fun hz => ?_ | refine calm_cut z1.st ?_ fun hz => ?_ | skip)
    | split | (refine calm_of ?_; dsimp only; refine calm_to ?_) | dsimp +zetaDelta only

theorem restageRegions_calm (s : State) (slot : Nat) (h0 : Calm K s) :
    Calm K (State.restageRegions s slot) := by
  unfold State.restageRegions
  repeat' first
    | with_reducible assumption | with_reducible refine calm_ite ?_ ?_ | with_reducible apply mapChan_calm
    | with_reducible apply unstage_calm | with_reducible apply stageReport_calm
    | with_reducible refine calm_foldl ?_ ?_ | with_reducible refine calm_foldl1 ?_ ?_ | intro _
    | (extract_lets +onlyGivenNames z1; first | refine calm_cut z1 ?_ fun hz => ?_ | refine calm_cut z1.1 ?_ fun hz => ?_ | refine calm_cut z1.st ?_ fun hz => ?_ | skip)
    | (refine calm_of ?_; dsimp only; refine calm_to ?_) | dsimp +zetaDelta only

theorem sendBound_calm (s : State) (slot : Nat) (t : Table) (x : Index) (row : Nat) (h0 : Calm K s) :
    Calm K (State.sendBound s slot t x row) := by
  unfold State.sendBound
  repeat' first
    | with_reducible assumption | with_reducible refine calm_ite ?_ ?_ | with_reducible apply nextRoutes_calm
    | with_reducible apply sendUpd_calm | with_reducible refine calm_foldl ?_ ?_ | with_reducible refine calm_foldl1 ?_ ?_
    | intro _ | (extract_lets +onlyGivenNames z1; first | refine calm_cut z1 ?_ fun hz => ?_ | skip) | split
    | (refine calm_of ?_; dsimp only; refine calm_to ?_) | dsimp +zetaDelta only

theorem sendFresh_calm (s : State) (slot : Nat) (h0 : Calm K s) :
    Calm K (State.sendFresh s slot) := by
  unfold State.sendFresh
  repeat' first
    | with_reducible assumption | with_reducible refine calm_ite ?_ ?_ | with_reducible apply mapTable_calm
    | with_reducible apply sendBound_calm | with_reducible refine calm_foldl ?_ ?_ | with_reducible refine calm_foldl1 ?_ ?_
    | intro _ | split | (refine calm_of ?_; dsimp only; refine calm_to ?_) | dsimp +zetaDelta only

theorem logRejected_calm (s : State) (u : Upd) (h0 : Calm K s) :
    Calm K (State.logRejected s u) := by
  unfold State.logRejected
  repeat' first
    | with_reducible assumption | with_reducible refine calm_ite ?_ ?_ | with_reducible apply logAdd_calm | split
    | (refine calm_of ?_; dsimp only; refine calm_to ?_)

theorem updateStage_calm (s : State) (e : EaselEntry) (h0 : Calm K s) :
    Calm K (State.updateStage s e) := by
  unfold State.updateStage
  repeat' first
    | with_reducible assumption | with_reducible refine calm_ite ?_ ?_ | with_reducible apply coreFree_calm
    | with_reducible apply arrayWork_calm | with_reducible apply mediaUpds_calm | with_reducible apply restageRegions_calm
    | with_reducible apply sendFresh_calm | with_reducible apply logRejected_calm | with_reducible refine calm_foldl ?_ ?_
    | with_reducible refine calm_foldl1 ?_ ?_ | intro _
    | (extract_lets +onlyGivenNames z1; first | refine calm_cut z1 ?_ fun hz => ?_ | refine calm_cut z1.1 ?_ fun hz => ?_ | refine calm_cut z1.2 ?_ fun hz => ?_ | skip)
    | (refine calm_of ?_; dsimp only; refine calm_to ?_) | dsimp +zetaDelta only

theorem migrateThen_calm (s : State) (e : EaselEntry) (h0 : Calm K s) :
    Calm K (State.migrateThen s e) := by
  unfold State.migrateThen
  repeat' first
    | with_reducible assumption | with_reducible refine calm_ite ?_ ?_ | with_reducible apply migrateWindow_calm
    | with_reducible apply restorePieces_calm | with_reducible apply restageRows_calm | with_reducible apply restageRegions_calm
    | with_reducible refine calm_foldl ?_ ?_ | with_reducible refine calm_foldl1 ?_ ?_ | intro _
    | (extract_lets +onlyGivenNames z1; first | refine calm_cut z1 ?_ fun hz => ?_ | refine calm_cut z1.1 ?_ fun hz => ?_ | skip)
    | split | (refine calm_of ?_; dsimp only; refine calm_to ?_) | dsimp +zetaDelta only

end Sys2Proof.Machine
end

