-- ==== Sys2Proof/Laws/CalmCompact.lean ====
section
/-! SUPPORT. The operations of Compact.lean that windows use keep what `Calm` says. -/

namespace Sys2Proof.Machine

set_option linter.tactic.unusedName false

variable {K : EaselSt × Tbl Mailbox × Tbl EvRing × Tbl Aperture × TimeSt × Keys × Boot × HostPort × Tbl Histo × Tbl Graph × Units × Nat}

theorem runOp_calm (s : State) (o : ListOp) (h0 : Calm K s) :
    Calm K (State.runOp s o) := by
  unfold State.runOp
  repeat' first
    | with_reducible assumption | with_reducible refine calm_ite ?_ ?_ | intro _
    | (extract_lets +onlyGivenNames z1; first | refine calm_cut z1 ?_ fun hz => ?_ | skip) | split
    | (refine calm_of ?_; dsimp only; refine calm_to ?_) | dsimp +zetaDelta only

theorem compactWindow_calm (s : State) (e : EaselEntry) (h0 : Calm K s) :
    Calm K (State.compactWindow s e) := by
  unfold State.compactWindow
  repeat' first
    | with_reducible assumption | with_reducible refine calm_ite ?_ ?_ | with_reducible apply coreFree_calm
    | with_reducible apply runOp_calm | with_reducible refine calm_foldl ?_ ?_ | with_reducible refine calm_foldl1 ?_ ?_ | intro _
    | (extract_lets +onlyGivenNames z1; first | refine calm_cut z1 ?_ fun hz => ?_ | skip) | split
    | (refine calm_of ?_; dsimp only; refine calm_to ?_) | dsimp +zetaDelta only

end Sys2Proof.Machine
end

