-- ==== Sys2Proof/Laws/CalmFlash.lean ====
section
/-! SUPPORT. The operations of Flash.lean that windows use keep what `Calm` says. -/

namespace Sys2Proof.Machine

set_option linter.tactic.unusedName false

variable {K : EaselSt × Tbl Mailbox × Tbl EvRing × Tbl Aperture × TimeSt × Keys × Boot × HostPort × Tbl Histo × Tbl Graph × Units × Nat}

theorem countFolio_calm (s : State) (folio : Nat) (counter : Nat) (n : Nat) (h0 : Calm K s) :
    Calm K (State.countFolio s folio counter n) := by
  unfold State.countFolio
  repeat' first
    | with_reducible assumption | with_reducible refine calm_ite ?_ ?_ | with_reducible apply account_calm | split
    | (refine calm_of ?_; dsimp only; refine calm_to ?_)

theorem moveFolio_calm (s : State) (die : Nat) (p : Nat × MapEntry) (h0 : Calm K s) :
    Calm K (State.moveFolio s die p) := by
  unfold State.moveFolio
  repeat' first
    | with_reducible assumption | with_reducible refine calm_ite ?_ ?_ | with_reducible apply setMap_calm
    | with_reducible apply countFolio_calm | split | (refine calm_of ?_; dsimp only; refine calm_to ?_)

theorem moveInto_calm (s : State) (die : Nat) (blk : Nat) (p : Nat × MapEntry) (h0 : Calm K s) :
    Calm K (State.moveInto s die blk p) := by
  unfold State.moveInto
  repeat' first
    | with_reducible assumption | with_reducible refine calm_ite ?_ ?_ | with_reducible apply mapFlash_calm
    | with_reducible apply setMap_calm | with_reducible apply countFolio_calm | intro _
    | (extract_lets +onlyGivenNames z1; first | refine calm_cut z1 ?_ fun hz => ?_ | refine calm_cut z1.1 ?_ fun hz => ?_ | refine calm_cut z1.2 ?_ fun hz => ?_ | skip)
    | (refine calm_of ?_; dsimp only; refine calm_to ?_) | dsimp +zetaDelta only

theorem emptyBlock_calm (s : State) (die : Nat) (b : Nat) (into : Option Nat := none) (h0 : Calm K s) :
    Calm K (State.emptyBlock s die b into) := by
  unfold State.emptyBlock
  repeat' first
    | with_reducible assumption | with_reducible refine calm_ite ?_ ?_ | with_reducible apply mapFlash_calm
    | with_reducible apply moveFolio_calm | with_reducible apply moveInto_calm | with_reducible refine calm_foldl ?_ ?_
    | with_reducible refine calm_foldl1 ?_ ?_ | intro _
    | (extract_lets +onlyGivenNames z1; first | refine calm_cut z1 ?_ fun hz => ?_ | skip) | split
    | (refine calm_of ?_; dsimp only; refine calm_to ?_) | dsimp +zetaDelta only

theorem dieWork_calm (s : State) (die : Nat) (h0 : Calm K s) :
    Calm K (State.dieWork s die) := by
  unfold State.dieWork
  repeat' first
    | with_reducible assumption | with_reducible refine calm_ite ?_ ?_ | with_reducible apply free_calm
    | with_reducible apply mapFlash_calm | with_reducible apply emptyBlock_calm | with_reducible refine calm_foldl ?_ ?_
    | with_reducible refine calm_foldl1 ?_ ?_ | intro _
    | (extract_lets +onlyGivenNames z1; first | refine calm_cut z1 ?_ fun hz => ?_ | refine calm_cut z1.1 ?_ fun hz => ?_ | refine calm_cut z1.2 ?_ fun hz => ?_ | skip)
    | split | (refine calm_of ?_; dsimp only; refine calm_to ?_) | dsimp +zetaDelta only

theorem startProg_calm (s : State) (p : FProg) (h0 : Calm K s) :
    Calm K (State.startProg s p) := by
  unfold State.startProg
  repeat' first
    | with_reducible assumption | with_reducible refine calm_ite ?_ ?_ | with_reducible apply mapFlash_calm
    | with_reducible apply id_calm | intro _ | (refine calm_of ?_; dsimp only; refine calm_to ?_) | dsimp +zetaDelta only

theorem journalWork_calm (s : State) (h0 : Calm K s) :
    Calm K (State.journalWork s) := by
  unfold State.journalWork
  repeat' first
    | with_reducible assumption | with_reducible refine calm_ite ?_ ?_ | with_reducible apply account_calm
    | with_reducible apply startProg_calm | with_reducible refine calm_foldl ?_ ?_ | with_reducible refine calm_foldl1 ?_ ?_
    | intro _
    | (extract_lets +onlyGivenNames z1; first | refine calm_cut z1 ?_ fun hz => ?_ | refine calm_cut z1.st ?_ fun hz => ?_ | skip)
    | split | (refine calm_of ?_; dsimp only; refine calm_to ?_) | dsimp +zetaDelta only

theorem quireWork_calm (s : State) (h0 : Calm K s) :
    Calm K (State.quireWork s) := by
  unfold State.quireWork
  repeat' first
    | with_reducible assumption | with_reducible refine calm_ite ?_ ?_ | with_reducible apply id_calm
    | with_reducible apply startProg_calm | with_reducible refine calm_foldl ?_ ?_ | with_reducible refine calm_foldl1 ?_ ?_
    | intro _ | split | (refine calm_of ?_; dsimp only; refine calm_to ?_) | dsimp +zetaDelta only

theorem rebuildWork_calm (s : State) (h0 : Calm K s) :
    Calm K (State.rebuildWork s) := by
  unfold State.rebuildWork
  repeat' first
    | with_reducible assumption | with_reducible refine calm_ite ?_ ?_ | with_reducible apply mapFlash_calm
    | with_reducible apply startProg_calm | with_reducible refine calm_foldl ?_ ?_ | with_reducible refine calm_foldl1 ?_ ?_
    | intro _
    | (extract_lets +onlyGivenNames z1; first | refine calm_cut z1 ?_ fun hz => ?_ | refine calm_cut z1.st ?_ fun hz => ?_ | skip)
    | split | (refine calm_of ?_; dsimp only; refine calm_to ?_) | dsimp +zetaDelta only

theorem folioWork_calm (s : State) (folio : Nat) (h0 : Calm K s) :
    Calm K (State.folioWork s folio) := by
  unfold State.folioWork
  repeat' first
    | with_reducible assumption | with_reducible refine calm_ite ?_ ?_ | with_reducible apply countFolio_calm
    | with_reducible apply startProg_calm | intro _
    | (extract_lets +onlyGivenNames z1; first | refine calm_cut z1 ?_ fun hz => ?_ | refine calm_cut z1.st ?_ fun hz => ?_ | skip)
    | split | (refine calm_of ?_; dsimp only; refine calm_to ?_) | dsimp +zetaDelta only

theorem foldWork_calm (s : State) (h0 : Calm K s) :
    Calm K (State.foldWork s) := by
  unfold State.foldWork
  repeat' first
    | with_reducible assumption | with_reducible refine calm_ite ?_ ?_ | with_reducible apply countFolio_calm
    | with_reducible apply startProg_calm | with_reducible refine calm_foldl ?_ ?_ | with_reducible refine calm_foldl1 ?_ ?_
    | intro _
    | (extract_lets +onlyGivenNames z1; first | refine calm_cut z1 ?_ fun hz => ?_ | refine calm_cut z1.1 ?_ fun hz => ?_ | refine calm_cut z1.2 ?_ fun hz => ?_ | refine calm_cut z1.st ?_ fun hz => ?_ | skip)
    | split | (refine calm_of ?_; dsimp only; refine calm_to ?_) | dsimp +zetaDelta only

theorem mapWork_calm (s : State) (h0 : Calm K s) :
    Calm K (State.mapWork s) := by
  unfold State.mapWork
  repeat' first
    | with_reducible assumption | with_reducible refine calm_ite ?_ ?_ | with_reducible apply mapFlash_calm
    | with_reducible apply startProg_calm | with_reducible refine calm_foldl ?_ ?_ | with_reducible refine calm_foldl1 ?_ ?_
    | intro _ | (refine calm_of ?_; dsimp only; refine calm_to ?_) | dsimp +zetaDelta only

theorem captureWork_calm (s : State) (slot : Nat) (h : Handle) (h0 : Calm K s) :
    Calm K (State.captureWork s slot h) := by
  unfold State.captureWork
  repeat' first
    | with_reducible assumption | with_reducible refine calm_ite ?_ ?_ | with_reducible apply startProg_calm
    | with_reducible refine calm_foldl ?_ ?_ | with_reducible refine calm_foldl1 ?_ ?_ | intro _ | split
    | (refine calm_of ?_; dsimp only; refine calm_to ?_) | dsimp +zetaDelta only

theorem passWork_calm (s : State) (slot : Nat) (h : Handle) (h0 : Calm K s) :
    Calm K (State.passWork s slot h) := by
  unfold State.passWork
  repeat' first
    | with_reducible assumption | with_reducible refine calm_ite ?_ ?_ | with_reducible apply account_calm
    | with_reducible apply startProg_calm | intro _
    | (extract_lets +onlyGivenNames z1; first | refine calm_cut z1 ?_ fun hz => ?_ | refine calm_cut z1.st ?_ fun hz => ?_ | skip)
    | split | (refine calm_of ?_; dsimp only; refine calm_to ?_) | dsimp +zetaDelta only

theorem splitReads_calm (s : State) (slot : Nat) (h0 : Calm K s) :
    Calm K (State.splitReads s slot) := by
  unfold State.splitReads
  repeat' first
    | with_reducible assumption | with_reducible refine calm_ite ?_ ?_ | with_reducible apply account_calm
    | with_reducible refine calm_foldl ?_ ?_ | with_reducible refine calm_foldl1 ?_ ?_ | intro _
    | (extract_lets +onlyGivenNames z1; first | refine calm_cut z1 ?_ fun hz => ?_ | skip) | split
    | (refine calm_of ?_; dsimp only; refine calm_to ?_) | dsimp +zetaDelta only

theorem sparseWork_calm (s : State) (slot : Nat) (h0 : Calm K s) :
    Calm K (State.sparseWork s slot) := by
  unfold State.sparseWork
  repeat' first
    | with_reducible assumption | with_reducible refine calm_ite ?_ ?_ | with_reducible apply account_calm
    | with_reducible apply placeRecord_calm | with_reducible refine calm_foldl ?_ ?_ | with_reducible refine calm_foldl1 ?_ ?_
    | intro _
    | (extract_lets +onlyGivenNames z1; first | refine calm_cut z1 ?_ fun hz => ?_ | refine calm_cut z1.1 ?_ fun hz => ?_ | refine calm_cut z1.2 ?_ fun hz => ?_ | refine calm_cut z1.st ?_ fun hz => ?_ | skip)
    | split | (refine calm_of ?_; dsimp only; refine calm_to ?_) | dsimp +zetaDelta only

theorem startRead_calm (s : State) (folio : Nat) (m : MapEntry) (back : Nat) (h0 : Calm K s) :
    Calm K (State.startRead s folio m back) := by
  unfold State.startRead
  repeat' first
    | with_reducible assumption | with_reducible refine calm_ite ?_ ?_ | with_reducible apply mapFlash_calm
    | with_reducible apply id_calm | intro _ | (refine calm_of ?_; dsimp only; refine calm_to ?_) | dsimp +zetaDelta only

theorem verifyWork_calm (s : State) (die : Nat) (h0 : Calm K s) :
    Calm K (State.verifyWork s die) := by
  unfold State.verifyWork
  repeat' first
    | with_reducible assumption | with_reducible refine calm_ite ?_ ?_ | with_reducible apply checked_calm
    | with_reducible apply startRead_calm | intro _ | split | (refine calm_of ?_; dsimp only; refine calm_to ?_)
    | dsimp +zetaDelta only

theorem patrolWork_calm (s : State) (ok : Nat → Bool) (h0 : Calm K s) :
    Calm K (State.patrolWork s ok) := by
  unfold State.patrolWork
  repeat' first
    | with_reducible assumption | with_reducible refine calm_ite ?_ ?_ | with_reducible apply mapFlash_calm
    | with_reducible apply startRead_calm | intro _
    | (extract_lets +onlyGivenNames z1; first | refine calm_cut z1 ?_ fun hz => ?_ | refine calm_cut z1.1 ?_ fun hz => ?_ | refine calm_cut z1.2 ?_ fun hz => ?_ | refine calm_cut z1.st ?_ fun hz => ?_ | skip)
    | split | (refine calm_of ?_; dsimp only; refine calm_to ?_) | dsimp +zetaDelta only

theorem backWork_calm (s : State) (slots : List Nat) (ok : Nat → Bool) (h0 : Calm K s) :
    Calm K (State.backWork s slots ok) := by
  unfold State.backWork
  repeat' first
    | with_reducible assumption | with_reducible refine calm_ite ?_ ?_ | with_reducible apply mapFlash_calm
    | with_reducible apply dieWork_calm | with_reducible apply journalWork_calm | with_reducible apply quireWork_calm
    | with_reducible apply rebuildWork_calm | with_reducible apply folioWork_calm | with_reducible apply foldWork_calm
    | with_reducible apply mapWork_calm | with_reducible apply captureWork_calm | with_reducible apply passWork_calm
    | with_reducible apply splitReads_calm | with_reducible apply sparseWork_calm | with_reducible apply verifyWork_calm
    | with_reducible apply patrolWork_calm | with_reducible refine calm_foldl ?_ ?_ | with_reducible refine calm_foldl1 ?_ ?_
    | intro _
    | (extract_lets +onlyGivenNames z1; first | refine calm_cut z1 ?_ fun hz => ?_ | refine calm_cut z1.1 ?_ fun hz => ?_ | refine calm_cut z1.st ?_ fun hz => ?_ | skip)
    | split | (refine calm_of ?_; dsimp only; refine calm_to ?_) | dsimp +zetaDelta only

theorem background_calm (s : State) (e : EaselEntry) (h0 : Calm K s) :
    Calm K (State.background s e) := by
  unfold State.background
  repeat' first
    | with_reducible assumption | with_reducible refine calm_ite ?_ ?_ | with_reducible apply mapFlash_calm
    | with_reducible apply backWork_calm | intro _ | (refine calm_of ?_; dsimp only; refine calm_to ?_) | dsimp +zetaDelta only

theorem fill_calm (s : State) (e : EaselEntry) (h0 : Calm K s) :
    Calm K (State.fill s e) := by
  unfold State.fill
  repeat' first
    | with_reducible assumption | with_reducible refine calm_ite ?_ ?_ | with_reducible apply mapFlash_calm
    | with_reducible apply dieWork_calm | with_reducible apply folioWork_calm | with_reducible apply splitReads_calm
    | with_reducible apply verifyWork_calm | with_reducible apply patrolWork_calm | with_reducible refine calm_foldl ?_ ?_
    | with_reducible refine calm_foldl1 ?_ ?_ | intro _
    | (extract_lets +onlyGivenNames z1; first | refine calm_cut z1 ?_ fun hz => ?_ | refine calm_cut z1.1 ?_ fun hz => ?_ | refine calm_cut z1.st ?_ fun hz => ?_ | skip)
    | split | (refine calm_of ?_; dsimp only; refine calm_to ?_) | dsimp +zetaDelta only

end Sys2Proof.Machine
end

