-- ==== Sys2Proof/Laws/CalmSets.lean ====
section
/-! SUPPORT. The operations of Sets.lean that windows use keep what `Calm` says. -/

namespace Sys2Proof.Machine

set_option linter.tactic.unusedName false

variable {K : EaselSt × Tbl Mailbox × Tbl EvRing × Tbl Aperture × TimeSt × Keys × Boot × HostPort × Tbl Histo × Tbl Graph × Units × Nat}

theorem writeChunk_calm (s : State) (units : List Nat) (i : Nat) (b : Bytes) (h0 : Calm K s) :
    Calm K (State.writeChunk s units i b) := by
  unfold State.writeChunk
  repeat' first
    | with_reducible assumption | with_reducible refine calm_ite ?_ ?_
    | (extract_lets +onlyGivenNames z1; first | refine calm_cut z1 ?_ fun hz => ?_ | skip)
    | (refine calm_of ?_; dsimp only; refine calm_to ?_)
    | dsimp +zetaDelta only

theorem refuseSet_calm (s : State) (op : Nat) (slot : Nat) (x : AllowSet) (h0 : Calm K s) :
    Calm K (State.refuseSet s op slot x) := by
  unfold State.refuseSet
  repeat' first
    | with_reducible assumption | with_reducible refine calm_ite ?_ ?_ | with_reducible apply nbRefuse_calm | intro _ | split
    | (refine calm_of ?_; dsimp only; refine calm_to ?_) | dsimp +zetaDelta only

theorem combineChunk_calm (key : Nat) (slot : Nat) (x : AllowSet) (r : CombineRun) (i : Nat) (h0 : Calm K r.st) :
    Calm K (combineChunk key slot x r i).st := by
  unfold combineChunk
  repeat' first
    | with_reducible assumption | with_reducible refine calm_ite ?_ ?_ | with_reducible apply account_calm
    | with_reducible apply readChunk_calm | with_reducible apply rebuilt_calm | with_reducible apply writeChunk_calm
    | with_reducible refine calm_foldl ?_ ?_ | with_reducible refine calm_foldl1 ?_ ?_
    | with_reducible refine calm_foldlOf CombineRun.st ?_ ?_ | intro _
    | (extract_lets +onlyGivenNames z1; first | refine calm_cut z1 ?_ fun hz => ?_ | refine calm_cut z1.1 ?_ fun hz => ?_ | refine calm_cut z1.2 ?_ fun hz => ?_ | refine calm_cut z1.st ?_ fun hz => ?_ | skip)
    | split | (refine calm_of ?_; dsimp only; refine calm_to ?_) | dsimp +zetaDelta only

theorem combineSet_calm (slot : Nat) (r : CombineRun) (key : Nat) (h0 : Calm K r.st) :
    Calm K (combineSet slot r key).st := by
  unfold combineSet
  repeat' first
    | with_reducible assumption | with_reducible refine calm_ite ?_ ?_ | with_reducible apply refuseSet_calm
    | with_reducible apply combineChunk_calm | with_reducible refine calm_foldl ?_ ?_ | with_reducible refine calm_foldl1 ?_ ?_
    | with_reducible refine calm_foldlOf CombineRun.st ?_ ?_ | intro _
    | (extract_lets +onlyGivenNames z1; first | refine calm_cut z1 ?_ fun hz => ?_ | refine calm_cut z1.1 ?_ fun hz => ?_ | refine calm_cut z1.2 ?_ fun hz => ?_ | refine calm_cut z1.st ?_ fun hz => ?_ | skip)
    | split | (refine calm_of ?_; dsimp only; refine calm_to ?_) | dsimp +zetaDelta only

theorem initSet_calm (slot : Nat) (r : CombineRun) (key : Nat) (h0 : Calm K r.st) :
    Calm K (initSet slot r key).st := by
  unfold initSet
  repeat' first
    | with_reducible assumption | with_reducible refine calm_ite ?_ ?_ | with_reducible apply account_calm
    | with_reducible apply refuseSet_calm | intro _
    | (extract_lets +onlyGivenNames z1; first | refine calm_cut z1 ?_ fun hz => ?_ | refine calm_cut z1.st ?_ fun hz => ?_ | skip)
    | split | (refine calm_of ?_; dsimp only; refine calm_to ?_)
    | dsimp +zetaDelta only

theorem combineWindow_calm (s : State) (e : EaselEntry) (h0 : Calm K s) :
    Calm K (State.combineWindow s e) := by
  unfold State.combineWindow
  repeat' first
    | with_reducible assumption | with_reducible refine calm_ite ?_ ?_ | with_reducible apply combineSet_calm
    | with_reducible apply initSet_calm | with_reducible refine calm_foldl ?_ ?_ | with_reducible refine calm_foldl1 ?_ ?_
    | with_reducible refine calm_foldlOf CombineRun.st ?_ ?_ | intro _
    | (extract_lets +onlyGivenNames z1; first | refine calm_cut z1 ?_ fun hz => ?_ | refine calm_cut z1.st ?_ fun hz => ?_ | skip)
    | split | (refine calm_of ?_; dsimp only; refine calm_to ?_) | dsimp +zetaDelta only

theorem swapSave_calm (s : State) (e : EaselEntry) (h0 : Calm K s) :
    Calm K (State.swapSave s e) := by
  unfold State.swapSave
  repeat' first
    | with_reducible assumption | with_reducible refine calm_ite ?_ ?_ | with_reducible apply mapChan_calm
    | with_reducible apply account_calm | with_reducible apply fault_calm
    | with_reducible refine calm_foldl ?_ ?_ | with_reducible refine calm_foldl1 ?_ ?_
    | with_reducible refine calm_foldlOf CombineRun.st ?_ ?_ | intro _ | split | (refine calm_of ?_; dsimp only; refine calm_to ?_)
    | dsimp +zetaDelta only

theorem swapRestore_calm (s : State) (e : EaselEntry) (uncorrectable : Bool) (h0 : Calm K s) :
    Calm K (State.swapRestore s e uncorrectable) := by
  unfold State.swapRestore
  repeat' first
    | with_reducible assumption | with_reducible refine calm_ite ?_ ?_ | with_reducible apply mapChan_calm
    | with_reducible apply account_calm | with_reducible apply fault_calm
    | intro _
    | (extract_lets +onlyGivenNames z1; first | refine calm_cut z1 ?_ fun hz => ?_ | refine calm_cut z1.1 ?_ fun hz => ?_ | refine calm_cut z1.2 ?_ fun hz => ?_ | skip)
    | split | (refine calm_of ?_; dsimp only; refine calm_to ?_) | dsimp +zetaDelta only

end Sys2Proof.Machine
end

