-- ==== Sys2Proof/Laws/CalmCutoff.lean ====
section
/-! SUPPORT. The operations of Cutoff.lean that windows use keep what `Calm` says. -/

namespace Sys2Proof.Machine

set_option linter.tactic.unusedName false

variable {K : EaselSt × Tbl Mailbox × Tbl EvRing × Tbl Aperture × TimeSt × Keys × Boot × HostPort × Tbl Histo × Tbl Graph × Units × Nat}

theorem cutWritten_calm (s : State) (c : Cmd) (h0 : Calm K s) :
    Calm K (State.cutWritten s c) := by
  unfold State.cutWritten
  repeat' first
    | with_reducible assumption | with_reducible refine calm_ite ?_ ?_ | with_reducible refine calm_foldl ?_ ?_
    | with_reducible refine calm_foldl1 ?_ ?_ | intro _
    | (extract_lets +onlyGivenNames z1; first | refine calm_cut z1 ?_ fun hz => ?_ | refine calm_cut z1.1 ?_ fun hz => ?_ | refine calm_cut z1.2 ?_ fun hz => ?_ | skip)
    | split | (refine calm_of ?_; dsimp only; refine calm_to ?_) | dsimp +zetaDelta only

theorem lateQuery_calm (s : State) (q : OwnerQ) (h0 : Calm K s) :
    Calm K (State.lateQuery s q) := by
  unfold State.lateQuery
  repeat' first
    | with_reducible assumption | with_reducible refine calm_ite ?_ ?_ | with_reducible apply mapOwner_calm
    | with_reducible apply post_calm | intro _
    | (extract_lets +onlyGivenNames z1; first | refine calm_cut z1 ?_ fun hz => ?_ | refine calm_cut z1.1 ?_ fun hz => ?_ | refine calm_cut z1.2 ?_ fun hz => ?_ | skip)
    | split | (refine calm_of ?_; dsimp only; refine calm_to ?_) | dsimp +zetaDelta only

theorem cutHome_calm (s : State) (slot : Nat) (pick : Pick) (at_ : Cmd → Bool) (h0 : Calm K s) :
    Calm K (State.cutHome s slot pick at_).1 := by
  unfold State.cutHome
  repeat' first
    | with_reducible assumption | with_reducible refine calm_ite ?_ ?_ | with_reducible apply cutCmd_calm
    | with_reducible refine calm_foldl ?_ ?_ | with_reducible refine calm_foldl1 ?_ ?_ | intro _
    | (extract_lets +onlyGivenNames z1; first | refine calm_cut z1 ?_ fun hz => ?_ | skip)
    | (refine calm_of ?_; dsimp only; refine calm_to ?_) | dsimp +zetaDelta only

theorem unsend_calm (s : State) (seqs : List Nat) (h0 : Calm K s) :
    Calm K (State.unsend s seqs) := by
  unfold State.unsend
  repeat' first
    | with_reducible assumption | with_reducible refine calm_ite ?_ ?_ | intro _
    | (refine calm_of ?_; dsimp only; refine calm_to ?_) | dsimp +zetaDelta only

theorem unadmit_calm (s : State) (c : Cmd) (h0 : Calm K s) :
    Calm K (State.unadmit s c) := by
  unfold State.unadmit
  repeat' first
    | with_reducible assumption | with_reducible refine calm_ite ?_ ?_ | with_reducible apply mapChan_calm
    | with_reducible apply mapAcct_calm | with_reducible apply mapCmd_calm | with_reducible apply land_calm
    | with_reducible apply deferCmd_calm | with_reducible apply unsend_calm | intro _
    | (extract_lets +onlyGivenNames z1; first | refine calm_cut z1 ?_ fun hz => ?_ | skip)
    | (refine calm_of ?_; dsimp only; refine calm_to ?_) | dsimp +zetaDelta only

theorem retryScatter_calm (s : State) (port : Nat) (q : Queued) (h0 : Calm K s) :
    Calm K (State.retryScatter s port q) := by
  unfold State.retryScatter
  repeat' first
    | with_reducible assumption | with_reducible refine calm_ite ?_ ?_ | with_reducible apply mapPort_calm
    | with_reducible apply putOut_calm | intro _
    | (extract_lets +onlyGivenNames z1; first | refine calm_cut z1 ?_ fun hz => ?_ | skip) | split
    | (refine calm_of ?_; dsimp only; refine calm_to ?_) | dsimp +zetaDelta only

theorem retryScatters_calm (s : State) (slot : Nat) (pick : Pick) (h0 : Calm K s) :
    Calm K (State.retryScatters s slot pick) := by
  unfold State.retryScatters
  repeat' first
    | with_reducible assumption | with_reducible refine calm_ite ?_ ?_ | with_reducible apply retryScatter_calm
    | with_reducible refine calm_foldl ?_ ?_ | with_reducible refine calm_foldl1 ?_ ?_ | intro _
    | (extract_lets +onlyGivenNames z1; first | refine calm_cut z1 ?_ fun hz => ?_ | skip) | split
    | (refine calm_of ?_; dsimp only; refine calm_to ?_) | dsimp +zetaDelta only

theorem recallExtents_calm (s : State) (slot : Nat) (h0 : Calm K s) :
    Calm K (State.recallExtents s slot) := by
  unfold State.recallExtents
  repeat' first
    | with_reducible assumption | with_reducible refine calm_ite ?_ ?_ | intro _
    | (extract_lets +onlyGivenNames z1; first | refine calm_cut z1 ?_ fun hz => ?_ | refine calm_cut z1.1 ?_ fun hz => ?_ | refine calm_cut z1.2 ?_ fun hz => ?_ | skip)
    | split | (refine calm_of ?_; dsimp only; refine calm_to ?_) | dsimp +zetaDelta only

theorem cutScan_calm (s : State) (q : OwnerQ) (h0 : Calm K s) :
    Calm K (State.cutScan s q) := by
  unfold State.cutScan
  repeat' first
    | with_reducible assumption | with_reducible refine calm_ite ?_ ?_ | with_reducible apply mapOwner_calm
    | with_reducible apply sendCands_calm | intro _
    | (extract_lets +onlyGivenNames z1; first | refine calm_cut z1 ?_ fun hz => ?_ | refine calm_cut z1.1 ?_ fun hz => ?_ | refine calm_cut z1.2 ?_ fun hz => ?_ | skip)
    | split | (refine calm_of ?_; dsimp only; refine calm_to ?_) | dsimp +zetaDelta only

theorem cutRank_calm (s : State) (q : OwnerQ) (h0 : Calm K s) :
    Calm K (State.cutRank s q) := by
  unfold State.cutRank
  repeat' first
    | with_reducible assumption | with_reducible refine calm_ite ?_ ?_ | with_reducible apply mapOwner_calm
    | with_reducible apply post_calm | intro _
    | (extract_lets +onlyGivenNames z1; first | refine calm_cut z1 ?_ fun hz => ?_ | refine calm_cut z1.1 ?_ fun hz => ?_ | refine calm_cut z1.2 ?_ fun hz => ?_ | skip)
    | split | (refine calm_of ?_; dsimp only; refine calm_to ?_) | dsimp +zetaDelta only

theorem cutLookups_calm (s : State) (slot : Nat) (pick : Pick) (h0 : Calm K s) :
    Calm K (State.cutLookups s slot pick).1 := by
  unfold State.cutLookups
  repeat' first
    | with_reducible assumption | with_reducible refine calm_ite ?_ ?_ | intro _
    | (extract_lets +onlyGivenNames z1; first | refine calm_cut z1 ?_ fun hz => ?_ | refine calm_cut z1.1 ?_ fun hz => ?_ | refine calm_cut z1.2 ?_ fun hz => ?_ | skip)
    | split | (refine calm_of ?_; dsimp only; refine calm_to ?_) | dsimp +zetaDelta only

theorem cutStaging_calm (s : State) (slot : Nat) (rows : Bool) (pick : Pick) (h0 : Calm K s) :
    Calm K (State.cutStaging s slot rows pick).1 := by
  unfold State.cutStaging
  repeat' first
    | with_reducible assumption | with_reducible refine calm_ite ?_ ?_ | with_reducible apply unstage_calm
    | with_reducible apply restageRows_calm | with_reducible apply restageRegions_calm | intro _
    | (extract_lets +onlyGivenNames z1; first | refine calm_cut z1 ?_ fun hz => ?_ | refine calm_cut z1.1 ?_ fun hz => ?_ | refine calm_cut z1.2 ?_ fun hz => ?_ | skip)
    | split | (refine calm_of ?_; dsimp only; refine calm_to ?_) | dsimp +zetaDelta only

theorem cutRouted_calm (s : State) (slot : Nat) (pick : Pick) (h0 : Calm K s) :
    Calm K (State.cutRouted s slot pick).1 := by
  unfold State.cutRouted
  repeat' first
    | with_reducible assumption | with_reducible refine calm_ite ?_ ?_ | with_reducible apply restageRegions_calm | intro _
    | (extract_lets +onlyGivenNames z1; first | refine calm_cut z1 ?_ fun hz => ?_ | refine calm_cut z1.1 ?_ fun hz => ?_ | refine calm_cut z1.2 ?_ fun hz => ?_ | skip)
    | split | (refine calm_of ?_; dsimp only; refine calm_to ?_) | dsimp +zetaDelta only

theorem cutWork_calm (s : State) (stage : Nat) (slot : Nat) (pick : Pick) (h0 : Calm K s) :
    Calm K (State.cutWork s stage slot pick).1 := by
  unfold State.cutWork
  repeat' first
    | with_reducible assumption | with_reducible refine calm_ite ?_ ?_ | with_reducible apply fault_calm
    | with_reducible apply stage_calm | with_reducible apply cutWritten_calm | with_reducible apply lateQuery_calm
    | with_reducible apply cutHome_calm | with_reducible apply unsend_calm | with_reducible apply unadmit_calm
    | with_reducible apply retryScatters_calm | with_reducible apply recallExtents_calm | with_reducible apply cutScan_calm
    | with_reducible apply cutRank_calm | with_reducible apply cutLookups_calm | with_reducible apply cutStaging_calm
    | with_reducible apply cutRouted_calm | with_reducible refine calm_foldl ?_ ?_ | with_reducible refine calm_foldl1 ?_ ?_
    | intro _
    | (extract_lets +onlyGivenNames z1; first | refine calm_cut z1 ?_ fun hz => ?_ | refine calm_cut z1.1 ?_ fun hz => ?_ | refine calm_cut z1.2 ?_ fun hz => ?_ | skip)
    | split | (refine calm_of ?_; dsimp only; refine calm_to ?_) | dsimp +zetaDelta only

theorem cutStage_calm (s : State) (stage : Nat) (entry : Nat) (slot : Nat) (pick : Pick) (h0 : Calm K s) :
    Calm K (State.cutStage s stage entry slot pick) := by
  unfold State.cutStage
  repeat' first
    | with_reducible assumption | with_reducible refine calm_ite ?_ ?_ | with_reducible apply cutEvent_calm
    | with_reducible apply stage_calm | with_reducible apply cutWork_calm
    | (extract_lets +onlyGivenNames z1; first | refine calm_cut z1 ?_ fun hz => ?_ | refine calm_cut z1.1 ?_ fun hz => ?_ | refine calm_cut z1.2 ?_ fun hz => ?_ | skip)
    | (refine calm_of ?_; dsimp only; refine calm_to ?_) | dsimp +zetaDelta only

theorem cutLate_calm (s : State) (stage : Nat) (entry : Nat) (e : EaselEntry) (arrays : Nat) (jobs : List Job) (h0 : Calm K s) :
    Calm K (State.cutLate s stage entry e arrays jobs) := by
  unfold State.cutLate
  repeat' first
    | with_reducible assumption | with_reducible refine calm_ite ?_ ?_ | with_reducible apply stage_calm
    | with_reducible apply cutStage_calm | intro _
    | (extract_lets +onlyGivenNames z1; first | refine calm_cut z1 ?_ fun hz => ?_ | skip) | split
    | (refine calm_of ?_; dsimp only; refine calm_to ?_) | dsimp +zetaDelta only

end Sys2Proof.Machine
end

