-- ==== Sys2Proof/Laws/CalmBuild.lean ====
section
/-! SUPPORT. The operations of Build.lean that windows use keep what `Calm` says. -/

namespace Sys2Proof.Machine

set_option linter.tactic.unusedName false

variable {K : EaselSt × Tbl Mailbox × Tbl EvRing × Tbl Aperture × TimeSt × Keys × Boot × HostPort × Tbl Histo × Tbl Graph × Units × Nat}

theorem mapBuild_calm (s : State) (slot : Nat) (h : Handle) (f : Build → Build) (h0 : Calm K s) :
    Calm K (State.mapBuild s slot h f) := by
  unfold State.mapBuild
  repeat' first
    | with_reducible assumption | with_reducible refine calm_ite ?_ ?_ | intro _ | split
    | (refine calm_of ?_; dsimp only; refine calm_to ?_) | dsimp +zetaDelta only

theorem takeBuild_calm (s : State) (x0 : Move) (h0 : Calm K s) :
    Calm K (State.takeBuild s x0) := by
  unfold State.takeBuild
  repeat' first
    | with_reducible assumption | with_reducible refine calm_ite ?_ ?_ | with_reducible apply mapBuild_calm
    | with_reducible refine calm_foldl ?_ ?_ | with_reducible refine calm_foldl1 ?_ ?_
    | with_reducible refine calm_foldlOf PlaceRun.st ?_ ?_ | intro _ | split | (refine calm_of ?_; dsimp only; refine calm_to ?_)
    | dsimp +zetaDelta only

theorem buildOne_calm (e : EaselEntry) (s : State) (b : Build) (h0 : Calm K s) :
    Calm K (State.buildOne e s b) := by
  unfold State.buildOne
  repeat' first
    | with_reducible assumption | with_reducible refine calm_ite ?_ ?_ | with_reducible apply arrayWork_calm
    | with_reducible apply mapBuild_calm | intro _ | split | (refine calm_of ?_; dsimp only; refine calm_to ?_)
    | dsimp +zetaDelta only

theorem buildWindow_calm (s : State) (e : EaselEntry) (h0 : Calm K s) :
    Calm K (State.buildWindow s e) := by
  unfold State.buildWindow
  repeat' first
    | with_reducible assumption | with_reducible refine calm_ite ?_ ?_ | with_reducible apply coreFree_calm
    | with_reducible apply takeBuild_calm | with_reducible apply buildOne_calm | with_reducible refine calm_foldl ?_ ?_
    | with_reducible refine calm_foldl1 ?_ ?_ | with_reducible refine calm_foldlOf PlaceRun.st ?_ ?_ | intro _
    | (extract_lets +onlyGivenNames z1; first | refine calm_cut z1 ?_ fun hz => ?_ | refine calm_cut z1.2 ?_ fun hz => ?_ | skip)
    | split | (refine calm_of ?_; dsimp only; refine calm_to ?_) | dsimp +zetaDelta only

end Sys2Proof.Machine
end

