-- ==== Sys2Proof/Laws/CalmExec.lean ====
section
/-! SUPPORT. No window touches what `Calm` says. -/

namespace Sys2Proof.Machine

set_option linter.tactic.unusedName false

variable {K : EaselSt × Tbl Mailbox × Tbl EvRing × Tbl Aperture × TimeSt × Keys × Boot × HostPort × Tbl Histo × Tbl Graph × Units × Nat}

/-- The answer is a next state of which `Calm` holds. -/
def Still (K : EaselSt × Tbl Mailbox × Tbl EvRing × Tbl Aperture × TimeSt × Keys × Boot × HostPort × Tbl Histo × Tbl Graph × Units × Nat)
    (o : Answer) : Prop := ∃ t, o = .next t ∧ Calm K t

theorem next_still {t : State} (h : Calm K t) : Still K (.next t) := ⟨t, rfl, h⟩

theorem whenLive_still {f : State → State} {s : State} (h : Calm K s) (hf : ∀ t, Calm K t → Calm K (f t)) :
    Still K (whenLive f s) := next_still (calm_ite (hf s h) h)

theorem inWindow_still {n stage : Nat} {f : EaselEntry → State → State} {s : State} (h : Calm K s)
    (hf : ∀ e t, Calm K t → Calm K (f e t)) : Still K (inWindow n stage f s) := by
  refine whenLive_still h fun t ht => ?_
  split
  · exact ht
  · exact calm_ite (hf _ _ (enter_calm _ _ _ ht)) (enter_calm _ _ _ ht)

theorem inNodeWindow_still {n stage : Nat} {f : EaselEntry → State → State} {s : State} (h : Calm K s)
    (hf : ∀ e t, Calm K t → Calm K (f e t)) : Still K (inNodeWindow n stage f s) := by
  refine whenLive_still h fun t ht => ?_
  split
  · exact ht
  · exact calm_ite (hf _ _ (enter_calm _ _ _ ht)) (enter_calm _ _ _ ht)

theorem execAdmitWindow_calm (n : Nat) (s : State) (h0 : Calm K s) :
    Still K (execAdmitWindow n s) := by
  unfold execAdmitWindow
  repeat' first
    | with_reducible apply inWindow_still
    | with_reducible assumption | with_reducible refine calm_ite ?_ ?_ | with_reducible apply admitWindow_calm | intro _
    | (refine calm_of ?_; dsimp only; refine calm_to ?_) | dsimp +zetaDelta only

theorem execRoute1_calm (w : ReadWindow) (s : State) (h0 : Calm K s) :
    Still K (execRoute1 w s) := by
  unfold execRoute1
  repeat' first
    | with_reducible apply inWindow_still
    | with_reducible assumption | with_reducible refine calm_ite ?_ ?_ | with_reducible apply meetFaults_calm
    | with_reducible apply route1_calm | with_reducible apply cutLate_calm | intro _
    | (refine calm_of ?_; dsimp only; refine calm_to ?_) | dsimp +zetaDelta only

theorem execScatter_calm (n : Nat) (s : State) (h0 : Calm K s) :
    Still K (execScatter n s) := by
  unfold execScatter
  repeat' first
    | with_reducible apply inWindow_still
    | with_reducible assumption | with_reducible refine calm_ite ?_ ?_ | with_reducible apply scatterWindow_calm | intro _
    | (refine calm_of ?_; dsimp only; refine calm_to ?_) | dsimp +zetaDelta only

theorem execRoute2_calm (w : ReadWindow) (s : State) (h0 : Calm K s) :
    Still K (execRoute2 w s) := by
  unfold execRoute2
  repeat' first
    | with_reducible apply inWindow_still
    | with_reducible assumption | with_reducible refine calm_ite ?_ ?_ | with_reducible apply meetFaults_calm
    | with_reducible apply route2_calm | with_reducible apply cutLate_calm | intro _
    | (refine calm_of ?_; dsimp only; refine calm_to ?_) | dsimp +zetaDelta only

theorem execScan_calm (w : ReadWindow) (s : State) (h0 : Calm K s) :
    Still K (execScan w s) := by
  unfold execScan
  repeat' first
    | with_reducible apply inWindow_still
    | with_reducible assumption | with_reducible refine calm_ite ?_ ?_ | with_reducible apply meetFaults_calm
    | with_reducible apply scanWindow_calm | intro _ | (refine calm_of ?_; dsimp only; refine calm_to ?_) | dsimp +zetaDelta only

theorem execNominate_calm (n : Nat) (s : State) (h0 : Calm K s) :
    Still K (execNominate n s) := by
  unfold execNominate
  repeat' first
    | with_reducible apply inWindow_still
    | with_reducible assumption | with_reducible refine calm_ite ?_ ?_ | with_reducible apply nominateWindow_calm | intro _
    | (refine calm_of ?_; dsimp only; refine calm_to ?_) | dsimp +zetaDelta only

theorem execFetchWindow_calm (w : ReadWindow) (s : State) (h0 : Calm K s) :
    Still K (execFetchWindow w s) := by
  unfold execFetchWindow
  repeat' first
    | with_reducible apply inWindow_still
    | with_reducible assumption | with_reducible refine calm_ite ?_ ?_ | with_reducible apply meetFaults_calm
    | with_reducible apply fetchWindow_calm | with_reducible apply fill_calm | intro _
    | (refine calm_of ?_; dsimp only; refine calm_to ?_) | dsimp +zetaDelta only

theorem execRank_calm (n : Nat) (s : State) (h0 : Calm K s) :
    Still K (execRank n s) := by
  unfold execRank
  repeat' first
    | with_reducible apply inWindow_still
    | with_reducible assumption | with_reducible refine calm_ite ?_ ?_ | with_reducible apply rankWindow_calm | intro _
    | (refine calm_of ?_; dsimp only; refine calm_to ?_) | dsimp +zetaDelta only

theorem execRescore_calm (w : ReadWindow) (s : State) (h0 : Calm K s) :
    Still K (execRescore w s) := by
  unfold execRescore
  repeat' first
    | with_reducible apply inWindow_still
    | with_reducible assumption | with_reducible refine calm_ite ?_ ?_ | with_reducible apply meetFaults_calm
    | with_reducible apply rescoreWindow_calm | with_reducible apply cutLate_calm | intro _
    | (refine calm_of ?_; dsimp only; refine calm_to ?_) | dsimp +zetaDelta only

theorem execDeliver_calm (n : Nat) (s : State) (h0 : Calm K s) :
    Still K (execDeliver n s) := by
  unfold execDeliver
  repeat' first
    | with_reducible apply inWindow_still
    | with_reducible assumption | with_reducible refine calm_ite ?_ ?_ | with_reducible apply deliverWindow_calm
    | with_reducible apply replayNow_calm | intro _ | (refine calm_of ?_; dsimp only; refine calm_to ?_) | dsimp +zetaDelta only

theorem execLookupWindow_calm (w : ReadWindow) (s : State) (h0 : Calm K s) :
    Still K (execLookupWindow w s) := by
  unfold execLookupWindow
  repeat' first
    | with_reducible apply inWindow_still
    | with_reducible assumption | with_reducible refine calm_ite ?_ ?_ | with_reducible apply meetFaults_calm
    | with_reducible apply lookupWindow_calm | intro _ | (refine calm_of ?_; dsimp only; refine calm_to ?_) | dsimp +zetaDelta only

theorem execApplyStage_calm (w : ReadWindow) (s : State) (h0 : Calm K s) :
    Still K (execApplyStage w s) := by
  unfold execApplyStage
  repeat' first
    | with_reducible apply inWindow_still
    | with_reducible assumption | with_reducible refine calm_ite ?_ ?_ | with_reducible apply meetFaults_calm
    | with_reducible apply applyStage_calm | intro _ | (refine calm_of ?_; dsimp only; refine calm_to ?_) | dsimp +zetaDelta only

theorem execUpdateStage_calm (w : ReadWindow) (s : State) (h0 : Calm K s) :
    Still K (execUpdateStage w s) := by
  unfold execUpdateStage
  repeat' first
    | with_reducible apply inWindow_still
    | with_reducible assumption | with_reducible refine calm_ite ?_ ?_ | with_reducible apply meetFaults_calm
    | with_reducible apply sendFresh_calm | with_reducible apply updateStage_calm | with_reducible apply cutLate_calm | intro _
    | (refine calm_of ?_; dsimp only; refine calm_to ?_) | dsimp +zetaDelta only

theorem execCompact_calm (n : Nat) (s : State) (h0 : Calm K s) :
    Still K (execCompact n s) := by
  unfold execCompact
  repeat' first
    | with_reducible apply inWindow_still
    | with_reducible assumption | with_reducible refine calm_ite ?_ ?_ | with_reducible apply compactWindow_calm | intro _
    | (refine calm_of ?_; dsimp only; refine calm_to ?_) | dsimp +zetaDelta only

theorem execFlashBackground_calm (n : Nat) (s : State) (h0 : Calm K s) :
    Still K (execFlashBackground n s) := by
  unfold execFlashBackground
  repeat' first
    | with_reducible apply inNodeWindow_still
    | with_reducible assumption | with_reducible refine calm_ite ?_ ?_ | with_reducible apply background_calm | intro _
    | (refine calm_of ?_; dsimp only; refine calm_to ?_) | dsimp +zetaDelta only

theorem execMigrateWindow_calm (n : Nat) (s : State) (h0 : Calm K s) :
    Still K (execMigrateWindow n s) := by
  unfold execMigrateWindow
  repeat' first
    | with_reducible apply inNodeWindow_still
    | with_reducible assumption | with_reducible refine calm_ite ?_ ?_ | with_reducible apply migrateThen_calm | intro _
    | (refine calm_of ?_; dsimp only; refine calm_to ?_) | dsimp +zetaDelta only

theorem execBuildWindow_calm (n : Nat) (s : State) (h0 : Calm K s) :
    Still K (execBuildWindow n s) := by
  unfold execBuildWindow
  repeat' first
    | with_reducible apply inWindow_still
    | with_reducible assumption | with_reducible refine calm_ite ?_ ?_ | with_reducible apply buildWindow_calm | intro _
    | (refine calm_of ?_; dsimp only; refine calm_to ?_) | dsimp +zetaDelta only

theorem execSwapSave_calm (n : Nat) (s : State) (h0 : Calm K s) :
    Still K (execSwapSave n s) := by
  unfold execSwapSave
  repeat' first
    | with_reducible apply inWindow_still
    | with_reducible assumption | with_reducible refine calm_ite ?_ ?_ | with_reducible apply swapSave_calm | intro _
    | (refine calm_of ?_; dsimp only; refine calm_to ?_) | dsimp +zetaDelta only

theorem execSwapRestore_calm (n : Nat) (uncorrectable : Bool) (s : State) (h0 : Calm K s) :
    Still K (execSwapRestore n uncorrectable s) := by
  unfold execSwapRestore
  repeat' first
    | with_reducible apply inWindow_still
    | with_reducible assumption | with_reducible refine calm_ite ?_ ?_ | with_reducible apply swapRestore_calm | intro _
    | (refine calm_of ?_; dsimp only; refine calm_to ?_) | dsimp +zetaDelta only

theorem execSetCombine_calm (n : Nat) (s : State) (h0 : Calm K s) :
    Still K (execSetCombine n s) := by
  unfold execSetCombine
  repeat' first
    | with_reducible apply inWindow_still
    | with_reducible assumption | with_reducible refine calm_ite ?_ ?_ | with_reducible apply combineWindow_calm | intro _
    | (refine calm_of ?_; dsimp only; refine calm_to ?_) | dsimp +zetaDelta only

end Sys2Proof.Machine
end

