-- ==== Sys2Proof/Laws/State.lean ====
section
/-! SUPPORT. What each update of the state leaves as it was, and what it writes: one lemma per field, by definition. -/

namespace Sys2Proof.Machine

variable (s : State)

/-! ### emit -/

@[simp] theorem emit_tap (o : Out) : (s.emit o).tap = s.tap := rfl
@[simp] theorem emit_frame (o : Out) : (s.emit o).frame = s.frame := rfl
@[simp] theorem emit_easel (o : Out) : (s.emit o).easel = s.easel := rfl
@[simp] theorem emit_mbs (o : Out) : (s.emit o).mbs = s.mbs := rfl
@[simp] theorem emit_chans (o : Out) : (s.emit o).chans = s.chans := rfl
@[simp] theorem emit_changes (o : Out) : (s.emit o).changes = s.changes := rfl
@[simp] theorem emit_planned (o : Out) : (s.emit o).planned = s.planned := rfl
@[simp] theorem emit_landings (o : Out) : (s.emit o).landings = s.landings := rfl
@[simp] theorem emit_nextLand (o : Out) : (s.emit o).nextLand = s.nextLand := rfl
@[simp] theorem emit_work (o : Out) : (s.emit o).work = s.work := rfl
@[simp] theorem emit_inbox (o : Out) : (s.emit o).inbox = s.inbox := rfl
@[simp] theorem emit_ownerQs (o : Out) : (s.emit o).ownerQs = s.ownerQs := rfl
@[simp] theorem emit_scanParts (o : Out) : (s.emit o).scanParts = s.scanParts := rfl
@[simp] theorem emit_ownerFs (o : Out) : (s.emit o).ownerFs = s.ownerFs := rfl
@[simp] theorem emit_outbox (o : Out) : (s.emit o).outbox = s.outbox := rfl
@[simp] theorem emit_updIn (o : Out) : (s.emit o).updIn = s.updIn := rfl
@[simp] theorem emit_heldUpd (o : Out) : (s.emit o).heldUpd = s.heldUpd := rfl
@[simp] theorem emit_staged (o : Out) : (s.emit o).staged = s.staged := rfl
@[simp] theorem emit_took (o : Out) : (s.emit o).took = s.took := rfl
@[simp] theorem emit_durs (o : Out) : (s.emit o).durs = s.durs := rfl
@[simp] theorem emit_listOps (o : Out) : (s.emit o).listOps = s.listOps := rfl
@[simp] theorem emit_indexes (o : Out) : (s.emit o).indexes = s.indexes := rfl
@[simp] theorem emit_sets (o : Out) : (s.emit o).sets = s.sets := rfl
@[simp] theorem emit_tables (o : Out) : (s.emit o).tables = s.tables := rfl
@[simp] theorem emit_graphs (o : Out) : (s.emit o).graphs = s.graphs := rfl
@[simp] theorem emit_streams (o : Out) : (s.emit o).streams = s.streams := rfl
@[simp] theorem emit_migs (o : Out) : (s.emit o).migs = s.migs := rfl
@[simp] theorem emit_builds (o : Out) : (s.emit o).builds = s.builds := rfl
@[simp] theorem emit_dram (o : Out) : (s.emit o).dram = s.dram := rfl
@[simp] theorem emit_aps (o : Out) : (s.emit o).aps = s.aps := rfl
@[simp] theorem emit_flash (o : Out) : (s.emit o).flash = s.flash := rfl
@[simp] theorem emit_ports (o : Out) : (s.emit o).ports = s.ports := rfl
@[simp] theorem emit_time (o : Out) : (s.emit o).time = s.time := rfl
@[simp] theorem emit_member (o : Out) : (s.emit o).member = s.member := rfl
@[simp] theorem emit_accts (o : Out) : (s.emit o).accts = s.accts := rfl
@[simp] theorem emit_nodeAcct (o : Out) : (s.emit o).nodeAcct = s.nodeAcct := rfl
@[simp] theorem emit_log (o : Out) : (s.emit o).log = s.log := rfl
@[simp] theorem emit_logNext (o : Out) : (s.emit o).logNext = s.logNext := rfl
@[simp] theorem emit_events (o : Out) : (s.emit o).events = s.events := rfl
@[simp] theorem emit_evRings (o : Out) : (s.emit o).evRings = s.evRings := rfl
@[simp] theorem emit_histos (o : Out) : (s.emit o).histos = s.histos := rfl
@[simp] theorem emit_units (o : Out) : (s.emit o).units = s.units := rfl
@[simp] theorem emit_power (o : Out) : (s.emit o).power = s.power := rfl
@[simp] theorem emit_boot (o : Out) : (s.emit o).boot = s.boot := rfl
@[simp] theorem emit_keys (o : Out) : (s.emit o).keys = s.keys := rfl
@[simp] theorem emit_host (o : Out) : (s.emit o).host = s.host := rfl
@[simp] theorem emit_out (o : Out) : (s.emit o).out = s.out ++ [o] := rfl
@[simp] theorem emit_freeTick (o : Out) : (s.emit o).freeTick = s.freeTick := rfl
@[simp] theorem emit_pending (o : Out) : (s.emit o).pending = s.pending := rfl

/-! ### logAdd -/

@[simp] theorem logAdd_tap (typ chan object d0 data : Nat) : (s.logAdd typ chan object d0 data).tap = s.tap := by unfold State.logAdd; rfl
@[simp] theorem logAdd_frame (typ chan object d0 data : Nat) : (s.logAdd typ chan object d0 data).frame = s.frame := by unfold State.logAdd; rfl
@[simp] theorem logAdd_easel (typ chan object d0 data : Nat) : (s.logAdd typ chan object d0 data).easel = s.easel := by unfold State.logAdd; rfl
@[simp] theorem logAdd_mbs (typ chan object d0 data : Nat) : (s.logAdd typ chan object d0 data).mbs = s.mbs := by unfold State.logAdd; rfl
@[simp] theorem logAdd_chans (typ chan object d0 data : Nat) : (s.logAdd typ chan object d0 data).chans = s.chans := by unfold State.logAdd; rfl
@[simp] theorem logAdd_changes (typ chan object d0 data : Nat) : (s.logAdd typ chan object d0 data).changes = s.changes := by unfold State.logAdd; rfl
@[simp] theorem logAdd_planned (typ chan object d0 data : Nat) : (s.logAdd typ chan object d0 data).planned = s.planned := by unfold State.logAdd; rfl
@[simp] theorem logAdd_landings (typ chan object d0 data : Nat) : (s.logAdd typ chan object d0 data).landings = s.landings := by unfold State.logAdd; rfl
@[simp] theorem logAdd_nextLand (typ chan object d0 data : Nat) : (s.logAdd typ chan object d0 data).nextLand = s.nextLand := by unfold State.logAdd; rfl
@[simp] theorem logAdd_work (typ chan object d0 data : Nat) : (s.logAdd typ chan object d0 data).work = s.work := by unfold State.logAdd; rfl
@[simp] theorem logAdd_inbox (typ chan object d0 data : Nat) : (s.logAdd typ chan object d0 data).inbox = s.inbox := by unfold State.logAdd; rfl
@[simp] theorem logAdd_ownerQs (typ chan object d0 data : Nat) : (s.logAdd typ chan object d0 data).ownerQs = s.ownerQs := by unfold State.logAdd; rfl
@[simp] theorem logAdd_scanParts (typ chan object d0 data : Nat) : (s.logAdd typ chan object d0 data).scanParts = s.scanParts := by unfold State.logAdd; rfl
@[simp] theorem logAdd_ownerFs (typ chan object d0 data : Nat) : (s.logAdd typ chan object d0 data).ownerFs = s.ownerFs := by unfold State.logAdd; rfl
@[simp] theorem logAdd_outbox (typ chan object d0 data : Nat) : (s.logAdd typ chan object d0 data).outbox = s.outbox := by unfold State.logAdd; rfl
@[simp] theorem logAdd_updIn (typ chan object d0 data : Nat) : (s.logAdd typ chan object d0 data).updIn = s.updIn := by unfold State.logAdd; rfl
@[simp] theorem logAdd_heldUpd (typ chan object d0 data : Nat) : (s.logAdd typ chan object d0 data).heldUpd = s.heldUpd := by unfold State.logAdd; rfl
@[simp] theorem logAdd_staged (typ chan object d0 data : Nat) : (s.logAdd typ chan object d0 data).staged = s.staged := by unfold State.logAdd; rfl
@[simp] theorem logAdd_took (typ chan object d0 data : Nat) : (s.logAdd typ chan object d0 data).took = s.took := by unfold State.logAdd; rfl
@[simp] theorem logAdd_durs (typ chan object d0 data : Nat) : (s.logAdd typ chan object d0 data).durs = s.durs := by unfold State.logAdd; rfl
@[simp] theorem logAdd_listOps (typ chan object d0 data : Nat) : (s.logAdd typ chan object d0 data).listOps = s.listOps := by unfold State.logAdd; rfl
@[simp] theorem logAdd_indexes (typ chan object d0 data : Nat) : (s.logAdd typ chan object d0 data).indexes = s.indexes := by unfold State.logAdd; rfl
@[simp] theorem logAdd_sets (typ chan object d0 data : Nat) : (s.logAdd typ chan object d0 data).sets = s.sets := by unfold State.logAdd; rfl
@[simp] theorem logAdd_tables (typ chan object d0 data : Nat) : (s.logAdd typ chan object d0 data).tables = s.tables := by unfold State.logAdd; rfl
@[simp] theorem logAdd_graphs (typ chan object d0 data : Nat) : (s.logAdd typ chan object d0 data).graphs = s.graphs := by unfold State.logAdd; rfl
@[simp] theorem logAdd_streams (typ chan object d0 data : Nat) : (s.logAdd typ chan object d0 data).streams = s.streams := by unfold State.logAdd; rfl
@[simp] theorem logAdd_migs (typ chan object d0 data : Nat) : (s.logAdd typ chan object d0 data).migs = s.migs := by unfold State.logAdd; rfl
@[simp] theorem logAdd_builds (typ chan object d0 data : Nat) : (s.logAdd typ chan object d0 data).builds = s.builds := by unfold State.logAdd; rfl
@[simp] theorem logAdd_dram (typ chan object d0 data : Nat) : (s.logAdd typ chan object d0 data).dram = s.dram := by unfold State.logAdd; rfl
@[simp] theorem logAdd_aps (typ chan object d0 data : Nat) : (s.logAdd typ chan object d0 data).aps = s.aps := by unfold State.logAdd; rfl
@[simp] theorem logAdd_flash (typ chan object d0 data : Nat) : (s.logAdd typ chan object d0 data).flash = s.flash := by unfold State.logAdd; rfl
@[simp] theorem logAdd_ports (typ chan object d0 data : Nat) : (s.logAdd typ chan object d0 data).ports = s.ports := by unfold State.logAdd; rfl
@[simp] theorem logAdd_time (typ chan object d0 data : Nat) : (s.logAdd typ chan object d0 data).time = s.time := by unfold State.logAdd; rfl
@[simp] theorem logAdd_member (typ chan object d0 data : Nat) : (s.logAdd typ chan object d0 data).member = s.member := by unfold State.logAdd; rfl
@[simp] theorem logAdd_accts (typ chan object d0 data : Nat) : (s.logAdd typ chan object d0 data).accts = s.accts := by unfold State.logAdd; rfl
@[simp] theorem logAdd_nodeAcct (typ chan object d0 data : Nat) : (s.logAdd typ chan object d0 data).nodeAcct = s.nodeAcct := by unfold State.logAdd; rfl
@[simp] theorem logAdd_logNext (typ chan object d0 data : Nat) : (s.logAdd typ chan object d0 data).logNext = s.logNext + 1 := by unfold State.logAdd; rfl
@[simp] theorem logAdd_events (typ chan object d0 data : Nat) : (s.logAdd typ chan object d0 data).events = s.events := by unfold State.logAdd; rfl
@[simp] theorem logAdd_evRings (typ chan object d0 data : Nat) : (s.logAdd typ chan object d0 data).evRings = s.evRings := by unfold State.logAdd; rfl
@[simp] theorem logAdd_histos (typ chan object d0 data : Nat) : (s.logAdd typ chan object d0 data).histos = s.histos := by unfold State.logAdd; rfl
@[simp] theorem logAdd_units (typ chan object d0 data : Nat) : (s.logAdd typ chan object d0 data).units = s.units := by unfold State.logAdd; rfl
@[simp] theorem logAdd_power (typ chan object d0 data : Nat) : (s.logAdd typ chan object d0 data).power = s.power := by unfold State.logAdd; rfl
@[simp] theorem logAdd_boot (typ chan object d0 data : Nat) : (s.logAdd typ chan object d0 data).boot = s.boot := by unfold State.logAdd; rfl
@[simp] theorem logAdd_keys (typ chan object d0 data : Nat) : (s.logAdd typ chan object d0 data).keys = s.keys := by unfold State.logAdd; rfl
@[simp] theorem logAdd_host (typ chan object d0 data : Nat) : (s.logAdd typ chan object d0 data).host = s.host := by unfold State.logAdd; rfl
@[simp] theorem logAdd_out (typ chan object d0 data : Nat) : (s.logAdd typ chan object d0 data).out = s.out := by unfold State.logAdd; rfl
@[simp] theorem logAdd_freeTick (typ chan object d0 data : Nat) : (s.logAdd typ chan object d0 data).freeTick = s.freeTick := by unfold State.logAdd; rfl
@[simp] theorem logAdd_pending (typ chan object d0 data : Nat) : (s.logAdd typ chan object d0 data).pending = s.pending := by unfold State.logAdd; rfl

/-! ### raise -/

@[simp] theorem raise_tap (code : Nat) (fn : Option Nat) (chan d0 d1 d2 : Nat) : (s.raise code fn chan d0 d1 d2).tap = s.tap := rfl
@[simp] theorem raise_frame (code : Nat) (fn : Option Nat) (chan d0 d1 d2 : Nat) : (s.raise code fn chan d0 d1 d2).frame = s.frame := rfl
@[simp] theorem raise_easel (code : Nat) (fn : Option Nat) (chan d0 d1 d2 : Nat) : (s.raise code fn chan d0 d1 d2).easel = s.easel := rfl
@[simp] theorem raise_mbs (code : Nat) (fn : Option Nat) (chan d0 d1 d2 : Nat) : (s.raise code fn chan d0 d1 d2).mbs = s.mbs := rfl
@[simp] theorem raise_chans (code : Nat) (fn : Option Nat) (chan d0 d1 d2 : Nat) : (s.raise code fn chan d0 d1 d2).chans = s.chans := rfl
@[simp] theorem raise_changes (code : Nat) (fn : Option Nat) (chan d0 d1 d2 : Nat) : (s.raise code fn chan d0 d1 d2).changes = s.changes := rfl
@[simp] theorem raise_planned (code : Nat) (fn : Option Nat) (chan d0 d1 d2 : Nat) : (s.raise code fn chan d0 d1 d2).planned = s.planned := rfl
@[simp] theorem raise_landings (code : Nat) (fn : Option Nat) (chan d0 d1 d2 : Nat) : (s.raise code fn chan d0 d1 d2).landings = s.landings := rfl
@[simp] theorem raise_nextLand (code : Nat) (fn : Option Nat) (chan d0 d1 d2 : Nat) : (s.raise code fn chan d0 d1 d2).nextLand = s.nextLand := rfl
@[simp] theorem raise_work (code : Nat) (fn : Option Nat) (chan d0 d1 d2 : Nat) : (s.raise code fn chan d0 d1 d2).work = s.work := rfl
@[simp] theorem raise_inbox (code : Nat) (fn : Option Nat) (chan d0 d1 d2 : Nat) : (s.raise code fn chan d0 d1 d2).inbox = s.inbox := rfl
@[simp] theorem raise_ownerQs (code : Nat) (fn : Option Nat) (chan d0 d1 d2 : Nat) : (s.raise code fn chan d0 d1 d2).ownerQs = s.ownerQs := rfl
@[simp] theorem raise_scanParts (code : Nat) (fn : Option Nat) (chan d0 d1 d2 : Nat) : (s.raise code fn chan d0 d1 d2).scanParts = s.scanParts := rfl
@[simp] theorem raise_ownerFs (code : Nat) (fn : Option Nat) (chan d0 d1 d2 : Nat) : (s.raise code fn chan d0 d1 d2).ownerFs = s.ownerFs := rfl
@[simp] theorem raise_outbox (code : Nat) (fn : Option Nat) (chan d0 d1 d2 : Nat) : (s.raise code fn chan d0 d1 d2).outbox = s.outbox := rfl
@[simp] theorem raise_updIn (code : Nat) (fn : Option Nat) (chan d0 d1 d2 : Nat) : (s.raise code fn chan d0 d1 d2).updIn = s.updIn := rfl
@[simp] theorem raise_heldUpd (code : Nat) (fn : Option Nat) (chan d0 d1 d2 : Nat) : (s.raise code fn chan d0 d1 d2).heldUpd = s.heldUpd := rfl
@[simp] theorem raise_staged (code : Nat) (fn : Option Nat) (chan d0 d1 d2 : Nat) : (s.raise code fn chan d0 d1 d2).staged = s.staged := rfl
@[simp] theorem raise_took (code : Nat) (fn : Option Nat) (chan d0 d1 d2 : Nat) : (s.raise code fn chan d0 d1 d2).took = s.took := rfl
@[simp] theorem raise_durs (code : Nat) (fn : Option Nat) (chan d0 d1 d2 : Nat) : (s.raise code fn chan d0 d1 d2).durs = s.durs := rfl
@[simp] theorem raise_listOps (code : Nat) (fn : Option Nat) (chan d0 d1 d2 : Nat) : (s.raise code fn chan d0 d1 d2).listOps = s.listOps := rfl
@[simp] theorem raise_indexes (code : Nat) (fn : Option Nat) (chan d0 d1 d2 : Nat) : (s.raise code fn chan d0 d1 d2).indexes = s.indexes := rfl
@[simp] theorem raise_sets (code : Nat) (fn : Option Nat) (chan d0 d1 d2 : Nat) : (s.raise code fn chan d0 d1 d2).sets = s.sets := rfl
@[simp] theorem raise_tables (code : Nat) (fn : Option Nat) (chan d0 d1 d2 : Nat) : (s.raise code fn chan d0 d1 d2).tables = s.tables := rfl
@[simp] theorem raise_graphs (code : Nat) (fn : Option Nat) (chan d0 d1 d2 : Nat) : (s.raise code fn chan d0 d1 d2).graphs = s.graphs := rfl
@[simp] theorem raise_streams (code : Nat) (fn : Option Nat) (chan d0 d1 d2 : Nat) : (s.raise code fn chan d0 d1 d2).streams = s.streams := rfl
@[simp] theorem raise_migs (code : Nat) (fn : Option Nat) (chan d0 d1 d2 : Nat) : (s.raise code fn chan d0 d1 d2).migs = s.migs := rfl
@[simp] theorem raise_builds (code : Nat) (fn : Option Nat) (chan d0 d1 d2 : Nat) : (s.raise code fn chan d0 d1 d2).builds = s.builds := rfl
@[simp] theorem raise_dram (code : Nat) (fn : Option Nat) (chan d0 d1 d2 : Nat) : (s.raise code fn chan d0 d1 d2).dram = s.dram := rfl
@[simp] theorem raise_aps (code : Nat) (fn : Option Nat) (chan d0 d1 d2 : Nat) : (s.raise code fn chan d0 d1 d2).aps = s.aps := rfl
@[simp] theorem raise_flash (code : Nat) (fn : Option Nat) (chan d0 d1 d2 : Nat) : (s.raise code fn chan d0 d1 d2).flash = s.flash := rfl
@[simp] theorem raise_ports (code : Nat) (fn : Option Nat) (chan d0 d1 d2 : Nat) : (s.raise code fn chan d0 d1 d2).ports = s.ports := rfl
@[simp] theorem raise_time (code : Nat) (fn : Option Nat) (chan d0 d1 d2 : Nat) : (s.raise code fn chan d0 d1 d2).time = s.time := rfl
@[simp] theorem raise_member (code : Nat) (fn : Option Nat) (chan d0 d1 d2 : Nat) : (s.raise code fn chan d0 d1 d2).member = s.member := rfl
@[simp] theorem raise_accts (code : Nat) (fn : Option Nat) (chan d0 d1 d2 : Nat) : (s.raise code fn chan d0 d1 d2).accts = s.accts := rfl
@[simp] theorem raise_nodeAcct (code : Nat) (fn : Option Nat) (chan d0 d1 d2 : Nat) : (s.raise code fn chan d0 d1 d2).nodeAcct = s.nodeAcct := rfl
@[simp] theorem raise_log (code : Nat) (fn : Option Nat) (chan d0 d1 d2 : Nat) : (s.raise code fn chan d0 d1 d2).log = s.log := rfl
@[simp] theorem raise_logNext (code : Nat) (fn : Option Nat) (chan d0 d1 d2 : Nat) : (s.raise code fn chan d0 d1 d2).logNext = s.logNext := rfl
@[simp] theorem raise_evRings (code : Nat) (fn : Option Nat) (chan d0 d1 d2 : Nat) : (s.raise code fn chan d0 d1 d2).evRings = s.evRings := rfl
@[simp] theorem raise_histos (code : Nat) (fn : Option Nat) (chan d0 d1 d2 : Nat) : (s.raise code fn chan d0 d1 d2).histos = s.histos := rfl
@[simp] theorem raise_units (code : Nat) (fn : Option Nat) (chan d0 d1 d2 : Nat) : (s.raise code fn chan d0 d1 d2).units = s.units := rfl
@[simp] theorem raise_power (code : Nat) (fn : Option Nat) (chan d0 d1 d2 : Nat) : (s.raise code fn chan d0 d1 d2).power = s.power := rfl
@[simp] theorem raise_boot (code : Nat) (fn : Option Nat) (chan d0 d1 d2 : Nat) : (s.raise code fn chan d0 d1 d2).boot = s.boot := rfl
@[simp] theorem raise_keys (code : Nat) (fn : Option Nat) (chan d0 d1 d2 : Nat) : (s.raise code fn chan d0 d1 d2).keys = s.keys := rfl
@[simp] theorem raise_host (code : Nat) (fn : Option Nat) (chan d0 d1 d2 : Nat) : (s.raise code fn chan d0 d1 d2).host = s.host := rfl
@[simp] theorem raise_out (code : Nat) (fn : Option Nat) (chan d0 d1 d2 : Nat) : (s.raise code fn chan d0 d1 d2).out = s.out := rfl
@[simp] theorem raise_freeTick (code : Nat) (fn : Option Nat) (chan d0 d1 d2 : Nat) : (s.raise code fn chan d0 d1 d2).freeTick = s.freeTick := rfl
@[simp] theorem raise_pending (code : Nat) (fn : Option Nat) (chan d0 d1 d2 : Nat) : (s.raise code fn chan d0 d1 d2).pending = s.pending := rfl

/-! ### setMb -/

@[simp] theorem setMb_tap (fn : Nat) (m : Mailbox) : (s.setMb fn m).tap = s.tap := rfl
@[simp] theorem setMb_frame (fn : Nat) (m : Mailbox) : (s.setMb fn m).frame = s.frame := rfl
@[simp] theorem setMb_easel (fn : Nat) (m : Mailbox) : (s.setMb fn m).easel = s.easel := rfl
@[simp] theorem setMb_mbs (fn : Nat) (m : Mailbox) : (s.setMb fn m).mbs = tput s.mbs fn m := rfl
@[simp] theorem setMb_chans (fn : Nat) (m : Mailbox) : (s.setMb fn m).chans = s.chans := rfl
@[simp] theorem setMb_changes (fn : Nat) (m : Mailbox) : (s.setMb fn m).changes = s.changes := rfl
@[simp] theorem setMb_planned (fn : Nat) (m : Mailbox) : (s.setMb fn m).planned = s.planned := rfl
@[simp] theorem setMb_landings (fn : Nat) (m : Mailbox) : (s.setMb fn m).landings = s.landings := rfl
@[simp] theorem setMb_nextLand (fn : Nat) (m : Mailbox) : (s.setMb fn m).nextLand = s.nextLand := rfl
@[simp] theorem setMb_work (fn : Nat) (m : Mailbox) : (s.setMb fn m).work = s.work := rfl
@[simp] theorem setMb_inbox (fn : Nat) (m : Mailbox) : (s.setMb fn m).inbox = s.inbox := rfl
@[simp] theorem setMb_ownerQs (fn : Nat) (m : Mailbox) : (s.setMb fn m).ownerQs = s.ownerQs := rfl
@[simp] theorem setMb_scanParts (fn : Nat) (m : Mailbox) : (s.setMb fn m).scanParts = s.scanParts := rfl
@[simp] theorem setMb_ownerFs (fn : Nat) (m : Mailbox) : (s.setMb fn m).ownerFs = s.ownerFs := rfl
@[simp] theorem setMb_outbox (fn : Nat) (m : Mailbox) : (s.setMb fn m).outbox = s.outbox := rfl
@[simp] theorem setMb_updIn (fn : Nat) (m : Mailbox) : (s.setMb fn m).updIn = s.updIn := rfl
@[simp] theorem setMb_heldUpd (fn : Nat) (m : Mailbox) : (s.setMb fn m).heldUpd = s.heldUpd := rfl
@[simp] theorem setMb_staged (fn : Nat) (m : Mailbox) : (s.setMb fn m).staged = s.staged := rfl
@[simp] theorem setMb_took (fn : Nat) (m : Mailbox) : (s.setMb fn m).took = s.took := rfl
@[simp] theorem setMb_durs (fn : Nat) (m : Mailbox) : (s.setMb fn m).durs = s.durs := rfl
@[simp] theorem setMb_listOps (fn : Nat) (m : Mailbox) : (s.setMb fn m).listOps = s.listOps := rfl
@[simp] theorem setMb_indexes (fn : Nat) (m : Mailbox) : (s.setMb fn m).indexes = s.indexes := rfl
@[simp] theorem setMb_sets (fn : Nat) (m : Mailbox) : (s.setMb fn m).sets = s.sets := rfl
@[simp] theorem setMb_tables (fn : Nat) (m : Mailbox) : (s.setMb fn m).tables = s.tables := rfl
@[simp] theorem setMb_graphs (fn : Nat) (m : Mailbox) : (s.setMb fn m).graphs = s.graphs := rfl
@[simp] theorem setMb_streams (fn : Nat) (m : Mailbox) : (s.setMb fn m).streams = s.streams := rfl
@[simp] theorem setMb_migs (fn : Nat) (m : Mailbox) : (s.setMb fn m).migs = s.migs := rfl
@[simp] theorem setMb_builds (fn : Nat) (m : Mailbox) : (s.setMb fn m).builds = s.builds := rfl
@[simp] theorem setMb_dram (fn : Nat) (m : Mailbox) : (s.setMb fn m).dram = s.dram := rfl
@[simp] theorem setMb_aps (fn : Nat) (m : Mailbox) : (s.setMb fn m).aps = s.aps := rfl
@[simp] theorem setMb_flash (fn : Nat) (m : Mailbox) : (s.setMb fn m).flash = s.flash := rfl
@[simp] theorem setMb_ports (fn : Nat) (m : Mailbox) : (s.setMb fn m).ports = s.ports := rfl
@[simp] theorem setMb_time (fn : Nat) (m : Mailbox) : (s.setMb fn m).time = s.time := rfl
@[simp] theorem setMb_member (fn : Nat) (m : Mailbox) : (s.setMb fn m).member = s.member := rfl
@[simp] theorem setMb_accts (fn : Nat) (m : Mailbox) : (s.setMb fn m).accts = s.accts := rfl
@[simp] theorem setMb_nodeAcct (fn : Nat) (m : Mailbox) : (s.setMb fn m).nodeAcct = s.nodeAcct := rfl
@[simp] theorem setMb_log (fn : Nat) (m : Mailbox) : (s.setMb fn m).log = s.log := rfl
@[simp] theorem setMb_logNext (fn : Nat) (m : Mailbox) : (s.setMb fn m).logNext = s.logNext := rfl
@[simp] theorem setMb_events (fn : Nat) (m : Mailbox) : (s.setMb fn m).events = s.events := rfl
@[simp] theorem setMb_evRings (fn : Nat) (m : Mailbox) : (s.setMb fn m).evRings = s.evRings := rfl
@[simp] theorem setMb_histos (fn : Nat) (m : Mailbox) : (s.setMb fn m).histos = s.histos := rfl
@[simp] theorem setMb_units (fn : Nat) (m : Mailbox) : (s.setMb fn m).units = s.units := rfl
@[simp] theorem setMb_power (fn : Nat) (m : Mailbox) : (s.setMb fn m).power = s.power := rfl
@[simp] theorem setMb_boot (fn : Nat) (m : Mailbox) : (s.setMb fn m).boot = s.boot := rfl
@[simp] theorem setMb_keys (fn : Nat) (m : Mailbox) : (s.setMb fn m).keys = s.keys := rfl
@[simp] theorem setMb_host (fn : Nat) (m : Mailbox) : (s.setMb fn m).host = s.host := rfl
@[simp] theorem setMb_out (fn : Nat) (m : Mailbox) : (s.setMb fn m).out = s.out := rfl
@[simp] theorem setMb_freeTick (fn : Nat) (m : Mailbox) : (s.setMb fn m).freeTick = s.freeTick := rfl
@[simp] theorem setMb_pending (fn : Nat) (m : Mailbox) : (s.setMb fn m).pending = s.pending := rfl

/-! ### setAp -/

@[simp] theorem setAp_tap (fn : Nat) (a : Aperture) : (s.setAp fn a).tap = s.tap := rfl
@[simp] theorem setAp_frame (fn : Nat) (a : Aperture) : (s.setAp fn a).frame = s.frame := rfl
@[simp] theorem setAp_easel (fn : Nat) (a : Aperture) : (s.setAp fn a).easel = s.easel := rfl
@[simp] theorem setAp_mbs (fn : Nat) (a : Aperture) : (s.setAp fn a).mbs = s.mbs := rfl
@[simp] theorem setAp_chans (fn : Nat) (a : Aperture) : (s.setAp fn a).chans = s.chans := rfl
@[simp] theorem setAp_changes (fn : Nat) (a : Aperture) : (s.setAp fn a).changes = s.changes := rfl
@[simp] theorem setAp_planned (fn : Nat) (a : Aperture) : (s.setAp fn a).planned = s.planned := rfl
@[simp] theorem setAp_landings (fn : Nat) (a : Aperture) : (s.setAp fn a).landings = s.landings := rfl
@[simp] theorem setAp_nextLand (fn : Nat) (a : Aperture) : (s.setAp fn a).nextLand = s.nextLand := rfl
@[simp] theorem setAp_work (fn : Nat) (a : Aperture) : (s.setAp fn a).work = s.work := rfl
@[simp] theorem setAp_inbox (fn : Nat) (a : Aperture) : (s.setAp fn a).inbox = s.inbox := rfl
@[simp] theorem setAp_ownerQs (fn : Nat) (a : Aperture) : (s.setAp fn a).ownerQs = s.ownerQs := rfl
@[simp] theorem setAp_scanParts (fn : Nat) (a : Aperture) : (s.setAp fn a).scanParts = s.scanParts := rfl
@[simp] theorem setAp_ownerFs (fn : Nat) (a : Aperture) : (s.setAp fn a).ownerFs = s.ownerFs := rfl
@[simp] theorem setAp_outbox (fn : Nat) (a : Aperture) : (s.setAp fn a).outbox = s.outbox := rfl
@[simp] theorem setAp_updIn (fn : Nat) (a : Aperture) : (s.setAp fn a).updIn = s.updIn := rfl
@[simp] theorem setAp_heldUpd (fn : Nat) (a : Aperture) : (s.setAp fn a).heldUpd = s.heldUpd := rfl
@[simp] theorem setAp_staged (fn : Nat) (a : Aperture) : (s.setAp fn a).staged = s.staged := rfl
@[simp] theorem setAp_took (fn : Nat) (a : Aperture) : (s.setAp fn a).took = s.took := rfl
@[simp] theorem setAp_durs (fn : Nat) (a : Aperture) : (s.setAp fn a).durs = s.durs := rfl
@[simp] theorem setAp_listOps (fn : Nat) (a : Aperture) : (s.setAp fn a).listOps = s.listOps := rfl
@[simp] theorem setAp_indexes (fn : Nat) (a : Aperture) : (s.setAp fn a).indexes = s.indexes := rfl
@[simp] theorem setAp_sets (fn : Nat) (a : Aperture) : (s.setAp fn a).sets = s.sets := rfl
@[simp] theorem setAp_tables (fn : Nat) (a : Aperture) : (s.setAp fn a).tables = s.tables := rfl
@[simp] theorem setAp_graphs (fn : Nat) (a : Aperture) : (s.setAp fn a).graphs = s.graphs := rfl
@[simp] theorem setAp_streams (fn : Nat) (a : Aperture) : (s.setAp fn a).streams = s.streams := rfl
@[simp] theorem setAp_migs (fn : Nat) (a : Aperture) : (s.setAp fn a).migs = s.migs := rfl
@[simp] theorem setAp_builds (fn : Nat) (a : Aperture) : (s.setAp fn a).builds = s.builds := rfl
@[simp] theorem setAp_dram (fn : Nat) (a : Aperture) : (s.setAp fn a).dram = s.dram := rfl
@[simp] theorem setAp_aps (fn : Nat) (a : Aperture) : (s.setAp fn a).aps = tput s.aps fn a := rfl
@[simp] theorem setAp_flash (fn : Nat) (a : Aperture) : (s.setAp fn a).flash = s.flash := rfl
@[simp] theorem setAp_ports (fn : Nat) (a : Aperture) : (s.setAp fn a).ports = s.ports := rfl
@[simp] theorem setAp_time (fn : Nat) (a : Aperture) : (s.setAp fn a).time = s.time := rfl
@[simp] theorem setAp_member (fn : Nat) (a : Aperture) : (s.setAp fn a).member = s.member := rfl
@[simp] theorem setAp_accts (fn : Nat) (a : Aperture) : (s.setAp fn a).accts = s.accts := rfl
@[simp] theorem setAp_nodeAcct (fn : Nat) (a : Aperture) : (s.setAp fn a).nodeAcct = s.nodeAcct := rfl
@[simp] theorem setAp_log (fn : Nat) (a : Aperture) : (s.setAp fn a).log = s.log := rfl
@[simp] theorem setAp_logNext (fn : Nat) (a : Aperture) : (s.setAp fn a).logNext = s.logNext := rfl
@[simp] theorem setAp_events (fn : Nat) (a : Aperture) : (s.setAp fn a).events = s.events := rfl
@[simp] theorem setAp_evRings (fn : Nat) (a : Aperture) : (s.setAp fn a).evRings = s.evRings := rfl
@[simp] theorem setAp_histos (fn : Nat) (a : Aperture) : (s.setAp fn a).histos = s.histos := rfl
@[simp] theorem setAp_units (fn : Nat) (a : Aperture) : (s.setAp fn a).units = s.units := rfl
@[simp] theorem setAp_power (fn : Nat) (a : Aperture) : (s.setAp fn a).power = s.power := rfl
@[simp] theorem setAp_boot (fn : Nat) (a : Aperture) : (s.setAp fn a).boot = s.boot := rfl
@[simp] theorem setAp_keys (fn : Nat) (a : Aperture) : (s.setAp fn a).keys = s.keys := rfl
@[simp] theorem setAp_host (fn : Nat) (a : Aperture) : (s.setAp fn a).host = s.host := rfl
@[simp] theorem setAp_out (fn : Nat) (a : Aperture) : (s.setAp fn a).out = s.out := rfl
@[simp] theorem setAp_freeTick (fn : Nat) (a : Aperture) : (s.setAp fn a).freeTick = s.freeTick := rfl
@[simp] theorem setAp_pending (fn : Nat) (a : Aperture) : (s.setAp fn a).pending = s.pending := rfl

/-! ### mapChan -/

@[simp] theorem mapChan_tap (slot : Nat) (f : Chan → Chan) : (s.mapChan slot f).tap = s.tap := rfl
@[simp] theorem mapChan_frame (slot : Nat) (f : Chan → Chan) : (s.mapChan slot f).frame = s.frame := rfl
@[simp] theorem mapChan_easel (slot : Nat) (f : Chan → Chan) : (s.mapChan slot f).easel = s.easel := rfl
@[simp] theorem mapChan_mbs (slot : Nat) (f : Chan → Chan) : (s.mapChan slot f).mbs = s.mbs := rfl
@[simp] theorem mapChan_chans (slot : Nat) (f : Chan → Chan) : (s.mapChan slot f).chans = tmap s.chans slot f := rfl
@[simp] theorem mapChan_changes (slot : Nat) (f : Chan → Chan) : (s.mapChan slot f).changes = s.changes := rfl
@[simp] theorem mapChan_planned (slot : Nat) (f : Chan → Chan) : (s.mapChan slot f).planned = s.planned := rfl
@[simp] theorem mapChan_landings (slot : Nat) (f : Chan → Chan) : (s.mapChan slot f).landings = s.landings := rfl
@[simp] theorem mapChan_nextLand (slot : Nat) (f : Chan → Chan) : (s.mapChan slot f).nextLand = s.nextLand := rfl
@[simp] theorem mapChan_work (slot : Nat) (f : Chan → Chan) : (s.mapChan slot f).work = s.work := rfl
@[simp] theorem mapChan_inbox (slot : Nat) (f : Chan → Chan) : (s.mapChan slot f).inbox = s.inbox := rfl
@[simp] theorem mapChan_ownerQs (slot : Nat) (f : Chan → Chan) : (s.mapChan slot f).ownerQs = s.ownerQs := rfl
@[simp] theorem mapChan_scanParts (slot : Nat) (f : Chan → Chan) : (s.mapChan slot f).scanParts = s.scanParts := rfl
@[simp] theorem mapChan_ownerFs (slot : Nat) (f : Chan → Chan) : (s.mapChan slot f).ownerFs = s.ownerFs := rfl
@[simp] theorem mapChan_outbox (slot : Nat) (f : Chan → Chan) : (s.mapChan slot f).outbox = s.outbox := rfl
@[simp] theorem mapChan_updIn (slot : Nat) (f : Chan → Chan) : (s.mapChan slot f).updIn = s.updIn := rfl
@[simp] theorem mapChan_heldUpd (slot : Nat) (f : Chan → Chan) : (s.mapChan slot f).heldUpd = s.heldUpd := rfl
@[simp] theorem mapChan_staged (slot : Nat) (f : Chan → Chan) : (s.mapChan slot f).staged = s.staged := rfl
@[simp] theorem mapChan_took (slot : Nat) (f : Chan → Chan) : (s.mapChan slot f).took = s.took := rfl
@[simp] theorem mapChan_durs (slot : Nat) (f : Chan → Chan) : (s.mapChan slot f).durs = s.durs := rfl
@[simp] theorem mapChan_listOps (slot : Nat) (f : Chan → Chan) : (s.mapChan slot f).listOps = s.listOps := rfl
@[simp] theorem mapChan_indexes (slot : Nat) (f : Chan → Chan) : (s.mapChan slot f).indexes = s.indexes := rfl
@[simp] theorem mapChan_sets (slot : Nat) (f : Chan → Chan) : (s.mapChan slot f).sets = s.sets := rfl
@[simp] theorem mapChan_tables (slot : Nat) (f : Chan → Chan) : (s.mapChan slot f).tables = s.tables := rfl
@[simp] theorem mapChan_graphs (slot : Nat) (f : Chan → Chan) : (s.mapChan slot f).graphs = s.graphs := rfl
@[simp] theorem mapChan_streams (slot : Nat) (f : Chan → Chan) : (s.mapChan slot f).streams = s.streams := rfl
@[simp] theorem mapChan_migs (slot : Nat) (f : Chan → Chan) : (s.mapChan slot f).migs = s.migs := rfl
@[simp] theorem mapChan_builds (slot : Nat) (f : Chan → Chan) : (s.mapChan slot f).builds = s.builds := rfl
@[simp] theorem mapChan_dram (slot : Nat) (f : Chan → Chan) : (s.mapChan slot f).dram = s.dram := rfl
@[simp] theorem mapChan_aps (slot : Nat) (f : Chan → Chan) : (s.mapChan slot f).aps = s.aps := rfl
@[simp] theorem mapChan_flash (slot : Nat) (f : Chan → Chan) : (s.mapChan slot f).flash = s.flash := rfl
@[simp] theorem mapChan_ports (slot : Nat) (f : Chan → Chan) : (s.mapChan slot f).ports = s.ports := rfl
@[simp] theorem mapChan_time (slot : Nat) (f : Chan → Chan) : (s.mapChan slot f).time = s.time := rfl
@[simp] theorem mapChan_member (slot : Nat) (f : Chan → Chan) : (s.mapChan slot f).member = s.member := rfl
@[simp] theorem mapChan_accts (slot : Nat) (f : Chan → Chan) : (s.mapChan slot f).accts = s.accts := rfl
@[simp] theorem mapChan_nodeAcct (slot : Nat) (f : Chan → Chan) : (s.mapChan slot f).nodeAcct = s.nodeAcct := rfl
@[simp] theorem mapChan_log (slot : Nat) (f : Chan → Chan) : (s.mapChan slot f).log = s.log := rfl
@[simp] theorem mapChan_logNext (slot : Nat) (f : Chan → Chan) : (s.mapChan slot f).logNext = s.logNext := rfl
@[simp] theorem mapChan_events (slot : Nat) (f : Chan → Chan) : (s.mapChan slot f).events = s.events := rfl
@[simp] theorem mapChan_evRings (slot : Nat) (f : Chan → Chan) : (s.mapChan slot f).evRings = s.evRings := rfl
@[simp] theorem mapChan_histos (slot : Nat) (f : Chan → Chan) : (s.mapChan slot f).histos = s.histos := rfl
@[simp] theorem mapChan_units (slot : Nat) (f : Chan → Chan) : (s.mapChan slot f).units = s.units := rfl
@[simp] theorem mapChan_power (slot : Nat) (f : Chan → Chan) : (s.mapChan slot f).power = s.power := rfl
@[simp] theorem mapChan_boot (slot : Nat) (f : Chan → Chan) : (s.mapChan slot f).boot = s.boot := rfl
@[simp] theorem mapChan_keys (slot : Nat) (f : Chan → Chan) : (s.mapChan slot f).keys = s.keys := rfl
@[simp] theorem mapChan_host (slot : Nat) (f : Chan → Chan) : (s.mapChan slot f).host = s.host := rfl
@[simp] theorem mapChan_out (slot : Nat) (f : Chan → Chan) : (s.mapChan slot f).out = s.out := rfl
@[simp] theorem mapChan_freeTick (slot : Nat) (f : Chan → Chan) : (s.mapChan slot f).freeTick = s.freeTick := rfl
@[simp] theorem mapChan_pending (slot : Nat) (f : Chan → Chan) : (s.mapChan slot f).pending = s.pending := rfl

/-! ### fault -/

@[simp] theorem fault_tap (slot cause ring : Nat) : (s.fault slot cause ring).tap = s.tap := rfl
@[simp] theorem fault_frame (slot cause ring : Nat) : (s.fault slot cause ring).frame = s.frame := rfl
@[simp] theorem fault_easel (slot cause ring : Nat) : (s.fault slot cause ring).easel = s.easel := rfl
@[simp] theorem fault_mbs (slot cause ring : Nat) : (s.fault slot cause ring).mbs = s.mbs := rfl
@[simp] theorem fault_chans (slot cause ring : Nat) : (s.fault slot cause ring).chans = s.chans := rfl
@[simp] theorem fault_changes (slot cause ring : Nat) : (s.fault slot cause ring).changes = s.changes ++ [.fault slot cause ring] := rfl
@[simp] theorem fault_planned (slot cause ring : Nat) : (s.fault slot cause ring).planned = s.planned := rfl
@[simp] theorem fault_landings (slot cause ring : Nat) : (s.fault slot cause ring).landings = s.landings := rfl
@[simp] theorem fault_nextLand (slot cause ring : Nat) : (s.fault slot cause ring).nextLand = s.nextLand := rfl
@[simp] theorem fault_work (slot cause ring : Nat) : (s.fault slot cause ring).work = s.work := rfl
@[simp] theorem fault_inbox (slot cause ring : Nat) : (s.fault slot cause ring).inbox = s.inbox := rfl
@[simp] theorem fault_ownerQs (slot cause ring : Nat) : (s.fault slot cause ring).ownerQs = s.ownerQs := rfl
@[simp] theorem fault_scanParts (slot cause ring : Nat) : (s.fault slot cause ring).scanParts = s.scanParts := rfl
@[simp] theorem fault_ownerFs (slot cause ring : Nat) : (s.fault slot cause ring).ownerFs = s.ownerFs := rfl
@[simp] theorem fault_outbox (slot cause ring : Nat) : (s.fault slot cause ring).outbox = s.outbox := rfl
@[simp] theorem fault_updIn (slot cause ring : Nat) : (s.fault slot cause ring).updIn = s.updIn := rfl
@[simp] theorem fault_heldUpd (slot cause ring : Nat) : (s.fault slot cause ring).heldUpd = s.heldUpd := rfl
@[simp] theorem fault_staged (slot cause ring : Nat) : (s.fault slot cause ring).staged = s.staged := rfl
@[simp] theorem fault_took (slot cause ring : Nat) : (s.fault slot cause ring).took = s.took := rfl
@[simp] theorem fault_durs (slot cause ring : Nat) : (s.fault slot cause ring).durs = s.durs := rfl
@[simp] theorem fault_listOps (slot cause ring : Nat) : (s.fault slot cause ring).listOps = s.listOps := rfl
@[simp] theorem fault_indexes (slot cause ring : Nat) : (s.fault slot cause ring).indexes = s.indexes := rfl
@[simp] theorem fault_sets (slot cause ring : Nat) : (s.fault slot cause ring).sets = s.sets := rfl
@[simp] theorem fault_tables (slot cause ring : Nat) : (s.fault slot cause ring).tables = s.tables := rfl
@[simp] theorem fault_graphs (slot cause ring : Nat) : (s.fault slot cause ring).graphs = s.graphs := rfl
@[simp] theorem fault_streams (slot cause ring : Nat) : (s.fault slot cause ring).streams = s.streams := rfl
@[simp] theorem fault_migs (slot cause ring : Nat) : (s.fault slot cause ring).migs = s.migs := rfl
@[simp] theorem fault_builds (slot cause ring : Nat) : (s.fault slot cause ring).builds = s.builds := rfl
@[simp] theorem fault_dram (slot cause ring : Nat) : (s.fault slot cause ring).dram = s.dram := rfl
@[simp] theorem fault_aps (slot cause ring : Nat) : (s.fault slot cause ring).aps = s.aps := rfl
@[simp] theorem fault_flash (slot cause ring : Nat) : (s.fault slot cause ring).flash = s.flash := rfl
@[simp] theorem fault_ports (slot cause ring : Nat) : (s.fault slot cause ring).ports = s.ports := rfl
@[simp] theorem fault_time (slot cause ring : Nat) : (s.fault slot cause ring).time = s.time := rfl
@[simp] theorem fault_member (slot cause ring : Nat) : (s.fault slot cause ring).member = s.member := rfl
@[simp] theorem fault_accts (slot cause ring : Nat) : (s.fault slot cause ring).accts = s.accts := rfl
@[simp] theorem fault_nodeAcct (slot cause ring : Nat) : (s.fault slot cause ring).nodeAcct = s.nodeAcct := rfl
@[simp] theorem fault_log (slot cause ring : Nat) : (s.fault slot cause ring).log = s.log := rfl
@[simp] theorem fault_logNext (slot cause ring : Nat) : (s.fault slot cause ring).logNext = s.logNext := rfl
@[simp] theorem fault_events (slot cause ring : Nat) : (s.fault slot cause ring).events = s.events := rfl
@[simp] theorem fault_evRings (slot cause ring : Nat) : (s.fault slot cause ring).evRings = s.evRings := rfl
@[simp] theorem fault_histos (slot cause ring : Nat) : (s.fault slot cause ring).histos = s.histos := rfl
@[simp] theorem fault_units (slot cause ring : Nat) : (s.fault slot cause ring).units = s.units := rfl
@[simp] theorem fault_power (slot cause ring : Nat) : (s.fault slot cause ring).power = s.power := rfl
@[simp] theorem fault_boot (slot cause ring : Nat) : (s.fault slot cause ring).boot = s.boot := rfl
@[simp] theorem fault_keys (slot cause ring : Nat) : (s.fault slot cause ring).keys = s.keys := rfl
@[simp] theorem fault_host (slot cause ring : Nat) : (s.fault slot cause ring).host = s.host := rfl
@[simp] theorem fault_out (slot cause ring : Nat) : (s.fault slot cause ring).out = s.out := rfl
@[simp] theorem fault_freeTick (slot cause ring : Nat) : (s.fault slot cause ring).freeTick = s.freeTick := rfl
@[simp] theorem fault_pending (slot cause ring : Nat) : (s.fault slot cause ring).pending = s.pending := rfl

/-! ### mapCmd -/

@[simp] theorem mapCmd_tap (land : Nat) (f : Cmd → Cmd) : (s.mapCmd land f).tap = s.tap := rfl
@[simp] theorem mapCmd_frame (land : Nat) (f : Cmd → Cmd) : (s.mapCmd land f).frame = s.frame := rfl
@[simp] theorem mapCmd_easel (land : Nat) (f : Cmd → Cmd) : (s.mapCmd land f).easel = s.easel := rfl
@[simp] theorem mapCmd_mbs (land : Nat) (f : Cmd → Cmd) : (s.mapCmd land f).mbs = s.mbs := rfl
@[simp] theorem mapCmd_chans (land : Nat) (f : Cmd → Cmd) : (s.mapCmd land f).chans = s.chans := rfl
@[simp] theorem mapCmd_changes (land : Nat) (f : Cmd → Cmd) : (s.mapCmd land f).changes = s.changes := rfl
@[simp] theorem mapCmd_planned (land : Nat) (f : Cmd → Cmd) : (s.mapCmd land f).planned = s.planned := rfl
@[simp] theorem mapCmd_landings (land : Nat) (f : Cmd → Cmd) : (s.mapCmd land f).landings = s.landings := rfl
@[simp] theorem mapCmd_nextLand (land : Nat) (f : Cmd → Cmd) : (s.mapCmd land f).nextLand = s.nextLand := rfl
@[simp] theorem mapCmd_work (land : Nat) (f : Cmd → Cmd) : (s.mapCmd land f).work = s.work.map fun c => if c.land = land then f c else c := rfl
@[simp] theorem mapCmd_inbox (land : Nat) (f : Cmd → Cmd) : (s.mapCmd land f).inbox = s.inbox := rfl
@[simp] theorem mapCmd_ownerQs (land : Nat) (f : Cmd → Cmd) : (s.mapCmd land f).ownerQs = s.ownerQs := rfl
@[simp] theorem mapCmd_scanParts (land : Nat) (f : Cmd → Cmd) : (s.mapCmd land f).scanParts = s.scanParts := rfl
@[simp] theorem mapCmd_ownerFs (land : Nat) (f : Cmd → Cmd) : (s.mapCmd land f).ownerFs = s.ownerFs := rfl
@[simp] theorem mapCmd_outbox (land : Nat) (f : Cmd → Cmd) : (s.mapCmd land f).outbox = s.outbox := rfl
@[simp] theorem mapCmd_updIn (land : Nat) (f : Cmd → Cmd) : (s.mapCmd land f).updIn = s.updIn := rfl
@[simp] theorem mapCmd_heldUpd (land : Nat) (f : Cmd → Cmd) : (s.mapCmd land f).heldUpd = s.heldUpd := rfl
@[simp] theorem mapCmd_staged (land : Nat) (f : Cmd → Cmd) : (s.mapCmd land f).staged = s.staged := rfl
@[simp] theorem mapCmd_took (land : Nat) (f : Cmd → Cmd) : (s.mapCmd land f).took = s.took := rfl
@[simp] theorem mapCmd_durs (land : Nat) (f : Cmd → Cmd) : (s.mapCmd land f).durs = s.durs := rfl
@[simp] theorem mapCmd_listOps (land : Nat) (f : Cmd → Cmd) : (s.mapCmd land f).listOps = s.listOps := rfl
@[simp] theorem mapCmd_indexes (land : Nat) (f : Cmd → Cmd) : (s.mapCmd land f).indexes = s.indexes := rfl
@[simp] theorem mapCmd_sets (land : Nat) (f : Cmd → Cmd) : (s.mapCmd land f).sets = s.sets := rfl
@[simp] theorem mapCmd_tables (land : Nat) (f : Cmd → Cmd) : (s.mapCmd land f).tables = s.tables := rfl
@[simp] theorem mapCmd_graphs (land : Nat) (f : Cmd → Cmd) : (s.mapCmd land f).graphs = s.graphs := rfl
@[simp] theorem mapCmd_streams (land : Nat) (f : Cmd → Cmd) : (s.mapCmd land f).streams = s.streams := rfl
@[simp] theorem mapCmd_migs (land : Nat) (f : Cmd → Cmd) : (s.mapCmd land f).migs = s.migs := rfl
@[simp] theorem mapCmd_builds (land : Nat) (f : Cmd → Cmd) : (s.mapCmd land f).builds = s.builds := rfl
@[simp] theorem mapCmd_dram (land : Nat) (f : Cmd → Cmd) : (s.mapCmd land f).dram = s.dram := rfl
@[simp] theorem mapCmd_aps (land : Nat) (f : Cmd → Cmd) : (s.mapCmd land f).aps = s.aps := rfl
@[simp] theorem mapCmd_flash (land : Nat) (f : Cmd → Cmd) : (s.mapCmd land f).flash = s.flash := rfl
@[simp] theorem mapCmd_ports (land : Nat) (f : Cmd → Cmd) : (s.mapCmd land f).ports = s.ports := rfl
@[simp] theorem mapCmd_time (land : Nat) (f : Cmd → Cmd) : (s.mapCmd land f).time = s.time := rfl
@[simp] theorem mapCmd_member (land : Nat) (f : Cmd → Cmd) : (s.mapCmd land f).member = s.member := rfl
@[simp] theorem mapCmd_accts (land : Nat) (f : Cmd → Cmd) : (s.mapCmd land f).accts = s.accts := rfl
@[simp] theorem mapCmd_nodeAcct (land : Nat) (f : Cmd → Cmd) : (s.mapCmd land f).nodeAcct = s.nodeAcct := rfl
@[simp] theorem mapCmd_log (land : Nat) (f : Cmd → Cmd) : (s.mapCmd land f).log = s.log := rfl
@[simp] theorem mapCmd_logNext (land : Nat) (f : Cmd → Cmd) : (s.mapCmd land f).logNext = s.logNext := rfl
@[simp] theorem mapCmd_events (land : Nat) (f : Cmd → Cmd) : (s.mapCmd land f).events = s.events := rfl
@[simp] theorem mapCmd_evRings (land : Nat) (f : Cmd → Cmd) : (s.mapCmd land f).evRings = s.evRings := rfl
@[simp] theorem mapCmd_histos (land : Nat) (f : Cmd → Cmd) : (s.mapCmd land f).histos = s.histos := rfl
@[simp] theorem mapCmd_units (land : Nat) (f : Cmd → Cmd) : (s.mapCmd land f).units = s.units := rfl
@[simp] theorem mapCmd_power (land : Nat) (f : Cmd → Cmd) : (s.mapCmd land f).power = s.power := rfl
@[simp] theorem mapCmd_boot (land : Nat) (f : Cmd → Cmd) : (s.mapCmd land f).boot = s.boot := rfl
@[simp] theorem mapCmd_keys (land : Nat) (f : Cmd → Cmd) : (s.mapCmd land f).keys = s.keys := rfl
@[simp] theorem mapCmd_host (land : Nat) (f : Cmd → Cmd) : (s.mapCmd land f).host = s.host := rfl
@[simp] theorem mapCmd_out (land : Nat) (f : Cmd → Cmd) : (s.mapCmd land f).out = s.out := rfl
@[simp] theorem mapCmd_freeTick (land : Nat) (f : Cmd → Cmd) : (s.mapCmd land f).freeTick = s.freeTick := rfl
@[simp] theorem mapCmd_pending (land : Nat) (f : Cmd → Cmd) : (s.mapCmd land f).pending = s.pending := rfl

/-! ### dropCmd -/

@[simp] theorem dropCmd_tap (land : Nat) : (s.dropCmd land).tap = s.tap := rfl
@[simp] theorem dropCmd_frame (land : Nat) : (s.dropCmd land).frame = s.frame := rfl
@[simp] theorem dropCmd_easel (land : Nat) : (s.dropCmd land).easel = s.easel := rfl
@[simp] theorem dropCmd_mbs (land : Nat) : (s.dropCmd land).mbs = s.mbs := rfl
@[simp] theorem dropCmd_chans (land : Nat) : (s.dropCmd land).chans = s.chans := rfl
@[simp] theorem dropCmd_changes (land : Nat) : (s.dropCmd land).changes = s.changes := rfl
@[simp] theorem dropCmd_planned (land : Nat) : (s.dropCmd land).planned = s.planned := rfl
@[simp] theorem dropCmd_landings (land : Nat) : (s.dropCmd land).landings = s.landings := rfl
@[simp] theorem dropCmd_nextLand (land : Nat) : (s.dropCmd land).nextLand = s.nextLand := rfl
@[simp] theorem dropCmd_work (land : Nat) : (s.dropCmd land).work = s.work.filter fun c => c.land != land := rfl
@[simp] theorem dropCmd_inbox (land : Nat) : (s.dropCmd land).inbox = s.inbox := rfl
@[simp] theorem dropCmd_ownerQs (land : Nat) : (s.dropCmd land).ownerQs = s.ownerQs := rfl
@[simp] theorem dropCmd_scanParts (land : Nat) : (s.dropCmd land).scanParts = s.scanParts := rfl
@[simp] theorem dropCmd_ownerFs (land : Nat) : (s.dropCmd land).ownerFs = s.ownerFs := rfl
@[simp] theorem dropCmd_outbox (land : Nat) : (s.dropCmd land).outbox = s.outbox := rfl
@[simp] theorem dropCmd_updIn (land : Nat) : (s.dropCmd land).updIn = s.updIn := rfl
@[simp] theorem dropCmd_heldUpd (land : Nat) : (s.dropCmd land).heldUpd = s.heldUpd := rfl
@[simp] theorem dropCmd_staged (land : Nat) : (s.dropCmd land).staged = s.staged := rfl
@[simp] theorem dropCmd_took (land : Nat) : (s.dropCmd land).took = s.took := rfl
@[simp] theorem dropCmd_durs (land : Nat) : (s.dropCmd land).durs = s.durs := rfl
@[simp] theorem dropCmd_listOps (land : Nat) : (s.dropCmd land).listOps = s.listOps := rfl
@[simp] theorem dropCmd_indexes (land : Nat) : (s.dropCmd land).indexes = s.indexes := rfl
@[simp] theorem dropCmd_sets (land : Nat) : (s.dropCmd land).sets = s.sets := rfl
@[simp] theorem dropCmd_tables (land : Nat) : (s.dropCmd land).tables = s.tables := rfl
@[simp] theorem dropCmd_graphs (land : Nat) : (s.dropCmd land).graphs = s.graphs := rfl
@[simp] theorem dropCmd_streams (land : Nat) : (s.dropCmd land).streams = s.streams := rfl
@[simp] theorem dropCmd_migs (land : Nat) : (s.dropCmd land).migs = s.migs := rfl
@[simp] theorem dropCmd_builds (land : Nat) : (s.dropCmd land).builds = s.builds := rfl
@[simp] theorem dropCmd_dram (land : Nat) : (s.dropCmd land).dram = s.dram := rfl
@[simp] theorem dropCmd_aps (land : Nat) : (s.dropCmd land).aps = s.aps := rfl
@[simp] theorem dropCmd_flash (land : Nat) : (s.dropCmd land).flash = s.flash := rfl
@[simp] theorem dropCmd_ports (land : Nat) : (s.dropCmd land).ports = s.ports := rfl
@[simp] theorem dropCmd_time (land : Nat) : (s.dropCmd land).time = s.time := rfl
@[simp] theorem dropCmd_member (land : Nat) : (s.dropCmd land).member = s.member := rfl
@[simp] theorem dropCmd_accts (land : Nat) : (s.dropCmd land).accts = s.accts := rfl
@[simp] theorem dropCmd_nodeAcct (land : Nat) : (s.dropCmd land).nodeAcct = s.nodeAcct := rfl
@[simp] theorem dropCmd_log (land : Nat) : (s.dropCmd land).log = s.log := rfl
@[simp] theorem dropCmd_logNext (land : Nat) : (s.dropCmd land).logNext = s.logNext := rfl
@[simp] theorem dropCmd_events (land : Nat) : (s.dropCmd land).events = s.events := rfl
@[simp] theorem dropCmd_evRings (land : Nat) : (s.dropCmd land).evRings = s.evRings := rfl
@[simp] theorem dropCmd_histos (land : Nat) : (s.dropCmd land).histos = s.histos := rfl
@[simp] theorem dropCmd_units (land : Nat) : (s.dropCmd land).units = s.units := rfl
@[simp] theorem dropCmd_power (land : Nat) : (s.dropCmd land).power = s.power := rfl
@[simp] theorem dropCmd_boot (land : Nat) : (s.dropCmd land).boot = s.boot := rfl
@[simp] theorem dropCmd_keys (land : Nat) : (s.dropCmd land).keys = s.keys := rfl
@[simp] theorem dropCmd_host (land : Nat) : (s.dropCmd land).host = s.host := rfl
@[simp] theorem dropCmd_out (land : Nat) : (s.dropCmd land).out = s.out := rfl
@[simp] theorem dropCmd_freeTick (land : Nat) : (s.dropCmd land).freeTick = s.freeTick := rfl
@[simp] theorem dropCmd_pending (land : Nat) : (s.dropCmd land).pending = s.pending := rfl

/-! ### mapIndex -/

@[simp] theorem mapIndex_tap (slot : Nat) (h : Handle) (f : Index → Index) : (s.mapIndex slot h f).tap = s.tap := rfl
@[simp] theorem mapIndex_frame (slot : Nat) (h : Handle) (f : Index → Index) : (s.mapIndex slot h f).frame = s.frame := rfl
@[simp] theorem mapIndex_easel (slot : Nat) (h : Handle) (f : Index → Index) : (s.mapIndex slot h f).easel = s.easel := rfl
@[simp] theorem mapIndex_mbs (slot : Nat) (h : Handle) (f : Index → Index) : (s.mapIndex slot h f).mbs = s.mbs := rfl
@[simp] theorem mapIndex_chans (slot : Nat) (h : Handle) (f : Index → Index) : (s.mapIndex slot h f).chans = s.chans := rfl
@[simp] theorem mapIndex_changes (slot : Nat) (h : Handle) (f : Index → Index) : (s.mapIndex slot h f).changes = s.changes := rfl
@[simp] theorem mapIndex_planned (slot : Nat) (h : Handle) (f : Index → Index) : (s.mapIndex slot h f).planned = s.planned := rfl
@[simp] theorem mapIndex_landings (slot : Nat) (h : Handle) (f : Index → Index) : (s.mapIndex slot h f).landings = s.landings := rfl
@[simp] theorem mapIndex_nextLand (slot : Nat) (h : Handle) (f : Index → Index) : (s.mapIndex slot h f).nextLand = s.nextLand := rfl
@[simp] theorem mapIndex_work (slot : Nat) (h : Handle) (f : Index → Index) : (s.mapIndex slot h f).work = s.work := rfl
@[simp] theorem mapIndex_inbox (slot : Nat) (h : Handle) (f : Index → Index) : (s.mapIndex slot h f).inbox = s.inbox := rfl
@[simp] theorem mapIndex_ownerQs (slot : Nat) (h : Handle) (f : Index → Index) : (s.mapIndex slot h f).ownerQs = s.ownerQs := rfl
@[simp] theorem mapIndex_scanParts (slot : Nat) (h : Handle) (f : Index → Index) : (s.mapIndex slot h f).scanParts = s.scanParts := rfl
@[simp] theorem mapIndex_ownerFs (slot : Nat) (h : Handle) (f : Index → Index) : (s.mapIndex slot h f).ownerFs = s.ownerFs := rfl
@[simp] theorem mapIndex_outbox (slot : Nat) (h : Handle) (f : Index → Index) : (s.mapIndex slot h f).outbox = s.outbox := rfl
@[simp] theorem mapIndex_updIn (slot : Nat) (h : Handle) (f : Index → Index) : (s.mapIndex slot h f).updIn = s.updIn := rfl
@[simp] theorem mapIndex_heldUpd (slot : Nat) (h : Handle) (f : Index → Index) : (s.mapIndex slot h f).heldUpd = s.heldUpd := rfl
@[simp] theorem mapIndex_staged (slot : Nat) (h : Handle) (f : Index → Index) : (s.mapIndex slot h f).staged = s.staged := rfl
@[simp] theorem mapIndex_took (slot : Nat) (h : Handle) (f : Index → Index) : (s.mapIndex slot h f).took = s.took := rfl
@[simp] theorem mapIndex_durs (slot : Nat) (h : Handle) (f : Index → Index) : (s.mapIndex slot h f).durs = s.durs := rfl
@[simp] theorem mapIndex_listOps (slot : Nat) (h : Handle) (f : Index → Index) : (s.mapIndex slot h f).listOps = s.listOps := rfl
@[simp] theorem mapIndex_indexes (slot : Nat) (h : Handle) (f : Index → Index) : (s.mapIndex slot h f).indexes = tmap s.indexes (objKey slot h) f := rfl
@[simp] theorem mapIndex_sets (slot : Nat) (h : Handle) (f : Index → Index) : (s.mapIndex slot h f).sets = s.sets := rfl
@[simp] theorem mapIndex_tables (slot : Nat) (h : Handle) (f : Index → Index) : (s.mapIndex slot h f).tables = s.tables := rfl
@[simp] theorem mapIndex_graphs (slot : Nat) (h : Handle) (f : Index → Index) : (s.mapIndex slot h f).graphs = s.graphs := rfl
@[simp] theorem mapIndex_streams (slot : Nat) (h : Handle) (f : Index → Index) : (s.mapIndex slot h f).streams = s.streams := rfl
@[simp] theorem mapIndex_migs (slot : Nat) (h : Handle) (f : Index → Index) : (s.mapIndex slot h f).migs = s.migs := rfl
@[simp] theorem mapIndex_builds (slot : Nat) (h : Handle) (f : Index → Index) : (s.mapIndex slot h f).builds = s.builds := rfl
@[simp] theorem mapIndex_dram (slot : Nat) (h : Handle) (f : Index → Index) : (s.mapIndex slot h f).dram = s.dram := rfl
@[simp] theorem mapIndex_aps (slot : Nat) (h : Handle) (f : Index → Index) : (s.mapIndex slot h f).aps = s.aps := rfl
@[simp] theorem mapIndex_flash (slot : Nat) (h : Handle) (f : Index → Index) : (s.mapIndex slot h f).flash = s.flash := rfl
@[simp] theorem mapIndex_ports (slot : Nat) (h : Handle) (f : Index → Index) : (s.mapIndex slot h f).ports = s.ports := rfl
@[simp] theorem mapIndex_time (slot : Nat) (h : Handle) (f : Index → Index) : (s.mapIndex slot h f).time = s.time := rfl
@[simp] theorem mapIndex_member (slot : Nat) (h : Handle) (f : Index → Index) : (s.mapIndex slot h f).member = s.member := rfl
@[simp] theorem mapIndex_accts (slot : Nat) (h : Handle) (f : Index → Index) : (s.mapIndex slot h f).accts = s.accts := rfl
@[simp] theorem mapIndex_nodeAcct (slot : Nat) (h : Handle) (f : Index → Index) : (s.mapIndex slot h f).nodeAcct = s.nodeAcct := rfl
@[simp] theorem mapIndex_log (slot : Nat) (h : Handle) (f : Index → Index) : (s.mapIndex slot h f).log = s.log := rfl
@[simp] theorem mapIndex_logNext (slot : Nat) (h : Handle) (f : Index → Index) : (s.mapIndex slot h f).logNext = s.logNext := rfl
@[simp] theorem mapIndex_events (slot : Nat) (h : Handle) (f : Index → Index) : (s.mapIndex slot h f).events = s.events := rfl
@[simp] theorem mapIndex_evRings (slot : Nat) (h : Handle) (f : Index → Index) : (s.mapIndex slot h f).evRings = s.evRings := rfl
@[simp] theorem mapIndex_histos (slot : Nat) (h : Handle) (f : Index → Index) : (s.mapIndex slot h f).histos = s.histos := rfl
@[simp] theorem mapIndex_units (slot : Nat) (h : Handle) (f : Index → Index) : (s.mapIndex slot h f).units = s.units := rfl
@[simp] theorem mapIndex_power (slot : Nat) (h : Handle) (f : Index → Index) : (s.mapIndex slot h f).power = s.power := rfl
@[simp] theorem mapIndex_boot (slot : Nat) (h : Handle) (f : Index → Index) : (s.mapIndex slot h f).boot = s.boot := rfl
@[simp] theorem mapIndex_keys (slot : Nat) (h : Handle) (f : Index → Index) : (s.mapIndex slot h f).keys = s.keys := rfl
@[simp] theorem mapIndex_host (slot : Nat) (h : Handle) (f : Index → Index) : (s.mapIndex slot h f).host = s.host := rfl
@[simp] theorem mapIndex_out (slot : Nat) (h : Handle) (f : Index → Index) : (s.mapIndex slot h f).out = s.out := rfl
@[simp] theorem mapIndex_freeTick (slot : Nat) (h : Handle) (f : Index → Index) : (s.mapIndex slot h f).freeTick = s.freeTick := rfl
@[simp] theorem mapIndex_pending (slot : Nat) (h : Handle) (f : Index → Index) : (s.mapIndex slot h f).pending = s.pending := rfl

/-! ### mapTable -/

@[simp] theorem mapTable_tap (slot : Nat) (h : Handle) (f : Table → Table) : (s.mapTable slot h f).tap = s.tap := rfl
@[simp] theorem mapTable_frame (slot : Nat) (h : Handle) (f : Table → Table) : (s.mapTable slot h f).frame = s.frame := rfl
@[simp] theorem mapTable_easel (slot : Nat) (h : Handle) (f : Table → Table) : (s.mapTable slot h f).easel = s.easel := rfl
@[simp] theorem mapTable_mbs (slot : Nat) (h : Handle) (f : Table → Table) : (s.mapTable slot h f).mbs = s.mbs := rfl
@[simp] theorem mapTable_chans (slot : Nat) (h : Handle) (f : Table → Table) : (s.mapTable slot h f).chans = s.chans := rfl
@[simp] theorem mapTable_changes (slot : Nat) (h : Handle) (f : Table → Table) : (s.mapTable slot h f).changes = s.changes := rfl
@[simp] theorem mapTable_planned (slot : Nat) (h : Handle) (f : Table → Table) : (s.mapTable slot h f).planned = s.planned := rfl
@[simp] theorem mapTable_landings (slot : Nat) (h : Handle) (f : Table → Table) : (s.mapTable slot h f).landings = s.landings := rfl
@[simp] theorem mapTable_nextLand (slot : Nat) (h : Handle) (f : Table → Table) : (s.mapTable slot h f).nextLand = s.nextLand := rfl
@[simp] theorem mapTable_work (slot : Nat) (h : Handle) (f : Table → Table) : (s.mapTable slot h f).work = s.work := rfl
@[simp] theorem mapTable_inbox (slot : Nat) (h : Handle) (f : Table → Table) : (s.mapTable slot h f).inbox = s.inbox := rfl
@[simp] theorem mapTable_ownerQs (slot : Nat) (h : Handle) (f : Table → Table) : (s.mapTable slot h f).ownerQs = s.ownerQs := rfl
@[simp] theorem mapTable_scanParts (slot : Nat) (h : Handle) (f : Table → Table) : (s.mapTable slot h f).scanParts = s.scanParts := rfl
@[simp] theorem mapTable_ownerFs (slot : Nat) (h : Handle) (f : Table → Table) : (s.mapTable slot h f).ownerFs = s.ownerFs := rfl
@[simp] theorem mapTable_outbox (slot : Nat) (h : Handle) (f : Table → Table) : (s.mapTable slot h f).outbox = s.outbox := rfl
@[simp] theorem mapTable_updIn (slot : Nat) (h : Handle) (f : Table → Table) : (s.mapTable slot h f).updIn = s.updIn := rfl
@[simp] theorem mapTable_heldUpd (slot : Nat) (h : Handle) (f : Table → Table) : (s.mapTable slot h f).heldUpd = s.heldUpd := rfl
@[simp] theorem mapTable_staged (slot : Nat) (h : Handle) (f : Table → Table) : (s.mapTable slot h f).staged = s.staged := rfl
@[simp] theorem mapTable_took (slot : Nat) (h : Handle) (f : Table → Table) : (s.mapTable slot h f).took = s.took := rfl
@[simp] theorem mapTable_durs (slot : Nat) (h : Handle) (f : Table → Table) : (s.mapTable slot h f).durs = s.durs := rfl
@[simp] theorem mapTable_listOps (slot : Nat) (h : Handle) (f : Table → Table) : (s.mapTable slot h f).listOps = s.listOps := rfl
@[simp] theorem mapTable_indexes (slot : Nat) (h : Handle) (f : Table → Table) : (s.mapTable slot h f).indexes = s.indexes := rfl
@[simp] theorem mapTable_sets (slot : Nat) (h : Handle) (f : Table → Table) : (s.mapTable slot h f).sets = s.sets := rfl
@[simp] theorem mapTable_tables (slot : Nat) (h : Handle) (f : Table → Table) : (s.mapTable slot h f).tables = tmap s.tables (objKey slot h) f := rfl
@[simp] theorem mapTable_graphs (slot : Nat) (h : Handle) (f : Table → Table) : (s.mapTable slot h f).graphs = s.graphs := rfl
@[simp] theorem mapTable_streams (slot : Nat) (h : Handle) (f : Table → Table) : (s.mapTable slot h f).streams = s.streams := rfl
@[simp] theorem mapTable_migs (slot : Nat) (h : Handle) (f : Table → Table) : (s.mapTable slot h f).migs = s.migs := rfl
@[simp] theorem mapTable_builds (slot : Nat) (h : Handle) (f : Table → Table) : (s.mapTable slot h f).builds = s.builds := rfl
@[simp] theorem mapTable_dram (slot : Nat) (h : Handle) (f : Table → Table) : (s.mapTable slot h f).dram = s.dram := rfl
@[simp] theorem mapTable_aps (slot : Nat) (h : Handle) (f : Table → Table) : (s.mapTable slot h f).aps = s.aps := rfl
@[simp] theorem mapTable_flash (slot : Nat) (h : Handle) (f : Table → Table) : (s.mapTable slot h f).flash = s.flash := rfl
@[simp] theorem mapTable_ports (slot : Nat) (h : Handle) (f : Table → Table) : (s.mapTable slot h f).ports = s.ports := rfl
@[simp] theorem mapTable_time (slot : Nat) (h : Handle) (f : Table → Table) : (s.mapTable slot h f).time = s.time := rfl
@[simp] theorem mapTable_member (slot : Nat) (h : Handle) (f : Table → Table) : (s.mapTable slot h f).member = s.member := rfl
@[simp] theorem mapTable_accts (slot : Nat) (h : Handle) (f : Table → Table) : (s.mapTable slot h f).accts = s.accts := rfl
@[simp] theorem mapTable_nodeAcct (slot : Nat) (h : Handle) (f : Table → Table) : (s.mapTable slot h f).nodeAcct = s.nodeAcct := rfl
@[simp] theorem mapTable_log (slot : Nat) (h : Handle) (f : Table → Table) : (s.mapTable slot h f).log = s.log := rfl
@[simp] theorem mapTable_logNext (slot : Nat) (h : Handle) (f : Table → Table) : (s.mapTable slot h f).logNext = s.logNext := rfl
@[simp] theorem mapTable_events (slot : Nat) (h : Handle) (f : Table → Table) : (s.mapTable slot h f).events = s.events := rfl
@[simp] theorem mapTable_evRings (slot : Nat) (h : Handle) (f : Table → Table) : (s.mapTable slot h f).evRings = s.evRings := rfl
@[simp] theorem mapTable_histos (slot : Nat) (h : Handle) (f : Table → Table) : (s.mapTable slot h f).histos = s.histos := rfl
@[simp] theorem mapTable_units (slot : Nat) (h : Handle) (f : Table → Table) : (s.mapTable slot h f).units = s.units := rfl
@[simp] theorem mapTable_power (slot : Nat) (h : Handle) (f : Table → Table) : (s.mapTable slot h f).power = s.power := rfl
@[simp] theorem mapTable_boot (slot : Nat) (h : Handle) (f : Table → Table) : (s.mapTable slot h f).boot = s.boot := rfl
@[simp] theorem mapTable_keys (slot : Nat) (h : Handle) (f : Table → Table) : (s.mapTable slot h f).keys = s.keys := rfl
@[simp] theorem mapTable_host (slot : Nat) (h : Handle) (f : Table → Table) : (s.mapTable slot h f).host = s.host := rfl
@[simp] theorem mapTable_out (slot : Nat) (h : Handle) (f : Table → Table) : (s.mapTable slot h f).out = s.out := rfl
@[simp] theorem mapTable_freeTick (slot : Nat) (h : Handle) (f : Table → Table) : (s.mapTable slot h f).freeTick = s.freeTick := rfl
@[simp] theorem mapTable_pending (slot : Nat) (h : Handle) (f : Table → Table) : (s.mapTable slot h f).pending = s.pending := rfl

/-! ### plan -/

@[simp] theorem plan_tap (frame fn : Nat) (w : Plan) : (s.plan frame fn w).tap = s.tap := rfl
@[simp] theorem plan_frame (frame fn : Nat) (w : Plan) : (s.plan frame fn w).frame = s.frame := rfl
@[simp] theorem plan_easel (frame fn : Nat) (w : Plan) : (s.plan frame fn w).easel = s.easel := rfl
@[simp] theorem plan_mbs (frame fn : Nat) (w : Plan) : (s.plan frame fn w).mbs = s.mbs := rfl
@[simp] theorem plan_chans (frame fn : Nat) (w : Plan) : (s.plan frame fn w).chans = s.chans := rfl
@[simp] theorem plan_changes (frame fn : Nat) (w : Plan) : (s.plan frame fn w).changes = s.changes := rfl
@[simp] theorem plan_planned (frame fn : Nat) (w : Plan) : (s.plan frame fn w).planned = s.planned ++ [{ frame := frame, fn := fn, what := w }] := rfl
@[simp] theorem plan_landings (frame fn : Nat) (w : Plan) : (s.plan frame fn w).landings = s.landings := rfl
@[simp] theorem plan_nextLand (frame fn : Nat) (w : Plan) : (s.plan frame fn w).nextLand = s.nextLand := rfl
@[simp] theorem plan_work (frame fn : Nat) (w : Plan) : (s.plan frame fn w).work = s.work := rfl
@[simp] theorem plan_inbox (frame fn : Nat) (w : Plan) : (s.plan frame fn w).inbox = s.inbox := rfl
@[simp] theorem plan_ownerQs (frame fn : Nat) (w : Plan) : (s.plan frame fn w).ownerQs = s.ownerQs := rfl
@[simp] theorem plan_scanParts (frame fn : Nat) (w : Plan) : (s.plan frame fn w).scanParts = s.scanParts := rfl
@[simp] theorem plan_ownerFs (frame fn : Nat) (w : Plan) : (s.plan frame fn w).ownerFs = s.ownerFs := rfl
@[simp] theorem plan_outbox (frame fn : Nat) (w : Plan) : (s.plan frame fn w).outbox = s.outbox := rfl
@[simp] theorem plan_updIn (frame fn : Nat) (w : Plan) : (s.plan frame fn w).updIn = s.updIn := rfl
@[simp] theorem plan_heldUpd (frame fn : Nat) (w : Plan) : (s.plan frame fn w).heldUpd = s.heldUpd := rfl
@[simp] theorem plan_staged (frame fn : Nat) (w : Plan) : (s.plan frame fn w).staged = s.staged := rfl
@[simp] theorem plan_took (frame fn : Nat) (w : Plan) : (s.plan frame fn w).took = s.took := rfl
@[simp] theorem plan_durs (frame fn : Nat) (w : Plan) : (s.plan frame fn w).durs = s.durs := rfl
@[simp] theorem plan_listOps (frame fn : Nat) (w : Plan) : (s.plan frame fn w).listOps = s.listOps := rfl
@[simp] theorem plan_indexes (frame fn : Nat) (w : Plan) : (s.plan frame fn w).indexes = s.indexes := rfl
@[simp] theorem plan_sets (frame fn : Nat) (w : Plan) : (s.plan frame fn w).sets = s.sets := rfl
@[simp] theorem plan_tables (frame fn : Nat) (w : Plan) : (s.plan frame fn w).tables = s.tables := rfl
@[simp] theorem plan_graphs (frame fn : Nat) (w : Plan) : (s.plan frame fn w).graphs = s.graphs := rfl
@[simp] theorem plan_streams (frame fn : Nat) (w : Plan) : (s.plan frame fn w).streams = s.streams := rfl
@[simp] theorem plan_migs (frame fn : Nat) (w : Plan) : (s.plan frame fn w).migs = s.migs := rfl
@[simp] theorem plan_builds (frame fn : Nat) (w : Plan) : (s.plan frame fn w).builds = s.builds := rfl
@[simp] theorem plan_dram (frame fn : Nat) (w : Plan) : (s.plan frame fn w).dram = s.dram := rfl
@[simp] theorem plan_aps (frame fn : Nat) (w : Plan) : (s.plan frame fn w).aps = s.aps := rfl
@[simp] theorem plan_flash (frame fn : Nat) (w : Plan) : (s.plan frame fn w).flash = s.flash := rfl
@[simp] theorem plan_ports (frame fn : Nat) (w : Plan) : (s.plan frame fn w).ports = s.ports := rfl
@[simp] theorem plan_time (frame fn : Nat) (w : Plan) : (s.plan frame fn w).time = s.time := rfl
@[simp] theorem plan_member (frame fn : Nat) (w : Plan) : (s.plan frame fn w).member = s.member := rfl
@[simp] theorem plan_accts (frame fn : Nat) (w : Plan) : (s.plan frame fn w).accts = s.accts := rfl
@[simp] theorem plan_nodeAcct (frame fn : Nat) (w : Plan) : (s.plan frame fn w).nodeAcct = s.nodeAcct := rfl
@[simp] theorem plan_log (frame fn : Nat) (w : Plan) : (s.plan frame fn w).log = s.log := rfl
@[simp] theorem plan_logNext (frame fn : Nat) (w : Plan) : (s.plan frame fn w).logNext = s.logNext := rfl
@[simp] theorem plan_events (frame fn : Nat) (w : Plan) : (s.plan frame fn w).events = s.events := rfl
@[simp] theorem plan_evRings (frame fn : Nat) (w : Plan) : (s.plan frame fn w).evRings = s.evRings := rfl
@[simp] theorem plan_histos (frame fn : Nat) (w : Plan) : (s.plan frame fn w).histos = s.histos := rfl
@[simp] theorem plan_units (frame fn : Nat) (w : Plan) : (s.plan frame fn w).units = s.units := rfl
@[simp] theorem plan_power (frame fn : Nat) (w : Plan) : (s.plan frame fn w).power = s.power := rfl
@[simp] theorem plan_boot (frame fn : Nat) (w : Plan) : (s.plan frame fn w).boot = s.boot := rfl
@[simp] theorem plan_keys (frame fn : Nat) (w : Plan) : (s.plan frame fn w).keys = s.keys := rfl
@[simp] theorem plan_host (frame fn : Nat) (w : Plan) : (s.plan frame fn w).host = s.host := rfl
@[simp] theorem plan_out (frame fn : Nat) (w : Plan) : (s.plan frame fn w).out = s.out := rfl
@[simp] theorem plan_freeTick (frame fn : Nat) (w : Plan) : (s.plan frame fn w).freeTick = s.freeTick := rfl
@[simp] theorem plan_pending (frame fn : Nat) (w : Plan) : (s.plan frame fn w).pending = s.pending := rfl

/-! ### mapPower -/

@[simp] theorem mapPower_tap (f : Power → Power) : (s.mapPower f).tap = s.tap := rfl
@[simp] theorem mapPower_frame (f : Power → Power) : (s.mapPower f).frame = s.frame := rfl
@[simp] theorem mapPower_easel (f : Power → Power) : (s.mapPower f).easel = s.easel := rfl
@[simp] theorem mapPower_mbs (f : Power → Power) : (s.mapPower f).mbs = s.mbs := rfl
@[simp] theorem mapPower_chans (f : Power → Power) : (s.mapPower f).chans = s.chans := rfl
@[simp] theorem mapPower_changes (f : Power → Power) : (s.mapPower f).changes = s.changes := rfl
@[simp] theorem mapPower_planned (f : Power → Power) : (s.mapPower f).planned = s.planned := rfl
@[simp] theorem mapPower_landings (f : Power → Power) : (s.mapPower f).landings = s.landings := rfl
@[simp] theorem mapPower_nextLand (f : Power → Power) : (s.mapPower f).nextLand = s.nextLand := rfl
@[simp] theorem mapPower_work (f : Power → Power) : (s.mapPower f).work = s.work := rfl
@[simp] theorem mapPower_inbox (f : Power → Power) : (s.mapPower f).inbox = s.inbox := rfl
@[simp] theorem mapPower_ownerQs (f : Power → Power) : (s.mapPower f).ownerQs = s.ownerQs := rfl
@[simp] theorem mapPower_scanParts (f : Power → Power) : (s.mapPower f).scanParts = s.scanParts := rfl
@[simp] theorem mapPower_ownerFs (f : Power → Power) : (s.mapPower f).ownerFs = s.ownerFs := rfl
@[simp] theorem mapPower_outbox (f : Power → Power) : (s.mapPower f).outbox = s.outbox := rfl
@[simp] theorem mapPower_updIn (f : Power → Power) : (s.mapPower f).updIn = s.updIn := rfl
@[simp] theorem mapPower_heldUpd (f : Power → Power) : (s.mapPower f).heldUpd = s.heldUpd := rfl
@[simp] theorem mapPower_staged (f : Power → Power) : (s.mapPower f).staged = s.staged := rfl
@[simp] theorem mapPower_took (f : Power → Power) : (s.mapPower f).took = s.took := rfl
@[simp] theorem mapPower_durs (f : Power → Power) : (s.mapPower f).durs = s.durs := rfl
@[simp] theorem mapPower_listOps (f : Power → Power) : (s.mapPower f).listOps = s.listOps := rfl
@[simp] theorem mapPower_indexes (f : Power → Power) : (s.mapPower f).indexes = s.indexes := rfl
@[simp] theorem mapPower_sets (f : Power → Power) : (s.mapPower f).sets = s.sets := rfl
@[simp] theorem mapPower_tables (f : Power → Power) : (s.mapPower f).tables = s.tables := rfl
@[simp] theorem mapPower_graphs (f : Power → Power) : (s.mapPower f).graphs = s.graphs := rfl
@[simp] theorem mapPower_streams (f : Power → Power) : (s.mapPower f).streams = s.streams := rfl
@[simp] theorem mapPower_migs (f : Power → Power) : (s.mapPower f).migs = s.migs := rfl
@[simp] theorem mapPower_builds (f : Power → Power) : (s.mapPower f).builds = s.builds := rfl
@[simp] theorem mapPower_dram (f : Power → Power) : (s.mapPower f).dram = s.dram := rfl
@[simp] theorem mapPower_aps (f : Power → Power) : (s.mapPower f).aps = s.aps := rfl
@[simp] theorem mapPower_flash (f : Power → Power) : (s.mapPower f).flash = s.flash := rfl
@[simp] theorem mapPower_ports (f : Power → Power) : (s.mapPower f).ports = s.ports := rfl
@[simp] theorem mapPower_time (f : Power → Power) : (s.mapPower f).time = s.time := rfl
@[simp] theorem mapPower_member (f : Power → Power) : (s.mapPower f).member = s.member := rfl
@[simp] theorem mapPower_accts (f : Power → Power) : (s.mapPower f).accts = s.accts := rfl
@[simp] theorem mapPower_nodeAcct (f : Power → Power) : (s.mapPower f).nodeAcct = s.nodeAcct := rfl
@[simp] theorem mapPower_log (f : Power → Power) : (s.mapPower f).log = s.log := rfl
@[simp] theorem mapPower_logNext (f : Power → Power) : (s.mapPower f).logNext = s.logNext := rfl
@[simp] theorem mapPower_events (f : Power → Power) : (s.mapPower f).events = s.events := rfl
@[simp] theorem mapPower_evRings (f : Power → Power) : (s.mapPower f).evRings = s.evRings := rfl
@[simp] theorem mapPower_histos (f : Power → Power) : (s.mapPower f).histos = s.histos := rfl
@[simp] theorem mapPower_units (f : Power → Power) : (s.mapPower f).units = s.units := rfl
@[simp] theorem mapPower_power (f : Power → Power) : (s.mapPower f).power = f s.power := rfl
@[simp] theorem mapPower_boot (f : Power → Power) : (s.mapPower f).boot = s.boot := rfl
@[simp] theorem mapPower_keys (f : Power → Power) : (s.mapPower f).keys = s.keys := rfl
@[simp] theorem mapPower_host (f : Power → Power) : (s.mapPower f).host = s.host := rfl
@[simp] theorem mapPower_out (f : Power → Power) : (s.mapPower f).out = s.out := rfl
@[simp] theorem mapPower_freeTick (f : Power → Power) : (s.mapPower f).freeTick = s.freeTick := rfl
@[simp] theorem mapPower_pending (f : Power → Power) : (s.mapPower f).pending = s.pending := rfl

/-! ### mapFlash -/

@[simp] theorem mapFlash_tap (f : Flash → Flash) : (s.mapFlash f).tap = s.tap := rfl
@[simp] theorem mapFlash_frame (f : Flash → Flash) : (s.mapFlash f).frame = s.frame := rfl
@[simp] theorem mapFlash_easel (f : Flash → Flash) : (s.mapFlash f).easel = s.easel := rfl
@[simp] theorem mapFlash_mbs (f : Flash → Flash) : (s.mapFlash f).mbs = s.mbs := rfl
@[simp] theorem mapFlash_chans (f : Flash → Flash) : (s.mapFlash f).chans = s.chans := rfl
@[simp] theorem mapFlash_changes (f : Flash → Flash) : (s.mapFlash f).changes = s.changes := rfl
@[simp] theorem mapFlash_planned (f : Flash → Flash) : (s.mapFlash f).planned = s.planned := rfl
@[simp] theorem mapFlash_landings (f : Flash → Flash) : (s.mapFlash f).landings = s.landings := rfl
@[simp] theorem mapFlash_nextLand (f : Flash → Flash) : (s.mapFlash f).nextLand = s.nextLand := rfl
@[simp] theorem mapFlash_work (f : Flash → Flash) : (s.mapFlash f).work = s.work := rfl
@[simp] theorem mapFlash_inbox (f : Flash → Flash) : (s.mapFlash f).inbox = s.inbox := rfl
@[simp] theorem mapFlash_ownerQs (f : Flash → Flash) : (s.mapFlash f).ownerQs = s.ownerQs := rfl
@[simp] theorem mapFlash_scanParts (f : Flash → Flash) : (s.mapFlash f).scanParts = s.scanParts := rfl
@[simp] theorem mapFlash_ownerFs (f : Flash → Flash) : (s.mapFlash f).ownerFs = s.ownerFs := rfl
@[simp] theorem mapFlash_outbox (f : Flash → Flash) : (s.mapFlash f).outbox = s.outbox := rfl
@[simp] theorem mapFlash_updIn (f : Flash → Flash) : (s.mapFlash f).updIn = s.updIn := rfl
@[simp] theorem mapFlash_heldUpd (f : Flash → Flash) : (s.mapFlash f).heldUpd = s.heldUpd := rfl
@[simp] theorem mapFlash_staged (f : Flash → Flash) : (s.mapFlash f).staged = s.staged := rfl
@[simp] theorem mapFlash_took (f : Flash → Flash) : (s.mapFlash f).took = s.took := rfl
@[simp] theorem mapFlash_durs (f : Flash → Flash) : (s.mapFlash f).durs = s.durs := rfl
@[simp] theorem mapFlash_listOps (f : Flash → Flash) : (s.mapFlash f).listOps = s.listOps := rfl
@[simp] theorem mapFlash_indexes (f : Flash → Flash) : (s.mapFlash f).indexes = s.indexes := rfl
@[simp] theorem mapFlash_sets (f : Flash → Flash) : (s.mapFlash f).sets = s.sets := rfl
@[simp] theorem mapFlash_tables (f : Flash → Flash) : (s.mapFlash f).tables = s.tables := rfl
@[simp] theorem mapFlash_graphs (f : Flash → Flash) : (s.mapFlash f).graphs = s.graphs := rfl
@[simp] theorem mapFlash_streams (f : Flash → Flash) : (s.mapFlash f).streams = s.streams := rfl
@[simp] theorem mapFlash_migs (f : Flash → Flash) : (s.mapFlash f).migs = s.migs := rfl
@[simp] theorem mapFlash_builds (f : Flash → Flash) : (s.mapFlash f).builds = s.builds := rfl
@[simp] theorem mapFlash_dram (f : Flash → Flash) : (s.mapFlash f).dram = s.dram := rfl
@[simp] theorem mapFlash_aps (f : Flash → Flash) : (s.mapFlash f).aps = s.aps := rfl
@[simp] theorem mapFlash_flash (f : Flash → Flash) : (s.mapFlash f).flash = f s.flash := rfl
@[simp] theorem mapFlash_ports (f : Flash → Flash) : (s.mapFlash f).ports = s.ports := rfl
@[simp] theorem mapFlash_time (f : Flash → Flash) : (s.mapFlash f).time = s.time := rfl
@[simp] theorem mapFlash_member (f : Flash → Flash) : (s.mapFlash f).member = s.member := rfl
@[simp] theorem mapFlash_accts (f : Flash → Flash) : (s.mapFlash f).accts = s.accts := rfl
@[simp] theorem mapFlash_nodeAcct (f : Flash → Flash) : (s.mapFlash f).nodeAcct = s.nodeAcct := rfl
@[simp] theorem mapFlash_log (f : Flash → Flash) : (s.mapFlash f).log = s.log := rfl
@[simp] theorem mapFlash_logNext (f : Flash → Flash) : (s.mapFlash f).logNext = s.logNext := rfl
@[simp] theorem mapFlash_events (f : Flash → Flash) : (s.mapFlash f).events = s.events := rfl
@[simp] theorem mapFlash_evRings (f : Flash → Flash) : (s.mapFlash f).evRings = s.evRings := rfl
@[simp] theorem mapFlash_histos (f : Flash → Flash) : (s.mapFlash f).histos = s.histos := rfl
@[simp] theorem mapFlash_units (f : Flash → Flash) : (s.mapFlash f).units = s.units := rfl
@[simp] theorem mapFlash_power (f : Flash → Flash) : (s.mapFlash f).power = s.power := rfl
@[simp] theorem mapFlash_boot (f : Flash → Flash) : (s.mapFlash f).boot = s.boot := rfl
@[simp] theorem mapFlash_keys (f : Flash → Flash) : (s.mapFlash f).keys = s.keys := rfl
@[simp] theorem mapFlash_host (f : Flash → Flash) : (s.mapFlash f).host = s.host := rfl
@[simp] theorem mapFlash_out (f : Flash → Flash) : (s.mapFlash f).out = s.out := rfl
@[simp] theorem mapFlash_freeTick (f : Flash → Flash) : (s.mapFlash f).freeTick = s.freeTick := rfl
@[simp] theorem mapFlash_pending (f : Flash → Flash) : (s.mapFlash f).pending = s.pending := rfl

/-! ### mapPort -/

@[simp] theorem mapPort_tap (p : Nat) (f : Port → Port) : (s.mapPort p f).tap = s.tap := rfl
@[simp] theorem mapPort_frame (p : Nat) (f : Port → Port) : (s.mapPort p f).frame = s.frame := rfl
@[simp] theorem mapPort_easel (p : Nat) (f : Port → Port) : (s.mapPort p f).easel = s.easel := rfl
@[simp] theorem mapPort_mbs (p : Nat) (f : Port → Port) : (s.mapPort p f).mbs = s.mbs := rfl
@[simp] theorem mapPort_chans (p : Nat) (f : Port → Port) : (s.mapPort p f).chans = s.chans := rfl
@[simp] theorem mapPort_changes (p : Nat) (f : Port → Port) : (s.mapPort p f).changes = s.changes := rfl
@[simp] theorem mapPort_planned (p : Nat) (f : Port → Port) : (s.mapPort p f).planned = s.planned := rfl
@[simp] theorem mapPort_landings (p : Nat) (f : Port → Port) : (s.mapPort p f).landings = s.landings := rfl
@[simp] theorem mapPort_nextLand (p : Nat) (f : Port → Port) : (s.mapPort p f).nextLand = s.nextLand := rfl
@[simp] theorem mapPort_work (p : Nat) (f : Port → Port) : (s.mapPort p f).work = s.work := rfl
@[simp] theorem mapPort_inbox (p : Nat) (f : Port → Port) : (s.mapPort p f).inbox = s.inbox := rfl
@[simp] theorem mapPort_ownerQs (p : Nat) (f : Port → Port) : (s.mapPort p f).ownerQs = s.ownerQs := rfl
@[simp] theorem mapPort_scanParts (p : Nat) (f : Port → Port) : (s.mapPort p f).scanParts = s.scanParts := rfl
@[simp] theorem mapPort_ownerFs (p : Nat) (f : Port → Port) : (s.mapPort p f).ownerFs = s.ownerFs := rfl
@[simp] theorem mapPort_outbox (p : Nat) (f : Port → Port) : (s.mapPort p f).outbox = s.outbox := rfl
@[simp] theorem mapPort_updIn (p : Nat) (f : Port → Port) : (s.mapPort p f).updIn = s.updIn := rfl
@[simp] theorem mapPort_heldUpd (p : Nat) (f : Port → Port) : (s.mapPort p f).heldUpd = s.heldUpd := rfl
@[simp] theorem mapPort_staged (p : Nat) (f : Port → Port) : (s.mapPort p f).staged = s.staged := rfl
@[simp] theorem mapPort_took (p : Nat) (f : Port → Port) : (s.mapPort p f).took = s.took := rfl
@[simp] theorem mapPort_durs (p : Nat) (f : Port → Port) : (s.mapPort p f).durs = s.durs := rfl
@[simp] theorem mapPort_listOps (p : Nat) (f : Port → Port) : (s.mapPort p f).listOps = s.listOps := rfl
@[simp] theorem mapPort_indexes (p : Nat) (f : Port → Port) : (s.mapPort p f).indexes = s.indexes := rfl
@[simp] theorem mapPort_sets (p : Nat) (f : Port → Port) : (s.mapPort p f).sets = s.sets := rfl
@[simp] theorem mapPort_tables (p : Nat) (f : Port → Port) : (s.mapPort p f).tables = s.tables := rfl
@[simp] theorem mapPort_graphs (p : Nat) (f : Port → Port) : (s.mapPort p f).graphs = s.graphs := rfl
@[simp] theorem mapPort_streams (p : Nat) (f : Port → Port) : (s.mapPort p f).streams = s.streams := rfl
@[simp] theorem mapPort_migs (p : Nat) (f : Port → Port) : (s.mapPort p f).migs = s.migs := rfl
@[simp] theorem mapPort_builds (p : Nat) (f : Port → Port) : (s.mapPort p f).builds = s.builds := rfl
@[simp] theorem mapPort_dram (p : Nat) (f : Port → Port) : (s.mapPort p f).dram = s.dram := rfl
@[simp] theorem mapPort_aps (p : Nat) (f : Port → Port) : (s.mapPort p f).aps = s.aps := rfl
@[simp] theorem mapPort_flash (p : Nat) (f : Port → Port) : (s.mapPort p f).flash = s.flash := rfl
@[simp] theorem mapPort_ports (p : Nat) (f : Port → Port) : (s.mapPort p f).ports = setAt s.ports p f := rfl
@[simp] theorem mapPort_time (p : Nat) (f : Port → Port) : (s.mapPort p f).time = s.time := rfl
@[simp] theorem mapPort_member (p : Nat) (f : Port → Port) : (s.mapPort p f).member = s.member := rfl
@[simp] theorem mapPort_accts (p : Nat) (f : Port → Port) : (s.mapPort p f).accts = s.accts := rfl
@[simp] theorem mapPort_nodeAcct (p : Nat) (f : Port → Port) : (s.mapPort p f).nodeAcct = s.nodeAcct := rfl
@[simp] theorem mapPort_log (p : Nat) (f : Port → Port) : (s.mapPort p f).log = s.log := rfl
@[simp] theorem mapPort_logNext (p : Nat) (f : Port → Port) : (s.mapPort p f).logNext = s.logNext := rfl
@[simp] theorem mapPort_events (p : Nat) (f : Port → Port) : (s.mapPort p f).events = s.events := rfl
@[simp] theorem mapPort_evRings (p : Nat) (f : Port → Port) : (s.mapPort p f).evRings = s.evRings := rfl
@[simp] theorem mapPort_histos (p : Nat) (f : Port → Port) : (s.mapPort p f).histos = s.histos := rfl
@[simp] theorem mapPort_units (p : Nat) (f : Port → Port) : (s.mapPort p f).units = s.units := rfl
@[simp] theorem mapPort_power (p : Nat) (f : Port → Port) : (s.mapPort p f).power = s.power := rfl
@[simp] theorem mapPort_boot (p : Nat) (f : Port → Port) : (s.mapPort p f).boot = s.boot := rfl
@[simp] theorem mapPort_keys (p : Nat) (f : Port → Port) : (s.mapPort p f).keys = s.keys := rfl
@[simp] theorem mapPort_host (p : Nat) (f : Port → Port) : (s.mapPort p f).host = s.host := rfl
@[simp] theorem mapPort_out (p : Nat) (f : Port → Port) : (s.mapPort p f).out = s.out := rfl
@[simp] theorem mapPort_freeTick (p : Nat) (f : Port → Port) : (s.mapPort p f).freeTick = s.freeTick := rfl
@[simp] theorem mapPort_pending (p : Nat) (f : Port → Port) : (s.mapPort p f).pending = s.pending := rfl

/-! ### setKinds -/

@[simp] theorem setKinds_tap (us : List Nat) (k : UnitKind) : (s.setKinds us k).tap = s.tap := rfl
@[simp] theorem setKinds_frame (us : List Nat) (k : UnitKind) : (s.setKinds us k).frame = s.frame := rfl
@[simp] theorem setKinds_easel (us : List Nat) (k : UnitKind) : (s.setKinds us k).easel = s.easel := rfl
@[simp] theorem setKinds_mbs (us : List Nat) (k : UnitKind) : (s.setKinds us k).mbs = s.mbs := rfl
@[simp] theorem setKinds_chans (us : List Nat) (k : UnitKind) : (s.setKinds us k).chans = s.chans := rfl
@[simp] theorem setKinds_changes (us : List Nat) (k : UnitKind) : (s.setKinds us k).changes = s.changes := rfl
@[simp] theorem setKinds_planned (us : List Nat) (k : UnitKind) : (s.setKinds us k).planned = s.planned := rfl
@[simp] theorem setKinds_landings (us : List Nat) (k : UnitKind) : (s.setKinds us k).landings = s.landings := rfl
@[simp] theorem setKinds_nextLand (us : List Nat) (k : UnitKind) : (s.setKinds us k).nextLand = s.nextLand := rfl
@[simp] theorem setKinds_work (us : List Nat) (k : UnitKind) : (s.setKinds us k).work = s.work := rfl
@[simp] theorem setKinds_inbox (us : List Nat) (k : UnitKind) : (s.setKinds us k).inbox = s.inbox := rfl
@[simp] theorem setKinds_ownerQs (us : List Nat) (k : UnitKind) : (s.setKinds us k).ownerQs = s.ownerQs := rfl
@[simp] theorem setKinds_scanParts (us : List Nat) (k : UnitKind) : (s.setKinds us k).scanParts = s.scanParts := rfl
@[simp] theorem setKinds_ownerFs (us : List Nat) (k : UnitKind) : (s.setKinds us k).ownerFs = s.ownerFs := rfl
@[simp] theorem setKinds_outbox (us : List Nat) (k : UnitKind) : (s.setKinds us k).outbox = s.outbox := rfl
@[simp] theorem setKinds_updIn (us : List Nat) (k : UnitKind) : (s.setKinds us k).updIn = s.updIn := rfl
@[simp] theorem setKinds_heldUpd (us : List Nat) (k : UnitKind) : (s.setKinds us k).heldUpd = s.heldUpd := rfl
@[simp] theorem setKinds_staged (us : List Nat) (k : UnitKind) : (s.setKinds us k).staged = s.staged := rfl
@[simp] theorem setKinds_took (us : List Nat) (k : UnitKind) : (s.setKinds us k).took = s.took := rfl
@[simp] theorem setKinds_durs (us : List Nat) (k : UnitKind) : (s.setKinds us k).durs = s.durs := rfl
@[simp] theorem setKinds_listOps (us : List Nat) (k : UnitKind) : (s.setKinds us k).listOps = s.listOps := rfl
@[simp] theorem setKinds_indexes (us : List Nat) (k : UnitKind) : (s.setKinds us k).indexes = s.indexes := rfl
@[simp] theorem setKinds_sets (us : List Nat) (k : UnitKind) : (s.setKinds us k).sets = s.sets := rfl
@[simp] theorem setKinds_tables (us : List Nat) (k : UnitKind) : (s.setKinds us k).tables = s.tables := rfl
@[simp] theorem setKinds_graphs (us : List Nat) (k : UnitKind) : (s.setKinds us k).graphs = s.graphs := rfl
@[simp] theorem setKinds_streams (us : List Nat) (k : UnitKind) : (s.setKinds us k).streams = s.streams := rfl
@[simp] theorem setKinds_migs (us : List Nat) (k : UnitKind) : (s.setKinds us k).migs = s.migs := rfl
@[simp] theorem setKinds_builds (us : List Nat) (k : UnitKind) : (s.setKinds us k).builds = s.builds := rfl
@[simp] theorem setKinds_aps (us : List Nat) (k : UnitKind) : (s.setKinds us k).aps = s.aps := rfl
@[simp] theorem setKinds_flash (us : List Nat) (k : UnitKind) : (s.setKinds us k).flash = s.flash := rfl
@[simp] theorem setKinds_ports (us : List Nat) (k : UnitKind) : (s.setKinds us k).ports = s.ports := rfl
@[simp] theorem setKinds_time (us : List Nat) (k : UnitKind) : (s.setKinds us k).time = s.time := rfl
@[simp] theorem setKinds_member (us : List Nat) (k : UnitKind) : (s.setKinds us k).member = s.member := rfl
@[simp] theorem setKinds_accts (us : List Nat) (k : UnitKind) : (s.setKinds us k).accts = s.accts := rfl
@[simp] theorem setKinds_nodeAcct (us : List Nat) (k : UnitKind) : (s.setKinds us k).nodeAcct = s.nodeAcct := rfl
@[simp] theorem setKinds_log (us : List Nat) (k : UnitKind) : (s.setKinds us k).log = s.log := rfl
@[simp] theorem setKinds_logNext (us : List Nat) (k : UnitKind) : (s.setKinds us k).logNext = s.logNext := rfl
@[simp] theorem setKinds_events (us : List Nat) (k : UnitKind) : (s.setKinds us k).events = s.events := rfl
@[simp] theorem setKinds_evRings (us : List Nat) (k : UnitKind) : (s.setKinds us k).evRings = s.evRings := rfl
@[simp] theorem setKinds_histos (us : List Nat) (k : UnitKind) : (s.setKinds us k).histos = s.histos := rfl
@[simp] theorem setKinds_units (us : List Nat) (k : UnitKind) : (s.setKinds us k).units = s.units := rfl
@[simp] theorem setKinds_power (us : List Nat) (k : UnitKind) : (s.setKinds us k).power = s.power := rfl
@[simp] theorem setKinds_boot (us : List Nat) (k : UnitKind) : (s.setKinds us k).boot = s.boot := rfl
@[simp] theorem setKinds_keys (us : List Nat) (k : UnitKind) : (s.setKinds us k).keys = s.keys := rfl
@[simp] theorem setKinds_host (us : List Nat) (k : UnitKind) : (s.setKinds us k).host = s.host := rfl
@[simp] theorem setKinds_out (us : List Nat) (k : UnitKind) : (s.setKinds us k).out = s.out := rfl
@[simp] theorem setKinds_freeTick (us : List Nat) (k : UnitKind) : (s.setKinds us k).freeTick = s.freeTick := rfl
@[simp] theorem setKinds_pending (us : List Nat) (k : UnitKind) : (s.setKinds us k).pending = s.pending := rfl

/-! ### Mailboxes -/

theorem setMb_same (fn : Nat) (m : Mailbox) : (s.setMb fn m).mb fn = m := by
  simp [State.setMb, State.mb, tgetD_tput_same]

theorem setMb_other (fn g : Nat) (m : Mailbox) (h : g ≠ fn) : (s.setMb fn m).mb g = s.mb g := by
  simp [State.setMb, State.mb, tgetD, tget_tput_other _ _ _ _ h]

end Sys2Proof.Machine
end

