-- ==== Sys2Proof/Laws/Commands.lean ====
section
/-! SUPPORT. What the shared frames of the commands do, once each: commands of a node that runs, mailbox commands and their checks,
windows, and the memory of the open units' twins. A proof about one command cites these and unfolds only that command's own work. -/

namespace Sys2Proof.Machine

/-! ### Commands of a node that runs -/

theorem answers_of_live (s : State) (h : s.live = true) : s.answers = true := by simp [State.answers, h]

theorem whenLive_live (f : State → State) (s : State) (h : s.live = true) : whenLive f s = .next (f s) := by
  simp [whenLive, h]

theorem whenLive_off (f : State → State) (s : State) (h : s.live = false) : whenLive f s = .next s := by
  simp [whenLive, h]

/-! ### Mailbox commands (R324, R325, R458) -/

/-- A command that a free mailbox of a running node takes: its work runs on the state with BUSY set, and its answer is kept. An end
INVALID without an offset is apart: there the offset is a free value (log entry 8). -/
theorem mailbox_next (b : Bool) (code : Nat) (g : Go) (body : MbBody) (s t : State) (r : MbRes) (h : s.takesGo g)
    (hb : body (s.begun code g) = (t, r)) (hr : ¬(r.status = stInvalid ∧ r.offset = 0xFFFFFFFF)) :
    mailbox b code g body s = .next (s.answered t code g r) := by
  obtain ⟨h1, h2⟩ := h
  unfold mailbox goMb
  simp only [answers_of_live s h1, h1, h2, Bool.true_or, if_true]
  unfold State.begun at hb
  simp only [hb, State.openOffset, if_neg hr, State.answered]
  rfl

/-- A GO to a busy mailbox only sets OVERRUN. -/
theorem mailbox_busy (b : Bool) (code : Nat) (g : Go) (body : MbBody) (s : State) (h : s.live = true) (hb : (s.mb g.fn).busy = true) :
    mailbox b code g body s = .next (s.setMb g.fn { s.mb g.fn with overrun := true }) := by
  simp [mailbox, goMb, answers_of_live s h, hb]

/-- The end of a waiting command touches the mailbox alone. -/
@[simp] theorem mbEnd_chans (s : State) (fn : Nat) (f : Resp → Resp) : (s.mbEnd fn f).chans = s.chans := by
  unfold State.mbEnd; split <;> rfl

@[simp] theorem mbEnd_accts (s : State) (fn : Nat) (f : Resp → Resp) : (s.mbEnd fn f).accts = s.accts := by
  unfold State.mbEnd; split <;> rfl

theorem checked_none (rows : List CheckRow) (w : MbBody) (s : State) (h : decideRows rows = none) : checked rows w s = w s := by
  simp [checked, h]

theorem checked_some (rows : List CheckRow) (w : MbBody) (s : State) (p : Nat × Nat) (h : decideRows rows = some p) :
    checked rows w s = (s, MbRes.refuse p) := by
  simp [checked, h]

theorem withChan_some (g : Go) (f : Nat → Chan → MbBody) (s : State) (slot : Nat) (c : Chan) (h : s.chanOf g.fn g.chan = some (slot, c))
    (n : c.st ≠ .retired) : withChan g f s = f slot c s := by
  simp [withChan, h, n]

theorem withChan_none (g : Go) (f : Nat → Chan → MbBody) (s : State) (h : s.chanOf g.fn g.chan = none) :
    withChan g f s = (s, { status := stNoObject }) := by
  simp [withChan, h]

/-! ### Windows (R26, R28, R33, R334) -/

theorem inWindow_runs (n stage : Nat) (f : EaselEntry → State → State) (s : State) (e : EaselEntry) (h : s.runs n stage e) :
    inWindow n stage f s = .next (f e (s.enter n e)) := by
  obtain ⟨⟨h1, h2⟩, h3, h4⟩ := h
  simp [inWindow, whenLive, h1, h2, h3, h4]

theorem inWindow_shut (n stage : Nat) (f : EaselEntry → State → State) (s : State) (h : s.window? n stage = none) :
    inWindow n stage f s = .next s := by
  simp [inWindow, whenLive, h]

theorem inWindow_idle (n stage : Nat) (f : EaselEntry → State → State) (s : State) (e : EaselEntry) (h : s.opens n stage e)
    (i : (s.enter n e).slotRuns e = false) : inWindow n stage f s = .next (s.enter n e) := by
  obtain ⟨h1, h2⟩ := h
  simp [inWindow, whenLive, h1, h2, i]

theorem inNodeWindow_runs (n stage : Nat) (f : EaselEntry → State → State) (s : State) (e : EaselEntry) (h : s.opens n stage e)
    (r : e.isNode = true ∨ (s.enter n e).slotRuns e = true) (a : s.able e = true) : inNodeWindow n stage f s = .next (f e (s.enter n e)) := by
  obtain ⟨h1, h2⟩ := h
  have q : (e.isNode || (s.enter n e).slotRuns e) = true := by
    cases r with
    | inl a => simp [a]
    | inr a => simp [a]
  simp only [inNodeWindow, whenLive, h1, h2, q, a, Bool.and_self, if_true]

end Sys2Proof.Machine
end

