-- ==== Sys2Proof/Laws/Mem.lean ====
section
/-! SUPPORT. What the operations on the stacks' memory do, once: a read after a write, the bytes a write leaves alone, and the
canonical form that every operation keeps. -/

namespace Sys2Proof.Machine

/-- The canonical form, said of the whole list. -/
theorem memWf_iff (m : List Host.Cell) :
    memWf m = true ↔ m.Pairwise (fun a b => a.1 < b.1) ∧ ∀ c ∈ m, c.2 ≠ memDefault := by
  fun_induction memWf m with
  | case1 => simp
  | case2 c => simp
  | case3 c d r ih =>
    simp only [Bool.and_eq_true, bne_iff_ne, ne_eq, decide_eq_true_eq, ih, List.pairwise_cons, List.mem_cons]
    constructor
    · rintro ⟨⟨h1, h2⟩, ⟨h3, h4⟩, h5⟩
      refine ⟨⟨fun b hb => ?_, h3, h4⟩, ?_⟩
      · rcases hb with rfl | hb
        · exact h2
        · exact Nat.lt_trans h2 (h3 b hb)
      · rintro x (rfl | hx)
        · exact h1
        · exact h5 x hx
    · rintro ⟨⟨h1, h2, h3⟩, h4⟩
      exact ⟨⟨h4 c (.inl rfl), h1 d (.inl rfl)⟩, ⟨h2, h3⟩, fun x hx => h4 x (.inr hx)⟩

theorem memWf_filter (m : List Host.Cell) (p : Host.Cell → Bool) (h : memWf m = true) : memWf (m.filter p) = true := by
  rw [memWf_iff] at h ⊢
  exact ⟨h.1.filter p, fun c hc => h.2 c (List.mem_filter.1 hc).1⟩

theorem mem_tput {α : Type} (t : Tbl α) (k : Nat) (v : α) (p : Nat × α) (h : p ∈ tput t k v) : p = (k, v) ∨ p ∈ t := by
  induction t with
  | nil => simpa [tput] using h
  | cons q r ih =>
    obtain ⟨j, w⟩ := q
    simp only [tput] at h
    split at h
    · simpa using h
    · split at h
      · rcases List.mem_cons.1 h with h | h
        · exact .inl h
        · exact .inr (List.mem_cons_of_mem _ h)
      · rcases List.mem_cons.1 h with h | h
        · exact .inr (by simp [h])
        · rcases ih h with h | h
          · exact .inl h
          · exact .inr (List.mem_cons_of_mem _ h)

theorem pairwise_tput {α : Type} (t : Tbl α) (k : Nat) (v : α) (h : t.Pairwise fun a b => a.1 < b.1) :
    (tput t k v).Pairwise fun a b => a.1 < b.1 := by
  induction t with
  | nil => simp [tput]
  | cons q r ih =>
    obtain ⟨j, w⟩ := q
    obtain ⟨h1, h2⟩ := List.pairwise_cons.1 h
    simp only [tput]
    split
    · rename_i hk
      refine List.pairwise_cons.2 ⟨fun b hb => ?_, h⟩
      rcases List.mem_cons.1 hb with rfl | hb
      · exact hk
      · exact Nat.lt_trans hk (h1 b hb)
    · split
      · rename_i hk
        subst hk
        exact List.pairwise_cons.2 ⟨h1, h2⟩
      · refine List.pairwise_cons.2 ⟨fun b hb => ?_, ih h2⟩
        rcases mem_tput r k v b hb with rfl | hb
        · simp only; omega
        · exact h1 b hb

theorem memWf_memWrite (m : List Host.Cell) (a : Nat) (b : Byte) (h : memWf m = true) : memWf (memWrite m a b) = true := by
  unfold memWrite
  split
  · exact memWf_filter m _ h
  · rename_i hb
    rw [memWf_iff] at h ⊢
    refine ⟨pairwise_tput m a b h.1, fun c hc => ?_⟩
    rcases mem_tput m a b c hc with rfl | hc
    · exact hb
    · exact h.2 c hc

theorem memWf_memWriteN (bs : Bytes) (m : List Host.Cell) (a : Nat) (h : memWf m = true) :
    memWf (memWriteN m a bs) = true := by
  induction bs generalizing m a with
  | nil => exact h
  | cons b r ih => exact ih _ _ (memWf_memWrite m a b h)

theorem memWf_twinWrite (m : List Host.Cell) (a : Nat) (b : Byte) (h : memWf m = true) : memWf (twinWrite m a b) = true :=
  memWf_memWrite _ _ _ (memWf_memWrite _ _ _ h)

theorem memWf_bitWrite (m : List Host.Cell) (us : List Nat) (r : Nat) (b : Bool) (h : memWf m = true) :
    memWf (bitWrite m us r b) = true := memWf_twinWrite _ _ _ h

@[simp] theorem memRead_memWrite_same (m : List Host.Cell) (a : Nat) (b : Byte) : memRead (memWrite m a b) a = b := by
  unfold memRead memWrite
  split
  · rename_i h; simp [tgetD, h]
  · simp [tgetD]

@[simp] theorem memRead_memWrite_other (m : List Host.Cell) (a c : Nat) (b : Byte) (h : c ≠ a) :
    memRead (memWrite m a b) c = memRead m c := by
  unfold memRead memWrite
  split <;> simp [tgetD, h]

/-- A string written leaves every byte outside it alone. -/
theorem memRead_memWriteN_other (bs : Bytes) (m : List Host.Cell) (a c : Nat) (h : c < a ∨ a + bs.length ≤ c) :
    memRead (memWriteN m a bs) c = memRead m c := by
  induction bs generalizing m a with
  | nil => rfl
  | cons b r ih =>
    simp only [List.length_cons] at h
    rw [memWriteN, ih _ _ (by omega), memRead_memWrite_other _ _ _ _ (by omega)]

/-- A byte of a string written reads as written. -/
theorem memRead_memWriteN_same (bs : Bytes) (m : List Host.Cell) (a i : Nat) (h : i < bs.length) :
    memRead (memWriteN m a bs) (a + i) = bs[i] := by
  induction bs generalizing m a i with
  | nil => simp at h
  | cons b r ih =>
    cases i with
    | zero => rw [memWriteN, Nat.add_zero, memRead_memWriteN_other _ _ _ _ (by omega)]; simp
    | succ i =>
      have h2 : i < r.length := by simpa using h
      rw [memWriteN, show a + (i + 1) = a + 1 + i by omega, ih _ _ _ h2]; simp

/-- Both twins of an open byte read as written (R224). -/
theorem memRead_twinWrite (m : List Host.Cell) (a : Nat) (b : Byte) :
    memRead (twinWrite m a b) (firstTwin a) = b ∧ memRead (twinWrite m a b) (firstTwin a + 0x1000) = b := by
  constructor
  · rw [twinWrite, memRead_memWrite_other _ _ _ _ (by omega)]; simp
  · simp [twinWrite]

end Sys2Proof.Machine
end

