-- ==== Sys2Proof/Laws/Fit.lean ====
section
/-! SUPPORT. What holds of a state whatever a command does to it: the queue, what the node is made as, the canonical form of
the stacks' memory and the log's numbers. `Fit` is said of one state, so that one lemma per operation carries it. -/

namespace Sys2Proof.Machine

/-- What held before: what the node is made as, and whether its state was good. -/
structure Was where
  made : Nat × Nat × Nat
  good : Prop

/-- The parts of a state that `Fit` speaks of. -/
def FitOf (q : List Instr) (u : Was) (p : List Instr) (m : List Host.Cell) (l : List LogRec) (n v st ud : Nat) (c : Tbl Chan)
    (g : List ChanChange) : Prop :=
  p = q ∧ (v, st, ud) = u.made ∧ (u.good → memWf m = true ∧ logOk l n ∧ sharesOk c g)

/-- The queue is `q`, the node is made as it was, and the invariant holds if it did. -/
def Fit (q : List Instr) (u : Was) (t : State) : Prop :=
  FitOf q u t.pending t.dram.mem t.log t.logNext t.boot.variant t.boot.stepping t.boot.uid t.chans t.changes

variable {q : List Instr} {u : Was}

theorem fit_of {t : State} (h : FitOf q u t.pending t.dram.mem t.log t.logNext t.boot.variant t.boot.stepping t.boot.uid t.chans t.changes) :
    Fit q u t := h

theorem fit_to {t : State} (h : Fit q u t) :
    FitOf q u t.pending t.dram.mem t.log t.logNext t.boot.variant t.boot.stepping t.boot.uid t.chans t.changes := h

section

variable {p : List Instr} {m m' : List Host.Cell} {l : List LogRec} {n v st ud : Nat} {c c' : Tbl Chan} {g g' : List ChanChange}

theorem fitOf_mem (h : memWf m = true → memWf m' = true) (h2 : FitOf q u p m l n v st ud c g) : FitOf q u p m' l n v st ud c g :=
  ⟨h2.1, h2.2.1, fun k => ⟨h (h2.2.2 k).1, (h2.2.2 k).2⟩⟩

theorem fitOf_noLog (h2 : FitOf q u p m l n v st ud c g) : FitOf q u p m [] 0 v st ud c g :=
  ⟨h2.1, h2.2.1, fun k => ⟨(h2.2.2 k).1, ⟨by simp, by simp⟩, (h2.2.2 k).2.2⟩⟩

theorem fitOf_chans (h : sharesOk c g → sharesOk c' g') (h2 : FitOf q u p m l n v st ud c g) : FitOf q u p m l n v st ud c' g' :=
  ⟨h2.1, h2.2.1, fun k => ⟨(h2.2.2 k).1, (h2.2.2 k).2.1, h (h2.2.2 k).2.2⟩⟩

/-! Channels and their shares. -/

theorem leL_zero (n : Nat) (l : List Nat) : leL (List.replicate n 0) l = true := by
  induction n generalizing l with
  | zero => rfl
  | succ n ih => cases l with
    | nil => rfl
    | cons x r => have := ih r; simp only [leL] at this ⊢; simp [List.replicate_succ, this]

theorem leL_sub (a b c : List Nat) (h : leL a c = true) : leL (List.zipWith (· - ·) a b) c = true := by
  induction a generalizing b c with
  | nil => cases b <;> cases c <;> rfl
  | cons x r ih =>
    cases b with
    | nil => cases c <;> rfl
    | cons y t =>
      cases c with
      | nil => rfl
      | cons z u =>
        simp only [leL, List.zipWith_cons_cons, List.all_cons, id, Bool.and_eq_true, decide_eq_true_eq] at h ⊢
        exact ⟨by omega, ih t u h.2⟩

/-- Charges taken back (R30). -/
theorem withinShares_less {x y : Chan} (b : List Nat) (h : x.withinShares) (h1 : y.homeUsed = List.zipWith (· - ·) x.homeUsed b)
    (h2 : y.shares = x.shares) (h3 : y.reissues = x.reissues) : y.withinShares :=
  ⟨by rw [h1, h2]; exact leL_sub _ _ _ h.1, fun f => by
    have := h.2 f
    simp only [Chan.reissued, h3, h2] at this ⊢; exact this⟩

theorem withinShares_zero {x : Chan} (h1 : x.homeUsed = List.replicate 6 0) (h2 : x.reissues = []) : x.withinShares :=
  ⟨by rw [h1]; exact leL_zero _ _, fun f => by simp only [Chan.reissued, h2, List.filter_nil, List.foldl_nil]; exact leL_zero _ _⟩

theorem withinShares_noReissue {x y : Chan} (h : x.withinShares) (h1 : y.homeUsed = x.homeUsed) (h2 : y.shares = x.shares)
    (h3 : y.reissues = []) : y.withinShares :=
  ⟨by rw [h1, h2]; exact h.1, fun f => by simp only [Chan.reissued, h3, List.filter_nil, List.foldl_nil]; exact leL_zero _ _⟩

/-- A re-issue that fits is added (R108). -/
theorem withinShares_reissue {x : Chan} {f : Nat} {ch : List Nat} (hf : leL (addL (x.reissued f) ch) x.shares = true)
    (h : x.withinShares) : Chan.withinShares { x with reissues := x.reissues ++ [(f, ch)] } := by
  refine ⟨h.1, fun k => ?_⟩
  simp only [Chan.reissued, List.filter_append, List.foldl_append]
  by_cases e : f = k
  · subst e; simpa [Chan.reissued] using hf
  · simpa [Chan.reissued, e] using h.2 k

/-- A frame starts: the re-issues it owes are charged, and the earlier ones forgotten. -/
theorem withinShares_frameStart {x y : Chan} {frame : Nat} (h : x.withinShares) (h1 : y.homeUsed = x.reissued frame)
    (h2 : y.shares = x.shares) (h3 : y.reissues = x.reissues.filter fun r => decide (frame < r.1)) : y.withinShares := by
  refine ⟨by rw [h1, h2]; exact h.2 _, fun k => ?_⟩
  have hk := h.2 k
  rw [h2]
  simp only [Chan.reissued, h3, List.filter_filter] at hk ⊢
  by_cases e : frame < k
  · have : (x.reissues.filter fun r => r.1 == k && decide (frame < r.1)) = x.reissues.filter fun r => r.1 == k := by
      apply List.filter_congr; intro r _; by_cases hr : r.1 = k <;> simp [hr, e]
    rw [this]; exact hk
  · have : (x.reissues.filter fun r => r.1 == k && decide (frame < r.1)) = [] := by
      apply List.filter_eq_nil_iff.mpr; intro r _; simp; intro hr; omega
    rw [this]; exact leL_zero _ _

/-- What a shadow takes over of a channel keeps within its shares. -/
theorem copied_within (x : Chan) : x.copied.withinShares := by
  unfold Chan.copied
  split
  · rename_i h
    simp only [Chan.inShares, Bool.and_eq_true, List.all_eq_true] at h
    refine ⟨h.1, fun f => ?_⟩
    by_cases e : ∃ r ∈ x.reissues, r.1 = f
    · obtain ⟨r, hr, rfl⟩ := e; exact h.2 r hr
    · have : (x.reissues.filter fun r => r.1 == f) = [] := by
        apply List.filter_eq_nil_iff.mpr; intro r hr; simp; intro k; exact e ⟨r, hr, k⟩
      simp only [Chan.reissued, this, List.foldl_nil]; exact leL_zero _ _
  · exact withinShares_zero rfl rfl

theorem sharesOk_copied {l : Tbl Chan} (h : sharesOk c g) : sharesOk (l.map fun p => (p.1, p.2.copied)) g := by
  refine ⟨fun p hp => ?_, h.2⟩
  obtain ⟨x, _, rfl⟩ := List.mem_map.mp hp
  exact copied_within x.2

theorem memWf_cells (l : List Host.Cell) (m : List Host.Cell) (h : memWf m = true) :
    memWf (l.foldl (fun m p => memWrite m p.1 p.2) m) = true := by
  induction l generalizing m with
  | nil => exact h
  | cons x r ih => exact ih _ (memWf_memWrite _ _ _ h)

theorem sharesOk_map {f : Nat × Chan → Nat × Chan} (hf : ∀ x, x.2.withinShares → (f x).2.withinShares) (h : sharesOk c g) :
    sharesOk (c.map f) g := by
  refine ⟨fun p hp => ?_, h.2⟩
  obtain ⟨x, hx, rfl⟩ := List.mem_map.mp hp
  exact hf _ (h.1 x hx)

theorem mem_of_tget {α : Type} {t : Tbl α} {k : Nat} {v : α} (h : tget t k = some v) : (k, v) ∈ t := by
  induction t with
  | nil => cases h
  | cons x r ih =>
    obtain ⟨j, w⟩ := x
    simp only [tget] at h
    split at h
    · rename_i e; subst e; cases h; exact List.mem_cons_self
    · exact List.mem_cons_of_mem _ (ih h)

theorem sharesOk_tput {k : Nat} {x : Chan} (hx : x.withinShares) (h : sharesOk c g) : sharesOk (tput c k x) g :=
  ⟨fun p hp => (mem_tput _ _ _ _ hp).elim (fun e => e ▸ hx) (h.1 p), h.2⟩

theorem sharesOk_tget {k : Nat} {x : Chan} (e : tget c k = some x) (h : sharesOk c g) : x.withinShares := h.1 _ (mem_of_tget e)

theorem sharesOk_put {k : Nat} {x y : Chan} (e : tget c k = some x) (hf : x.withinShares → y.withinShares) (h : sharesOk c g) :
    sharesOk (tput c k y) g := sharesOk_tput (hf (sharesOk_tget e h)) h

theorem sharesOk_tmap {k : Nat} {f : Chan → Chan} (hf : ∀ x, tget c k = some x → x.withinShares → (f x).withinShares)
    (h : sharesOk c g) : sharesOk (tmap c k f) g := by
  unfold tmap
  split
  · exact sharesOk_put (by assumption) (hf _ (by assumption)) h
  · exact h

theorem sharesOk_filter (f : Nat × Chan → Bool) (h : sharesOk c g) : sharesOk (c.filter f) g :=
  ⟨fun p hp => h.1 p (List.mem_filter.mp hp).1, h.2⟩

theorem sharesOk_tdel {k : Nat} (h : sharesOk c g) : sharesOk (tdel c k) g := sharesOk_filter _ h

theorem sharesOk_nil (h : sharesOk c g) : sharesOk [] g := ⟨by simp, h.2⟩

theorem sharesOk_more {l : List ChanChange} (hl : ∀ x ∈ l, ∀ slot c fn, x = .create slot c fn → c.withinShares) (h : sharesOk c g) :
    sharesOk c (g ++ l) :=
  ⟨h.1, fun x hx => (List.mem_append.mp hx).elim (h.2 x) (hl x)⟩

theorem sharesOk_done (h : sharesOk c g) : sharesOk c [] := ⟨h.1, by simp⟩

end

theorem fit_ite {c : Prop} [Decidable c] {a b : State} (h1 : Fit q u a) (h2 : Fit q u b) : Fit q u (if c then a else b) := by
  split <;> assumption

theorem fit_iteOf {ρ : Type} (st : ρ → State) {c : Prop} [Decidable c] {a b : ρ} (h1 : Fit q u (st a)) (h2 : Fit q u (st b)) :
    Fit q u (st (if c then a else b)) := by
  split <;> assumption

theorem fit_foldl {α : Type} {f : State → α → State} {s : State} {l : List α} (hs : Fit q u s)
    (hf : ∀ a x, Fit q u a → Fit q u (f a x)) : Fit q u (l.foldl f s) := by
  induction l generalizing s with
  | nil => exact hs
  | cons x r ih => exact ih (hf s x hs)

theorem fit_foldlMem {α : Type} {f : State → α → State} {s : State} {l : List α} (hs : Fit q u s)
    (hf : ∀ a, ∀ x ∈ l, Fit q u a → Fit q u (f a x)) : Fit q u (l.foldl f s) := by
  induction l generalizing s with
  | nil => exact hs
  | cons x r ih => exact ih (hf s x List.mem_cons_self hs) fun a y hy => hf a y (List.mem_cons_of_mem _ hy)

theorem fit_foldl1 {α β : Type} {f : State × β → α → State × β} {s : State × β} {l : List α} (hs : Fit q u s.1)
    (hf : ∀ a x, Fit q u a.1 → Fit q u (f a x).1) : Fit q u (l.foldl f s).1 := by
  induction l generalizing s with
  | nil => exact hs
  | cons x r ih => exact ih (hf s x hs)

theorem fit_foldlOf {ρ α : Type} (st : ρ → State) {f : ρ → α → ρ} {r : ρ} {l : List α} (hs : Fit q u (st r))
    (hf : ∀ a x, Fit q u (st a) → Fit q u (st (f a x))) : Fit q u (st (l.foldl f r)) := by
  induction l generalizing r with
  | nil => exact hs
  | cons x r ih => exact ih (hf _ x hs)

theorem fit_foldlOf1 {ρ α β : Type} (st : ρ → State) {f : ρ × β → α → ρ × β} {r : ρ × β} {l : List α} (hs : Fit q u (st r.1))
    (hf : ∀ a x, Fit q u (st a.1) → Fit q u (st (f a x).1)) : Fit q u (st (l.foldl f r).1) := by
  induction l generalizing r with
  | nil => exact hs
  | cons x r ih => exact ih (hf _ x hs)

theorem fit_cut (z : State) {p : Prop} (h : Fit q u z) (k : Fit q u z → p) : p := k h

theorem fit_inv {t : State} (h : Fit q u t) (g : u.good) : t.Inv := h.2.2 g

theorem fit_self (t : State) : Fit t.pending ⟨t.madeAs, t.Inv⟩ t := ⟨rfl, rfl, id⟩

theorem memWf_zeroUnits (m : List Host.Cell) (us : List Nat) (h : memWf m = true) : memWf (zeroUnits m us) = true :=
  memWf_filter m _ h

theorem logOk_add (l : List LogRec) (n : Nat) (r : LogRec) (hr : r.seq = n) (h : logOk l n) :
    logOk ((l ++ [r]).drop (l.length + 1 - 65536)) (n + 1) := by
  obtain ⟨h1, h2⟩ := h
  refine ⟨by simp; omega, fun i x hx => ?_⟩
  rw [List.getElem?_drop] at hx
  simp only [List.length_drop, List.length_append, List.length_cons, List.length_nil]
  rcases Nat.lt_or_ge (l.length + 1 - 65536 + i) l.length with hi | hi
  · rw [List.getElem?_append_left hi] at hx
    have := h2 _ _ hx
    omega
  · rw [List.getElem?_append_right hi] at hx
    have h0 : l.length + 1 - 65536 + i - l.length = 0 := by
      rcases Nat.eq_zero_or_pos (l.length + 1 - 65536 + i - l.length) with h | h
      · exact h
      · rw [List.getElem?_eq_none (by simp; omega)] at hx; cases hx
    rw [h0] at hx
    simp only [List.getElem?_cons_zero, Option.some.injEq] at hx
    subst hx
    omega

end Sys2Proof.Machine
end

