-- ==== Sys2Proof/Laws/FitOps.lean ====
section
/-! SUPPORT. The operations of Ops.lean keep what `Fit` says. -/

namespace Sys2Proof.Machine

set_option linter.tactic.unusedName false

variable {Q : List Instr} {U : Was}

theorem mapChan_fit (s : State) (slot : Nat) (f : Chan → Chan) (h0 : Fit Q U s)
    (hf : ∀ x, tget s.chans slot = some x → Chan.withinShares x → (f x).withinShares) : Fit Q U (s.mapChan slot f) := by
  unfold State.mapChan
  refine fit_of ?_
  dsimp only
  exact fitOf_chans (sharesOk_tmap hf) (fit_to h0)

theorem free_fit (s : State) (h0 : Fit Q U s) :
    Fit Q U (State.free s).2 := by
  unfold State.free
  repeat' first
    | with_reducible assumption | with_reducible refine fit_ite ?_ ?_ | (refine fit_of ?_; dsimp only; refine fit_to ?_)

theorem emit_fit (s : State) (o : Out) (h0 : Fit Q U s) :
    Fit Q U (State.emit s o) := by
  unfold State.emit
  repeat' first
    | with_reducible assumption | with_reducible refine fit_ite ?_ ?_ | (refine fit_of ?_; dsimp only; refine fit_to ?_)

theorem logAdd_fit (s : State) (typ : Nat) (chan : Nat) (object : Nat) (d0 : Nat) (data : Nat) (h0 : Fit Q U s) :
    Fit Q U (State.logAdd s typ chan object d0 data) := by
  obtain ⟨h1, h2, h3⟩ := fit_to h0
  unfold State.logAdd
  refine fit_of ?_
  dsimp only
  exact ⟨h1, h2, fun g => ⟨(h3 g).1, logOk_add _ _ _ rfl (h3 g).2.1, (h3 g).2.2⟩⟩

theorem faultRecordOf_fit (s : State) (chan : Nat) (object : Nat) (kind : Nat) (unit : Nat) (action : Nat) (affected : Nat) (h0 : Fit Q U s) :
    Fit Q U (State.faultRecordOf s chan object kind unit action affected) := by
  unfold State.faultRecordOf
  repeat' first
    | with_reducible assumption | with_reducible refine fit_ite ?_ ?_ | with_reducible apply logAdd_fit
    | (refine fit_of ?_; dsimp only; refine fit_to ?_)

theorem faultRecord_fit (s : State) (kind : Nat) (unit : Nat) (action : Nat) (affected : Nat) (h0 : Fit Q U s) :
    Fit Q U (State.faultRecord s kind unit action affected) := by
  unfold State.faultRecord
  repeat' first
    | with_reducible assumption | with_reducible refine fit_ite ?_ ?_ | with_reducible apply faultRecordOf_fit
    | (refine fit_of ?_; dsimp only; refine fit_to ?_)

theorem raise_fit (s : State) (code : Nat) (fn : Option Nat) (chan : Nat) (d0 : Nat) (d1 : Nat) (d2 : Nat) (h0 : Fit Q U s) :
    Fit Q U (State.raise s code fn chan d0 d1 d2) := by
  unfold State.raise
  repeat' first
    | with_reducible assumption | with_reducible refine fit_ite ?_ ?_ | (refine fit_of ?_; dsimp only; refine fit_to ?_)

theorem raiseNode_fit (s : State) (code : Nat) (d0 : Nat) (d1 : Nat) (d2 : Nat) (h0 : Fit Q U s) :
    Fit Q U (State.raiseNode s code d0 d1 d2) := by
  unfold State.raiseNode
  repeat' first
    | with_reducible assumption | with_reducible refine fit_ite ?_ ?_ | with_reducible apply raise_fit
    | (refine fit_of ?_; dsimp only; refine fit_to ?_)

theorem raiseChan_fit (s : State) (code : Nat) (slot : Nat) (d0 : Nat) (d1 : Nat) (d2 : Nat) (h0 : Fit Q U s) :
    Fit Q U (State.raiseChan s code slot d0 d1 d2) := by
  unfold State.raiseChan
  repeat' first
    | with_reducible assumption | with_reducible refine fit_ite ?_ ?_ | with_reducible apply raise_fit | split
    | (refine fit_of ?_; dsimp only; refine fit_to ?_)

theorem account_fit (s : State) (slot : Nat) (i : Nat) (n : Nat) (h0 : Fit Q U s) :
    Fit Q U (State.account s slot i n) := by
  unfold State.account
  repeat' first
    | with_reducible assumption | with_reducible refine fit_ite ?_ ?_ | split | (refine fit_of ?_; dsimp only; refine fit_to ?_)

theorem mapAcct_fit (s : State) (slot : Nat) (f : Acct → Acct) (h0 : Fit Q U s) :
    Fit Q U (State.mapAcct s slot f) := by
  unfold State.mapAcct
  repeat' first
    | with_reducible assumption | with_reducible refine fit_ite ?_ ?_ | (refine fit_of ?_; dsimp only; refine fit_to ?_)

theorem hostWrite_fit (s : State) (slot : Nat) (addr : Nat) (bs : Bytes) (h0 : Fit Q U s) :
    Fit Q U (State.hostWrite s slot addr bs) := by
  unfold State.hostWrite
  repeat' first
    | with_reducible assumption | with_reducible refine fit_ite ?_ ?_ | with_reducible apply emit_fit
    | with_reducible apply account_fit | (refine fit_of ?_; dsimp only; refine fit_to ?_)

theorem setMb_fit (s : State) (fn : Nat) (m : Mailbox) (h0 : Fit Q U s) :
    Fit Q U (State.setMb s fn m) := by
  unfold State.setMb
  repeat' first
    | with_reducible assumption | with_reducible refine fit_ite ?_ ?_ | (refine fit_of ?_; dsimp only; refine fit_to ?_)

theorem settleMb_fit (s : State) (fn : Nat) (code : Nat) (tag : Nat) (frame : Nat) (r : MbRes) (h0 : Fit Q U s) :
    Fit Q U (State.settleMb s fn code tag frame r) := by
  unfold State.settleMb
  repeat' first
    | with_reducible assumption | with_reducible refine fit_ite ?_ ?_ | with_reducible apply setMb_fit
    | (extract_lets +onlyGivenNames z1; first | refine fit_cut z1 ?_ fun hz => ?_ | skip) | split
    | (refine fit_of ?_; dsimp only; refine fit_to ?_) | dsimp +zetaDelta only

theorem openOffset_fit (s : State) (r : MbRes) (h0 : Fit Q U s) :
    Fit Q U (State.openOffset s r).1 := by
  unfold State.openOffset
  repeat' first
    | with_reducible assumption | with_reducible refine fit_ite ?_ ?_ | with_reducible apply free_fit
    | (extract_lets +onlyGivenNames z1; first | refine fit_cut z1 ?_ fun hz => ?_ | refine fit_cut z1.1 ?_ fun hz => ?_ | refine fit_cut z1.2 ?_ fun hz => ?_ | refine fit_cut z1.st ?_ fun hz => ?_ | skip)
    | split | (refine fit_of ?_; dsimp only; refine fit_to ?_) | dsimp +zetaDelta only

theorem goMb_fit (b : Bool) (code : Nat) (g : Go) (body : MbBody) (s : State) (h : Fit Q U s)
    (hb : ∀ t, Fit Q U t → Fit Q U (body t).1) : Fit Q U (goMb b code g body s) := by
  unfold goMb
  repeat' first
    | with_reducible assumption | with_reducible refine fit_ite ?_ ?_ | with_reducible apply hb | with_reducible apply setMb_fit
    | with_reducible apply settleMb_fit | with_reducible apply openOffset_fit
    | (extract_lets +onlyGivenNames z1; first | refine fit_cut z1 ?_ fun hz => ?_ | refine fit_cut z1.1 ?_ fun hz => ?_ | skip)
    | dsimp +zetaDelta only

theorem mbEnd_fit (s : State) (fn : Nat) (f : Resp → Resp) (h0 : Fit Q U s) :
    Fit Q U (State.mbEnd s fn f) := by
  unfold State.mbEnd
  repeat' first
    | with_reducible assumption | with_reducible refine fit_ite ?_ ?_ | with_reducible apply setMb_fit | split
    | (refine fit_of ?_; dsimp only; refine fit_to ?_)

theorem mbEndCode_fit (s : State) (code : Nat) (h0 : Fit Q U s) :
    Fit Q U (State.mbEndCode s code) := by
  unfold State.mbEndCode
  repeat' first
    | with_reducible assumption | with_reducible refine fit_ite ?_ ?_ | intro _ | split
    | (refine fit_of ?_; dsimp only; refine fit_to ?_) | dsimp +zetaDelta only

theorem mapCmd_fit (s : State) (land : Nat) (f : Cmd → Cmd) (h0 : Fit Q U s) :
    Fit Q U (State.mapCmd s land f) := by
  unfold State.mapCmd
  repeat' first
    | with_reducible assumption | with_reducible refine fit_ite ?_ ?_ | intro _ | split
    | (refine fit_of ?_; dsimp only; refine fit_to ?_) | dsimp +zetaDelta only

theorem fault_fit (s : State) (slot : Nat) (cause : Nat) (ring : Nat) (h0 : Fit Q U s) :
    Fit Q U (State.fault s slot cause ring) := by
  unfold State.fault
  repeat' first
    | with_reducible assumption | with_reducible refine fit_ite ?_ ?_
    | (refine fit_of ?_; dsimp only; refine fitOf_chans ?_ (fit_to ?_); first | exact sharesOk_done | exact sharesOk_more (by simp))
    | (refine fit_of ?_; dsimp only; refine fit_to ?_)

theorem dropCmd_fit (s : State) (land : Nat) (h0 : Fit Q U s) :
    Fit Q U (State.dropCmd s land) := by
  unfold State.dropCmd
  repeat' first
    | with_reducible assumption | with_reducible refine fit_ite ?_ ?_ | intro _
    | (refine fit_of ?_; dsimp only; refine fit_to ?_) | dsimp +zetaDelta only

theorem write_fit (s : State) (c : Cmd) (d : Done) (h0 : Fit Q U s) :
    Fit Q U (State.write s c d) := by
  unfold State.write
  repeat' first
    | with_reducible assumption | with_reducible refine fit_ite ?_ ?_ | with_reducible apply mapChan_fit
    | with_reducible apply hostWrite_fit | with_reducible apply mapCmd_fit | with_reducible apply fault_fit
    | with_reducible apply dropCmd_fit | exact fun _ _ hx => hx | with_reducible refine fit_foldl ?_ ?_
    | with_reducible refine fit_foldl1 ?_ ?_ | intro _
    | (extract_lets +onlyGivenNames z1; first | refine fit_cut z1 ?_ fun hz => ?_ | refine fit_cut z1.1 ?_ fun hz => ?_ | refine fit_cut z1.2 ?_ fun hz => ?_ | refine fit_cut z1.st ?_ fun hz => ?_ | skip)
    | split | (refine fit_of ?_; dsimp only; refine fit_to ?_) | dsimp +zetaDelta only

theorem fences_fit (s : State) (h0 : Fit Q U s) :
    Fit Q U (State.fences s) := by
  unfold State.fences
  repeat' first
    | with_reducible assumption | with_reducible refine fit_ite ?_ ?_ | with_reducible apply write_fit
    | with_reducible refine fit_foldl ?_ ?_ | with_reducible refine fit_foldl1 ?_ ?_ | intro _ | split
    | (refine fit_of ?_; dsimp only; refine fit_to ?_) | dsimp +zetaDelta only

theorem settle_fit (s : State) (land : Nat) (due : Nat) (d : Done) (h0 : Fit Q U s) :
    Fit Q U (State.settle s land due d) := by
  unfold State.settle
  repeat' first
    | with_reducible assumption | with_reducible refine fit_ite ?_ ?_ | with_reducible apply mapCmd_fit
    | with_reducible apply write_fit | with_reducible apply fences_fit | intro _ | split
    | (refine fit_of ?_; dsimp only; refine fit_to ?_) | dsimp +zetaDelta only

theorem writeDue_fit (s : State) (h0 : Fit Q U s) :
    Fit Q U (State.writeDue s) := by
  unfold State.writeDue
  repeat' first
    | with_reducible assumption | with_reducible refine fit_ite ?_ ?_ | with_reducible apply write_fit
    | with_reducible apply fences_fit | with_reducible refine fit_foldl ?_ ?_ | with_reducible refine fit_foldl1 ?_ ?_ | intro _
    | split | (refine fit_of ?_; dsimp only; refine fit_to ?_) | dsimp +zetaDelta only

theorem detach_fit (s : State) (slot : Nat) (h0 : Fit Q U s) :
    Fit Q U (State.detach s slot) := by
  unfold State.detach
  repeat' first
    | with_reducible assumption | with_reducible refine fit_ite ?_ ?_
    | (refine fit_of ?_; dsimp only; refine fitOf_chans ?_ (fit_to ?_); first | exact sharesOk_map fun _ hx => hx | (refine sharesOk_put (by assumption) ?_; exact fun hx => hx) | exact sharesOk_tdel | exact sharesOk_map (fun _ _ => withinShares_zero rfl rfl) | exact sharesOk_map (fun _ hx => withinShares_noReissue hx rfl rfl rfl) | exact sharesOk_map (fun _ hx => withinShares_frameStart hx rfl rfl rfl))
    | intro _
    | (extract_lets +onlyGivenNames z1; first | refine fit_cut z1 ?_ fun hz => ?_ | refine fit_cut z1.st ?_ fun hz => ?_ | skip)
    | split | (refine fit_of ?_; dsimp only; refine fit_to ?_) | dsimp +zetaDelta only

theorem detachAll_fit (s : State) (fn : Option Nat) (h0 : Fit Q U s) :
    Fit Q U (State.detachAll s fn) := by
  unfold State.detachAll
  repeat' first
    | with_reducible assumption | with_reducible refine fit_ite ?_ ?_ | with_reducible apply detach_fit
    | with_reducible refine fit_foldl ?_ ?_ | with_reducible refine fit_foldl1 ?_ ?_ | intro _ | split
    | (refine fit_of ?_; dsimp only; refine fit_to ?_) | dsimp +zetaDelta only

end Sys2Proof.Machine
end

