-- ==== Sys2Proof/Laws/FitFlashMap.lean ====
section
/-! SUPPORT. The operations of FlashMap.lean keep what `Fit` says. -/

namespace Sys2Proof.Machine

set_option linter.tactic.unusedName false

variable {Q : List Instr} {U : Was}

theorem mapFlash_fit (s : State) (f : Flash → Flash) (h0 : Fit Q U s) :
    Fit Q U (State.mapFlash s f) := by
  unfold State.mapFlash
  repeat' first
    | with_reducible assumption | with_reducible refine fit_ite ?_ ?_ | (refine fit_of ?_; dsimp only; refine fit_to ?_)

theorem nodeEntry_fit (s : State) (typ : Nat) (body : List Nat) (h0 : Fit Q U s) :
    Fit Q U (State.nodeEntry s typ body) := by
  unfold State.nodeEntry
  repeat' first
    | with_reducible assumption | with_reducible refine fit_ite ?_ ?_ | with_reducible apply mapFlash_fit | intro _
    | (refine fit_of ?_; dsimp only; refine fit_to ?_) | dsimp +zetaDelta only

theorem keepEntry_fit (s : State) (typ : Nat) (slot : Nat) (h : Handle) (body : List Nat) (undo : List Nat) (h0 : Fit Q U s) :
    Fit Q U (State.keepEntry s typ slot h body undo) := by
  unfold State.keepEntry
  repeat' first
    | with_reducible assumption | with_reducible refine fit_ite ?_ ?_
    | (extract_lets +onlyGivenNames z1; first | refine fit_cut z1 ?_ fun hz => ?_ | skip) | split
    | (refine fit_of ?_; dsimp only; refine fit_to ?_) | dsimp +zetaDelta only

theorem journalUndo_fit (s : State) (typ : Nat) (slot : Nat) (h : Handle) (body : List Nat) (undo : List Nat) (h0 : Fit Q U s) :
    Fit Q U (State.journalUndo s typ slot h body undo) := by
  unfold State.journalUndo
  repeat' first
    | with_reducible assumption | with_reducible refine fit_ite ?_ ?_ | with_reducible apply keepEntry_fit
    | (extract_lets +onlyGivenNames z1; first | refine fit_cut z1 ?_ fun hz => ?_ | skip) | split
    | (refine fit_of ?_; dsimp only; refine fit_to ?_) | dsimp +zetaDelta only

theorem journal_fit (s : State) (typ : Nat) (slot : Nat) (h : Handle) (body : List Nat) (h0 : Fit Q U s) :
    Fit Q U (State.journal s typ slot h body) := by
  unfold State.journal
  repeat' first
    | with_reducible assumption | with_reducible refine fit_ite ?_ ?_ | with_reducible apply journalUndo_fit
    | (refine fit_of ?_; dsimp only; refine fit_to ?_)

theorem setMap_fit (s : State) (folio : Nat) (e : Option MapEntry) (h0 : Fit Q U s) :
    Fit Q U (State.setMap s folio e) := by
  unfold State.setMap
  repeat' first
    | with_reducible assumption | with_reducible refine fit_ite ?_ ?_ | with_reducible apply mapFlash_fit
    | with_reducible apply nodeEntry_fit | intro _
    | (extract_lets +onlyGivenNames z1; first | refine fit_cut z1 ?_ fun hz => ?_ | refine fit_cut z1.1 ?_ fun hz => ?_ | skip)
    | split | (refine fit_of ?_; dsimp only; refine fit_to ?_) | dsimp +zetaDelta only

theorem dropFolio_fit (s : State) (n : Nat) (h0 : Fit Q U s) :
    Fit Q U (State.dropFolio s n) := by
  unfold State.dropFolio
  repeat' first
    | with_reducible assumption | with_reducible refine fit_ite ?_ ?_ | with_reducible apply mapFlash_fit
    | with_reducible apply setMap_fit | intro _
    | (extract_lets +onlyGivenNames z1; first | refine fit_cut z1 ?_ fun hz => ?_ | refine fit_cut z1.1 ?_ fun hz => ?_ | refine fit_cut z1.2 ?_ fun hz => ?_ | skip)
    | split | (refine fit_of ?_; dsimp only; refine fit_to ?_) | dsimp +zetaDelta only

end Sys2Proof.Machine
end

