-- ==== Sys2Proof/Laws/FitGrants.lean ====
section
/-! SUPPORT. The operations of Grants.lean keep what `Fit` says. -/

namespace Sys2Proof.Machine

set_option linter.tactic.unusedName false

variable {Q : List Instr} {U : Was}

theorem checked_fit (rows : List CheckRow) (work : MbBody) (s : State) (h : Fit Q U s)
    (hw : ∀ t, Fit Q U t → Fit Q U (work t).1) : Fit Q U (checked rows work s).1 := by
  unfold checked
  split
  · exact h
  · exact hw s h

theorem withChan_fit (g : Go) (f : Nat → Chan → MbBody) (s : State) (h : Fit Q U s)
    (hf : ∀ n c t, Fit Q U t → Fit Q U (f n c t).1) : Fit Q U (withChan g f s).1 := by
  unfold withChan
  split
  · exact h
  · split
    · exact h
    · exact hf _ _ _ h

theorem setKinds_fit (s : State) (us : List Nat) (k : UnitKind) (h0 : Fit Q U s) :
    Fit Q U (State.setKinds s us k) := by
  unfold State.setKinds
  repeat' first
    | with_reducible assumption | with_reducible refine fit_ite ?_ ?_ | with_reducible refine fit_foldl ?_ ?_
    | with_reducible refine fit_foldl1 ?_ ?_ | intro _ | (refine fit_of ?_; dsimp only; refine fit_to ?_)
    | dsimp +zetaDelta only

end Sys2Proof.Machine
end

