-- ==== Sys2Proof/Laws/FitAccept.lean ====
section
/-! SUPPORT. The operations of Accept.lean keep what `Fit` says. -/

namespace Sys2Proof.Machine

set_option linter.tactic.unusedName false

variable {Q : List Instr} {U : Was}

theorem mapSeq_fit (s : State) (seq : Nat) (f : Cmd → Cmd) (h0 : Fit Q U s) :
    Fit Q U (State.mapSeq s seq f) := by
  unfold State.mapSeq
  repeat' first
    | with_reducible assumption | with_reducible refine fit_ite ?_ ?_ | intro _ | split
    | (refine fit_of ?_; dsimp only; refine fit_to ?_) | dsimp +zetaDelta only

theorem acceptScatter_fit (s : State) (m : Scatter) (h0 : Fit Q U s) :
    Fit Q U (State.acceptScatter s m) := by
  unfold State.acceptScatter
  repeat' first
    | with_reducible assumption | with_reducible refine fit_ite ?_ ?_ | intro _
    | (extract_lets +onlyGivenNames z1; first | refine fit_cut z1 ?_ fun hz => ?_ | skip) | split
    | (refine fit_of ?_; dsimp only; refine fit_to ?_) | dsimp +zetaDelta only

theorem acceptAck_fit (s : State) (a : Ack) (h0 : Fit Q U s) :
    Fit Q U (State.acceptAck s a) := by
  unfold State.acceptAck
  repeat' first
    | with_reducible assumption | with_reducible refine fit_ite ?_ ?_ | split | (refine fit_of ?_; dsimp only; refine fit_to ?_)

theorem acceptReceipt_fit (s : State) (r : Receipt) (h0 : Fit Q U s) :
    Fit Q U (State.acceptReceipt s r) := by
  unfold State.acceptReceipt
  repeat' first
    | with_reducible assumption | with_reducible refine fit_ite ?_ ?_ | split | (refine fit_of ?_; dsimp only; refine fit_to ?_)

theorem acceptAnnounce_fit (s : State) (frame : Nat) (a : Announce) (h0 : Fit Q U s) :
    Fit Q U (State.acceptAnnounce s frame a) := by
  unfold State.acceptAnnounce
  repeat' first
    | with_reducible assumption | with_reducible refine fit_ite ?_ ?_ | split | (refine fit_of ?_; dsimp only; refine fit_to ?_)

theorem volDurable_fit (s : State) (seq : Nat) (owner : Nat) (h0 : Fit Q U s) :
    Fit Q U (State.volDurable s seq owner) := by
  unfold State.volDurable
  repeat' first
    | with_reducible assumption | with_reducible refine fit_ite ?_ ?_
    | (refine fit_of ?_; dsimp only; refine fitOf_chans ?_ (fit_to ?_); first | exact sharesOk_map fun _ hx => hx | (refine sharesOk_put (by assumption) ?_; exact fun hx => hx) | exact sharesOk_tdel | exact sharesOk_map (fun _ _ => withinShares_zero rfl rfl) | exact sharesOk_map (fun _ hx => withinShares_noReissue hx rfl rfl rfl) | exact sharesOk_map (fun _ hx => withinShares_frameStart hx rfl rfl rfl))
    | intro _
    | (extract_lets +onlyGivenNames z1; first | refine fit_cut z1 ?_ fun hz => ?_ | refine fit_cut z1.1 ?_ fun hz => ?_ | refine fit_cut z1.2 ?_ fun hz => ?_ | skip)
    | split | (refine fit_of ?_; dsimp only; refine fit_to ?_) | dsimp +zetaDelta only

theorem acceptBits_fit (s : State) (slot : Nat) (object : Handle) (region : Nat) (key : Key) (next : Bool) (adm : Nat) (sets : List (Handle × Bool)) (h0 : Fit Q U s) :
    Fit Q U (State.acceptBits s slot object region key next adm sets) := by
  unfold State.acceptBits
  repeat' first
    | with_reducible assumption | with_reducible refine fit_ite ?_ ?_ | intro _
    | (extract_lets +onlyGivenNames z1; first | refine fit_cut z1 ?_ fun hz => ?_ | refine fit_cut z1.1 ?_ fun hz => ?_ | refine fit_cut z1.2 ?_ fun hz => ?_ | refine fit_cut z1.st ?_ fun hz => ?_ | skip)
    | split | (refine fit_of ?_; dsimp only; refine fit_to ?_) | dsimp +zetaDelta only

theorem acceptWithdraw_fit (s : State) (home : Nat) (seq : Nat) (slot : Nat) (object : Handle) (h0 : Fit Q U s) :
    Fit Q U (State.acceptWithdraw s home seq slot object) := by
  unfold State.acceptWithdraw
  repeat' first
    | with_reducible assumption | with_reducible refine fit_ite ?_ ?_ | intro _ | split
    | (refine fit_of ?_; dsimp only; refine fit_to ?_) | dsimp +zetaDelta only

theorem mirrorIn_fit (s : State) (m : Msg) (h0 : Fit Q U s) :
    Fit Q U (State.mirrorIn s m) := by
  unfold State.mirrorIn
  repeat' first
    | with_reducible assumption | with_reducible refine fit_ite ?_ ?_ | intro _
    | (refine fit_of ?_; dsimp only; refine fit_to ?_) | dsimp +zetaDelta only

theorem takeCopy_fit (s : State) (c : Machine.ShadowCopy) (h0 : Fit Q U s) :
    Fit Q U (State.takeCopy s c) := by
  unfold State.takeCopy
  split
  · exact h0
  · refine fit_of ?_; dsimp only
    exact fitOf_mem (memWf_cells _ _) (fitOf_chans sharesOk_copied (fit_to h0))

theorem accept_fit (s : State) (x0 : Msg) (h0 : Fit Q U s) :
    Fit Q U (State.accept s x0) := by
  unfold State.accept
  repeat' first
    | with_reducible assumption | with_reducible refine fit_ite ?_ ?_ | with_reducible apply mapSeq_fit
    | with_reducible apply acceptScatter_fit | with_reducible apply acceptAck_fit | with_reducible apply acceptReceipt_fit
    | with_reducible apply acceptAnnounce_fit | with_reducible apply volDurable_fit | with_reducible apply acceptBits_fit
    | with_reducible apply acceptWithdraw_fit | with_reducible apply mirrorIn_fit | intro _
    | (extract_lets +onlyGivenNames z1; first | refine fit_cut z1 ?_ fun hz => ?_ | refine fit_cut z1.1 ?_ fun hz => ?_ | refine fit_cut z1.st ?_ fun hz => ?_ | skip)
    | split | (refine fit_of ?_; dsimp only; refine fit_to ?_) | dsimp +zetaDelta only

end Sys2Proof.Machine
end

