-- ==== Sys2Proof/Laws/FitEaselCmds.lean ====
section
/-! SUPPORT. The operations of EaselCmds.lean keep what `Fit` says. -/

namespace Sys2Proof.Machine

set_option linter.tactic.unusedName false

variable {Q : List Instr} {U : Was}

theorem easelLoadBody_fit (g : Go) (s0 : State) (h0 : Fit Q U s0) :
    Fit Q U (easelLoadBody g s0).1 := by
  unfold easelLoadBody
  repeat' first
    | with_reducible assumption | with_reducible refine fit_ite ?_ ?_ | with_reducible apply checked_fit | intro _ | split
    | (refine fit_of ?_; dsimp only; refine fit_to ?_) | dsimp +zetaDelta only

theorem armBody_fit (g : Go) (s0 : State) (h0 : Fit Q U s0) :
    Fit Q U (armBody g s0).1 := by
  unfold armBody
  repeat' first
    | with_reducible assumption | with_reducible refine fit_ite ?_ ?_ | with_reducible apply checked_fit | intro _ | split
    | (refine fit_of ?_; dsimp only; refine fit_to ?_) | dsimp +zetaDelta only

theorem gatesLoadBody_fit (g : Go) (s0 : State) (h0 : Fit Q U s0) :
    Fit Q U (gatesLoadBody g s0).1 := by
  unfold gatesLoadBody
  repeat' first
    | with_reducible assumption | with_reducible refine fit_ite ?_ ?_ | with_reducible apply checked_fit | intro _ | split
    | (refine fit_of ?_; dsimp only; refine fit_to ?_) | dsimp +zetaDelta only

theorem modeSetBody_fit (g : Go) (s0 : State) (h0 : Fit Q U s0) :
    Fit Q U (modeSetBody g s0).1 := by
  unfold modeSetBody
  repeat' first
    | with_reducible assumption | with_reducible refine fit_ite ?_ ?_ | with_reducible apply checked_fit | intro _
    | (extract_lets +onlyGivenNames z1; first | refine fit_cut z1 ?_ fun hz => ?_ | refine fit_cut z1.1 ?_ fun hz => ?_ | refine fit_cut z1.st ?_ fun hz => ?_ | skip)
    | split | (refine fit_of ?_; dsimp only; refine fit_to ?_) | dsimp +zetaDelta only

theorem applyModes_fit (s : State) (h0 : Fit Q U s) :
    Fit Q U (State.applyModes s) := by
  unfold State.applyModes
  repeat' first
    | with_reducible assumption | with_reducible refine fit_ite ?_ ?_ | with_reducible refine fit_foldl ?_ ?_
    | with_reducible refine fit_foldl1 ?_ ?_ | intro _
    | (extract_lets +onlyGivenNames z1; first | refine fit_cut z1 ?_ fun hz => ?_ | refine fit_cut z1.1 ?_ fun hz => ?_ | refine fit_cut z1.2 ?_ fun hz => ?_ | skip)
    | (refine fit_of ?_; dsimp only; refine fit_to ?_) | dsimp +zetaDelta only

theorem easelSwitch_fit (s : State) (h0 : Fit Q U s) :
    Fit Q U (State.easelSwitch s) := by
  unfold State.easelSwitch
  repeat' first
    | with_reducible assumption | with_reducible refine fit_ite ?_ ?_
    | (refine fit_of ?_; dsimp only; refine fitOf_chans ?_ (fit_to ?_); first | exact sharesOk_map fun _ hx => hx | (refine sharesOk_put (by assumption) ?_; exact fun hx => hx) | exact sharesOk_tdel | exact sharesOk_map (fun _ _ => withinShares_zero rfl rfl) | exact sharesOk_map (fun _ hx => withinShares_noReissue hx rfl rfl rfl) | exact sharesOk_map (fun _ hx => withinShares_frameStart hx rfl rfl rfl))
    | intro _
    | (extract_lets +onlyGivenNames z1; first | refine fit_cut z1 ?_ fun hz => ?_ | refine fit_cut z1.1 ?_ fun hz => ?_ | refine fit_cut z1.2 ?_ fun hz => ?_ | refine fit_cut z1.st ?_ fun hz => ?_ | skip)
    | split | (refine fit_of ?_; dsimp only; refine fit_to ?_) | dsimp +zetaDelta only

end Sys2Proof.Machine
end

