-- ==== Sys2Proof/Laws/FitObjects.lean ====
section
/-! SUPPORT. The operations of Objects.lean keep what `Fit` says. -/

namespace Sys2Proof.Machine

set_option linter.tactic.unusedName false

variable {Q : List Instr} {U : Was}

theorem plan_fit (s : State) (frame : Nat) (fn : Nat) (w : Plan) (h0 : Fit Q U s) :
    Fit Q U (State.plan s frame fn w) := by
  unfold State.plan
  repeat' first
    | with_reducible assumption | with_reducible refine fit_ite ?_ ?_ | (refine fit_of ?_; dsimp only; refine fit_to ?_)

theorem indexCreateBody_fit (g : Go) (s0 : State) (h0 : Fit Q U s0) :
    Fit Q U (indexCreateBody g s0).1 := by
  unfold indexCreateBody
  repeat' first
    | with_reducible assumption | with_reducible refine fit_ite ?_ ?_ | with_reducible apply checked_fit
    | with_reducible apply withChan_fit | intro _
    | (extract_lets +onlyGivenNames z1; first | refine fit_cut z1 ?_ fun hz => ?_ | refine fit_cut z1.st ?_ fun hz => ?_ | skip)
    | split | (refine fit_of ?_; dsimp only; refine fit_to ?_)
    | (refine fit_of ?_; dsimp only; refine fitOf_mem ?_ (fit_to ?_); first | exact memWf_bitWrite _ _ _ _ | exact memWf_zeroUnits _ _ | exact fun h => memWf_memWriteN _ _ _ (memWf_memWriteN _ _ _ h))
    | dsimp +zetaDelta only

theorem indexDropBody_fit (g : Go) (s0 : State) (h0 : Fit Q U s0) :
    Fit Q U (indexDropBody g s0).1 := by
  unfold indexDropBody
  repeat' first
    | with_reducible assumption | with_reducible refine fit_ite ?_ ?_ | with_reducible apply checked_fit
    | with_reducible apply withChan_fit | with_reducible apply plan_fit | intro _ | split
    | (refine fit_of ?_; dsimp only; refine fit_to ?_) | dsimp +zetaDelta only

theorem forgetPuts_fit (s : State) (slot : Nat) (h : Handle) (h0 : Fit Q U s) :
    Fit Q U (State.forgetPuts s slot h) := by
  unfold State.forgetPuts
  repeat' first
    | with_reducible assumption | with_reducible refine fit_ite ?_ ?_ | with_reducible apply journal_fit | intro _
    | (refine fit_of ?_; dsimp only; refine fit_to ?_) | dsimp +zetaDelta only

theorem tableCreateBody_fit (g : Go) (s0 : State) (h0 : Fit Q U s0) :
    Fit Q U (tableCreateBody g s0).1 := by
  unfold tableCreateBody
  repeat' first
    | with_reducible assumption | with_reducible refine fit_ite ?_ ?_ | with_reducible apply checked_fit
    | with_reducible apply withChan_fit | with_reducible apply forgetPuts_fit | intro _
    | (extract_lets +onlyGivenNames z1; first | refine fit_cut z1 ?_ fun hz => ?_ | refine fit_cut z1.st ?_ fun hz => ?_ | skip)
    | split | (refine fit_of ?_; dsimp only; refine fit_to ?_) | dsimp +zetaDelta only

theorem tableDropBody_fit (g : Go) (s0 : State) (h0 : Fit Q U s0) :
    Fit Q U (tableDropBody g s0).1 := by
  unfold tableDropBody
  repeat' first
    | with_reducible assumption | with_reducible refine fit_ite ?_ ?_ | with_reducible apply checked_fit
    | with_reducible apply withChan_fit | with_reducible apply plan_fit | intro _ | split
    | (refine fit_of ?_; dsimp only; refine fit_to ?_) | dsimp +zetaDelta only

theorem allowsetCreateBody_fit (g : Go) (s0 : State) (h0 : Fit Q U s0) :
    Fit Q U (allowsetCreateBody g s0).1 := by
  unfold allowsetCreateBody
  repeat' first
    | with_reducible assumption | with_reducible refine fit_ite ?_ ?_ | with_reducible apply withChan_fit
    | with_reducible apply plan_fit | intro _
    | (extract_lets +onlyGivenNames z1; first | refine fit_cut z1 ?_ fun hz => ?_ | skip) | split
    | (refine fit_of ?_; dsimp only; refine fit_to ?_) | dsimp +zetaDelta only

theorem graphLoadBody_fit (g : Go) (s0 : State) (h0 : Fit Q U s0) :
    Fit Q U (graphLoadBody g s0).1 := by
  unfold graphLoadBody
  repeat' first
    | with_reducible assumption | with_reducible refine fit_ite ?_ ?_ | with_reducible apply checked_fit
    | with_reducible apply withChan_fit | intro _
    | (extract_lets +onlyGivenNames z1; first | refine fit_cut z1 ?_ fun hz => ?_ | refine fit_cut z1.st ?_ fun hz => ?_ | skip)
    | split | (refine fit_of ?_; dsimp only; refine fit_to ?_) | dsimp +zetaDelta only

theorem paletteSetBody_fit (g : Go) (s0 : State) (h0 : Fit Q U s0) :
    Fit Q U (paletteSetBody g s0).1 := by
  unfold paletteSetBody
  repeat' first
    | with_reducible assumption | with_reducible refine fit_ite ?_ ?_ | with_reducible apply checked_fit
    | with_reducible apply withChan_fit | with_reducible apply plan_fit | intro _
    | (extract_lets +onlyGivenNames z1; first | refine fit_cut z1 ?_ fun hz => ?_ | refine fit_cut z1.st ?_ fun hz => ?_ | skip)
    | (refine fit_of ?_; dsimp only; refine fit_to ?_) | dsimp +zetaDelta only

theorem publishPalette_fit (s : State) (slot : Nat) (object : Handle) (kind : Nat) (p : Palette) (h0 : Fit Q U s) :
    Fit Q U (State.publishPalette s slot object kind p) := by
  unfold State.publishPalette
  repeat' first
    | with_reducible assumption | with_reducible refine fit_ite ?_ ?_ | intro _ | split
    | (refine fit_of ?_; dsimp only; refine fit_to ?_) | dsimp +zetaDelta only

theorem dropIndex_fit (s : State) (slot : Nat) (h : Handle) (h0 : Fit Q U s) :
    Fit Q U (State.dropIndex s slot h) := by
  unfold State.dropIndex
  repeat' first
    | with_reducible assumption | with_reducible refine fit_ite ?_ ?_ | with_reducible apply logAdd_fit
    | with_reducible refine fit_foldl ?_ ?_ | with_reducible refine fit_foldl1 ?_ ?_ | intro _
    | (extract_lets +onlyGivenNames z1; first | refine fit_cut z1 ?_ fun hz => ?_ | skip) | split
    | (refine fit_of ?_; dsimp only; refine fit_to ?_) | dsimp +zetaDelta only

theorem dropTable_fit (s : State) (slot : Nat) (h : Handle) (h0 : Fit Q U s) :
    Fit Q U (State.dropTable s slot h) := by
  unfold State.dropTable
  repeat' first
    | with_reducible assumption | with_reducible refine fit_ite ?_ ?_ | intro _ | split
    | (refine fit_of ?_; dsimp only; refine fit_to ?_) | dsimp +zetaDelta only

theorem carryOut_fit (s : State) (p : Planned) (h0 : Fit Q U s) :
    Fit Q U (State.carryOut s p) := by
  unfold State.carryOut
  repeat' first
    | with_reducible assumption | with_reducible refine fit_ite ?_ ?_ | with_reducible apply mbEnd_fit
    | with_reducible apply publishPalette_fit | with_reducible apply dropIndex_fit | with_reducible apply dropTable_fit | split
    | (refine fit_of ?_; dsimp only; refine fit_to ?_)

theorem carryOutDue_fit (s : State) (step5 : Bool) (h0 : Fit Q U s) :
    Fit Q U (State.carryOutDue s step5) := by
  unfold State.carryOutDue
  repeat' first
    | with_reducible assumption | with_reducible refine fit_ite ?_ ?_ | with_reducible apply carryOut_fit
    | with_reducible refine fit_foldl ?_ ?_ | with_reducible refine fit_foldl1 ?_ ?_ | intro _
    | (extract_lets +onlyGivenNames z1; first | refine fit_cut z1 ?_ fun hz => ?_ | skip) | split
    | (refine fit_of ?_; dsimp only; refine fit_to ?_) | dsimp +zetaDelta only

end Sys2Proof.Machine
end

