-- ==== Sys2Proof/Laws/FitLists.lean ====
section
/-! SUPPORT. The operations of Lists.lean keep what `Fit` says. -/

namespace Sys2Proof.Machine

set_option linter.tactic.unusedName false

variable {Q : List Instr} {U : Was}

theorem mapIndex_fit (s : State) (slot : Nat) (h : Handle) (f : Index → Index) (h0 : Fit Q U s) :
    Fit Q U (State.mapIndex s slot h f) := by
  unfold State.mapIndex
  repeat' first
    | with_reducible assumption | with_reducible refine fit_ite ?_ ?_ | (refine fit_of ?_; dsimp only; refine fit_to ?_)

theorem mapTable_fit (s : State) (slot : Nat) (h : Handle) (f : Table → Table) (h0 : Fit Q U s) :
    Fit Q U (State.mapTable s slot h f) := by
  unfold State.mapTable
  repeat' first
    | with_reducible assumption | with_reducible refine fit_ite ?_ ?_ | (refine fit_of ?_; dsimp only; refine fit_to ?_)

theorem tombBit_fit (s : State) (slot : Nat) (h : Handle) (row : Nat) (b : Bool) (h0 : Fit Q U s) :
    Fit Q U (State.tombBit s slot h row b) := by
  unfold State.tombBit
  repeat' first
    | with_reducible assumption | with_reducible refine fit_ite ?_ ?_ | with_reducible apply mapIndex_fit | intro _ | split
    | (refine fit_of ?_; dsimp only; refine fit_to ?_)
    | (refine fit_of ?_; dsimp only; refine fitOf_mem ?_ (fit_to ?_); first | exact memWf_bitWrite _ _ _ _ | exact memWf_zeroUnits _ _ | exact fun h => memWf_memWriteN _ _ _ (memWf_memWriteN _ _ _ h))
    | dsimp +zetaDelta only

theorem placeRecord_fit (s : State) (slot : Nat) (h : Handle) (a : IndexAttr) (key : Key) (r : Bytes) (h0 : Fit Q U s) :
    Fit Q U (State.placeRecord s slot h a key r).2 := by
  unfold State.placeRecord
  repeat' first
    | with_reducible assumption | with_reducible refine fit_ite ?_ ?_ | with_reducible apply mapFlash_fit | intro _
    | (extract_lets +onlyGivenNames z1; first | refine fit_cut z1 ?_ fun hz => ?_ | refine fit_cut z1.1 ?_ fun hz => ?_ | refine fit_cut z1.2 ?_ fun hz => ?_ | skip)
    | split | (refine fit_of ?_; dsimp only; refine fit_to ?_) | dsimp +zetaDelta only

end Sys2Proof.Machine
end

