-- ==== Sys2Proof/Laws/FitFabric.lean ====
section
/-! SUPPORT. The operations of Fabric.lean keep what `Fit` says. -/

namespace Sys2Proof.Machine

set_option linter.tactic.unusedName false

variable {Q : List Instr} {U : Was}

theorem mapPort_fit (s : State) (p : Nat) (f : Port → Port) (h0 : Fit Q U s) :
    Fit Q U (State.mapPort s p f) := by
  unfold State.mapPort
  repeat' first
    | with_reducible assumption | with_reducible refine fit_ite ?_ ?_ | (refine fit_of ?_; dsimp only; refine fit_to ?_)

theorem dropAt_fit (s : State) (port : Nat) (part : Option Nat) (h0 : Fit Q U s) :
    Fit Q U (State.dropAt s port part) := by
  unfold State.dropAt
  repeat' first
    | with_reducible assumption | with_reducible refine fit_ite ?_ ?_ | with_reducible apply mapAcct_fit
    | with_reducible apply mapPort_fit | intro _
    | (extract_lets +onlyGivenNames z1; first | refine fit_cut z1 ?_ fun hz => ?_ | skip) | split
    | (refine fit_of ?_; dsimp only; refine fit_to ?_) | dsimp +zetaDelta only

theorem enqueue_fit (s : State) (port : Nat) (relayed : Bool) (p : Packet) (h0 : Fit Q U s) :
    Fit Q U (State.enqueue s port relayed p) := by
  unfold State.enqueue
  repeat' first
    | with_reducible assumption | with_reducible refine fit_ite ?_ ?_ | with_reducible apply mapAcct_fit
    | with_reducible apply mapPort_fit | with_reducible apply dropAt_fit | intro _
    | (extract_lets +onlyGivenNames z1; first | refine fit_cut z1 ?_ fun hz => ?_ | skip) | split
    | (refine fit_of ?_; dsimp only; refine fit_to ?_) | dsimp +zetaDelta only

theorem putOut_fit (s : State) (port : Nat) (q : Queued) (h0 : Fit Q U s) :
    Fit Q U (State.putOut s port q) := by
  unfold State.putOut
  repeat' first
    | with_reducible assumption | with_reducible refine fit_ite ?_ ?_ | with_reducible apply emit_fit
    | with_reducible apply account_fit | with_reducible apply mapPort_fit | intro _
    | (extract_lets +onlyGivenNames z1; first | refine fit_cut z1 ?_ fun hz => ?_ | skip) | split
    | (refine fit_of ?_; dsimp only; refine fit_to ?_) | dsimp +zetaDelta only

theorem forwardPacket_fit (s : State) (relayed : Bool) (p : Packet) (h0 : Fit Q U s) :
    Fit Q U (State.forwardPacket s relayed p) := by
  unfold State.forwardPacket
  repeat' first
    | with_reducible assumption | with_reducible refine fit_ite ?_ ?_ | with_reducible apply dropAt_fit
    | with_reducible apply enqueue_fit | with_reducible apply putOut_fit
    | (extract_lets +onlyGivenNames z1; first | refine fit_cut z1 ?_ fun hz => ?_ | skip) | split
    | (refine fit_of ?_; dsimp only; refine fit_to ?_) | dsimp +zetaDelta only

theorem send_fit (s : State) (dst : Nat) (slot : Option Nat) (m : Msg) (h0 : Fit Q U s) :
    Fit Q U (State.send s dst slot m) := by
  unfold State.send
  repeat' first
    | with_reducible assumption | with_reducible refine fit_ite ?_ ?_ | with_reducible apply accept_fit
    | with_reducible apply forwardPacket_fit
    | (extract_lets +onlyGivenNames z1; first | refine fit_cut z1 ?_ fun hz => ?_ | refine fit_cut z1.2 ?_ fun hz => ?_ | skip)
    | split | (refine fit_of ?_; dsimp only; refine fit_to ?_) | dsimp +zetaDelta only

theorem sendAll_fit (s : State) (m : Msg) (h0 : Fit Q U s) :
    Fit Q U (State.sendAll s m) := by
  unfold State.sendAll
  repeat' first
    | with_reducible assumption | with_reducible refine fit_ite ?_ ?_ | with_reducible apply accept_fit
    | with_reducible apply send_fit | with_reducible refine fit_foldl ?_ ?_ | with_reducible refine fit_foldl1 ?_ ?_ | intro _
    | (refine fit_of ?_; dsimp only; refine fit_to ?_) | dsimp +zetaDelta only

theorem mapMirror_fit (s : State) (f : Mirror → Mirror) (h0 : Fit Q U s) :
    Fit Q U (State.mapMirror s f) := by
  unfold State.mapMirror
  repeat' first
    | with_reducible assumption | with_reducible refine fit_ite ?_ ?_ | (refine fit_of ?_; dsimp only; refine fit_to ?_)

theorem toShadow_fit (s : State) (m : Msg) (h0 : Fit Q U s) :
    Fit Q U (State.toShadow s m) := by
  unfold State.toShadow
  repeat' first
    | with_reducible assumption | with_reducible refine fit_ite ?_ ?_ | with_reducible apply forwardPacket_fit | split
    | (refine fit_of ?_; dsimp only; refine fit_to ?_)

theorem mirrorOut_fit (s : State) (m : Msg) (h0 : Fit Q U s) :
    Fit Q U (State.mirrorOut s m) := by
  unfold State.mirrorOut
  repeat' first
    | with_reducible assumption | with_reducible refine fit_ite ?_ ?_ | with_reducible apply mapMirror_fit
    | with_reducible apply toShadow_fit | intro _ | split | (refine fit_of ?_; dsimp only; refine fit_to ?_)
    | dsimp +zetaDelta only

theorem mirrorPacket_fit (s : State) (p : Packet) (h0 : Fit Q U s) :
    Fit Q U (State.mirrorPacket s p) := by
  unfold State.mirrorPacket
  repeat' first
    | with_reducible assumption | with_reducible refine fit_ite ?_ ?_ | with_reducible apply mirrorOut_fit | split
    | (refine fit_of ?_; dsimp only; refine fit_to ?_)

theorem gateOpen_fit (s : State) (port : Nat) (e : GateEntry) (h0 : Fit Q U s) :
    Fit Q U (State.gateOpen s port e) := by
  unfold State.gateOpen
  repeat' first
    | with_reducible assumption | with_reducible refine fit_ite ?_ ?_ | with_reducible apply mapPort_fit
    | with_reducible apply putOut_fit | with_reducible refine fit_foldl ?_ ?_ | with_reducible refine fit_foldl1 ?_ ?_ | intro _
    | (extract_lets +onlyGivenNames z1; first | refine fit_cut z1 ?_ fun hz => ?_ | refine fit_cut z1.1 ?_ fun hz => ?_ | refine fit_cut z1.st ?_ fun hz => ?_ | skip)
    | split | (refine fit_of ?_; dsimp only; refine fit_to ?_) | dsimp +zetaDelta only

theorem resendCopy_fit (s : State) (port : Nat) (seq : Nat) (h0 : Fit Q U s) :
    Fit Q U (State.resendCopy s port seq) := by
  unfold State.resendCopy
  repeat' first
    | with_reducible assumption | with_reducible refine fit_ite ?_ ?_ | with_reducible apply emit_fit
    | with_reducible apply account_fit | with_reducible apply mapPort_fit | intro _
    | (extract_lets +onlyGivenNames z1; first | refine fit_cut z1 ?_ fun hz => ?_ | refine fit_cut z1.1 ?_ fun hz => ?_ | refine fit_cut z1.2 ?_ fun hz => ?_ | skip)
    | split | (refine fit_of ?_; dsimp only; refine fit_to ?_) | dsimp +zetaDelta only

theorem resendGroups_fit (s : State) (port : Nat) (dst : Nat) (object : Handle) (gen : Nat) (groups : List Nat) (h0 : Fit Q U s) :
    Fit Q U (State.resendGroups s port dst object gen groups) := by
  unfold State.resendGroups
  repeat' first
    | with_reducible assumption | with_reducible refine fit_ite ?_ ?_ | with_reducible apply emit_fit
    | with_reducible apply account_fit | with_reducible apply mapPort_fit | intro _
    | (extract_lets +onlyGivenNames z1; first | refine fit_cut z1 ?_ fun hz => ?_ | refine fit_cut z1.1 ?_ fun hz => ?_ | refine fit_cut z1.st ?_ fun hz => ?_ | skip)
    | split | (refine fit_of ?_; dsimp only; refine fit_to ?_) | dsimp +zetaDelta only

theorem laneDown_fit (s : State) (port : Nat) (lanes : List Nat) (cause : Nat) (h0 : Fit Q U s) :
    Fit Q U (State.laneDown s port lanes cause) := by
  unfold State.laneDown
  repeat' first
    | with_reducible assumption | with_reducible refine fit_ite ?_ ?_ | with_reducible apply raiseNode_fit
    | with_reducible apply mapPort_fit | with_reducible refine fit_foldl ?_ ?_ | with_reducible refine fit_foldl1 ?_ ?_
    | intro _ | (extract_lets +onlyGivenNames z1; first | refine fit_cut z1 ?_ fun hz => ?_ | skip)
    | (refine fit_of ?_; dsimp only; refine fit_to ?_) | dsimp +zetaDelta only

theorem crcFail_fit (s : State) (port : Nat) (seq : Nat) (words : List (Nat × Nat)) (h0 : Fit Q U s) :
    Fit Q U (State.crcFail s port seq words) := by
  unfold State.crcFail
  repeat' first
    | with_reducible assumption | with_reducible refine fit_ite ?_ ?_ | with_reducible apply emit_fit
    | with_reducible apply faultRecord_fit | with_reducible apply mapPort_fit | with_reducible refine fit_foldl ?_ ?_
    | with_reducible refine fit_foldl1 ?_ ?_ | intro _
    | (extract_lets +onlyGivenNames z1; first | refine fit_cut z1 ?_ fun hz => ?_ | skip)
    | (refine fit_of ?_; dsimp only; refine fit_to ?_) | dsimp +zetaDelta only

theorem authFail_fit (s : State) (port : Nat) (seq : Nat) (h0 : Fit Q U s) :
    Fit Q U (State.authFail s port seq) := by
  unfold State.authFail
  repeat' first
    | with_reducible assumption | with_reducible refine fit_ite ?_ ?_ | with_reducible apply emit_fit
    | with_reducible apply mapPort_fit | with_reducible apply laneDown_fit | intro _
    | (extract_lets +onlyGivenNames z1; first | refine fit_cut z1 ?_ fun hz => ?_ | skip) | split
    | (refine fit_of ?_; dsimp only; refine fit_to ?_) | dsimp +zetaDelta only

theorem consume_fit (s : State) (port : Nat) (p : Packet) (h0 : Fit Q U s) :
    Fit Q U (State.consume s port p) := by
  unfold State.consume
  repeat' first
    | with_reducible assumption | with_reducible refine fit_ite ?_ ?_ | with_reducible apply logAdd_fit
    | with_reducible apply takeCopy_fit | with_reducible apply accept_fit | with_reducible apply send_fit
    | with_reducible apply resendGroups_fit | intro _
    | (extract_lets +onlyGivenNames z1; first | refine fit_cut z1 ?_ fun hz => ?_ | refine fit_cut z1.1 ?_ fun hz => ?_ | refine fit_cut z1.2 ?_ fun hz => ?_ | skip)
    | split | (refine fit_of ?_; dsimp only; refine fit_to ?_) | dsimp +zetaDelta only

theorem receive_fit (s : State) (port : Nat) (p : Packet) (crcOk : Bool) (tagOk : Bool) (words : List (Nat × Nat)) (h0 : Fit Q U s) :
    Fit Q U (State.receive s port p crcOk tagOk words) := by
  unfold State.receive
  repeat' first
    | with_reducible assumption | with_reducible refine fit_ite ?_ ?_ | with_reducible apply emit_fit
    | with_reducible apply mapPort_fit | with_reducible apply forwardPacket_fit | with_reducible apply mirrorPacket_fit
    | with_reducible apply crcFail_fit | with_reducible apply authFail_fit | with_reducible apply consume_fit | intro _
    | (extract_lets +onlyGivenNames z1; first | refine fit_cut z1 ?_ fun hz => ?_ | refine fit_cut z1.st ?_ fun hz => ?_ | skip)
    | split | (refine fit_of ?_; dsimp only; refine fit_to ?_) | dsimp +zetaDelta only

end Sys2Proof.Machine
end

