-- ==== Sys2Proof/Laws/FitHoldings.lean ====
section
/-! SUPPORT. The operations of Holdings.lean keep what `Fit` says. -/

namespace Sys2Proof.Machine

set_option linter.tactic.unusedName false

variable {Q : List Instr} {U : Was}

theorem putHolding_fit (s : State) (node : Nat) (slot : Nat) (object : Handle) (number : Nat) (st : Nat) (h0 : Fit Q U s) :
    Fit Q U (State.putHolding s node slot object number st) := by
  unfold State.putHolding
  repeat' first
    | with_reducible assumption | with_reducible refine fit_ite ?_ ?_ | intro _
    | (extract_lets +onlyGivenNames z1; first | refine fit_cut z1 ?_ fun hz => ?_ | skip) | split
    | (refine fit_of ?_; dsimp only; refine fit_to ?_) | dsimp +zetaDelta only

theorem setHolding_fit (s : State) (node : Nat) (slot : Nat) (object : Handle) (number : Nat) (st : Nat) (h0 : Fit Q U s) :
    Fit Q U (State.setHolding s node slot object number st) := by
  unfold State.setHolding
  repeat' first
    | with_reducible assumption | with_reducible refine fit_ite ?_ ?_ | with_reducible apply faultRecordOf_fit
    | with_reducible apply putHolding_fit | (extract_lets +onlyGivenNames z1; first | refine fit_cut z1 ?_ fun hz => ?_ | skip)
    | split | (refine fit_of ?_; dsimp only; refine fit_to ?_) | dsimp +zetaDelta only

theorem announce_fit (s : State) (a : Announce) (h0 : Fit Q U s) :
    Fit Q U (State.announce s a) := by
  unfold State.announce
  repeat' first
    | with_reducible assumption | with_reducible refine fit_ite ?_ ?_ | with_reducible apply sendAll_fit
    | (refine fit_of ?_; dsimp only; refine fit_to ?_)

theorem journalRoute_fit (s : State) (tag : Nat) (slot : Nat) (object : Handle) (number : Nat) (entry : Nat) (old : Option Nat) (h0 : Fit Q U s) :
    Fit Q U (State.journalRoute s tag slot object number entry old) := by
  unfold State.journalRoute
  repeat' first
    | with_reducible assumption | with_reducible refine fit_ite ?_ ?_ | with_reducible apply keepEntry_fit | split
    | (refine fit_of ?_; dsimp only; refine fit_to ?_)

theorem installOne_fit (s : State) (x0 : Announce) (h0 : Fit Q U s) :
    Fit Q U (State.installOne s x0) := by
  unfold State.installOne
  repeat' first
    | with_reducible assumption | with_reducible refine fit_ite ?_ ?_ | with_reducible apply mapIndex_fit
    | with_reducible apply mapTable_fit | with_reducible apply setHolding_fit | with_reducible apply journalRoute_fit | intro _
    | split | (refine fit_of ?_; dsimp only; refine fit_to ?_) | dsimp +zetaDelta only

theorem install_fit (s : State) (h0 : Fit Q U s) :
    Fit Q U (State.install s) := by
  unfold State.install
  repeat' first
    | with_reducible assumption | with_reducible refine fit_ite ?_ ?_ | with_reducible apply installOne_fit
    | with_reducible refine fit_foldl ?_ ?_ | with_reducible refine fit_foldl1 ?_ ?_ | intro _
    | (extract_lets +onlyGivenNames z1; first | refine fit_cut z1 ?_ fun hz => ?_ | refine fit_cut z1.1 ?_ fun hz => ?_ | refine fit_cut z1.2 ?_ fun hz => ?_ | skip)
    | (refine fit_of ?_; dsimp only; refine fit_to ?_) | dsimp +zetaDelta only

theorem installLateOne_fit (s : State) (a : Nat × Announce) (h0 : Fit Q U s) :
    Fit Q U (State.installLateOne s a) := by
  unfold State.installLateOne
  repeat' first
    | with_reducible assumption | with_reducible refine fit_ite ?_ ?_ | with_reducible apply setHolding_fit
    | with_reducible apply installOne_fit | with_reducible refine fit_foldl ?_ ?_ | with_reducible refine fit_foldl1 ?_ ?_
    | intro _
    | (extract_lets +onlyGivenNames z1; first | refine fit_cut z1 ?_ fun hz => ?_ | refine fit_cut z1.2 ?_ fun hz => ?_ | skip)
    | split | (refine fit_of ?_; dsimp only; refine fit_to ?_) | dsimp +zetaDelta only

theorem installLate_fit (s : State) (h0 : Fit Q U s) :
    Fit Q U (State.installLate s) := by
  unfold State.installLate
  repeat' first
    | with_reducible assumption | with_reducible refine fit_ite ?_ ?_ | with_reducible apply installLateOne_fit
    | with_reducible refine fit_foldl ?_ ?_ | with_reducible refine fit_foldl1 ?_ ?_ | intro _
    | (extract_lets +onlyGivenNames z1; first | refine fit_cut z1 ?_ fun hz => ?_ | refine fit_cut z1.1 ?_ fun hz => ?_ | skip)
    | (refine fit_of ?_; dsimp only; refine fit_to ?_) | dsimp +zetaDelta only

end Sys2Proof.Machine
end

