-- ==== Sys2Proof/Laws/FitMoves.lean ====
section
/-! SUPPORT. The operations of Moves.lean keep what `Fit` says. -/

namespace Sys2Proof.Machine

set_option linter.tactic.unusedName false

variable {Q : List Instr} {U : Was}

theorem migrateWork_fit (g : Go) (slot : Nat) (what : Nat) (e : Nat) (t : Option Table) (s0 : State) (h0 : Fit Q U s0) :
    Fit Q U (migrateWork g slot what e t s0).1 := by
  unfold migrateWork
  repeat' first
    | with_reducible assumption | with_reducible refine fit_ite ?_ ?_ | with_reducible apply keepEntry_fit
    | with_reducible apply send_fit | intro _
    | (extract_lets +onlyGivenNames z1; first | refine fit_cut z1 ?_ fun hz => ?_ | skip) | split
    | (refine fit_of ?_; dsimp only; refine fit_to ?_) | dsimp +zetaDelta only

theorem migrateBody_fit (g : Go) (s0 : State) (h0 : Fit Q U s0) :
    Fit Q U (migrateBody g s0).1 := by
  unfold migrateBody
  repeat' first
    | with_reducible assumption | with_reducible refine fit_ite ?_ ?_ | with_reducible apply withChan_fit
    | with_reducible apply migrateWork_fit | intro _
    | (extract_lets +onlyGivenNames z1; first | refine fit_cut z1 ?_ fun hz => ?_ | skip) | split
    | (refine fit_of ?_; dsimp only; refine fit_to ?_) | dsimp +zetaDelta only

theorem logMove_fit (s : State) (m : Mig) (outcome : Nat) (h0 : Fit Q U s) :
    Fit Q U (State.logMove s m outcome) := by
  unfold State.logMove
  repeat' first
    | with_reducible assumption | with_reducible refine fit_ite ?_ ?_ | with_reducible apply logAdd_fit
    | with_reducible apply keepEntry_fit | split | (refine fit_of ?_; dsimp only; refine fit_to ?_)

theorem dropMig_fit (s : State) (m : Mig) (h0 : Fit Q U s) :
    Fit Q U (State.dropMig s m) := by
  unfold State.dropMig
  repeat' first
    | with_reducible assumption | with_reducible refine fit_ite ?_ ?_ | intro _
    | (refine fit_of ?_; dsimp only; refine fit_to ?_) | dsimp +zetaDelta only

theorem mapMig_fit (s : State) (m : Mig) (f : Mig → Mig) (h0 : Fit Q U s) :
    Fit Q U (State.mapMig s m f) := by
  unfold State.mapMig
  repeat' first
    | with_reducible assumption | with_reducible refine fit_ite ?_ ?_ | intro _ | split
    | (refine fit_of ?_; dsimp only; refine fit_to ?_) | dsimp +zetaDelta only

theorem announceAll_fit (s : State) (l : List Announce) (h0 : Fit Q U s) :
    Fit Q U (State.announceAll s l) := by
  unfold State.announceAll
  repeat' first
    | with_reducible assumption | with_reducible refine fit_ite ?_ ?_ | with_reducible apply announce_fit
    | with_reducible refine fit_foldl ?_ ?_ | with_reducible refine fit_foldl1 ?_ ?_
    | with_reducible refine fit_foldlOf CopyRun.st ?_ ?_ | intro _ | split | (refine fit_of ?_; dsimp only; refine fit_to ?_)
    | dsimp +zetaDelta only

theorem releaseHolding_fit (s : State) (slot : Nat) (object : Handle) (number : Nat) (h0 : Fit Q U s) :
    Fit Q U (State.releaseHolding s slot object number) := by
  unfold State.releaseHolding
  repeat' first
    | with_reducible assumption | with_reducible refine fit_ite ?_ ?_ | with_reducible apply mapIndex_fit
    | with_reducible apply mapTable_fit | with_reducible apply tombBit_fit | with_reducible refine fit_foldl ?_ ?_
    | with_reducible refine fit_foldl1 ?_ ?_ | with_reducible refine fit_foldlOf CopyRun.st ?_ ?_ | intro _
    | (extract_lets +onlyGivenNames z1; first | refine fit_cut z1 ?_ fun hz => ?_ | refine fit_cut z1.1 ?_ fun hz => ?_ | refine fit_cut z1.2 ?_ fun hz => ?_ | skip)
    | split | (refine fit_of ?_; dsimp only; refine fit_to ?_) | dsimp +zetaDelta only

theorem releaseRows_fit (s : State) (m : Mig) (h0 : Fit Q U s) :
    Fit Q U (State.releaseRows s m) := by
  unfold State.releaseRows
  repeat' first
    | with_reducible assumption | with_reducible refine fit_ite ?_ ?_ | with_reducible apply mapTable_fit | intro _
    | (refine fit_of ?_; dsimp only; refine fit_to ?_) | dsimp +zetaDelta only

theorem flip_fit (s : State) (m : Mig) (h0 : Fit Q U s) :
    Fit Q U (State.flip s m) := by
  unfold State.flip
  repeat' first
    | with_reducible assumption | with_reducible refine fit_ite ?_ ?_ | with_reducible apply announceAll_fit | intro _ | split
    | (refine fit_of ?_; dsimp only; refine fit_to ?_) | dsimp +zetaDelta only

theorem releaseReceived_fit (s : State) (m : Mig) (h0 : Fit Q U s) :
    Fit Q U (State.releaseReceived s m) := by
  unfold State.releaseReceived
  repeat' first
    | with_reducible assumption | with_reducible refine fit_ite ?_ ?_ | with_reducible apply releaseHolding_fit
    | with_reducible apply releaseRows_fit | split | (refine fit_of ?_; dsimp only; refine fit_to ?_)

theorem moveTick_fit (s : State) (m : Mig) (h0 : Fit Q U s) :
    Fit Q U (State.moveTick s m) := by
  unfold State.moveTick
  repeat' first
    | with_reducible assumption | with_reducible refine fit_ite ?_ ?_ | with_reducible apply logMove_fit
    | with_reducible apply dropMig_fit | with_reducible apply announceAll_fit | with_reducible apply flip_fit
    | with_reducible apply releaseReceived_fit | intro _ | split | (refine fit_of ?_; dsimp only; refine fit_to ?_)
    | dsimp +zetaDelta only

theorem movesStart_fit (s : State) (h0 : Fit Q U s) :
    Fit Q U (State.movesStart s) := by
  unfold State.movesStart
  repeat' first
    | with_reducible assumption | with_reducible refine fit_ite ?_ ?_ | with_reducible apply moveTick_fit
    | with_reducible refine fit_foldl ?_ ?_ | with_reducible refine fit_foldl1 ?_ ?_
    | with_reducible refine fit_foldlOf CopyRun.st ?_ ?_ | intro _ | (refine fit_of ?_; dsimp only; refine fit_to ?_)

theorem moveEnd_fit (s : State) (m : Mig) (h0 : Fit Q U s) :
    Fit Q U (State.moveEnd s m) := by
  unfold State.moveEnd
  repeat' first
    | with_reducible assumption | with_reducible refine fit_ite ?_ ?_ | with_reducible apply mapMirror_fit
    | with_reducible apply logMove_fit | with_reducible apply dropMig_fit | with_reducible apply releaseHolding_fit
    | with_reducible apply releaseRows_fit | intro _ | split | (refine fit_of ?_; dsimp only; refine fit_to ?_)
    | dsimp +zetaDelta only

theorem movesEnd_fit (s : State) (h0 : Fit Q U s) :
    Fit Q U (State.movesEnd s) := by
  unfold State.movesEnd
  repeat' first
    | with_reducible assumption | with_reducible refine fit_ite ?_ ?_ | with_reducible apply moveEnd_fit
    | with_reducible refine fit_foldl ?_ ?_ | with_reducible refine fit_foldl1 ?_ ?_
    | with_reducible refine fit_foldlOf CopyRun.st ?_ ?_ | intro _ | (refine fit_of ?_; dsimp only; refine fit_to ?_)

theorem cancelMoves_fit (s : State) (node : Nat) (h0 : Fit Q U s) :
    Fit Q U (State.cancelMoves s node) := by
  unfold State.cancelMoves
  repeat' first
    | with_reducible assumption | with_reducible refine fit_ite ?_ ?_ | intro _ | split
    | (refine fit_of ?_; dsimp only; refine fit_to ?_) | dsimp +zetaDelta only

theorem copyList_fit (x : Index) (g : Nat) (r : CopyRun) (p : Nat × IList) (h0 : Fit Q U r.st) :
    Fit Q U (copyList x g r p).st := by
  unfold copyList
  repeat' first
    | with_reducible assumption | with_reducible refine fit_ite ?_ ?_ | with_reducible apply account_fit
    | with_reducible apply send_fit | intro _
    | (extract_lets +onlyGivenNames z1; first | refine fit_cut z1 ?_ fun hz => ?_ | refine fit_cut z1.1 ?_ fun hz => ?_ | refine fit_cut z1.2 ?_ fun hz => ?_ | refine fit_cut z1.st ?_ fun hz => ?_ | skip)
    | split | (refine fit_of ?_; dsimp only; refine fit_to ?_) | dsimp +zetaDelta only

theorem copyRegion_fit (s : State) (e : EaselEntry) (m : Mig) (x : Index) (h0 : Fit Q U s) :
    Fit Q U (State.copyRegion s e m x) := by
  unfold State.copyRegion
  repeat' first
    | with_reducible assumption | with_reducible refine fit_ite ?_ ?_ | with_reducible apply send_fit
    | with_reducible apply mapMig_fit | with_reducible apply copyList_fit | with_reducible refine fit_foldl ?_ ?_
    | with_reducible refine fit_foldl1 ?_ ?_ | with_reducible refine fit_foldlOf CopyRun.st ?_ ?_ | intro _
    | (extract_lets +onlyGivenNames z1; first | refine fit_cut z1 ?_ fun hz => ?_ | refine fit_cut z1.1 ?_ fun hz => ?_ | refine fit_cut z1.2 ?_ fun hz => ?_ | refine fit_cut z1.st ?_ fun hz => ?_ | skip)
    | split | (refine fit_of ?_; dsimp only; refine fit_to ?_) | dsimp +zetaDelta only

theorem copyShard_fit (s : State) (m : Mig) (t : Table) (h0 : Fit Q U s) :
    Fit Q U (State.copyShard s m t) := by
  unfold State.copyShard
  repeat' first
    | with_reducible assumption | with_reducible refine fit_ite ?_ ?_ | with_reducible apply send_fit
    | with_reducible apply mapMig_fit | intro _
    | (extract_lets +onlyGivenNames z1; first | refine fit_cut z1 ?_ fun hz => ?_ | refine fit_cut z1.1 ?_ fun hz => ?_ | refine fit_cut z1.2 ?_ fun hz => ?_ | skip)
    | split | (refine fit_of ?_; dsimp only; refine fit_to ?_) | dsimp +zetaDelta only

theorem copyHot_fit (s : State) (m : Mig) (t : Table) (h0 : Fit Q U s) :
    Fit Q U (State.copyHot s m t) := by
  unfold State.copyHot
  repeat' first
    | with_reducible assumption | with_reducible refine fit_ite ?_ ?_ | with_reducible apply send_fit
    | with_reducible apply mapMig_fit | intro _ | split | (refine fit_of ?_; dsimp only; refine fit_to ?_)
    | dsimp +zetaDelta only

theorem copiedStep_fit (s : State) (m : Mig) (h0 : Fit Q U s) :
    Fit Q U (State.copiedStep s m) := by
  unfold State.copiedStep
  repeat' first
    | with_reducible assumption | with_reducible refine fit_ite ?_ ?_ | with_reducible apply keepEntry_fit | intro _ | split
    | (refine fit_of ?_; dsimp only; refine fit_to ?_) | dsimp +zetaDelta only

theorem copyPart_fit (s : State) (e : EaselEntry) (m : Mig) (h0 : Fit Q U s) :
    Fit Q U (State.copyPart s e m) := by
  unfold State.copyPart
  repeat' first
    | with_reducible assumption | with_reducible refine fit_ite ?_ ?_ | with_reducible apply copyRegion_fit
    | with_reducible apply copyShard_fit | with_reducible apply copyHot_fit | split
    | (refine fit_of ?_; dsimp only; refine fit_to ?_)

theorem copyMove_fit (s : State) (e : EaselEntry) (m : Mig) (h0 : Fit Q U s) :
    Fit Q U (State.copyMove s e m) := by
  unfold State.copyMove
  repeat' first
    | with_reducible assumption | with_reducible refine fit_ite ?_ ?_ | with_reducible apply copiedStep_fit
    | with_reducible apply copyPart_fit | (refine fit_of ?_; dsimp only; refine fit_to ?_)

theorem noRowLeft_fit (s : State) (slot : Nat) (object : Handle) (region : Nat) (h0 : Fit Q U s) :
    Fit Q U (State.noRowLeft s slot object region) := by
  unfold State.noRowLeft
  repeat' first
    | with_reducible assumption | with_reducible refine fit_ite ?_ ?_ | intro _ | split
    | (refine fit_of ?_; dsimp only; refine fit_to ?_) | dsimp +zetaDelta only

theorem takeExtent_fit (s : State) (slot : Nat) (object : Handle) (region : Nat) (list : Nat) (mainSlots : Nat) (c : List F16) (slots : List Slot) (h0 : Fit Q U s) :
    Fit Q U (State.takeExtent s slot object region list mainSlots c slots) := by
  unfold State.takeExtent
  repeat' first
    | with_reducible assumption | with_reducible refine fit_ite ?_ ?_ | with_reducible apply mapIndex_fit
    | with_reducible apply tombBit_fit | with_reducible apply noRowLeft_fit | with_reducible refine fit_foldl ?_ ?_
    | with_reducible refine fit_foldl1 ?_ ?_ | with_reducible refine fit_foldlOf CopyRun.st ?_ ?_ | intro _
    | (extract_lets +onlyGivenNames z1; first | refine fit_cut z1 ?_ fun hz => ?_ | refine fit_cut z1.1 ?_ fun hz => ?_ | refine fit_cut z1.2 ?_ fun hz => ?_ | skip)
    | split | (refine fit_of ?_; dsimp only; refine fit_to ?_) | dsimp +zetaDelta only

theorem takeRecord_fit (s : State) (slot : Nat) (object : Handle) (region : Nat) (r : Nat × Nat × Bytes) (h0 : Fit Q U s) :
    Fit Q U (State.takeRecord s slot object region r) := by
  unfold State.takeRecord
  repeat' first
    | with_reducible assumption | with_reducible refine fit_ite ?_ ?_ | with_reducible apply mapIndex_fit
    | with_reducible apply placeRecord_fit | intro _
    | (extract_lets +onlyGivenNames z1; first | refine fit_cut z1 ?_ fun hz => ?_ | refine fit_cut z1.1 ?_ fun hz => ?_ | refine fit_cut z1.2 ?_ fun hz => ?_ | skip)
    | split | (refine fit_of ?_; dsimp only; refine fit_to ?_) | dsimp +zetaDelta only

theorem takeCentroids_fit (s : State) (slot : Nat) (object : Handle) (region : Nat) (ls : List (Nat × List F16)) (h0 : Fit Q U s) :
    Fit Q U (State.takeCentroids s slot object region ls) := by
  unfold State.takeCentroids
  repeat' first
    | with_reducible assumption | with_reducible refine fit_ite ?_ ?_ | with_reducible apply mapIndex_fit | intro _ | split
    | (refine fit_of ?_; dsimp only; refine fit_to ?_) | dsimp +zetaDelta only

theorem takeMove_fit (s : State) (x0 : Move) (h0 : Fit Q U s) :
    Fit Q U (State.takeMove s x0) := by
  unfold State.takeMove
  repeat' first
    | with_reducible assumption | with_reducible refine fit_ite ?_ ?_ | with_reducible apply mapTable_fit
    | with_reducible apply takeExtent_fit | with_reducible apply takeRecord_fit | with_reducible apply takeCentroids_fit
    | with_reducible refine fit_foldl ?_ ?_ | with_reducible refine fit_foldl1 ?_ ?_
    | with_reducible refine fit_foldlOf CopyRun.st ?_ ?_ | intro _
    | (extract_lets +onlyGivenNames z1; first | refine fit_cut z1 ?_ fun hz => ?_ | refine fit_cut z1.1 ?_ fun hz => ?_ | refine fit_cut z1.2 ?_ fun hz => ?_ | refine fit_cut z1.st ?_ fun hz => ?_ | skip)
    | split | (refine fit_of ?_; dsimp only; refine fit_to ?_) | dsimp +zetaDelta only

theorem migrateWindow_fit (s : State) (e : EaselEntry) (h0 : Fit Q U s) :
    Fit Q U (State.migrateWindow s e) := by
  unfold State.migrateWindow
  repeat' first
    | with_reducible assumption | with_reducible refine fit_ite ?_ ?_ | with_reducible apply copyMove_fit
    | with_reducible apply takeMove_fit | with_reducible refine fit_foldl ?_ ?_ | with_reducible refine fit_foldl1 ?_ ?_
    | with_reducible refine fit_foldlOf CopyRun.st ?_ ?_ | intro _
    | (extract_lets +onlyGivenNames z1; first | refine fit_cut z1 ?_ fun hz => ?_ | refine fit_cut z1.2 ?_ fun hz => ?_ | skip)
    | split | (refine fit_of ?_; dsimp only; refine fit_to ?_) | dsimp +zetaDelta only

theorem copyShadow_fit (s : State) (h0 : Fit Q U s) :
    Fit Q U (State.copyShadow s) := by
  unfold State.copyShadow
  repeat' first
    | with_reducible assumption | with_reducible refine fit_ite ?_ ?_ | with_reducible apply mapMirror_fit
    | with_reducible apply toShadow_fit | with_reducible refine fit_foldl ?_ ?_ | with_reducible refine fit_foldl1 ?_ ?_
    | with_reducible refine fit_foldlOf CopyRun.st ?_ ?_ | intro _
    | (extract_lets +onlyGivenNames z1; first | refine fit_cut z1 ?_ fun hz => ?_ | refine fit_cut z1.1 ?_ fun hz => ?_ | refine fit_cut z1.2 ?_ fun hz => ?_ | skip)
    | split | (refine fit_of ?_; dsimp only; refine fit_to ?_) | dsimp +zetaDelta only

theorem startRebuilds_fit (s : State) (h0 : Fit Q U s) :
    Fit Q U (State.startRebuilds s) := by
  unfold State.startRebuilds
  repeat' first
    | with_reducible assumption | with_reducible refine fit_ite ?_ ?_ | with_reducible refine fit_foldl ?_ ?_
    | with_reducible refine fit_foldl1 ?_ ?_ | with_reducible refine fit_foldlOf CopyRun.st ?_ ?_ | intro _
    | (extract_lets +onlyGivenNames z1; first | refine fit_cut z1 ?_ fun hz => ?_ | refine fit_cut z1.st ?_ fun hz => ?_ | skip)
    | split | (refine fit_of ?_; dsimp only; refine fit_to ?_) | dsimp +zetaDelta only

end Sys2Proof.Machine
end

