-- ==== Sys2Proof/Laws/FitRenumber.lean ====
section
/-! SUPPORT. The operations of Renumber.lean keep what `Fit` says. -/

namespace Sys2Proof.Machine

set_option linter.tactic.unusedName false

variable {Q : List Instr} {U : Was}

theorem rebase_fit (f : Nat → Nat) (s : State) (h0 : Fit Q U s) :
    Fit Q U (State.rebase f s) := by
  unfold State.rebase
  repeat' first
    | with_reducible assumption | with_reducible refine fit_ite ?_ ?_ | with_reducible apply journal_fit
    | (refine fit_of ?_; dsimp only; refine fitOf_chans ?_ (fit_to ?_); first | exact sharesOk_map fun _ hx => hx | (refine sharesOk_put (by assumption) ?_; exact fun hx => hx) | exact sharesOk_tdel | exact sharesOk_map (fun _ _ => withinShares_zero rfl rfl) | exact sharesOk_map (fun _ hx => withinShares_noReissue hx rfl rfl rfl) | exact sharesOk_map (fun _ hx => withinShares_frameStart hx rfl rfl rfl))
    | intro _
    | (extract_lets +onlyGivenNames z1; first | refine fit_cut z1 ?_ fun hz => ?_ | refine fit_cut z1.1 ?_ fun hz => ?_ | refine fit_cut z1.2 ?_ fun hz => ?_ | refine fit_cut z1.st ?_ fun hz => ?_ | skip)
    | (refine fit_of ?_; dsimp only; refine fit_to ?_) | dsimp +zetaDelta only

end Sys2Proof.Machine
end

