-- ==== Sys2Proof/Laws/FitTime.lean ====
section
/-! SUPPORT. The operations of Time.lean keep what `Fit` says. -/

namespace Sys2Proof.Machine

set_option linter.tactic.unusedName false

variable {Q : List Instr} {U : Was}

theorem selectGm_fit (s : State) (h0 : Fit Q U s) :
    Fit Q U (State.selectGm s) := by
  unfold State.selectGm
  repeat' first
    | with_reducible assumption | with_reducible refine fit_ite ?_ ?_
    | (extract_lets +onlyGivenNames z1; first | refine fit_cut z1 ?_ fun hz => ?_ | refine fit_cut z1.1 ?_ fun hz => ?_ | refine fit_cut z1.2 ?_ fun hz => ?_ | skip)
    | split | (refine fit_of ?_; dsimp only; refine fit_to ?_) | dsimp +zetaDelta only

theorem steerFree_fit (s : State) (h0 : Fit Q U s) :
    Fit Q U (State.steerFree s) := by
  unfold State.steerFree
  repeat' first
    | with_reducible assumption | with_reducible refine fit_ite ?_ ?_ | with_reducible apply free_fit
    | (extract_lets +onlyGivenNames z1; first | refine fit_cut z1 ?_ fun hz => ?_ | refine fit_cut z1.1 ?_ fun hz => ?_ | refine fit_cut z1.2 ?_ fun hz => ?_ | skip)
    | (refine fit_of ?_; dsimp only; refine fit_to ?_) | dsimp +zetaDelta only

theorem timeExchange_fit (s : State) (port : Nat) (t1 : Nat) (t2 : Nat) (t3 : Nat) (t4 : Nat) (pps : Nat) (prio : Nat) (gm : Nat) (hops : Nat) (h0 : Fit Q U s) :
    Fit Q U (State.timeExchange s port t1 t2 t3 t4 pps prio gm hops) := by
  unfold State.timeExchange
  repeat' first
    | with_reducible assumption | with_reducible refine fit_ite ?_ ?_ | with_reducible apply selectGm_fit
    | with_reducible apply steerFree_fit | intro _
    | (extract_lets +onlyGivenNames z1; first | refine fit_cut z1 ?_ fun hz => ?_ | refine fit_cut z1.st ?_ fun hz => ?_ | skip)
    | split | (refine fit_of ?_; dsimp only; refine fit_to ?_) | dsimp +zetaDelta only

theorem advertLoss_fit (s : State) (h0 : Fit Q U s) :
    Fit Q U (State.advertLoss s) := by
  unfold State.advertLoss
  repeat' first
    | with_reducible assumption | with_reducible refine fit_ite ?_ ?_ | with_reducible apply selectGm_fit | intro _
    | (refine fit_of ?_; dsimp only; refine fit_to ?_) | dsimp +zetaDelta only

theorem ppsEdge_fit (s : State) (offset : Int) (h0 : Fit Q U s) :
    Fit Q U (State.ppsEdge s offset) := by
  unfold State.ppsEdge
  repeat' first
    | with_reducible assumption | with_reducible refine fit_ite ?_ ?_ | with_reducible apply selectGm_fit
    | with_reducible apply steerFree_fit
    | (extract_lets +onlyGivenNames z1; first | refine fit_cut z1 ?_ fun hz => ?_ | refine fit_cut z1.st ?_ fun hz => ?_ | skip)
    | split | (refine fit_of ?_; dsimp only; refine fit_to ?_) | dsimp +zetaDelta only

end Sys2Proof.Machine
end

