-- ==== Sys2Proof/Laws/FitMembers.lean ====
section
/-! SUPPORT. The operations of Members.lean keep what `Fit` says. -/

namespace Sys2Proof.Machine

set_option linter.tactic.unusedName false

variable {Q : List Instr} {U : Was}

theorem selfSuspect_fit (s : State) (kind : Nat) (unit : Nat) (h0 : Fit Q U s) :
    Fit Q U (State.selfSuspect s kind unit) := by
  unfold State.selfSuspect
  repeat' first
    | with_reducible assumption | with_reducible refine fit_ite ?_ ?_ | with_reducible apply faultRecord_fit | split
    | (refine fit_of ?_; dsimp only; refine fit_to ?_)

theorem fenceNow_fit (s : State) (h0 : Fit Q U s) :
    Fit Q U (State.fenceNow s) := by
  unfold State.fenceNow
  repeat' first
    | with_reducible assumption | with_reducible refine fit_ite ?_ ?_ | with_reducible apply selfSuspect_fit | intro _ | split
    | (refine fit_of ?_; dsimp only; refine fit_to ?_) | dsimp +zetaDelta only

theorem suspect_fit (s : State) (x : Nat) (h0 : Fit Q U s) :
    Fit Q U (State.suspect s x) := by
  unfold State.suspect
  repeat' first
    | with_reducible assumption | with_reducible refine fit_ite ?_ ?_ | with_reducible apply raiseNode_fit
    | with_reducible apply selfSuspect_fit | (extract_lets +onlyGivenNames z1; first | refine fit_cut z1 ?_ fun hz => ?_ | skip)
    | split | (refine fit_of ?_; dsimp only; refine fit_to ?_) | dsimp +zetaDelta only

theorem judge_fit (s : State) (h0 : Fit Q U s) :
    Fit Q U (State.judge s) := by
  unfold State.judge
  repeat' first
    | with_reducible assumption | with_reducible refine fit_ite ?_ ?_ | with_reducible apply suspect_fit
    | with_reducible refine fit_foldl ?_ ?_ | with_reducible refine fit_foldl1 ?_ ?_ | intro _
    | (extract_lets +onlyGivenNames z1; first | refine fit_cut z1 ?_ fun hz => ?_ | skip)
    | (refine fit_of ?_; dsimp only; refine fit_to ?_) | dsimp +zetaDelta only

theorem missOne_fit (s : State) (p : Nat) (h0 : Fit Q U s) :
    Fit Q U (State.missOne s p) := by
  unfold State.missOne
  repeat' first
    | with_reducible assumption | with_reducible refine fit_ite ?_ ?_ | with_reducible apply faultRecord_fit
    | (extract_lets +onlyGivenNames z1; first | refine fit_cut z1 ?_ fun hz => ?_ | skip) | split
    | (refine fit_of ?_; dsimp only; refine fit_to ?_) | dsimp +zetaDelta only

theorem missReport_fit (s : State) (p : Nat) (h0 : Fit Q U s) :
    Fit Q U (State.missReport s p) := by
  unfold State.missReport
  repeat' first
    | with_reducible assumption | with_reducible refine fit_ite ?_ ?_ | with_reducible apply judge_fit | intro _ | split
    | (refine fit_of ?_; dsimp only; refine fit_to ?_) | dsimp +zetaDelta only

theorem controlSlot_fit (s : State) (h0 : Fit Q U s) :
    Fit Q U (State.controlSlot s) := by
  unfold State.controlSlot
  repeat' first
    | with_reducible assumption | with_reducible refine fit_ite ?_ ?_ | with_reducible apply emit_fit
    | with_reducible apply selfSuspect_fit | with_reducible apply judge_fit | with_reducible apply missOne_fit
    | with_reducible refine fit_foldl ?_ ?_ | with_reducible refine fit_foldl1 ?_ ?_ | intro _
    | (extract_lets +onlyGivenNames z1; first | refine fit_cut z1 ?_ fun hz => ?_ | skip) | split
    | (refine fit_of ?_; dsimp only; refine fit_to ?_) | dsimp +zetaDelta only

theorem seenShadow_fit (s : State) (port : Nat) (hb : Heartbeat) (h0 : Fit Q U s) :
    Fit Q U (State.seenShadow s port hb) := by
  unfold State.seenShadow
  repeat' first
    | with_reducible assumption | with_reducible refine fit_ite ?_ ?_ | split | (refine fit_of ?_; dsimp only; refine fit_to ?_)

theorem logOrder_fit (s : State) (o : Order) (h0 : Fit Q U s) :
    Fit Q U (State.logOrder s o) := by
  unfold State.logOrder
  repeat' first
    | with_reducible assumption | with_reducible refine fit_ite ?_ ?_ | with_reducible apply logAdd_fit
    | (refine fit_of ?_; dsimp only; refine fit_to ?_)

theorem takeBeat_fit (s : State) (port : Nat) (hb : Heartbeat) (crcOk : Bool) (h0 : Fit Q U s) :
    Fit Q U (State.takeBeat s port hb crcOk) := by
  unfold State.takeBeat
  repeat' first
    | with_reducible assumption | with_reducible refine fit_ite ?_ ?_ | with_reducible apply mapPort_fit
    | with_reducible apply selfSuspect_fit | with_reducible apply judge_fit | with_reducible apply seenShadow_fit
    | with_reducible apply logOrder_fit | with_reducible refine fit_foldl ?_ ?_ | with_reducible refine fit_foldl1 ?_ ?_
    | intro _
    | (extract_lets +onlyGivenNames z1; first | refine fit_cut z1 ?_ fun hz => ?_ | refine fit_cut z1.1 ?_ fun hz => ?_ | skip)
    | split | (refine fit_of ?_; dsimp only; refine fit_to ?_) | dsimp +zetaDelta only

theorem issue_fit (s : State) (o : Order) (h0 : Fit Q U s) :
    Fit Q U (State.issue s o) := by
  unfold State.issue
  repeat' first
    | with_reducible assumption | with_reducible refine fit_ite ?_ ?_ | with_reducible apply logOrder_fit
    | (refine fit_of ?_; dsimp only; refine fit_to ?_)

theorem lead_fit (s : State) (h0 : Fit Q U s) :
    Fit Q U (State.lead s) := by
  unfold State.lead
  repeat' first
    | with_reducible assumption | with_reducible refine fit_ite ?_ ?_ | with_reducible apply issue_fit
    | with_reducible refine fit_foldl ?_ ?_ | with_reducible refine fit_foldl1 ?_ ?_ | intro _
    | (extract_lets +onlyGivenNames z1; first | refine fit_cut z1 ?_ fun hz => ?_ | refine fit_cut z1.2 ?_ fun hz => ?_ | skip)
    | split | (refine fit_of ?_; dsimp only; refine fit_to ?_) | dsimp +zetaDelta only

theorem rollback_fit (s : State) (subject : Nat) (h0 : Fit Q U s) :
    Fit Q U (State.rollback s subject) := by
  unfold State.rollback
  repeat' first
    | with_reducible assumption | with_reducible refine fit_ite ?_ ?_ | with_reducible apply issue_fit | intro _ | split
    | (refine fit_of ?_; dsimp only; refine fit_to ?_) | dsimp +zetaDelta only

theorem rollbacks_fit (s : State) (h0 : Fit Q U s) :
    Fit Q U (State.rollbacks s) := by
  unfold State.rollbacks
  repeat' first
    | with_reducible assumption | with_reducible refine fit_ite ?_ ?_ | with_reducible apply rollback_fit
    | with_reducible refine fit_foldl ?_ ?_ | with_reducible refine fit_foldl1 ?_ ?_ | intro _
    | (refine fit_of ?_; dsimp only; refine fit_to ?_)

theorem outOfStep_fit (s : State) (x : Nat) (h0 : Fit Q U s) :
    Fit Q U (State.outOfStep s x) := by
  unfold State.outOfStep
  repeat' first
    | with_reducible assumption | with_reducible refine fit_ite ?_ ?_ | with_reducible apply setHolding_fit
    | with_reducible refine fit_foldl ?_ ?_ | with_reducible refine fit_foldl1 ?_ ?_ | intro _
    | (refine fit_of ?_; dsimp only; refine fit_to ?_) | dsimp +zetaDelta only

theorem installOrder_fit (s : State) (o : Order) (h0 : Fit Q U s) :
    Fit Q U (State.installOrder s o) := by
  unfold State.installOrder
  repeat' first
    | with_reducible assumption | with_reducible refine fit_ite ?_ ?_ | with_reducible apply raiseNode_fit
    | with_reducible apply mapIndex_fit | with_reducible apply mapTable_fit | with_reducible apply cancelMoves_fit
    | with_reducible apply outOfStep_fit | with_reducible refine fit_foldl ?_ ?_ | with_reducible refine fit_foldl1 ?_ ?_
    | intro _
    | (extract_lets +onlyGivenNames z1; first | refine fit_cut z1 ?_ fun hz => ?_ | refine fit_cut z1.1 ?_ fun hz => ?_ | refine fit_cut z1.2 ?_ fun hz => ?_ | skip)
    | split | (refine fit_of ?_; dsimp only; refine fit_to ?_) | dsimp +zetaDelta only

theorem installOrders_fit (s : State) (h0 : Fit Q U s) :
    Fit Q U (State.installOrders s) := by
  unfold State.installOrders
  repeat' first
    | with_reducible assumption | with_reducible refine fit_ite ?_ ?_ | with_reducible apply installOrder_fit
    | with_reducible refine fit_foldl ?_ ?_ | with_reducible refine fit_foldl1 ?_ ?_ | intro _
    | (refine fit_of ?_; dsimp only; refine fit_to ?_)

theorem dropCopies_fit (s : State) (h0 : Fit Q U s) :
    Fit Q U (State.dropCopies s) := by
  unfold State.dropCopies
  refine fit_ite ?_ ?_
  · refine fit_of ?_; dsimp only
    exact fitOf_mem (fun _ => rfl) (fitOf_chans sharesOk_nil (fit_to h0))
  · exact fit_of (fit_to h0)

theorem shadowEnd_fit (s : State) (outcome : Nat) (h0 : Fit Q U s) :
    Fit Q U (State.shadowEnd s outcome) := by
  unfold State.shadowEnd
  repeat' first
    | with_reducible assumption | with_reducible refine fit_ite ?_ ?_ | with_reducible apply logAdd_fit
    | with_reducible apply dropCopies_fit | split | (refine fit_of ?_; dsimp only; refine fit_to ?_)

theorem takePlace_fit (s : State) (h0 : Fit Q U s) :
    Fit Q U (State.takePlace s) := by
  unfold State.takePlace
  repeat' first
    | with_reducible assumption | with_reducible refine fit_ite ?_ ?_ | with_reducible apply shadowEnd_fit
    | (extract_lets +onlyGivenNames z1; first | refine fit_cut z1 ?_ fun hz => ?_ | skip) | split
    | (refine fit_of ?_; dsimp only; refine fit_to ?_) | dsimp +zetaDelta only

theorem confirmBody_fit (g : Go) (s0 : State) (h0 : Fit Q U s0) :
    Fit Q U (confirmBody g s0).1 := by
  unfold confirmBody
  repeat' first
    | with_reducible assumption | with_reducible refine fit_ite ?_ ?_ | with_reducible apply checked_fit
    | with_reducible apply issue_fit | intro _
    | (extract_lets +onlyGivenNames z1; first | refine fit_cut z1 ?_ fun hz => ?_ | refine fit_cut z1.st ?_ fun hz => ?_ | skip)
    | (refine fit_of ?_; dsimp only; refine fit_to ?_) | dsimp +zetaDelta only

theorem promoteBody_fit (g : Go) (s0 : State) (h0 : Fit Q U s0) :
    Fit Q U (promoteBody g s0).1 := by
  unfold promoteBody
  repeat' first
    | with_reducible assumption | with_reducible refine fit_ite ?_ ?_ | with_reducible apply checked_fit
    | with_reducible apply issue_fit | intro _
    | (extract_lets +onlyGivenNames z1; first | refine fit_cut z1 ?_ fun hz => ?_ | refine fit_cut z1.st ?_ fun hz => ?_ | skip)
    | split | (refine fit_of ?_; dsimp only; refine fit_to ?_) | dsimp +zetaDelta only

theorem shadowBody_fit (g : Go) (relayNames : Bool) (shadowed : Bool) (encrypt : Bool) (s0 : State) (h0 : Fit Q U s0) :
    Fit Q U (shadowBody g relayNames shadowed encrypt s0).1 := by
  unfold shadowBody
  repeat' first
    | with_reducible assumption | with_reducible refine fit_ite ?_ ?_ | with_reducible apply checked_fit | intro _
    | (extract_lets +onlyGivenNames z1; first | refine fit_cut z1 ?_ fun hz => ?_ | refine fit_cut z1.2 ?_ fun hz => ?_ | refine fit_cut z1.st ?_ fun hz => ?_ | skip)
    | split | (refine fit_of ?_; dsimp only; refine fit_to ?_) | dsimp +zetaDelta only

theorem shadowCheck_fit (s : State) (h0 : Fit Q U s) :
    Fit Q U (State.shadowCheck s) := by
  unfold State.shadowCheck
  repeat' first
    | with_reducible assumption | with_reducible refine fit_ite ?_ ?_ | with_reducible apply shadowEnd_fit | split
    | (refine fit_of ?_; dsimp only; refine fit_to ?_)

theorem shadowPassed_fit (s : State) (h0 : Fit Q U s) :
    Fit Q U (State.shadowPassed s) := by
  unfold State.shadowPassed
  repeat' first
    | with_reducible assumption | with_reducible refine fit_ite ?_ ?_ | split | (refine fit_of ?_; dsimp only; refine fit_to ?_)

theorem joinBody_fit (g : Go) (s0 : State) (h0 : Fit Q U s0) :
    Fit Q U (joinBody g s0).1 := by
  unfold joinBody
  repeat' first
    | with_reducible assumption | with_reducible refine fit_ite ?_ ?_ | with_reducible apply checked_fit | intro _
    | (extract_lets +onlyGivenNames z1; first | refine fit_cut z1 ?_ fun hz => ?_ | refine fit_cut z1.1 ?_ fun hz => ?_ | refine fit_cut z1.2 ?_ fun hz => ?_ | refine fit_cut z1.st ?_ fun hz => ?_ | skip)
    | split | (refine fit_of ?_; dsimp only; refine fit_to ?_) | dsimp +zetaDelta only

theorem renumbered_fit (s : State) (h0 : Fit Q U s) :
    Fit Q U (State.renumbered s) := by
  unfold State.renumbered
  repeat' first
    | with_reducible assumption | with_reducible refine fit_ite ?_ ?_
    | (refine fit_of ?_; dsimp only; refine fitOf_chans ?_ (fit_to ?_); first | exact sharesOk_map fun _ hx => hx | (refine sharesOk_put (by assumption) ?_; exact fun hx => hx) | exact sharesOk_tdel | exact sharesOk_map (fun _ _ => withinShares_zero rfl rfl) | exact sharesOk_map (fun _ hx => withinShares_noReissue hx rfl rfl rfl) | exact sharesOk_map (fun _ hx => withinShares_frameStart hx rfl rfl rfl))
    | intro _
    | (extract_lets +onlyGivenNames z1; first | refine fit_cut z1 ?_ fun hz => ?_ | refine fit_cut z1.1 ?_ fun hz => ?_ | refine fit_cut z1.2 ?_ fun hz => ?_ | skip)
    | split | (refine fit_of ?_; dsimp only; refine fit_to ?_) | dsimp +zetaDelta only

theorem dropEasel_fit (s : State) (len : Nat) (h0 : Fit Q U s) :
    Fit Q U (State.dropEasel s len) := by
  unfold State.dropEasel
  repeat' first
    | with_reducible assumption | with_reducible refine fit_ite ?_ ?_ | split | (refine fit_of ?_; dsimp only; refine fit_to ?_)

theorem joinNow_fit (s : State) (j : Join) (h0 : Fit Q U s) :
    Fit Q U (State.joinNow s j) := by
  unfold State.joinNow
  repeat' first
    | with_reducible assumption | with_reducible refine fit_ite ?_ ?_ | with_reducible apply mbEndCode_fit
    | with_reducible apply rebase_fit | with_reducible apply selectGm_fit | with_reducible apply renumbered_fit
    | with_reducible apply dropEasel_fit | intro _
    | (extract_lets +onlyGivenNames z1; first | refine fit_cut z1 ?_ fun hz => ?_ | skip)
    | (refine fit_of ?_; dsimp only; refine fit_to ?_) | dsimp +zetaDelta only

theorem leaveBody_fit (g : Go) (s0 : State) (h0 : Fit Q U s0) :
    Fit Q U (leaveBody g s0).1 := by
  unfold leaveBody
  repeat' first
    | with_reducible assumption | with_reducible refine fit_ite ?_ ?_ | with_reducible apply checked_fit | intro _ | split
    | (refine fit_of ?_; dsimp only; refine fit_to ?_) | dsimp +zetaDelta only

theorem leaveNow_fit (s : State) (h0 : Fit Q U s) :
    Fit Q U (State.leaveNow s) := by
  unfold State.leaveNow
  repeat' first
    | with_reducible assumption | with_reducible refine fit_ite ?_ ?_ | with_reducible apply mbEndCode_fit
    | with_reducible apply rebase_fit | with_reducible apply shadowEnd_fit | with_reducible apply renumbered_fit
    | with_reducible apply dropEasel_fit | (extract_lets +onlyGivenNames z1; first | refine fit_cut z1 ?_ fun hz => ?_ | skip)
    | (refine fit_of ?_; dsimp only; refine fit_to ?_) | dsimp +zetaDelta only

theorem leaveDue_fit (s : State) (h0 : Fit Q U s) :
    Fit Q U (State.leaveDue s) := by
  unfold State.leaveDue
  repeat' first
    | with_reducible assumption | with_reducible refine fit_ite ?_ ?_ | with_reducible apply leaveNow_fit | split
    | (refine fit_of ?_; dsimp only; refine fit_to ?_)

end Sys2Proof.Machine
end

