-- ==== Sys2Proof/Laws/FitWindows.lean ====
section
/-! SUPPORT. The operations of Windows.lean keep what `Fit` says. -/

namespace Sys2Proof.Machine

set_option linter.tactic.unusedName false

variable {Q : List Instr} {U : Was}

theorem enter_fit (s : State) (n : Nat) (e : EaselEntry) (h0 : Fit Q U s) :
    Fit Q U (State.enter s n e) := by
  unfold State.enter
  repeat' first
    | with_reducible assumption | with_reducible refine fit_ite ?_ ?_ | (refine fit_of ?_; dsimp only; refine fit_to ?_)

theorem coreFree_fit (s : State) (slot : Nat) (h0 : Fit Q U s) :
    Fit Q U (State.coreFree s slot) := by
  unfold State.coreFree
  repeat' first
    | with_reducible assumption | with_reducible refine fit_ite ?_ ?_ | with_reducible apply free_fit
    | with_reducible apply account_fit | (refine fit_of ?_; dsimp only; refine fit_to ?_)

theorem cutCmd_fit (s : State) (c : Cmd) (h0 : Fit Q U s) :
    Fit Q U (State.cutCmd s c) := by
  unfold State.cutCmd
  repeat' first
    | with_reducible assumption | with_reducible refine fit_ite ?_ ?_ | with_reducible apply mapCmd_fit
    | with_reducible apply settle_fit | intro _ | (refine fit_of ?_; dsimp only; refine fit_to ?_) | dsimp +zetaDelta only

theorem mediaCmd_fit (s : State) (c : Cmd) (h0 : Fit Q U s) :
    Fit Q U (State.mediaCmd s c) := by
  unfold State.mediaCmd
  repeat' first
    | with_reducible assumption | with_reducible refine fit_ite ?_ ?_ | with_reducible apply mapCmd_fit
    | with_reducible apply settle_fit | intro _ | (refine fit_of ?_; dsimp only; refine fit_to ?_) | dsimp +zetaDelta only

theorem cutEvent_fit (s : State) (slot : Nat) (stage : Nat) (entry : Nat) (n : Nat) (h0 : Fit Q U s) :
    Fit Q U (State.cutEvent s slot stage entry n) := by
  unfold State.cutEvent
  repeat' first
    | with_reducible assumption | with_reducible refine fit_ite ?_ ?_ | with_reducible apply raiseChan_fit | intro _
    | (extract_lets +onlyGivenNames z1; first | refine fit_cut z1 ?_ fun hz => ?_ | skip) | split
    | (refine fit_of ?_; dsimp only; refine fit_to ?_) | dsimp +zetaDelta only

end Sys2Proof.Machine
end

