-- ==== Sys2Proof/Laws/FitRings.lean ====
section
/-! SUPPORT. The operations of Rings.lean keep what `Fit` says. -/

namespace Sys2Proof.Machine

set_option linter.tactic.unusedName false

variable {Q : List Instr} {U : Was}

theorem discardDoorbell_fit (s : State) (fn : Nat) (named : Option Nat) (h0 : Fit Q U s) :
    Fit Q U (State.discardDoorbell s fn named) := by
  unfold State.discardDoorbell
  repeat' first
    | with_reducible assumption | with_reducible refine fit_ite ?_ ?_ | with_reducible apply mapChan_fit
    | exact fun _ _ hx => hx | intro _ | split | (refine fit_of ?_; dsimp only; refine fit_to ?_) | dsimp +zetaDelta only

theorem landAll_fit (s : State) (slot : Nat) (ring : Nat) (log2 : Nat) (from_ : Nat) (n : Nat) (elig : Nat) (at_ : Nat) (h0 : Fit Q U s) :
    Fit Q U (State.landAll s slot ring log2 from_ n elig at_) := by
  unfold State.landAll
  repeat' first
    | with_reducible assumption | with_reducible refine fit_ite ?_ ?_ | intro _
    | (extract_lets +onlyGivenNames z1; first | refine fit_cut z1 ?_ fun hz => ?_ | skip)
    | (refine fit_of ?_; dsimp only; refine fit_to ?_) | dsimp +zetaDelta only

theorem submissionTail_fit (s : State) (fn : Nat) (slot : Nat) (ring : Nat) (index : Nat) (cycle : Nat) (r : Ring) (h0 : Fit Q U s) :
    Fit Q U (State.submissionTail s fn slot ring index cycle r) := by
  unfold State.submissionTail
  repeat' first
    | with_reducible assumption | with_reducible refine fit_ite ?_ ?_ | with_reducible apply mapChan_fit
    | with_reducible apply discardDoorbell_fit | with_reducible apply landAll_fit | exact fun _ _ hx => hx | intro _
    | (extract_lets +onlyGivenNames z1; first | refine fit_cut z1 ?_ fun hz => ?_ | skip) | split
    | (refine fit_of ?_; dsimp only; refine fit_to ?_) | dsimp +zetaDelta only

theorem completionHead_fit (s : State) (fn : Nat) (slot : Nat) (ring : Nat) (index : Nat) (r : Ring) (h0 : Fit Q U s) :
    Fit Q U (State.completionHead s fn slot ring index r) := by
  unfold State.completionHead
  repeat' first
    | with_reducible assumption | with_reducible refine fit_ite ?_ ?_ | with_reducible apply mapChan_fit
    | with_reducible apply discardDoorbell_fit | exact fun _ _ hx => hx | intro _
    | (extract_lets +onlyGivenNames z1; first | refine fit_cut z1 ?_ fun hz => ?_ | skip) | split
    | (refine fit_of ?_; dsimp only; refine fit_to ?_) | dsimp +zetaDelta only

theorem doorbell_fit (s : State) (fn : Nat) (cycle : Nat) (size : Nat) (v : Nat) (h0 : Fit Q U s) :
    Fit Q U (State.doorbell s fn cycle size v) := by
  unfold State.doorbell
  repeat' first
    | with_reducible assumption | with_reducible refine fit_ite ?_ ?_ | with_reducible apply discardDoorbell_fit
    | with_reducible apply submissionTail_fit | with_reducible apply completionHead_fit | split
    | (refine fit_of ?_; dsimp only; refine fit_to ?_)

theorem refuseCmd_fit (s : State) (c : Cmd) (status : Nat) (offset : Nat) (buf : Nat) (h0 : Fit Q U s) :
    Fit Q U (State.refuseCmd s c status offset buf) := by
  unfold State.refuseCmd
  repeat' first
    | with_reducible assumption | with_reducible refine fit_ite ?_ ?_ | with_reducible apply mapAcct_fit
    | with_reducible apply settle_fit | intro _ | split | (refine fit_of ?_; dsimp only; refine fit_to ?_)
    | dsimp +zetaDelta only

theorem police_fit (s : State) (ch : Chan) (c : Cmd) (h0 : Fit Q U s) :
    Fit Q U (State.police s ch c) := by
  unfold State.police
  repeat' first
    | with_reducible assumption | with_reducible refine fit_ite ?_ ?_ | with_reducible apply mapChan_fit
    | with_reducible apply mapCmd_fit | with_reducible apply refuseCmd_fit | exact fun _ _ hx => hx | intro _
    | (extract_lets +onlyGivenNames z1; first | refine fit_cut z1 ?_ fun hz => ?_ | skip) | split
    | (refine fit_of ?_; dsimp only; refine fit_to ?_) | dsimp +zetaDelta only

theorem checkCmd_fit (s : State) (ch : Chan) (c : Cmd) (bufs : List Bytes) (h0 : Fit Q U s) :
    Fit Q U (State.checkCmd s ch c bufs) := by
  unfold State.checkCmd
  repeat' first
    | with_reducible assumption | with_reducible refine fit_ite ?_ ?_ | with_reducible apply refuseCmd_fit
    | with_reducible apply police_fit | split | (refine fit_of ?_; dsimp only; refine fit_to ?_)

theorem takeEntry_fit (s : State) (l : Landing) (op : Nat) (entry : Bytes) (bufs : Option (List Bytes)) (h0 : Fit Q U s) :
    Fit Q U (State.takeEntry s l op entry bufs).2 := by
  unfold State.takeEntry
  repeat' first
    | with_reducible assumption | with_reducible refine fit_ite ?_ ?_ | with_reducible apply mapChan_fit
    | with_reducible apply account_fit | exact fun _ _ hx => hx | intro _
    | (extract_lets +onlyGivenNames z1; first | refine fit_cut z1 ?_ fun hz => ?_ | skip)
    | (refine fit_of ?_; dsimp only; refine fit_to ?_) | dsimp +zetaDelta only

theorem land_fit (s : State) (op : Nat) (slot : Nat) (ring : Nat) (entry : Bytes) (bufs : Option (List Bytes)) (h0 : Fit Q U s) :
    Fit Q U (State.land s op slot ring entry bufs) := by
  unfold State.land
  repeat' first
    | with_reducible assumption | with_reducible refine fit_ite ?_ ?_ | with_reducible apply settle_fit
    | with_reducible apply refuseCmd_fit | with_reducible apply checkCmd_fit | with_reducible apply takeEntry_fit
    | (extract_lets +onlyGivenNames z1; first | refine fit_cut z1 ?_ fun hz => ?_ | refine fit_cut z1.1 ?_ fun hz => ?_ | refine fit_cut z1.2 ?_ fun hz => ?_ | skip)
    | split | (refine fit_of ?_; dsimp only; refine fit_to ?_) | dsimp +zetaDelta only

theorem bufferDone_fit (s : State) (slot : Nat) (ring : Nat) (pos : Nat) (bufs : List Bytes) (h0 : Fit Q U s) :
    Fit Q U (State.bufferDone s slot ring pos bufs) := by
  unfold State.bufferDone
  repeat' first
    | with_reducible assumption | with_reducible refine fit_ite ?_ ?_ | with_reducible apply account_fit
    | with_reducible apply mapCmd_fit | with_reducible apply checkCmd_fit | with_reducible apply land_fit | intro _
    | (extract_lets +onlyGivenNames z1; first | refine fit_cut z1 ?_ fun hz => ?_ | skip) | split
    | (refine fit_of ?_; dsimp only; refine fit_to ?_) | dsimp +zetaDelta only

theorem unsignal_fit (s : State) (slot : Nat) (ring : Nat) (h0 : Fit Q U s) :
    Fit Q U (State.unsignal s slot ring) := by
  unfold State.unsignal
  repeat' first
    | with_reducible assumption | with_reducible refine fit_ite ?_ ?_ | with_reducible apply mapChan_fit
    | exact fun _ _ hx => hx | intro _ | split | (refine fit_of ?_; dsimp only; refine fit_to ?_) | dsimp +zetaDelta only

theorem accessFailed_fit (s : State) (slot : Nat) (what : AccessFail) (h0 : Fit Q U s) :
    Fit Q U (State.accessFailed s slot what) := by
  unfold State.accessFailed
  repeat' first
    | with_reducible assumption | with_reducible refine fit_ite ?_ ?_ | with_reducible apply fault_fit
    | with_reducible apply write_fit | with_reducible apply refuseCmd_fit | with_reducible apply unsignal_fit | intro _ | split
    | (refine fit_of ?_; dsimp only; refine fit_to ?_) | dsimp +zetaDelta only

end Sys2Proof.Machine
end

