-- ==== Sys2Proof/Laws/FitAdmit.lean ====
section
/-! SUPPORT. The operations of Admit.lean keep what `Fit` says. -/

namespace Sys2Proof.Machine

set_option linter.tactic.unusedName false

variable {Q : List Instr} {U : Was}

theorem nextRoutes_fit (s : State) (h0 : Fit Q U s) :
    Fit Q U (State.nextRoutes s) := by
  unfold State.nextRoutes
  repeat' first
    | with_reducible assumption | with_reducible refine fit_ite ?_ ?_ | with_reducible apply install_fit
    | (refine fit_of ?_; dsimp only; refine fit_to ?_)

theorem sendUpd_fit (s : State) (slot : Nat) (seq : Nat) (h : Handle) (dst : Nat) (body : UpdBody) (h0 : Fit Q U s) :
    Fit Q U (State.sendUpd s slot seq h dst body) := by
  unfold State.sendUpd
  repeat' first
    | with_reducible assumption | with_reducible refine fit_ite ?_ ?_ | with_reducible apply send_fit
    | (refine fit_of ?_; dsimp only; refine fit_to ?_)

theorem sendNext_fit (s : State) (c : Cmd) (h : Handle) (x : Index) (nodes : List Nat) (body : UpdBody) (h0 : Fit Q U s) :
    Fit Q U (State.sendNext s c h x nodes body) := by
  unfold State.sendNext
  repeat' first
    | with_reducible assumption | with_reducible refine fit_ite ?_ ?_ | with_reducible apply send_fit
    | with_reducible refine fit_foldl ?_ ?_ | with_reducible refine fit_foldl1 ?_ ?_
    | with_reducible refine fit_foldlOf AdmitRun.st ?_ ?_ | intro _ | split | (refine fit_of ?_; dsimp only; refine fit_to ?_)
    | dsimp +zetaDelta only

theorem sendRegions_fit (s : State) (c : Cmd) (h : Handle) (regions : List Nat) (body : UpdBody) (row : Option (Key × Bytes)) (h0 : Fit Q U s) :
    Fit Q U (State.sendRegions s c h regions body row) := by
  unfold State.sendRegions
  repeat' first
    | with_reducible assumption | with_reducible refine fit_ite ?_ ?_ | with_reducible apply mapCmd_fit
    | with_reducible apply land_fit | with_reducible apply nextRoutes_fit | with_reducible apply sendUpd_fit
    | with_reducible refine fit_foldl ?_ ?_ | with_reducible refine fit_foldl1 ?_ ?_
    | with_reducible refine fit_foldlOf AdmitRun.st ?_ ?_ | intro _
    | (extract_lets +onlyGivenNames z1; first | refine fit_cut z1 ?_ fun hz => ?_ | refine fit_cut z1.1 ?_ fun hz => ?_ | refine fit_cut z1.2 ?_ fun hz => ?_ | skip)
    | split | (refine fit_of ?_; dsimp only; refine fit_to ?_) | dsimp +zetaDelta only

theorem countClipped_fit (s : State) (slot : Nat) (h : Handle) (kind : Nat) (n : Nat) (h0 : Fit Q U s) :
    Fit Q U (State.countClipped s slot h kind n) := by
  unfold State.countClipped
  repeat' first
    | with_reducible assumption | with_reducible refine fit_ite ?_ ?_ | intro _ | split
    | (refine fit_of ?_; dsimp only; refine fit_to ?_) | dsimp +zetaDelta only

theorem sendApply_fit (s : State) (c : Cmd) (t : Table) (h0 : Fit Q U s) :
    Fit Q U (State.sendApply s c t) := by
  unfold State.sendApply
  repeat' first
    | with_reducible assumption | with_reducible refine fit_ite ?_ ?_ | with_reducible apply mapCmd_fit
    | with_reducible apply land_fit | with_reducible apply nextRoutes_fit | with_reducible apply sendUpd_fit
    | with_reducible apply countClipped_fit | with_reducible refine fit_foldl ?_ ?_ | with_reducible refine fit_foldl1 ?_ ?_
    | with_reducible refine fit_foldlOf AdmitRun.st ?_ ?_ | intro _
    | (extract_lets +onlyGivenNames z1; first | refine fit_cut z1 ?_ fun hz => ?_ | refine fit_cut z1.1 ?_ fun hz => ?_ | refine fit_cut z1.2 ?_ fun hz => ?_ | skip)
    | (refine fit_of ?_; dsimp only; refine fit_to ?_) | dsimp +zetaDelta only

theorem sendReplace_fit (s : State) (c : Cmd) (t : Table) (h0 : Fit Q U s) :
    Fit Q U (State.sendReplace s c t) := by
  unfold State.sendReplace
  repeat' first
    | with_reducible assumption | with_reducible refine fit_ite ?_ ?_ | with_reducible apply mapCmd_fit
    | with_reducible apply land_fit | with_reducible apply nextRoutes_fit | with_reducible apply sendUpd_fit
    | with_reducible refine fit_foldl ?_ ?_ | with_reducible refine fit_foldl1 ?_ ?_
    | with_reducible refine fit_foldlOf AdmitRun.st ?_ ?_ | intro _
    | (extract_lets +onlyGivenNames z1; first | refine fit_cut z1 ?_ fun hz => ?_ | refine fit_cut z1.1 ?_ fun hz => ?_ | refine fit_cut z1.2 ?_ fun hz => ?_ | skip)
    | (refine fit_of ?_; dsimp only; refine fit_to ?_) | dsimp +zetaDelta only

theorem sendEdits_fit (s0 : State) (c : Cmd) (set : AllowSet) (h0 : Fit Q U s0) :
    Fit Q U (State.sendEdits s0 c set) := by
  unfold State.sendEdits
  repeat' first
    | with_reducible assumption | with_reducible refine fit_ite ?_ ?_ | with_reducible apply mapCmd_fit
    | with_reducible apply land_fit | with_reducible apply nextRoutes_fit | with_reducible apply sendUpd_fit
    | with_reducible apply sendNext_fit | with_reducible refine fit_foldl ?_ ?_ | with_reducible refine fit_foldl1 ?_ ?_
    | with_reducible refine fit_foldlOf AdmitRun.st ?_ ?_ | intro _
    | (extract_lets +onlyGivenNames z1; first | refine fit_cut z1 ?_ fun hz => ?_ | refine fit_cut z1.1 ?_ fun hz => ?_ | refine fit_cut z1.2 ?_ fun hz => ?_ | skip)
    | split | (refine fit_of ?_; dsimp only; refine fit_to ?_) | dsimp +zetaDelta only

theorem sendUpsert_fit (s : State) (c : Cmd) (x : Index) (h0 : Fit Q U s) :
    Fit Q U (State.sendUpsert s c x) := by
  unfold State.sendUpsert
  repeat' first
    | with_reducible assumption | with_reducible refine fit_ite ?_ ?_ | with_reducible apply mapCmd_fit
    | with_reducible apply settle_fit | with_reducible apply cutCmd_fit | with_reducible apply land_fit
    | with_reducible apply sendNext_fit | with_reducible apply sendRegions_fit | with_reducible apply countClipped_fit | intro _
    | (extract_lets +onlyGivenNames z1; first | refine fit_cut z1 ?_ fun hz => ?_ | refine fit_cut z1.1 ?_ fun hz => ?_ | refine fit_cut z1.2 ?_ fun hz => ?_ | skip)
    | split | (refine fit_of ?_; dsimp only; refine fit_to ?_) | dsimp +zetaDelta only

theorem deferCmd_fit (s : State) (c : Cmd) (h0 : Fit Q U s) :
    Fit Q U (State.deferCmd s c) := by
  unfold State.deferCmd
  repeat' first
    | with_reducible assumption | with_reducible refine fit_ite ?_ ?_ | with_reducible apply mapCmd_fit
    | with_reducible apply refuseCmd_fit | with_reducible apply land_fit | intro _ | split
    | (refine fit_of ?_; dsimp only; refine fit_to ?_) | dsimp +zetaDelta only

theorem begin_fit (s : State) (c : Cmd) (h0 : Fit Q U s) :
    Fit Q U (State.begin s c) := by
  unfold State.begin
  repeat' first
    | with_reducible assumption | with_reducible refine fit_ite ?_ ?_ | with_reducible apply settle_fit
    | with_reducible apply land_fit | with_reducible apply sendNext_fit | with_reducible apply sendRegions_fit
    | with_reducible apply sendApply_fit | with_reducible apply sendReplace_fit | with_reducible apply sendEdits_fit
    | (extract_lets +onlyGivenNames z1; first | refine fit_cut z1 ?_ fun hz => ?_ | skip) | split
    | (refine fit_of ?_; dsimp only; refine fit_to ?_) | dsimp +zetaDelta only

theorem admitCmd_fit (s : State) (c : Cmd) (charges : List Nat) (h0 : Fit Q U s)
    (hc : ∀ x, tget s.chans c.slot = some x → leL (addL x.homeUsed charges) x.shares = true) :
    Fit Q U (State.admitCmd s c charges) := by
  unfold State.admitCmd
  dsimp only
  apply begin_fit
  apply mirrorOut_fit
  apply mapCmd_fit
  refine fit_of ?_
  dsimp only
  refine fit_to ?_
  apply mapAcct_fit
  exact mapChan_fit _ _ _ h0 fun x e hx => ⟨hc x e, hx.2⟩

theorem admitOne_fit (r : AdmitRun) (c : Cmd) (h0 : Fit Q U r.st) :
    Fit Q U (State.admitOne r c).st := by
  unfold State.admitOne
  dsimp only
  refine fit_iteOf AdmitRun.st h0 (fit_iteOf AdmitRun.st (deferCmd_fit _ _ h0) (fit_iteOf AdmitRun.st (deferCmd_fit _ _ h0)
    (fit_iteOf AdmitRun.st (refuseCmd_fit _ _ _ _ _ h0) ?_)))
  split
  · exact h0
  · rename_i ch e
    split
    · rename_i hle
      refine admitCmd_fit _ _ _ h0 fun x hx => ?_
      rw [hx] at e
      cases e
      exact hle
    · exact deferCmd_fit _ _ h0

theorem admitRings_fit (s : State) (slot : Nat) (h0 : Fit Q U s) :
    Fit Q U (State.admitRings s slot) := by
  unfold State.admitRings
  repeat' first
    | with_reducible assumption | with_reducible refine fit_ite ?_ ?_ | with_reducible apply admitOne_fit
    | with_reducible refine fit_foldl ?_ ?_ | with_reducible refine fit_foldl1 ?_ ?_
    | with_reducible refine fit_foldlOf AdmitRun.st ?_ ?_ | intro _ | split | (refine fit_of ?_; dsimp only; refine fit_to ?_)
    | dsimp +zetaDelta only

theorem deferAll_fit (s : State) (slot : Nat) (h0 : Fit Q U s) :
    Fit Q U (State.deferAll s slot) := by
  unfold State.deferAll
  repeat' first
    | with_reducible assumption | with_reducible refine fit_ite ?_ ?_ | with_reducible apply deferCmd_fit
    | with_reducible refine fit_foldl ?_ ?_ | with_reducible refine fit_foldl1 ?_ ?_
    | with_reducible refine fit_foldlOf AdmitRun.st ?_ ?_ | intro _ | split | (refine fit_of ?_; dsimp only; refine fit_to ?_)
    | dsimp +zetaDelta only

theorem deferReading_fit (s : State) (slot : Nat) (h0 : Fit Q U s) :
    Fit Q U (State.deferReading s slot) := by
  unfold State.deferReading
  repeat' first
    | with_reducible assumption | with_reducible refine fit_ite ?_ ?_ | with_reducible apply land_fit
    | with_reducible apply deferCmd_fit | with_reducible refine fit_foldl ?_ ?_ | with_reducible refine fit_foldl1 ?_ ?_
    | with_reducible refine fit_foldlOf AdmitRun.st ?_ ?_ | intro _ | split | (refine fit_of ?_; dsimp only; refine fit_to ?_)
    | dsimp +zetaDelta only

theorem admitWindow_fit (s : State) (e : EaselEntry) (h0 : Fit Q U s) :
    Fit Q U (State.admitWindow s e) := by
  unfold State.admitWindow
  repeat' first
    | with_reducible assumption | with_reducible refine fit_ite ?_ ?_ | with_reducible apply admitRings_fit | split
    | (refine fit_of ?_; dsimp only; refine fit_to ?_)

end Sys2Proof.Machine
end

