-- ==== Sys2Proof/Laws/FitArrays.lean ====
section
/-! SUPPORT. The operations of Arrays.lean keep what `Fit` says. -/

namespace Sys2Proof.Machine

set_option linter.tactic.unusedName false

variable {Q : List Instr} {U : Was}

theorem arrayWork_fit (s : State) (e : EaselEntry) (slot : Nat) (jobs : List Job) (h0 : Fit Q U s) :
    Fit Q U (State.arrayWork s e slot jobs) := by
  unfold State.arrayWork
  repeat' first
    | with_reducible assumption | with_reducible refine fit_ite ?_ ?_ | with_reducible apply account_fit | intro _
    | (extract_lets +onlyGivenNames z1; first | refine fit_cut z1 ?_ fun hz => ?_ | skip) | split
    | (refine fit_of ?_; dsimp only; refine fit_to ?_) | dsimp +zetaDelta only

end Sys2Proof.Machine
end

