-- ==== Sys2Proof/Laws/FitStacks.lean ====
section
/-! SUPPORT. The operations of Stacks.lean keep what `Fit` says. -/

namespace Sys2Proof.Machine

set_option linter.tactic.unusedName false

variable {Q : List Instr} {U : Was}

theorem countWord_fit (s : State) (da : Nat) (h0 : Fit Q U s) :
    Fit Q U (State.countWord s da) := by
  unfold State.countWord
  repeat' first
    | with_reducible assumption | with_reducible refine fit_ite ?_ ?_ | with_reducible apply faultRecord_fit
    | with_reducible apply selfSuspect_fit | (extract_lets +onlyGivenNames z1; first | refine fit_cut z1 ?_ fun hz => ?_ | skip)
    | split | (refine fit_of ?_; dsimp only; refine fit_to ?_) | dsimp +zetaDelta only

theorem keepLost_fit (s : State) (slot : Nat) (w : LostWord) (h0 : Fit Q U s) :
    Fit Q U (State.keepLost s slot w) := by
  unfold State.keepLost
  repeat' first
    | with_reducible assumption | with_reducible refine fit_ite ?_ ?_ | with_reducible apply announce_fit | intro _
    | (extract_lets +onlyGivenNames z1; first | refine fit_cut z1 ?_ fun hz => ?_ | skip) | split
    | (refine fit_of ?_; dsimp only; refine fit_to ?_) | dsimp +zetaDelta only

theorem wordLost_fit (s : State) (da : Nat) (h0 : Fit Q U s) :
    Fit Q U (State.wordLost s da) := by
  unfold State.wordLost
  repeat' first
    | with_reducible assumption | with_reducible refine fit_ite ?_ ?_ | with_reducible apply free_fit
    | with_reducible apply logAdd_fit | with_reducible apply faultRecord_fit | with_reducible apply countWord_fit
    | with_reducible apply keepLost_fit | with_reducible refine fit_foldl ?_ ?_ | with_reducible refine fit_foldl1 ?_ ?_
    | intro _ | (extract_lets +onlyGivenNames z1; first | refine fit_cut z1 ?_ fun hz => ?_ | skip) | split
    | (refine fit_of ?_; dsimp only; refine fit_to ?_) | dsimp +zetaDelta only

theorem wordMet_fit (s : State) (slot : Nat) (w : LostWord) (h0 : Fit Q U s) :
    Fit Q U (State.wordMet s slot w) := by
  unfold State.wordMet
  repeat' first
    | with_reducible assumption | with_reducible refine fit_ite ?_ ?_ | with_reducible apply logAdd_fit
    | with_reducible apply faultRecordOf_fit | with_reducible apply countWord_fit | with_reducible apply keepLost_fit | intro _
    | split | (refine fit_of ?_; dsimp only; refine fit_to ?_) | dsimp +zetaDelta only

theorem meetFaults_fit (s : State) (slot : Nat) (rf : ReadFaults) (h0 : Fit Q U s) :
    Fit Q U (State.meetFaults s slot rf) := by
  unfold State.meetFaults
  repeat' first
    | with_reducible assumption | with_reducible refine fit_ite ?_ ?_ | with_reducible apply wordMet_fit
    | with_reducible refine fit_foldl ?_ ?_ | with_reducible refine fit_foldl1 ?_ ?_ | intro _
    | (refine fit_of ?_; dsimp only; refine fit_to ?_) | dsimp +zetaDelta only

theorem restorePieces_fit (s : State) (mine : Nat → Bool) (h0 : Fit Q U s) :
    Fit Q U (State.restorePieces s mine) := by
  unfold State.restorePieces
  repeat' first
    | with_reducible assumption | with_reducible refine fit_ite ?_ ?_ | with_reducible refine fit_foldl ?_ ?_
    | with_reducible refine fit_foldl1 ?_ ?_ | intro _
    | (extract_lets +onlyGivenNames z1; first | refine fit_cut z1 ?_ fun hz => ?_ | refine fit_cut z1.1 ?_ fun hz => ?_ | refine fit_cut z1.2 ?_ fun hz => ?_ | skip)
    | split | (refine fit_of ?_; dsimp only; refine fit_to ?_) | dsimp +zetaDelta only

theorem publishRestored_fit (s : State) (h0 : Fit Q U s) :
    Fit Q U (State.publishRestored s) := by
  unfold State.publishRestored
  repeat' first
    | with_reducible assumption | with_reducible refine fit_ite ?_ ?_ | intro _
    | (refine fit_of ?_; dsimp only; refine fit_to ?_) | dsimp +zetaDelta only

theorem twinMismatch_fit (s : State) (da : Nat) (h0 : Fit Q U s) :
    Fit Q U (State.twinMismatch s da) := by
  unfold State.twinMismatch
  repeat' first
    | with_reducible assumption | with_reducible refine fit_ite ?_ ?_ | with_reducible apply faultRecordOf_fit
    | with_reducible apply raiseChan_fit | with_reducible apply countWord_fit
    | (extract_lets +onlyGivenNames z1; first | refine fit_cut z1 ?_ fun hz => ?_ | skip) | split
    | (refine fit_of ?_; dsimp only; refine fit_to ?_) | dsimp +zetaDelta only

theorem readChunk_fit (s : State) (key : Nat) (chunk : Nat) (h0 : Fit Q U s) :
    Fit Q U (State.readChunk s key chunk) := by
  unfold State.readChunk
  repeat' first
    | with_reducible assumption | with_reducible refine fit_ite ?_ ?_ | with_reducible apply twinMismatch_fit
    | (extract_lets +onlyGivenNames z1; first | refine fit_cut z1 ?_ fun hz => ?_ | skip) | split
    | (refine fit_of ?_; dsimp only; refine fit_to ?_) | dsimp +zetaDelta only

theorem touch_fit (s : State) (key : Nat) (row : Nat) (h0 : Fit Q U s) :
    Fit Q U (State.touch s key row) := by
  unfold State.touch
  repeat' first
    | with_reducible assumption | with_reducible refine fit_ite ?_ ?_ | with_reducible apply readChunk_fit
    | (extract_lets +onlyGivenNames z1; first | refine fit_cut z1 ?_ fun hz => ?_ | skip) | split
    | (refine fit_of ?_; dsimp only; refine fit_to ?_) | dsimp +zetaDelta only

theorem rebuilt_fit (s : State) (key : Nat) (chunk : Nat) (h0 : Fit Q U s) :
    Fit Q U (State.rebuilt s key chunk) := by
  unfold State.rebuilt
  repeat' first
    | with_reducible assumption | with_reducible refine fit_ite ?_ ?_ | with_reducible apply logAdd_fit | intro _
    | (extract_lets +onlyGivenNames z1; first | refine fit_cut z1 ?_ fun hz => ?_ | refine fit_cut z1.1 ?_ fun hz => ?_ | refine fit_cut z1.2 ?_ fun hz => ?_ | skip)
    | split | (refine fit_of ?_; dsimp only; refine fit_to ?_) | dsimp +zetaDelta only

theorem nbRefuse_fit (s : State) (op : Nat) (da : Nat) (h0 : Fit Q U s) :
    Fit Q U (State.nbRefuse s op da) := by
  unfold State.nbRefuse
  repeat' first
    | with_reducible assumption | with_reducible refine fit_ite ?_ ?_ | with_reducible apply logAdd_fit
    | with_reducible apply selfSuspect_fit | (extract_lets +onlyGivenNames z1; first | refine fit_cut z1 ?_ fun hz => ?_ | skip)
    | (refine fit_of ?_; dsimp only; refine fit_to ?_) | dsimp +zetaDelta only

end Sys2Proof.Machine
end

