-- ==== Sys2Proof/Laws/FitHome.lean ====
section
/-! SUPPORT. The operations of Home.lean keep what `Fit` says. -/

namespace Sys2Proof.Machine

set_option linter.tactic.unusedName false

variable {Q : List Instr} {U : Was}

theorem reissue_fit (s : State) (c : Cmd) (q : Query) (a : IndexAttr) (t : State) (h : s.reissue c q a = some t)
    (h0 : Fit Q U s) : Fit Q U t := by
  unfold State.reissue at h
  dsimp only at h
  split at h
  · cases h
  · rename_i x e
    split at h
    · rename_i hg
      cases h
      with_reducible apply mapCmd_fit
      refine fit_of ?_
      dsimp only
      simp only [Bool.and_eq_true] at hg
      exact fit_to (mapChan_fit _ _ _ h0 fun y hy hw => by
        rw [hy] at e; cases e; exact withinShares_reissue hg.2 hw)
    · cases h

theorem mapQuery_fit (s : State) (land : Nat) (f : Query → Query) (h0 : Fit Q U s) :
    Fit Q U (State.mapQuery s land f) := by
  unfold State.mapQuery
  repeat' first
    | with_reducible assumption | with_reducible refine fit_ite ?_ ?_ | with_reducible apply mapCmd_fit
    | with_reducible apply land_fit | intro _ | (refine fit_of ?_; dsimp only; refine fit_to ?_) | dsimp +zetaDelta only

theorem routeQuery_fit (s : State) (c : Cmd) (q : Query) (h0 : Fit Q U s) :
    Fit Q U (State.routeQuery s c q) := by
  unfold State.routeQuery
  repeat' first
    | with_reducible assumption | with_reducible refine fit_ite ?_ ?_ | with_reducible apply cutCmd_fit
    | with_reducible apply mediaCmd_fit | with_reducible apply land_fit | with_reducible apply mapQuery_fit | intro _
    | (extract_lets +onlyGivenNames z1; first | refine fit_cut z1 ?_ fun hz => ?_ | skip) | split
    | (refine fit_of ?_; dsimp only; refine fit_to ?_) | dsimp +zetaDelta only

theorem route1_fit (s : State) (e : EaselEntry) (h0 : Fit Q U s) :
    Fit Q U (State.route1 s e) := by
  unfold State.route1
  repeat' first
    | with_reducible assumption | with_reducible refine fit_ite ?_ ?_ | with_reducible apply cutCmd_fit
    | with_reducible apply mediaCmd_fit | with_reducible apply sendUpsert_fit | with_reducible apply arrayWork_fit
    | with_reducible apply routeQuery_fit | with_reducible refine fit_foldl ?_ ?_ | with_reducible refine fit_foldl1 ?_ ?_
    | intro _
    | (extract_lets +onlyGivenNames z1; first | refine fit_cut z1 ?_ fun hz => ?_ | refine fit_cut z1.1 ?_ fun hz => ?_ | refine fit_cut z1.2 ?_ fun hz => ?_ | skip)
    | split | (refine fit_of ?_; dsimp only; refine fit_to ?_) | dsimp +zetaDelta only

theorem scatterTo_fit (s : State) (c : Cmd) (q : Query) (o : Nat × List Nat) (h0 : Fit Q U s) :
    Fit Q U (State.scatterTo s c q o) := by
  unfold State.scatterTo
  repeat' first
    | with_reducible assumption | with_reducible refine fit_ite ?_ ?_ | with_reducible apply send_fit | intro _
    | (refine fit_of ?_; dsimp only; refine fit_to ?_) | dsimp +zetaDelta only

theorem scatterSome_fit (s : State) (e : EaselEntry) (c : Cmd) (q : Query) (h0 : Fit Q U s) :
    Fit Q U (State.scatterSome s e c q) := by
  unfold State.scatterSome
  repeat' first
    | with_reducible assumption | with_reducible refine fit_ite ?_ ?_ | with_reducible apply land_fit
    | with_reducible apply mapQuery_fit | with_reducible apply scatterTo_fit | with_reducible refine fit_foldl ?_ ?_
    | with_reducible refine fit_foldl1 ?_ ?_ | intro _
    | (extract_lets +onlyGivenNames z1; first | refine fit_cut z1 ?_ fun hz => ?_ | refine fit_cut z1.1 ?_ fun hz => ?_ | skip)
    | (refine fit_of ?_; dsimp only; refine fit_to ?_) | dsimp +zetaDelta only

theorem scatterQuery_fit (s : State) (e : EaselEntry) (c : Cmd) (q : Query) (h0 : Fit Q U s) :
    Fit Q U (State.scatterQuery s e c q) := by
  unfold State.scatterQuery
  repeat' first
    | with_reducible assumption | with_reducible refine fit_ite ?_ ?_ | with_reducible apply plan_fit
    | with_reducible apply cutCmd_fit | with_reducible apply land_fit | with_reducible apply countClipped_fit
    | with_reducible apply mapQuery_fit | with_reducible apply scatterSome_fit | intro _
    | (extract_lets +onlyGivenNames z1; first | refine fit_cut z1 ?_ fun hz => ?_ | refine fit_cut z1.1 ?_ fun hz => ?_ | refine fit_cut z1.2 ?_ fun hz => ?_ | skip)
    | split | (refine fit_of ?_; dsimp only; refine fit_to ?_) | dsimp +zetaDelta only

theorem scatterWindow_fit (s : State) (e : EaselEntry) (h0 : Fit Q U s) :
    Fit Q U (State.scatterWindow s e) := by
  unfold State.scatterWindow
  repeat' first
    | with_reducible assumption | with_reducible refine fit_ite ?_ ?_ | with_reducible apply scatterSome_fit
    | with_reducible apply scatterQuery_fit | with_reducible refine fit_foldl ?_ ?_ | with_reducible refine fit_foldl1 ?_ ?_
    | intro _
    | (extract_lets +onlyGivenNames z1; first | refine fit_cut z1 ?_ fun hz => ?_ | refine fit_cut z1.1 ?_ fun hz => ?_ | refine fit_cut z1.2 ?_ fun hz => ?_ | skip)
    | (refine fit_of ?_; dsimp only; refine fit_to ?_) | dsimp +zetaDelta only

theorem sendReranks_fit (s : State) (c : Cmd) (again : Bool) (l : List (Nat × List Cand)) (h0 : Fit Q U s) :
    Fit Q U (State.sendReranks s c again l) := by
  unfold State.sendReranks
  repeat' first
    | with_reducible assumption | with_reducible refine fit_ite ?_ ?_ | with_reducible apply send_fit
    | with_reducible refine fit_foldl ?_ ?_ | with_reducible refine fit_foldl1 ?_ ?_ | intro _
    | (refine fit_of ?_; dsimp only; refine fit_to ?_) | dsimp +zetaDelta only

theorem nominateLater_fit (s : State) (n : Nat) (c : Cmd) (h0 : Fit Q U s) :
    Fit Q U (State.nominateLater s n c) := by
  unfold State.nominateLater
  repeat' first
    | with_reducible assumption | with_reducible refine fit_ite ?_ ?_ | with_reducible apply cutCmd_fit
    | with_reducible apply cutEvent_fit | split | (refine fit_of ?_; dsimp only; refine fit_to ?_)

theorem nominateNow_fit (s : State) (n : Nat) (e : EaselEntry) (c : Cmd) (q : Query) (h0 : Fit Q U s) :
    Fit Q U (State.nominateNow s n e c q) := by
  unfold State.nominateNow
  repeat' first
    | with_reducible assumption | with_reducible refine fit_ite ?_ ?_ | with_reducible apply land_fit
    | with_reducible apply mapQuery_fit | with_reducible apply sendReranks_fit | with_reducible apply nominateLater_fit
    | intro _
    | (extract_lets +onlyGivenNames z1; first | refine fit_cut z1 ?_ fun hz => ?_ | refine fit_cut z1.1 ?_ fun hz => ?_ | refine fit_cut z1.2 ?_ fun hz => ?_ | skip)
    | split | (refine fit_of ?_; dsimp only; refine fit_to ?_) | dsimp +zetaDelta only
  rename_i heq
  split at heq
  · split at heq
    · exact reissue_fit _ _ _ _ _ heq h0
    · cases heq
  · cases heq

theorem nominateQuery_fit (s : State) (n : Nat) (e : EaselEntry) (c : Cmd) (q : Query) (h0 : Fit Q U s) :
    Fit Q U (State.nominateQuery s n e c q) := by
  unfold State.nominateQuery
  repeat' first
    | with_reducible assumption | with_reducible refine fit_ite ?_ ?_ | with_reducible apply cutCmd_fit
    | with_reducible apply land_fit | with_reducible apply mapQuery_fit | with_reducible apply nominateNow_fit | intro _
    | (extract_lets +onlyGivenNames z1; first | refine fit_cut z1 ?_ fun hz => ?_ | refine fit_cut z1.1 ?_ fun hz => ?_ | skip)
    | split | (refine fit_of ?_; dsimp only; refine fit_to ?_) | dsimp +zetaDelta only

theorem nominateWindow_fit (s : State) (n : Nat) (e : EaselEntry) (h0 : Fit Q U s) :
    Fit Q U (State.nominateWindow s n e) := by
  unfold State.nominateWindow
  repeat' first
    | with_reducible assumption | with_reducible refine fit_ite ?_ ?_ | with_reducible apply coreFree_fit
    | with_reducible apply nominateQuery_fit | with_reducible refine fit_foldl ?_ ?_ | with_reducible refine fit_foldl1 ?_ ?_
    | intro _ | (refine fit_of ?_; dsimp only; refine fit_to ?_) | dsimp +zetaDelta only

theorem deliverNow_fit (s : State) (c : Cmd) (q : Query) (h0 : Fit Q U s) :
    Fit Q U (State.deliverNow s c q) := by
  unfold State.deliverNow
  repeat' first
    | with_reducible assumption | with_reducible refine fit_ite ?_ ?_ | with_reducible apply settle_fit
    | with_reducible apply land_fit | (extract_lets +onlyGivenNames z1; first | refine fit_cut z1 ?_ fun hz => ?_ | skip)
    | split | (refine fit_of ?_; dsimp only; refine fit_to ?_) | dsimp +zetaDelta only

theorem deliverQuery_fit (s : State) (c : Cmd) (q : Query) (h0 : Fit Q U s) :
    Fit Q U (State.deliverQuery s c q) := by
  unfold State.deliverQuery
  repeat' first
    | with_reducible assumption | with_reducible refine fit_ite ?_ ?_ | with_reducible apply cutCmd_fit
    | with_reducible apply land_fit | with_reducible apply mapQuery_fit | with_reducible apply sendReranks_fit
    | with_reducible apply deliverNow_fit | intro _
    | (extract_lets +onlyGivenNames z1; first | refine fit_cut z1 ?_ fun hz => ?_ | refine fit_cut z1.1 ?_ fun hz => ?_ | refine fit_cut z1.2 ?_ fun hz => ?_ | skip)
    | split | (refine fit_of ?_; dsimp only; refine fit_to ?_) | dsimp +zetaDelta only

theorem deliverWindow_fit (s : State) (e : EaselEntry) (h0 : Fit Q U s) :
    Fit Q U (State.deliverWindow s e) := by
  unfold State.deliverWindow
  repeat' first
    | with_reducible assumption | with_reducible refine fit_ite ?_ ?_ | with_reducible apply coreFree_fit
    | with_reducible apply deliverQuery_fit | with_reducible refine fit_foldl ?_ ?_ | with_reducible refine fit_foldl1 ?_ ?_
    | intro _ | (refine fit_of ?_; dsimp only; refine fit_to ?_) | dsimp +zetaDelta only

end Sys2Proof.Machine
end

