-- ==== Sys2Proof/Laws/FitOwner.lean ====
section
/-! SUPPORT. The operations of Owner.lean keep what `Fit` says. -/

namespace Sys2Proof.Machine

set_option linter.tactic.unusedName false

variable {Q : List Instr} {U : Was}

theorem mapOwner_fit (s : State) (q : OwnerQ) (f : OwnerQ → OwnerQ) (h0 : Fit Q U s) :
    Fit Q U (State.mapOwner s q f) := by
  unfold State.mapOwner
  repeat' first
    | with_reducible assumption | with_reducible refine fit_ite ?_ ?_ | intro _ | split
    | (refine fit_of ?_; dsimp only; refine fit_to ?_) | dsimp +zetaDelta only

theorem post_fit (s : State) (dst : Nat) (slot : Nat) (m : Msg) (h0 : Fit Q U s) :
    Fit Q U (State.post s dst slot m) := by
  unfold State.post
  repeat' first
    | with_reducible assumption | with_reducible refine fit_ite ?_ ?_ | (refine fit_of ?_; dsimp only; refine fit_to ?_)

theorem routeLists_fit (s : State) (q : OwnerQ) (h0 : Fit Q U s) :
    Fit Q U (State.routeLists s q) := by
  unfold State.routeLists
  repeat' first
    | with_reducible assumption | with_reducible refine fit_ite ?_ ?_ | with_reducible apply mapOwner_fit | intro _
    | (extract_lets +onlyGivenNames z1; first | refine fit_cut z1 ?_ fun hz => ?_ | refine fit_cut z1.1 ?_ fun hz => ?_ | refine fit_cut z1.2 ?_ fun hz => ?_ | skip)
    | split | (refine fit_of ?_; dsimp only; refine fit_to ?_) | dsimp +zetaDelta only

theorem route2_fit (s : State) (e : EaselEntry) (h0 : Fit Q U s) :
    Fit Q U (State.route2 s e) := by
  unfold State.route2
  repeat' first
    | with_reducible assumption | with_reducible refine fit_ite ?_ ?_ | with_reducible apply arrayWork_fit
    | with_reducible apply routeLists_fit | with_reducible refine fit_foldl ?_ ?_ | with_reducible refine fit_foldl1 ?_ ?_
    | with_reducible refine fit_foldlOf ScanRun.st ?_ ?_ | with_reducible refine fit_foldlOf PlanRun.st ?_ ?_
    | with_reducible refine fit_foldlOf1 PlanRun.st ?_ ?_ | intro _
    | (extract_lets +onlyGivenNames z1; first | refine fit_cut z1 ?_ fun hz => ?_ | skip)
    | (refine fit_of ?_; dsimp only; refine fit_to ?_) | dsimp +zetaDelta only

theorem scanOne_fit (x : Index) (key : Nat) (units : Option (Nat × List Nat)) (r : ScanRun) (p : Probe) (h0 : Fit Q U r.st) :
    Fit Q U (scanOne x key units r p).st := by
  unfold scanOne
  repeat' first
    | with_reducible assumption | with_reducible refine fit_ite ?_ ?_ | with_reducible apply mapIndex_fit
    | with_reducible apply readChunk_fit | with_reducible refine fit_foldl ?_ ?_ | with_reducible refine fit_foldl1 ?_ ?_
    | with_reducible refine fit_foldlOf ScanRun.st ?_ ?_ | with_reducible refine fit_foldlOf PlanRun.st ?_ ?_
    | with_reducible refine fit_foldlOf1 PlanRun.st ?_ ?_ | intro _
    | (extract_lets +onlyGivenNames z1; first | refine fit_cut z1 ?_ fun hz => ?_ | refine fit_cut z1.1 ?_ fun hz => ?_ | refine fit_cut z1.2 ?_ fun hz => ?_ | refine fit_cut z1.st ?_ fun hz => ?_ | skip)
    | split | (refine fit_of ?_; dsimp only; refine fit_to ?_) | dsimp +zetaDelta only

theorem countPasses_fit (s : State) (slot : Nat) (ps : List ScanPart) (h0 : Fit Q U s) :
    Fit Q U (State.countPasses s slot ps) := by
  unfold State.countPasses
  repeat' first
    | with_reducible assumption | with_reducible refine fit_ite ?_ ?_ | with_reducible apply account_fit | intro _
    | (extract_lets +onlyGivenNames z1; first | refine fit_cut z1 ?_ fun hz => ?_ | refine fit_cut z1.1 ?_ fun hz => ?_ | refine fit_cut z1.2 ?_ fun hz => ?_ | skip)
    | (refine fit_of ?_; dsimp only; refine fit_to ?_) | dsimp +zetaDelta only

theorem sendCands_fit (s : State) (q : OwnerQ) (covered : List (Nat × Bool)) (unscanned : Nat) (cutOff : Bool) (cands : List Cand) (h0 : Fit Q U s) :
    Fit Q U (State.sendCands s q covered unscanned cutOff cands) := by
  unfold State.sendCands
  repeat' first
    | with_reducible assumption | with_reducible refine fit_ite ?_ ?_ | with_reducible apply mapOwner_fit
    | with_reducible apply post_fit | intro _ | (refine fit_of ?_; dsimp only; refine fit_to ?_) | dsimp +zetaDelta only

theorem scanQuery_fit (entry : Nat) (r0 : State × List ScanPart) (q0 : OwnerQ) (h0 : Fit Q U r0.1) :
    Fit Q U (State.scanQuery entry r0 q0).1 := by
  unfold State.scanQuery
  repeat' first
    | with_reducible assumption | with_reducible refine fit_ite ?_ ?_ | with_reducible apply mapChan_fit
    | with_reducible apply scanOne_fit | with_reducible apply sendCands_fit | exact fun _ _ hx => hx
    | with_reducible refine fit_foldl ?_ ?_ | with_reducible refine fit_foldl1 ?_ ?_
    | with_reducible refine fit_foldlOf ScanRun.st ?_ ?_ | with_reducible refine fit_foldlOf PlanRun.st ?_ ?_
    | with_reducible refine fit_foldlOf1 PlanRun.st ?_ ?_ | intro _
    | (extract_lets +onlyGivenNames z1; first | refine fit_cut z1 ?_ fun hz => ?_ | refine fit_cut z1.1 ?_ fun hz => ?_ | refine fit_cut z1.2 ?_ fun hz => ?_ | refine fit_cut z1.st ?_ fun hz => ?_ | skip)
    | split | (refine fit_of ?_; dsimp only; refine fit_to ?_) | dsimp +zetaDelta only

theorem scanWindow_fit (s : State) (n : Nat) (e : EaselEntry) (h0 : Fit Q U s) :
    Fit Q U (State.scanWindow s n e) := by
  unfold State.scanWindow
  repeat' first
    | with_reducible assumption | with_reducible refine fit_ite ?_ ?_ | with_reducible apply countPasses_fit
    | with_reducible apply scanQuery_fit | with_reducible refine fit_foldl ?_ ?_ | with_reducible refine fit_foldl1 ?_ ?_
    | with_reducible refine fit_foldlOf ScanRun.st ?_ ?_ | with_reducible refine fit_foldlOf PlanRun.st ?_ ?_
    | with_reducible refine fit_foldlOf1 PlanRun.st ?_ ?_ | intro _
    | (extract_lets +onlyGivenNames z1; first | refine fit_cut z1 ?_ fun hz => ?_ | refine fit_cut z1.1 ?_ fun hz => ?_ | refine fit_cut z1.2 ?_ fun hz => ?_ | skip)
    | (refine fit_of ?_; dsimp only; refine fit_to ?_) | dsimp +zetaDelta only

theorem PlanRun_plan_fit (r : PlanRun) (slot : Nat) (home : Nat) (seq : Nat) (key : Key) (a : IndexAttr) (sl : Slot) (isFetch : Bool) (h0 : Fit Q U r.st) :
    Fit Q U (PlanRun.plan r slot home seq key a sl isFetch).1.st := by
  unfold PlanRun.plan
  repeat' first
    | with_reducible assumption | with_reducible refine fit_ite ?_ ?_ | with_reducible apply mapChan_fit
    | exact fun _ _ hx => hx | intro _
    | (extract_lets +onlyGivenNames z1; first | refine fit_cut z1 ?_ fun hz => ?_ | refine fit_cut z1.st ?_ fun hz => ?_ | skip)
    | split | (refine fit_of ?_; dsimp only; refine fit_to ?_) | dsimp +zetaDelta only

theorem PlanRun_query_fit (r : PlanRun) (q : OwnerQ) (rr : Rerank) (h0 : Fit Q U r.st) :
    Fit Q U (PlanRun.query r q rr).st := by
  unfold PlanRun.query
  repeat' first
    | with_reducible assumption | with_reducible refine fit_ite ?_ ?_ | with_reducible apply plan_fit
    | with_reducible apply mapOwner_fit | with_reducible apply PlanRun_plan_fit | with_reducible refine fit_foldl ?_ ?_
    | with_reducible refine fit_foldl1 ?_ ?_ | with_reducible refine fit_foldlOf ScanRun.st ?_ ?_
    | with_reducible refine fit_foldlOf PlanRun.st ?_ ?_ | with_reducible refine fit_foldlOf1 PlanRun.st ?_ ?_ | intro _
    | (extract_lets +onlyGivenNames z1; first | refine fit_cut z1 ?_ fun hz => ?_ | refine fit_cut z1.1 ?_ fun hz => ?_ | refine fit_cut z1.2 ?_ fun hz => ?_ | refine fit_cut z1.st ?_ fun hz => ?_ | skip)
    | split | (refine fit_of ?_; dsimp only; refine fit_to ?_) | dsimp +zetaDelta only

theorem mapOwnerF_fit (s : State) (q : OwnerF) (f : OwnerF → OwnerF) (h0 : Fit Q U s) :
    Fit Q U (State.mapOwnerF s q f) := by
  unfold State.mapOwnerF
  repeat' first
    | with_reducible assumption | with_reducible refine fit_ite ?_ ?_ | intro _ | split
    | (refine fit_of ?_; dsimp only; refine fit_to ?_) | dsimp +zetaDelta only

theorem PlanRun_fetch_fit (r : PlanRun) (q : OwnerF) (h0 : Fit Q U r.st) :
    Fit Q U (PlanRun.fetch r q).st := by
  unfold PlanRun.fetch
  repeat' first
    | with_reducible assumption | with_reducible refine fit_ite ?_ ?_ | with_reducible apply plan_fit
    | with_reducible apply PlanRun_plan_fit | with_reducible apply mapOwnerF_fit | intro _
    | (extract_lets +onlyGivenNames z1; first | refine fit_cut z1 ?_ fun hz => ?_ | refine fit_cut z1.1 ?_ fun hz => ?_ | refine fit_cut z1.2 ?_ fun hz => ?_ | refine fit_cut z1.st ?_ fun hz => ?_ | skip)
    | split | (refine fit_of ?_; dsimp only; refine fit_to ?_) | dsimp +zetaDelta only

theorem PlanRun_again_fit (r : PlanRun) (q : OwnerQ) (h0 : Fit Q U r.st) :
    Fit Q U (PlanRun.again r q).st := by
  unfold PlanRun.again
  repeat' first
    | with_reducible assumption | with_reducible refine fit_ite ?_ ?_ | with_reducible apply plan_fit
    | with_reducible apply mapOwner_fit | with_reducible apply PlanRun_plan_fit | with_reducible refine fit_foldl ?_ ?_
    | with_reducible refine fit_foldl1 ?_ ?_ | with_reducible refine fit_foldlOf ScanRun.st ?_ ?_
    | with_reducible refine fit_foldlOf PlanRun.st ?_ ?_ | with_reducible refine fit_foldlOf1 PlanRun.st ?_ ?_ | intro _
    | (extract_lets +onlyGivenNames z1; first | refine fit_cut z1 ?_ fun hz => ?_ | refine fit_cut z1.1 ?_ fun hz => ?_ | refine fit_cut z1.2 ?_ fun hz => ?_ | refine fit_cut z1.st ?_ fun hz => ?_ | skip)
    | split | (refine fit_of ?_; dsimp only; refine fit_to ?_) | dsimp +zetaDelta only

theorem fetchWindow_fit (s : State) (e : EaselEntry) (h0 : Fit Q U s) :
    Fit Q U (State.fetchWindow s e) := by
  unfold State.fetchWindow
  repeat' first
    | with_reducible assumption | with_reducible refine fit_ite ?_ ?_ | with_reducible apply mapFlash_fit
    | with_reducible apply PlanRun_query_fit | with_reducible apply PlanRun_fetch_fit | with_reducible apply PlanRun_again_fit
    | with_reducible refine fit_foldl ?_ ?_ | with_reducible refine fit_foldl1 ?_ ?_
    | with_reducible refine fit_foldlOf ScanRun.st ?_ ?_ | with_reducible refine fit_foldlOf PlanRun.st ?_ ?_
    | with_reducible refine fit_foldlOf1 PlanRun.st ?_ ?_ | intro _
    | (extract_lets +onlyGivenNames z1; first | refine fit_cut z1 ?_ fun hz => ?_ | refine fit_cut z1.1 ?_ fun hz => ?_ | refine fit_cut z1.2 ?_ fun hz => ?_ | refine fit_cut z1.st ?_ fun hz => ?_ | skip)
    | split | (refine fit_of ?_; dsimp only; refine fit_to ?_) | dsimp +zetaDelta only

theorem sendLocal_fit (s : State) (q : OwnerQ) (rr : Rerank) (graph : Bool) (cs : List Cand) (h0 : Fit Q U s) :
    Fit Q U (State.sendLocal s q rr graph cs) := by
  unfold State.sendLocal
  repeat' first
    | with_reducible assumption | with_reducible refine fit_ite ?_ ?_ | with_reducible apply mapOwner_fit
    | with_reducible apply post_fit | intro _
    | (extract_lets +onlyGivenNames z1; first | refine fit_cut z1 ?_ fun hz => ?_ | refine fit_cut z1.1 ?_ fun hz => ?_ | refine fit_cut z1.2 ?_ fun hz => ?_ | skip)
    | split | (refine fit_of ?_; dsimp only; refine fit_to ?_) | dsimp +zetaDelta only

theorem rankQuery_fit (s : State) (q : OwnerQ) (rr : Rerank) (h0 : Fit Q U s) :
    Fit Q U (State.rankQuery s q rr) := by
  unfold State.rankQuery
  repeat' first
    | with_reducible assumption | with_reducible refine fit_ite ?_ ?_ | with_reducible apply mapOwner_fit
    | with_reducible apply PlanRun_query_fit | with_reducible apply sendLocal_fit | intro _
    | (extract_lets +onlyGivenNames z1; first | refine fit_cut z1 ?_ fun hz => ?_ | refine fit_cut z1.1 ?_ fun hz => ?_ | refine fit_cut z1.2 ?_ fun hz => ?_ | skip)
    | split | (refine fit_of ?_; dsimp only; refine fit_to ?_) | dsimp +zetaDelta only

theorem rankWindow_fit (s : State) (e : EaselEntry) (h0 : Fit Q U s) :
    Fit Q U (State.rankWindow s e) := by
  unfold State.rankWindow
  repeat' first
    | with_reducible assumption | with_reducible refine fit_ite ?_ ?_ | with_reducible apply coreFree_fit
    | with_reducible apply rankQuery_fit | with_reducible refine fit_foldl ?_ ?_ | with_reducible refine fit_foldl1 ?_ ?_
    | with_reducible refine fit_foldlOf ScanRun.st ?_ ?_ | with_reducible refine fit_foldlOf PlanRun.st ?_ ?_
    | with_reducible refine fit_foldlOf1 PlanRun.st ?_ ?_ | intro _ | (refine fit_of ?_; dsimp only; refine fit_to ?_)
    | dsimp +zetaDelta only

theorem rescoreQuery_fit (s : State) (img : Bytes) (l : Nat) (q : OwnerQ) (rr : Rerank) (h0 : Fit Q U s) :
    Fit Q U (State.rescoreQuery s img l q rr) := by
  unfold State.rescoreQuery
  repeat' first
    | with_reducible assumption | with_reducible refine fit_ite ?_ ?_ | with_reducible apply mapOwner_fit
    | with_reducible apply sendLocal_fit | intro _
    | (extract_lets +onlyGivenNames z1; first | refine fit_cut z1 ?_ fun hz => ?_ | refine fit_cut z1.1 ?_ fun hz => ?_ | refine fit_cut z1.2 ?_ fun hz => ?_ | skip)
    | split | (refine fit_of ?_; dsimp only; refine fit_to ?_) | dsimp +zetaDelta only

theorem rescoreWindow_fit (s : State) (e : EaselEntry) (h0 : Fit Q U s) :
    Fit Q U (State.rescoreWindow s e) := by
  unfold State.rescoreWindow
  repeat' first
    | with_reducible assumption | with_reducible refine fit_ite ?_ ?_ | with_reducible apply arrayWork_fit
    | with_reducible apply sendLocal_fit | with_reducible apply rescoreQuery_fit | with_reducible refine fit_foldl ?_ ?_
    | with_reducible refine fit_foldl1 ?_ ?_ | with_reducible refine fit_foldlOf ScanRun.st ?_ ?_
    | with_reducible refine fit_foldlOf PlanRun.st ?_ ?_ | with_reducible refine fit_foldlOf1 PlanRun.st ?_ ?_ | intro _
    | (extract_lets +onlyGivenNames z1; first | refine fit_cut z1 ?_ fun hz => ?_ | refine fit_cut z1.1 ?_ fun hz => ?_ | refine fit_cut z1.2 ?_ fun hz => ?_ | skip)
    | split | (refine fit_of ?_; dsimp only; refine fit_to ?_) | dsimp +zetaDelta only

theorem rescoreAll_fit (s : State) (q : OwnerQ) (rr : Rerank) (h0 : Fit Q U s) :
    Fit Q U (State.rescoreAll s q rr) := by
  unfold State.rescoreAll
  repeat' first
    | with_reducible assumption | with_reducible refine fit_ite ?_ ?_ | with_reducible apply rescoreQuery_fit
    | with_reducible refine fit_foldl ?_ ?_ | with_reducible refine fit_foldl1 ?_ ?_
    | with_reducible refine fit_foldlOf ScanRun.st ?_ ?_ | with_reducible refine fit_foldlOf PlanRun.st ?_ ?_
    | with_reducible refine fit_foldlOf1 PlanRun.st ?_ ?_ | intro _ | split | (refine fit_of ?_; dsimp only; refine fit_to ?_)
    | dsimp +zetaDelta only

theorem chargeAgain_fit (q : OwnerQ) (r : State × List Cand × List Cand) (c : Cand) (h0 : Fit Q U r.1) :
    Fit Q U (State.chargeAgain q r c).1 := by
  unfold State.chargeAgain
  repeat' first
    | with_reducible assumption | with_reducible refine fit_ite ?_ ?_ | with_reducible apply mapChan_fit
    | exact fun _ _ hx => hx | intro _
    | (extract_lets +onlyGivenNames z1; first | refine fit_cut z1 ?_ fun hz => ?_ | refine fit_cut z1.1 ?_ fun hz => ?_ | refine fit_cut z1.2 ?_ fun hz => ?_ | skip)
    | split | (refine fit_of ?_; dsimp only; refine fit_to ?_) | dsimp +zetaDelta only

theorem replayQuery_fit (s : State) (q : OwnerQ) (h0 : Fit Q U s) :
    Fit Q U (State.replayQuery s q) := by
  unfold State.replayQuery
  repeat' first
    | with_reducible assumption | with_reducible refine fit_ite ?_ ?_ | with_reducible apply mapOwner_fit
    | with_reducible apply PlanRun_again_fit | with_reducible apply rankQuery_fit | with_reducible apply rescoreAll_fit
    | with_reducible apply chargeAgain_fit | with_reducible refine fit_foldl ?_ ?_ | with_reducible refine fit_foldl1 ?_ ?_
    | with_reducible refine fit_foldlOf ScanRun.st ?_ ?_ | with_reducible refine fit_foldlOf PlanRun.st ?_ ?_
    | with_reducible refine fit_foldlOf1 PlanRun.st ?_ ?_ | intro _
    | (extract_lets +onlyGivenNames z1; first | refine fit_cut z1 ?_ fun hz => ?_ | refine fit_cut z1.1 ?_ fun hz => ?_ | refine fit_cut z1.2 ?_ fun hz => ?_ | skip)
    | split | (refine fit_of ?_; dsimp only; refine fit_to ?_) | dsimp +zetaDelta only

theorem replayNow_fit (s : State) (h0 : Fit Q U s) :
    Fit Q U (State.replayNow s) := by
  unfold State.replayNow
  repeat' first
    | with_reducible assumption | with_reducible refine fit_ite ?_ ?_ | with_reducible apply replayQuery_fit
    | with_reducible refine fit_foldl ?_ ?_ | with_reducible refine fit_foldl1 ?_ ?_
    | with_reducible refine fit_foldlOf ScanRun.st ?_ ?_ | with_reducible refine fit_foldlOf PlanRun.st ?_ ?_
    | with_reducible refine fit_foldlOf1 PlanRun.st ?_ ?_ | intro _ | (refine fit_of ?_; dsimp only; refine fit_to ?_)

end Sys2Proof.Machine
end

