-- ==== Sys2Proof/Laws/FitTables.lean ====
section
/-! SUPPORT. The operations of Tables.lean keep what `Fit` says. -/

namespace Sys2Proof.Machine

set_option linter.tactic.unusedName false

variable {Q : List Instr} {U : Was}

theorem countRows_fit (s : State) (slot : Nat) (h : Handle) (rows : List Nat) (h0 : Fit Q U s) :
    Fit Q U (State.countRows s slot h rows) := by
  unfold State.countRows
  repeat' first
    | with_reducible assumption | with_reducible refine fit_ite ?_ ?_ | with_reducible apply mapTable_fit
    | with_reducible refine fit_foldl ?_ ?_ | with_reducible refine fit_foldl1 ?_ ?_
    | with_reducible refine fit_foldlOf LookupRun.st ?_ ?_ | intro _ | (refine fit_of ?_; dsimp only; refine fit_to ?_)
    | dsimp +zetaDelta only

theorem lookupOne_fit (slot : Nat) (budget : Nat) (tiles : List Nat) (r : LookupRun) (q : LookupReq) (h0 : Fit Q U r.st) :
    Fit Q U (lookupOne slot budget tiles r q).st := by
  unfold lookupOne
  repeat' first
    | with_reducible assumption | with_reducible refine fit_ite ?_ ?_ | with_reducible apply post_fit
    | with_reducible apply countRows_fit | intro _
    | (extract_lets +onlyGivenNames z1; first | refine fit_cut z1 ?_ fun hz => ?_ | refine fit_cut z1.1 ?_ fun hz => ?_ | refine fit_cut z1.2 ?_ fun hz => ?_ | refine fit_cut z1.st ?_ fun hz => ?_ | skip)
    | split | (refine fit_of ?_; dsimp only; refine fit_to ?_) | dsimp +zetaDelta only

theorem useOwn_fit (s : State) (slot : Nat) (i : Nat) (n : Nat) (h0 : Fit Q U s) :
    Fit Q U (State.useOwn s slot i n) := by
  unfold State.useOwn
  repeat' first
    | with_reducible assumption | with_reducible refine fit_ite ?_ ?_ | with_reducible apply mapChan_fit
    | exact fun _ _ hx => hx | intro _ | (refine fit_of ?_; dsimp only; refine fit_to ?_) | dsimp +zetaDelta only

theorem lookupWindow_fit (s : State) (n : Nat) (e : EaselEntry) (h0 : Fit Q U s) :
    Fit Q U (State.lookupWindow s n e) := by
  unfold State.lookupWindow
  repeat' first
    | with_reducible assumption | with_reducible refine fit_ite ?_ ?_ | with_reducible apply account_fit
    | with_reducible apply coreFree_fit | with_reducible apply cutEvent_fit | with_reducible apply lookupOne_fit
    | with_reducible apply useOwn_fit | with_reducible refine fit_foldl ?_ ?_ | with_reducible refine fit_foldl1 ?_ ?_
    | with_reducible refine fit_foldlOf LookupRun.st ?_ ?_ | intro _
    | (extract_lets +onlyGivenNames z1; first | refine fit_cut z1 ?_ fun hz => ?_ | refine fit_cut z1.2 ?_ fun hz => ?_ | refine fit_cut z1.st ?_ fun hz => ?_ | skip)
    | split | (refine fit_of ?_; dsimp only; refine fit_to ?_) | dsimp +zetaDelta only

theorem postAt_fit (s : State) (frame : Nat) (dst : Nat) (slot : Nat) (m : Msg) (h0 : Fit Q U s) :
    Fit Q U (State.postAt s frame dst slot m) := by
  unfold State.postAt
  repeat' first
    | with_reducible assumption | with_reducible refine fit_ite ?_ ?_ | (refine fit_of ?_; dsimp only; refine fit_to ?_)

theorem report_fit (s : State) (u : Upd) (status : Nat) (accepted : Nat) (dropped : Nat) (found : Nat) (h0 : Fit Q U s) :
    Fit Q U (State.report s u status accepted dropped found) := by
  unfold State.report
  repeat' first
    | with_reducible assumption | with_reducible refine fit_ite ?_ ?_ | with_reducible apply postAt_fit
    | (refine fit_of ?_; dsimp only; refine fit_to ?_)

theorem keepStep_fit (s : State) (slot : Nat) (h : Handle) (row : Nat) (eta : F32) (g : List F32) (h0 : Fit Q U s) :
    Fit Q U (State.keepStep s slot h row eta g) := by
  unfold State.keepStep
  repeat' first
    | with_reducible assumption | with_reducible refine fit_ite ?_ ?_ | intro _ | split
    | (refine fit_of ?_; dsimp only; refine fit_to ?_) | dsimp +zetaDelta only

theorem stageRow_fit (s : State) (slot : Nat) (h : Handle) (t : Table) (us : List Upd) (row : Nat) (h0 : Fit Q U s) :
    Fit Q U (State.stageRow s slot h t us row) := by
  unfold State.stageRow
  repeat' first
    | with_reducible assumption | with_reducible refine fit_ite ?_ ?_ | with_reducible apply lead_fit
    | with_reducible apply keepStep_fit | intro _
    | (extract_lets +onlyGivenNames z1; first | refine fit_cut z1 ?_ fun hz => ?_ | refine fit_cut z1.1 ?_ fun hz => ?_ | refine fit_cut z1.2 ?_ fun hz => ?_ | refine fit_cut z1.st ?_ fun hz => ?_ | skip)
    | split | (refine fit_of ?_; dsimp only; refine fit_to ?_) | dsimp +zetaDelta only

theorem reportRows_fit (s : State) (took : List (Upd × Bool)) (h0 : Fit Q U s) :
    Fit Q U (State.reportRows s took) := by
  unfold State.reportRows
  repeat' first
    | with_reducible assumption | with_reducible refine fit_ite ?_ ?_ | with_reducible apply report_fit
    | with_reducible refine fit_foldl ?_ ?_ | with_reducible refine fit_foldl1 ?_ ?_
    | with_reducible refine fit_foldlOf LookupRun.st ?_ ?_ | intro _
    | (extract_lets +onlyGivenNames z1; first | refine fit_cut z1 ?_ fun hz => ?_ | refine fit_cut z1.1 ?_ fun hz => ?_ | refine fit_cut z1.2 ?_ fun hz => ?_ | skip)
    | split | (refine fit_of ?_; dsimp only; refine fit_to ?_) | dsimp +zetaDelta only

theorem unstage_fit (s : State) (us : List Upd) (h0 : Fit Q U s) :
    Fit Q U (State.unstage s us) := by
  unfold State.unstage
  repeat' first
    | with_reducible assumption | with_reducible refine fit_ite ?_ ?_ | intro _
    | (refine fit_of ?_; dsimp only; refine fit_to ?_) | dsimp +zetaDelta only

theorem unstageRows_fit (s : State) (slot : Nat) (us : List Upd) (h0 : Fit Q U s) :
    Fit Q U (State.unstageRows s slot us) := by
  unfold State.unstageRows
  repeat' first
    | with_reducible assumption | with_reducible refine fit_ite ?_ ?_ | with_reducible apply unstage_fit | intro _ | split
    | (refine fit_of ?_; dsimp only; refine fit_to ?_) | dsimp +zetaDelta only

theorem stageTable_fit (s : State) (slot : Nat) (h : Handle) (us : List Upd) (h0 : Fit Q U s) :
    Fit Q U (State.stageTable s slot h us) := by
  unfold State.stageTable
  repeat' first
    | with_reducible assumption | with_reducible refine fit_ite ?_ ?_ | with_reducible apply stageRow_fit
    | with_reducible refine fit_foldl ?_ ?_ | with_reducible refine fit_foldl1 ?_ ?_
    | with_reducible refine fit_foldlOf LookupRun.st ?_ ?_ | intro _
    | (extract_lets +onlyGivenNames z1; first | refine fit_cut z1 ?_ fun hz => ?_ | refine fit_cut z1.st ?_ fun hz => ?_ | skip)
    | split | (refine fit_of ?_; dsimp only; refine fit_to ?_) | dsimp +zetaDelta only

theorem restageRows_fit (s : State) (slot : Nat) (h0 : Fit Q U s) :
    Fit Q U (State.restageRows s slot) := by
  unfold State.restageRows
  repeat' first
    | with_reducible assumption | with_reducible refine fit_ite ?_ ?_ | with_reducible apply reportRows_fit
    | with_reducible apply unstageRows_fit | with_reducible apply stageTable_fit | with_reducible refine fit_foldl ?_ ?_
    | with_reducible refine fit_foldl1 ?_ ?_ | with_reducible refine fit_foldlOf LookupRun.st ?_ ?_ | intro _
    | (extract_lets +onlyGivenNames z1; first | refine fit_cut z1 ?_ fun hz => ?_ | refine fit_cut z1.1 ?_ fun hz => ?_ | refine fit_cut z1.2 ?_ fun hz => ?_ | refine fit_cut z1.st ?_ fun hz => ?_ | skip)
    | (refine fit_of ?_; dsimp only; refine fit_to ?_) | dsimp +zetaDelta only

theorem takeForwards_fit (s : State) (slot : Nat) (h0 : Fit Q U s) :
    Fit Q U (State.takeForwards s slot) := by
  unfold State.takeForwards
  repeat' first
    | with_reducible assumption | with_reducible refine fit_ite ?_ ?_ | with_reducible apply takeMove_fit
    | with_reducible refine fit_foldl ?_ ?_ | with_reducible refine fit_foldl1 ?_ ?_
    | with_reducible refine fit_foldlOf LookupRun.st ?_ ?_ | intro _
    | (extract_lets +onlyGivenNames z1; first | refine fit_cut z1 ?_ fun hz => ?_ | refine fit_cut z1.2 ?_ fun hz => ?_ | skip)
    | split | (refine fit_of ?_; dsimp only; refine fit_to ?_) | dsimp +zetaDelta only

theorem countTaken_fit (s : State) (x : Upd × Bool) (h0 : Fit Q U s) :
    Fit Q U (State.countTaken s x) := by
  unfold State.countTaken
  repeat' first
    | with_reducible assumption | with_reducible refine fit_ite ?_ ?_ | with_reducible apply countRows_fit | split
    | (refine fit_of ?_; dsimp only; refine fit_to ?_)

theorem countApplied_fit (s : State) (h0 : Fit Q U s) :
    Fit Q U (State.countApplied s) := by
  unfold State.countApplied
  repeat' first
    | with_reducible assumption | with_reducible refine fit_ite ?_ ?_ | with_reducible apply countTaken_fit
    | with_reducible refine fit_foldl ?_ ?_ | with_reducible refine fit_foldl1 ?_ ?_
    | with_reducible refine fit_foldlOf LookupRun.st ?_ ?_ | intro _ | (refine fit_of ?_; dsimp only; refine fit_to ?_)

theorem mediaUpds_fit (s : State) (slot : Nat) (rows : Bool) (reports : State → Upd → Bool) (h0 : Fit Q U s) :
    Fit Q U (State.mediaUpds s slot rows reports) := by
  unfold State.mediaUpds
  repeat' first
    | with_reducible assumption | with_reducible refine fit_ite ?_ ?_ | with_reducible apply report_fit
    | with_reducible refine fit_foldl ?_ ?_ | with_reducible refine fit_foldl1 ?_ ?_
    | with_reducible refine fit_foldlOf LookupRun.st ?_ ?_ | intro _
    | (extract_lets +onlyGivenNames z1; first | refine fit_cut z1 ?_ fun hz => ?_ | refine fit_cut z1.2 ?_ fun hz => ?_ | skip)
    | (refine fit_of ?_; dsimp only; refine fit_to ?_) | dsimp +zetaDelta only

theorem noteItems_fit (s : State) (took : List (Upd × Bool)) (h0 : Fit Q U s) :
    Fit Q U (State.noteItems s took) := by
  unfold State.noteItems
  repeat' first
    | with_reducible assumption | with_reducible refine fit_ite ?_ ?_ | with_reducible apply mapTable_fit
    | with_reducible refine fit_foldl ?_ ?_ | with_reducible refine fit_foldl1 ?_ ?_
    | with_reducible refine fit_foldlOf LookupRun.st ?_ ?_ | intro _ | split | (refine fit_of ?_; dsimp only; refine fit_to ?_)
    | dsimp +zetaDelta only

theorem applyStage_fit (s : State) (n : Nat) (e : EaselEntry) (h0 : Fit Q U s) :
    Fit Q U (State.applyStage s n e) := by
  unfold State.applyStage
  repeat' first
    | with_reducible assumption | with_reducible refine fit_ite ?_ ?_ | with_reducible apply account_fit
    | with_reducible apply coreFree_fit | with_reducible apply cutEvent_fit | with_reducible apply useOwn_fit
    | with_reducible apply restageRows_fit | with_reducible apply takeForwards_fit | with_reducible apply mediaUpds_fit
    | with_reducible apply noteItems_fit | with_reducible refine fit_foldl ?_ ?_ | with_reducible refine fit_foldl1 ?_ ?_
    | with_reducible refine fit_foldlOf LookupRun.st ?_ ?_ | intro _
    | (extract_lets +onlyGivenNames z1; first | refine fit_cut z1 ?_ fun hz => ?_ | refine fit_cut z1.1 ?_ fun hz => ?_ | refine fit_cut z1.2 ?_ fun hz => ?_ | refine fit_cut z1.st ?_ fun hz => ?_ | skip)
    | split | (refine fit_of ?_; dsimp only; refine fit_to ?_) | dsimp +zetaDelta only

end Sys2Proof.Machine
end

