-- ==== Sys2Proof/Laws/FitUpdates.lean ====
section
/-! SUPPORT. The operations of Updates.lean keep what `Fit` says. -/

namespace Sys2Proof.Machine

set_option linter.tactic.unusedName false

variable {Q : List Instr} {U : Was}

theorem stage_fit (s : State) (u : Upd) (region : Nat) (i : Stage) (h0 : Fit Q U s) :
    Fit Q U (State.stage s u region i) := by
  unfold State.stage
  repeat' first
    | with_reducible assumption | with_reducible refine fit_ite ?_ ?_ | with_reducible apply lead_fit
    | (refine fit_of ?_; dsimp only; refine fit_to ?_)

theorem stageTombs_fit (s : State) (u : Upd) (key : Key) (es : List (Nat × Held)) (h0 : Fit Q U s) :
    Fit Q U (State.stageTombs s u key es) := by
  unfold State.stageTombs
  repeat' first
    | with_reducible assumption | with_reducible refine fit_ite ?_ ?_ | with_reducible apply stage_fit
    | with_reducible refine fit_foldl ?_ ?_ | with_reducible refine fit_foldl1 ?_ ?_ | intro _
    | (refine fit_of ?_; dsimp only; refine fit_to ?_) | dsimp +zetaDelta only

theorem markFull_fit (s : State) (u : Upd) (region : Nat) (list : Nat) (h0 : Fit Q U s) :
    Fit Q U (State.markFull s u region list) := by
  unfold State.markFull
  repeat' first
    | with_reducible assumption | with_reducible refine fit_ite ?_ ?_ | with_reducible apply mapIndex_fit | intro _
    | (refine fit_of ?_; dsimp only; refine fit_to ?_) | dsimp +zetaDelta only

theorem sendBits_fit (s : State) (u : Upd) (key : Key) (target : Nat) (prior : Nat) (es : List (Nat × Held)) (h0 : Fit Q U s) :
    Fit Q U (State.sendBits s u key target prior es) := by
  unfold State.sendBits
  repeat' first
    | with_reducible assumption | with_reducible refine fit_ite ?_ ?_ | with_reducible apply send_fit
    | with_reducible refine fit_foldl ?_ ?_ | with_reducible refine fit_foldl1 ?_ ?_ | intro _
    | (extract_lets +onlyGivenNames z1; first | refine fit_cut z1 ?_ fun hz => ?_ | refine fit_cut z1.1 ?_ fun hz => ?_ | refine fit_cut z1.2 ?_ fun hz => ?_ | skip)
    | split | (refine fit_of ?_; dsimp only; refine fit_to ?_) | dsimp +zetaDelta only

theorem refuseUpsert_fit (s : State) (u : Upd) (prior : Nat) (target : Nat) (h0 : Fit Q U s) :
    Fit Q U (State.refuseUpsert s u prior target).1 := by
  unfold State.refuseUpsert
  repeat' first
    | with_reducible assumption | with_reducible refine fit_ite ?_ ?_ | with_reducible apply send_fit
    | with_reducible refine fit_foldl ?_ ?_ | with_reducible refine fit_foldl1 ?_ ?_ | intro _
    | (refine fit_of ?_; dsimp only; refine fit_to ?_) | dsimp +zetaDelta only

theorem stageUpsert_fit (s : State) (u : Upd) (key : Key) (facet : Nat) (vec : Bytes) (payload : Bytes) (prior : Nat) (target : Nat) (h0 : Fit Q U s) :
    Fit Q U (State.stageUpsert s u key facet vec payload prior target).1 := by
  unfold State.stageUpsert
  repeat' first
    | with_reducible assumption | with_reducible refine fit_ite ?_ ?_ | with_reducible apply stage_fit
    | with_reducible apply stageTombs_fit | with_reducible apply markFull_fit | with_reducible apply sendBits_fit
    | with_reducible apply refuseUpsert_fit | intro _
    | (extract_lets +onlyGivenNames z1; first | refine fit_cut z1 ?_ fun hz => ?_ | refine fit_cut z1.2 ?_ fun hz => ?_ | refine fit_cut z1.st ?_ fun hz => ?_ | skip)
    | split | (refine fit_of ?_; dsimp only; refine fit_to ?_) | dsimp +zetaDelta only

theorem stageDelete_fit (s : State) (u : Upd) (key : Key) (prior : Nat) (h0 : Fit Q U s) :
    Fit Q U (State.stageDelete s u key prior).1 := by
  unfold State.stageDelete
  repeat' first
    | with_reducible assumption | with_reducible refine fit_ite ?_ ?_ | with_reducible apply stageTombs_fit | split
    | (refine fit_of ?_; dsimp only; refine fit_to ?_)

theorem stageEdits_fit (s : State) (u : Upd) (set : Handle) (edits : List (Nat × Key × Nat × Bool)) (h0 : Fit Q U s) :
    Fit Q U (State.stageEdits s u set edits).1 := by
  unfold State.stageEdits
  repeat' first
    | with_reducible assumption | with_reducible refine fit_ite ?_ ?_ | with_reducible apply lead_fit
    | with_reducible apply stage_fit | with_reducible refine fit_foldl ?_ ?_ | with_reducible refine fit_foldl1 ?_ ?_ | intro _
    | (extract_lets +onlyGivenNames z1; first | refine fit_cut z1 ?_ fun hz => ?_ | refine fit_cut z1.1 ?_ fun hz => ?_ | refine fit_cut z1.2 ?_ fun hz => ?_ | refine fit_cut z1.st ?_ fun hz => ?_ | skip)
    | split | (refine fit_of ?_; dsimp only; refine fit_to ?_) | dsimp +zetaDelta only

theorem stageRewrite_fit (s : State) (u : Upd) (x : Index) (region : Nat) (list : Nat) (key : Key) (vec : Bytes) (h0 : Fit Q U s) :
    Fit Q U (State.stageRewrite s u x region list key vec) := by
  unfold State.stageRewrite
  repeat' first
    | with_reducible assumption | with_reducible refine fit_ite ?_ ?_ | with_reducible apply stage_fit
    | (extract_lets +onlyGivenNames z1; first | refine fit_cut z1 ?_ fun hz => ?_ | refine fit_cut z1.st ?_ fun hz => ?_ | skip)
    | (refine fit_of ?_; dsimp only; refine fit_to ?_) | dsimp +zetaDelta only

theorem tellItem_fit (s : State) (u : Upd) (key : Key) (region : Nat) (h0 : Fit Q U s) :
    Fit Q U (State.tellItem s u key region) := by
  unfold State.tellItem
  repeat' first
    | with_reducible assumption | with_reducible refine fit_ite ?_ ?_ | with_reducible apply send_fit
    | with_reducible apply lead_fit | split | (refine fit_of ?_; dsimp only; refine fit_to ?_)

theorem handOver_fit (s : State) (u : Upd) (key : Key) (vec : Bytes) (a : IndexAttr) (r : Nat) (e : Held) (target : Nat) (h0 : Fit Q U s) :
    Fit Q U (State.handOver s u key vec a r e target) := by
  unfold State.handOver
  repeat' first
    | with_reducible assumption | with_reducible refine fit_ite ?_ ?_ | with_reducible apply send_fit
    | with_reducible apply stage_fit | with_reducible refine fit_foldl ?_ ?_ | with_reducible refine fit_foldl1 ?_ ?_ | intro _
    | (extract_lets +onlyGivenNames z1; first | refine fit_cut z1 ?_ fun hz => ?_ | refine fit_cut z1.1 ?_ fun hz => ?_ | refine fit_cut z1.2 ?_ fun hz => ?_ | refine fit_cut z1.st ?_ fun hz => ?_ | skip)
    | split | (refine fit_of ?_; dsimp only; refine fit_to ?_) | dsimp +zetaDelta only

theorem stageBound_fit (s : State) (u : Upd) (key : Key) (vec : Bytes) (prior : Nat) (target : Nat) (h0 : Fit Q U s) :
    Fit Q U (State.stageBound s u key vec prior target).1 := by
  unfold State.stageBound
  repeat' first
    | with_reducible assumption | with_reducible refine fit_ite ?_ ?_ | with_reducible apply useOwn_fit
    | with_reducible apply stage_fit | with_reducible apply stageRewrite_fit | with_reducible apply tellItem_fit
    | with_reducible apply handOver_fit
    | (extract_lets +onlyGivenNames z1; first | refine fit_cut z1 ?_ fun hz => ?_ | refine fit_cut z1.st ?_ fun hz => ?_ | skip)
    | split | (refine fit_of ?_; dsimp only; refine fit_to ?_) | dsimp +zetaDelta only

theorem takeMoved_fit (s : State) (m : Msg) (h0 : Fit Q U s) :
    Fit Q U (State.takeMoved s m) := by
  unfold State.takeMoved
  repeat' first
    | with_reducible assumption | with_reducible refine fit_ite ?_ ?_ | with_reducible apply acceptBits_fit
    | with_reducible apply send_fit | with_reducible apply useOwn_fit | with_reducible apply stage_fit
    | with_reducible apply tellItem_fit | with_reducible refine fit_foldl ?_ ?_ | with_reducible refine fit_foldl1 ?_ ?_
    | intro _
    | (extract_lets +onlyGivenNames z1; first | refine fit_cut z1 ?_ fun hz => ?_ | refine fit_cut z1.st ?_ fun hz => ?_ | skip)
    | split | (refine fit_of ?_; dsimp only; refine fit_to ?_) | dsimp +zetaDelta only

theorem keepMoved_fit (s : State) (m : Msg) (h0 : Fit Q U s) :
    Fit Q U (State.keepMoved s m) := by
  unfold State.keepMoved
  repeat' first
    | with_reducible assumption | with_reducible refine fit_ite ?_ ?_ | with_reducible apply stageRewrite_fit
    | with_reducible apply tellItem_fit | with_reducible refine fit_foldl ?_ ?_ | with_reducible refine fit_foldl1 ?_ ?_
    | intro _
    | (extract_lets +onlyGivenNames z1; first | refine fit_cut z1 ?_ fun hz => ?_ | refine fit_cut z1.1 ?_ fun hz => ?_ | refine fit_cut z1.2 ?_ fun hz => ?_ | refine fit_cut z1.st ?_ fun hz => ?_ | skip)
    | split | (refine fit_of ?_; dsimp only; refine fit_to ?_) | dsimp +zetaDelta only

theorem settleMoved_fit (s : State) (h0 : Fit Q U s) :
    Fit Q U (State.settleMoved s) := by
  unfold State.settleMoved
  repeat' first
    | with_reducible assumption | with_reducible refine fit_ite ?_ ?_ | with_reducible apply takeMoved_fit
    | with_reducible apply keepMoved_fit | with_reducible refine fit_foldl ?_ ?_ | with_reducible refine fit_foldl1 ?_ ?_
    | intro _
    | (extract_lets +onlyGivenNames z1; first | refine fit_cut z1 ?_ fun hz => ?_ | refine fit_cut z1.2 ?_ fun hz => ?_ | skip)
    | split | (refine fit_of ?_; dsimp only; refine fit_to ?_) | dsimp +zetaDelta only

theorem stageUpd_fit (s : State) (u : Upd) (h0 : Fit Q U s) :
    Fit Q U (State.stageUpd s u).1 := by
  unfold State.stageUpd
  repeat' first
    | with_reducible assumption | with_reducible refine fit_ite ?_ ?_ | with_reducible apply useOwn_fit
    | with_reducible apply stageUpsert_fit | with_reducible apply stageDelete_fit | with_reducible apply stageEdits_fit
    | with_reducible apply stageBound_fit | split | (refine fit_of ?_; dsimp only; refine fit_to ?_)

theorem stageReport_fit (s : State) (x : Upd × Bool) (h0 : Fit Q U s) :
    Fit Q U (State.stageReport s x) := by
  unfold State.stageReport
  repeat' first
    | with_reducible assumption | with_reducible refine fit_ite ?_ ?_ | with_reducible apply report_fit
    | with_reducible apply stageUpd_fit
    | (extract_lets +onlyGivenNames z1; first | refine fit_cut z1 ?_ fun hz => ?_ | refine fit_cut z1.1 ?_ fun hz => ?_ | refine fit_cut z1.2 ?_ fun hz => ?_ | refine fit_cut z1.st ?_ fun hz => ?_ | skip)
    | split | (refine fit_of ?_; dsimp only; refine fit_to ?_) | dsimp +zetaDelta only

theorem restageRegions_fit (s : State) (slot : Nat) (h0 : Fit Q U s) :
    Fit Q U (State.restageRegions s slot) := by
  unfold State.restageRegions
  repeat' first
    | with_reducible assumption | with_reducible refine fit_ite ?_ ?_ | with_reducible apply mapChan_fit
    | with_reducible apply unstage_fit | with_reducible apply stageReport_fit | exact fun _ _ hx => hx
    | with_reducible refine fit_foldl ?_ ?_ | with_reducible refine fit_foldl1 ?_ ?_ | intro _
    | (extract_lets +onlyGivenNames z1; first | refine fit_cut z1 ?_ fun hz => ?_ | refine fit_cut z1.1 ?_ fun hz => ?_ | refine fit_cut z1.st ?_ fun hz => ?_ | skip)
    | (refine fit_of ?_; dsimp only; refine fit_to ?_) | dsimp +zetaDelta only

theorem sendBound_fit (s : State) (slot : Nat) (t : Table) (x : Index) (row : Nat) (h0 : Fit Q U s) :
    Fit Q U (State.sendBound s slot t x row) := by
  unfold State.sendBound
  repeat' first
    | with_reducible assumption | with_reducible refine fit_ite ?_ ?_ | with_reducible apply nextRoutes_fit
    | with_reducible apply sendUpd_fit | with_reducible refine fit_foldl ?_ ?_ | with_reducible refine fit_foldl1 ?_ ?_
    | intro _ | (extract_lets +onlyGivenNames z1; first | refine fit_cut z1 ?_ fun hz => ?_ | skip) | split
    | (refine fit_of ?_; dsimp only; refine fit_to ?_) | dsimp +zetaDelta only

theorem sendFresh_fit (s : State) (slot : Nat) (h0 : Fit Q U s) :
    Fit Q U (State.sendFresh s slot) := by
  unfold State.sendFresh
  repeat' first
    | with_reducible assumption | with_reducible refine fit_ite ?_ ?_ | with_reducible apply mapTable_fit
    | with_reducible apply sendBound_fit | with_reducible refine fit_foldl ?_ ?_ | with_reducible refine fit_foldl1 ?_ ?_
    | intro _ | split | (refine fit_of ?_; dsimp only; refine fit_to ?_) | dsimp +zetaDelta only

theorem logRejected_fit (s : State) (u : Upd) (h0 : Fit Q U s) :
    Fit Q U (State.logRejected s u) := by
  unfold State.logRejected
  repeat' first
    | with_reducible assumption | with_reducible refine fit_ite ?_ ?_ | with_reducible apply logAdd_fit | split
    | (refine fit_of ?_; dsimp only; refine fit_to ?_)

theorem updateStage_fit (s : State) (e : EaselEntry) (h0 : Fit Q U s) :
    Fit Q U (State.updateStage s e) := by
  unfold State.updateStage
  repeat' first
    | with_reducible assumption | with_reducible refine fit_ite ?_ ?_ | with_reducible apply coreFree_fit
    | with_reducible apply arrayWork_fit | with_reducible apply mediaUpds_fit | with_reducible apply restageRegions_fit
    | with_reducible apply sendFresh_fit | with_reducible apply logRejected_fit | with_reducible refine fit_foldl ?_ ?_
    | with_reducible refine fit_foldl1 ?_ ?_ | intro _
    | (extract_lets +onlyGivenNames z1; first | refine fit_cut z1 ?_ fun hz => ?_ | refine fit_cut z1.1 ?_ fun hz => ?_ | refine fit_cut z1.2 ?_ fun hz => ?_ | skip)
    | (refine fit_of ?_; dsimp only; refine fit_to ?_) | dsimp +zetaDelta only

theorem migrateThen_fit (s : State) (e : EaselEntry) (h0 : Fit Q U s) :
    Fit Q U (State.migrateThen s e) := by
  unfold State.migrateThen
  repeat' first
    | with_reducible assumption | with_reducible refine fit_ite ?_ ?_ | with_reducible apply migrateWindow_fit
    | with_reducible apply restorePieces_fit | with_reducible apply restageRows_fit | with_reducible apply restageRegions_fit
    | with_reducible refine fit_foldl ?_ ?_ | with_reducible refine fit_foldl1 ?_ ?_ | intro _
    | (extract_lets +onlyGivenNames z1; first | refine fit_cut z1 ?_ fun hz => ?_ | refine fit_cut z1.1 ?_ fun hz => ?_ | skip)
    | split | (refine fit_of ?_; dsimp only; refine fit_to ?_) | dsimp +zetaDelta only

end Sys2Proof.Machine
end

