-- ==== Sys2Proof/Laws/FitStats.lean ====
section
/-! SUPPORT. The operations of Stats.lean keep what `Fit` says. -/

namespace Sys2Proof.Machine

set_option linter.tactic.unusedName false

variable {Q : List Instr} {U : Was}

theorem id_fit (s : State) (h : Fit Q U s) : Fit Q U (id s) := h

theorem statsClear_fit (s : State) (slot : Nat) (cls : Nat) (h0 : Fit Q U s) :
    Fit Q U (State.statsClear s slot cls) := by
  unfold State.statsClear
  repeat' first
    | with_reducible assumption | with_reducible refine fit_ite ?_ ?_ | with_reducible apply mapAcct_fit | intro _ | split
    | (refine fit_of ?_; dsimp only; refine fit_to ?_) | dsimp +zetaDelta only

theorem statsOut_fit (s : State) (g : Go) (bs : Bytes) (h0 : Fit Q U s) :
    Fit Q U (State.statsOut s g bs).1 := by
  unfold State.statsOut
  repeat' first
    | with_reducible assumption | with_reducible refine fit_ite ?_ ?_ | with_reducible apply emit_fit
    | with_reducible apply write_fit | (refine fit_of ?_; dsimp only; refine fit_to ?_)

theorem statsTo_fit (g : Go) (data : Bytes) (clear : State → State) (s : State) (h : Fit Q U s)
    (hc : ∀ t, Fit Q U t → Fit Q U (clear t)) : Fit Q U (statsTo g data clear s).1 := by
  unfold statsTo
  repeat' first
    | with_reducible assumption | with_reducible refine fit_ite ?_ ?_ | with_reducible apply hc | with_reducible apply statsOut_fit
    | with_reducible apply checked_fit | intro _ | dsimp only

theorem histoRead_fit (g : Go) (s0 : State) (h0 : Fit Q U s0) :
    Fit Q U (histoRead g s0).1 := by
  unfold histoRead
  repeat' first
    | with_reducible assumption | with_reducible refine fit_ite ?_ ?_ | with_reducible apply statsTo_fit | intro _
    | (extract_lets +onlyGivenNames z1; first | refine fit_cut z1 ?_ fun hz => ?_ | skip) | split
    | (refine fit_of ?_; dsimp only; refine fit_to ?_) | dsimp +zetaDelta only

theorem chanRead_fit (g : Go) (cls : Nat) (s0 : State) (h0 : Fit Q U s0) :
    Fit Q U (chanRead g cls s0).1 := by
  unfold chanRead
  repeat' first
    | with_reducible assumption | with_reducible refine fit_ite ?_ ?_ | with_reducible apply statsTo_fit
    | with_reducible apply statsClear_fit | intro _ | split | (refine fit_of ?_; dsimp only; refine fit_to ?_)
    | dsimp +zetaDelta only

theorem nodeRead_fit (g : Go) (s0 : State) (h0 : Fit Q U s0) :
    Fit Q U (nodeRead g s0).1 := by
  unfold nodeRead
  repeat' first
    | with_reducible assumption | with_reducible refine fit_ite ?_ ?_ | with_reducible apply statsTo_fit | intro _
    | (extract_lets +onlyGivenNames z1; first | refine fit_cut z1 ?_ fun hz => ?_ | refine fit_cut z1.1 ?_ fun hz => ?_ | refine fit_cut z1.2 ?_ fun hz => ?_ | skip)
    | (refine fit_of ?_; dsimp only; refine fit_to ?_) | dsimp +zetaDelta only

theorem objectRead_fit (g : Go) (cls : Nat) (s0 : State) (h0 : Fit Q U s0) :
    Fit Q U (objectRead g cls s0).1 := by
  unfold objectRead
  repeat' first
    | with_reducible assumption | with_reducible refine fit_ite ?_ ?_ | with_reducible apply withChan_fit
    | with_reducible apply statsTo_fit | with_reducible apply id_fit | intro _
    | (extract_lets +onlyGivenNames z1; first | refine fit_cut z1 ?_ fun hz => ?_ | refine fit_cut z1.st ?_ fun hz => ?_ | skip)
    | split | (refine fit_of ?_; dsimp only; refine fit_to ?_) | dsimp +zetaDelta only

theorem statsReadBody_fit (g : Go) (s0 : State) (h0 : Fit Q U s0) :
    Fit Q U (statsReadBody g s0).1 := by
  unfold statsReadBody
  repeat' first
    | with_reducible assumption | with_reducible refine fit_ite ?_ ?_ | with_reducible apply checked_fit
    | with_reducible apply histoRead_fit | with_reducible apply chanRead_fit | with_reducible apply nodeRead_fit
    | with_reducible apply objectRead_fit | intro _ | split | (refine fit_of ?_; dsimp only; refine fit_to ?_)
    | dsimp +zetaDelta only

theorem logReadBody_fit (g : Go) (s0 : State) (h0 : Fit Q U s0) :
    Fit Q U (logReadBody g s0).1 := by
  unfold logReadBody
  repeat' first
    | with_reducible assumption | with_reducible refine fit_ite ?_ ?_ | with_reducible apply emit_fit
    | with_reducible apply write_fit | with_reducible apply checked_fit | intro _
    | (extract_lets +onlyGivenNames z1; first | refine fit_cut z1 ?_ fun hz => ?_ | refine fit_cut z1.1 ?_ fun hz => ?_ | refine fit_cut z1.2 ?_ fun hz => ?_ | refine fit_cut z1.st ?_ fun hz => ?_ | skip)
    | (refine fit_of ?_; dsimp only; refine fit_to ?_) | dsimp +zetaDelta only

end Sys2Proof.Machine
end

