-- ==== Sys2Proof/Laws/FitSettle.lean ====
section
/-! SUPPORT. The operations of Settle.lean keep what `Fit` says. -/

namespace Sys2Proof.Machine

set_option linter.tactic.unusedName false

variable {Q : List Instr} {U : Was}

theorem askRows_fit (s : State) (c : Cmd) (asks : List (Nat × List (Nat × Nat))) (h0 : Fit Q U s) :
    Fit Q U (State.askRows s c asks) := by
  unfold State.askRows
  repeat' first
    | with_reducible assumption | with_reducible refine fit_ite ?_ ?_ | with_reducible apply mapCmd_fit
    | with_reducible apply send_fit | with_reducible apply land_fit | with_reducible refine fit_foldl ?_ ?_
    | with_reducible refine fit_foldl1 ?_ ?_ | intro _ | (refine fit_of ?_; dsimp only; refine fit_to ?_)
    | dsimp +zetaDelta only

theorem askFetch_fit (s : State) (c : Cmd) (node : Nat) (h0 : Fit Q U s) :
    Fit Q U (State.askFetch s c node) := by
  unfold State.askFetch
  repeat' first
    | with_reducible assumption | with_reducible refine fit_ite ?_ ?_ | with_reducible apply mapCmd_fit
    | with_reducible apply send_fit | with_reducible apply land_fit | intro _ | (refine fit_of ?_; dsimp only; refine fit_to ?_)
    | dsimp +zetaDelta only

theorem ask_fit (s : State) (c : Cmd) (h0 : Fit Q U s) :
    Fit Q U (State.ask s c) := by
  unfold State.ask
  repeat' first
    | with_reducible assumption | with_reducible refine fit_ite ?_ ?_ | with_reducible apply cutCmd_fit
    | with_reducible apply askRows_fit | with_reducible apply askFetch_fit
    | (extract_lets +onlyGivenNames z1; first | refine fit_cut z1 ?_ fun hz => ?_ | skip) | split
    | (refine fit_of ?_; dsimp only; refine fit_to ?_) | dsimp +zetaDelta only

theorem askAll_fit (s : State) (h0 : Fit Q U s) :
    Fit Q U (State.askAll s) := by
  unfold State.askAll
  repeat' first
    | with_reducible assumption | with_reducible refine fit_ite ?_ ?_ | with_reducible apply ask_fit
    | with_reducible refine fit_foldl ?_ ?_ | with_reducible refine fit_foldl1 ?_ ?_ | intro _
    | (refine fit_of ?_; dsimp only; refine fit_to ?_) | dsimp +zetaDelta only

theorem settleLookup_fit (s : State) (c : Cmd) (atEnd : Bool) (h0 : Fit Q U s) :
    Fit Q U (State.settleLookup s c atEnd) := by
  unfold State.settleLookup
  repeat' first
    | with_reducible assumption | with_reducible refine fit_ite ?_ ?_ | with_reducible apply mapCmd_fit
    | with_reducible apply settle_fit | with_reducible apply land_fit | with_reducible apply askRows_fit | intro _
    | (extract_lets +onlyGivenNames z1; first | refine fit_cut z1 ?_ fun hz => ?_ | refine fit_cut z1.1 ?_ fun hz => ?_ | refine fit_cut z1.2 ?_ fun hz => ?_ | skip)
    | split | (refine fit_of ?_; dsimp only; refine fit_to ?_) | dsimp +zetaDelta only

theorem settleFetch_fit (s : State) (c : Cmd) (atEnd : Bool) (h0 : Fit Q U s) :
    Fit Q U (State.settleFetch s c atEnd) := by
  unfold State.settleFetch
  repeat' first
    | with_reducible assumption | with_reducible refine fit_ite ?_ ?_ | with_reducible apply mapCmd_fit
    | with_reducible apply settle_fit | with_reducible apply land_fit | with_reducible apply askFetch_fit | intro _
    | (extract_lets +onlyGivenNames z1; first | refine fit_cut z1 ?_ fun hz => ?_ | skip) | split
    | (refine fit_of ?_; dsimp only; refine fit_to ?_) | dsimp +zetaDelta only

theorem answerFetch_fit (s : State) (q : OwnerF) (h0 : Fit Q U s) :
    Fit Q U (State.answerFetch s q) := by
  unfold State.answerFetch
  repeat' first
    | with_reducible assumption | with_reducible refine fit_ite ?_ ?_ | with_reducible apply post_fit
    | with_reducible apply mapOwnerF_fit | intro _
    | (extract_lets +onlyGivenNames z1; first | refine fit_cut z1 ?_ fun hz => ?_ | refine fit_cut z1.st ?_ fun hz => ?_ | skip)
    | split | (refine fit_of ?_; dsimp only; refine fit_to ?_) | dsimp +zetaDelta only

theorem answerFetches_fit (s : State) (h0 : Fit Q U s) :
    Fit Q U (State.answerFetches s) := by
  unfold State.answerFetches
  repeat' first
    | with_reducible assumption | with_reducible refine fit_ite ?_ ?_ | with_reducible apply answerFetch_fit
    | with_reducible refine fit_foldl ?_ ?_ | with_reducible refine fit_foldl1 ?_ ?_ | intro _
    | (refine fit_of ?_; dsimp only; refine fit_to ?_) | dsimp +zetaDelta only

theorem noteVolatile_fit (s : State) (c : Cmd) (need : List Nat) (h0 : Fit Q U s) :
    Fit Q U (State.noteVolatile s c need) := by
  unfold State.noteVolatile
  repeat' first
    | with_reducible assumption | with_reducible refine fit_ite ?_ ?_ | with_reducible apply mapChan_fit
    | with_reducible apply land_fit | exact fun _ _ hx => hx | intro _
    | (extract_lets +onlyGivenNames z1; first | refine fit_cut z1 ?_ fun hz => ?_ | skip) | split
    | (refine fit_of ?_; dsimp only; refine fit_to ?_) | dsimp +zetaDelta only

theorem settleUpdate_fit (s : State) (c : Cmd) (atEnd : Bool) (h0 : Fit Q U s) :
    Fit Q U (State.settleUpdate s c atEnd) := by
  unfold State.settleUpdate
  repeat' first
    | with_reducible assumption | with_reducible refine fit_ite ?_ ?_ | with_reducible apply settle_fit
    | with_reducible apply land_fit | with_reducible apply noteVolatile_fit | intro _
    | (extract_lets +onlyGivenNames z1; first | refine fit_cut z1 ?_ fun hz => ?_ | refine fit_cut z1.1 ?_ fun hz => ?_ | refine fit_cut z1.2 ?_ fun hz => ?_ | skip)
    | split | (refine fit_of ?_; dsimp only; refine fit_to ?_) | dsimp +zetaDelta only

theorem settleCmd_fit (s : State) (atEnd : Bool) (c : Cmd) (h0 : Fit Q U s) :
    Fit Q U (State.settleCmd s atEnd c) := by
  unfold State.settleCmd
  repeat' first
    | with_reducible assumption | with_reducible refine fit_ite ?_ ?_ | with_reducible apply settleLookup_fit
    | with_reducible apply settleFetch_fit | with_reducible apply settleUpdate_fit | split
    | (refine fit_of ?_; dsimp only; refine fit_to ?_)

theorem settleAll_fit (s : State) (h0 : Fit Q U s) :
    Fit Q U (State.settleAll s) := by
  unfold State.settleAll
  repeat' first
    | with_reducible assumption | with_reducible refine fit_ite ?_ ?_ | with_reducible apply fences_fit
    | with_reducible apply settleCmd_fit | with_reducible refine fit_foldl ?_ ?_ | with_reducible refine fit_foldl1 ?_ ?_
    | intro _ | (refine fit_of ?_; dsimp only; refine fit_to ?_) | dsimp +zetaDelta only

theorem settleMissing_fit (s : State) (h0 : Fit Q U s) :
    Fit Q U (State.settleMissing s) := by
  unfold State.settleMissing
  repeat' first
    | with_reducible assumption | with_reducible refine fit_ite ?_ ?_ | with_reducible apply settleCmd_fit
    | with_reducible refine fit_foldl ?_ ?_ | with_reducible refine fit_foldl1 ?_ ?_ | intro _
    | (refine fit_of ?_; dsimp only; refine fit_to ?_) | dsimp +zetaDelta only

theorem settleStats_fit (s : State) (c : Cmd) (h0 : Fit Q U s) :
    Fit Q U (State.settleStats s c) := by
  unfold State.settleStats
  repeat' first
    | with_reducible assumption | with_reducible refine fit_ite ?_ ?_ | with_reducible apply settle_fit
    | with_reducible apply land_fit | with_reducible apply statsClear_fit
    | (extract_lets +onlyGivenNames z1; first | refine fit_cut z1 ?_ fun hz => ?_ | refine fit_cut z1.st ?_ fun hz => ?_ | skip)
    | split | (refine fit_of ?_; dsimp only; refine fit_to ?_) | dsimp +zetaDelta only

theorem statsDue_fit (s : State) (h0 : Fit Q U s) :
    Fit Q U (State.statsDue s) := by
  unfold State.statsDue
  repeat' first
    | with_reducible assumption | with_reducible refine fit_ite ?_ ?_ | with_reducible apply settleStats_fit
    | with_reducible refine fit_foldl ?_ ?_ | with_reducible refine fit_foldl1 ?_ ?_ | intro _
    | (refine fit_of ?_; dsimp only; refine fit_to ?_) | dsimp +zetaDelta only

end Sys2Proof.Machine
end

