-- ==== Sys2Proof/Laws/FitPublish.lean ====
section
/-! SUPPORT. The operations of Publish.lean keep what `Fit` says. -/

namespace Sys2Proof.Machine

set_option linter.tactic.unusedName false

variable {Q : List Instr} {U : Was}

theorem markDirty_fit (s : State) (slot : Nat) (set : Handle) (row : Nat) (h0 : Fit Q U s) :
    Fit Q U (State.markDirty s slot set row) := by
  unfold State.markDirty
  repeat' first
    | with_reducible assumption | with_reducible refine fit_ite ?_ ?_ | intro _ | split
    | (refine fit_of ?_; dsimp only; refine fit_to ?_) | dsimp +zetaDelta only

theorem setBitTo_fit (s : State) (slot : Nat) (set : Handle) (x : AllowSet) (row : Nat) (b : Bool) (h0 : Fit Q U s) :
    Fit Q U (State.setBitTo s slot set x row b) := by
  unfold State.setBitTo
  repeat' first
    | with_reducible assumption | with_reducible refine fit_ite ?_ ?_ | with_reducible apply touch_fit
    | with_reducible apply markDirty_fit | intro _
    | (extract_lets +onlyGivenNames z1; first | refine fit_cut z1 ?_ fun hz => ?_ | skip) | split
    | (refine fit_of ?_; dsimp only; refine fit_to ?_)
    | (refine fit_of ?_; dsimp only; refine fitOf_mem ?_ (fit_to ?_); first | exact memWf_bitWrite _ _ _ _ | exact memWf_zeroUnits _ _ | exact fun h => memWf_memWriteN _ _ _ (memWf_memWriteN _ _ _ h))
    | dsimp +zetaDelta only

theorem tombTo_fit (s : State) (slot : Nat) (h : Handle) (row : Nat) (b : Bool) (h0 : Fit Q U s) :
    Fit Q U (State.tombTo s slot h row b) := by
  unfold State.tombTo
  repeat' first
    | with_reducible assumption | with_reducible refine fit_ite ?_ ?_ | with_reducible apply tombBit_fit
    | with_reducible apply touch_fit | (refine fit_of ?_; dsimp only; refine fit_to ?_)

theorem copyBits_fit (s : State) (slot : Nat) (h : Handle) (from_ : Nat) (dest : Nat) (h0 : Fit Q U s) :
    Fit Q U (State.copyBits s slot h from_ dest) := by
  unfold State.copyBits
  repeat' first
    | with_reducible assumption | with_reducible refine fit_ite ?_ ?_ | with_reducible apply setBitTo_fit
    | with_reducible refine fit_foldl ?_ ?_ | with_reducible refine fit_foldl1 ?_ ?_ | intro _
    | (refine fit_of ?_; dsimp only; refine fit_to ?_) | dsimp +zetaDelta only

theorem clearRow_fit (s : State) (slot : Nat) (h : Handle) (row : Nat) (h0 : Fit Q U s) :
    Fit Q U (State.clearRow s slot h row) := by
  unfold State.clearRow
  repeat' first
    | with_reducible assumption | with_reducible refine fit_ite ?_ ?_ | with_reducible apply setBitTo_fit
    | with_reducible apply tombTo_fit | with_reducible refine fit_foldl ?_ ?_ | with_reducible refine fit_foldl1 ?_ ?_ | intro _
    | (refine fit_of ?_; dsimp only; refine fit_to ?_) | dsimp +zetaDelta only

theorem publishSlot_fit (s : State) (k : GenKey) (slot : Nat) (h : Handle) (region : Nat) (list : Nat) (sl : Slot) (rb : Bytes) (copy : Option Nat) (due : Nat) (h0 : Fit Q U s) :
    Fit Q U (State.publishSlot s k slot h region list sl rb copy due) := by
  unfold State.publishSlot
  repeat' first
    | with_reducible assumption | with_reducible refine fit_ite ?_ ?_ | with_reducible apply journal_fit
    | with_reducible apply mapIndex_fit | with_reducible apply placeRecord_fit | with_reducible apply copyBits_fit | intro _
    | (extract_lets +onlyGivenNames z1; first | refine fit_cut z1 ?_ fun hz => ?_ | refine fit_cut z1.1 ?_ fun hz => ?_ | refine fit_cut z1.2 ?_ fun hz => ?_ | skip)
    | split | (refine fit_of ?_; dsimp only; refine fit_to ?_) | dsimp +zetaDelta only

theorem mapSlot_fit (s : State) (k : GenKey) (slot : Nat) (h : Handle) (region : Nat) (list : Nat) (n : Nat) (f : Slot → Slot) (h0 : Fit Q U s) :
    Fit Q U (State.mapSlot s k slot h region list n f) := by
  unfold State.mapSlot
  repeat' first
    | with_reducible assumption | with_reducible refine fit_ite ?_ ?_ | with_reducible apply mapIndex_fit | intro _
    | (refine fit_of ?_; dsimp only; refine fit_to ?_) | dsimp +zetaDelta only

theorem publishTomb_fit (s : State) (k : GenKey) (slot : Nat) (h : Handle) (region : Nat) (list : Nat) (key : Key) (due : Nat) (h0 : Fit Q U s) :
    Fit Q U (State.publishTomb s k slot h region list key due) := by
  unfold State.publishTomb
  repeat' first
    | with_reducible assumption | with_reducible refine fit_ite ?_ ?_ | with_reducible apply journal_fit
    | with_reducible apply mapIndex_fit | with_reducible apply tombTo_fit | with_reducible apply mapSlot_fit | intro _
    | (extract_lets +onlyGivenNames z1; first | refine fit_cut z1 ?_ fun hz => ?_ | skip) | split
    | (refine fit_of ?_; dsimp only; refine fit_to ?_) | dsimp +zetaDelta only

theorem publishRewrite_fit (s : State) (k : GenKey) (slot : Nat) (h : Handle) (region : Nat) (list : Nat) (key : Key) (sketch : Nat) (norm : F16) (rowsum : Int) (h0 : Fit Q U s) :
    Fit Q U (State.publishRewrite s k slot h region list key sketch norm rowsum) := by
  unfold State.publishRewrite
  repeat' first
    | with_reducible assumption | with_reducible refine fit_ite ?_ ?_ | with_reducible apply journalUndo_fit
    | with_reducible apply mapSlot_fit | intro _
    | (extract_lets +onlyGivenNames z1; first | refine fit_cut z1 ?_ fun hz => ?_ | skip) | split
    | (refine fit_of ?_; dsimp only; refine fit_to ?_) | dsimp +zetaDelta only

theorem publishLocator_fit (s : State) (slot : Nat) (h : Handle) (region : Nat) (list : Nat) (key : Key) (folio : Nat) (record : Nat) (h0 : Fit Q U s) :
    Fit Q U (State.publishLocator s slot h region list key folio record) := by
  unfold State.publishLocator
  repeat' first
    | with_reducible assumption | with_reducible refine fit_ite ?_ ?_ | with_reducible apply mapFlash_fit
    | with_reducible apply journalUndo_fit | with_reducible apply mapSlot_fit | intro _
    | (extract_lets +onlyGivenNames z1; first | refine fit_cut z1 ?_ fun hz => ?_ | skip) | split
    | (refine fit_of ?_; dsimp only; refine fit_to ?_) | dsimp +zetaDelta only

theorem publishBit_fit (s : State) (k : GenKey) (slot : Nat) (set : Handle) (region : Nat) (key : Key) (b : Bool) (h0 : Fit Q U s) :
    Fit Q U (State.publishBit s k slot set region key b) := by
  unfold State.publishBit
  repeat' first
    | with_reducible assumption | with_reducible refine fit_ite ?_ ?_ | with_reducible apply journalUndo_fit
    | with_reducible apply setBitTo_fit | intro _ | split | (refine fit_of ?_; dsimp only; refine fit_to ?_)
    | dsimp +zetaDelta only

theorem publishRow_fit (s : State) (slot : Nat) (h : Handle) (row : Nat) (img : Bytes) (put : Option Bool) (h0 : Fit Q U s) :
    Fit Q U (State.publishRow s slot h row img put) := by
  unfold State.publishRow
  repeat' first
    | with_reducible assumption | with_reducible refine fit_ite ?_ ?_ | with_reducible apply journal_fit
    | with_reducible apply mapTable_fit | with_reducible apply lead_fit | intro _
    | (extract_lets +onlyGivenNames z1; first | refine fit_cut z1 ?_ fun hz => ?_ | skip) | split
    | (refine fit_of ?_; dsimp only; refine fit_to ?_) | dsimp +zetaDelta only

theorem publishItem_fit (s : State) (y : StagedItem) (h0 : Fit Q U s) :
    Fit Q U (State.publishItem s y) := by
  unfold State.publishItem
  repeat' first
    | with_reducible assumption | with_reducible refine fit_ite ?_ ?_ | with_reducible apply publishSlot_fit
    | with_reducible apply publishTomb_fit | with_reducible apply publishRewrite_fit | with_reducible apply publishLocator_fit
    | with_reducible apply publishBit_fit | with_reducible apply publishRow_fit | split
    | (refine fit_of ?_; dsimp only; refine fit_to ?_)

theorem publishDue_fit (s : State) (h0 : Fit Q U s) :
    Fit Q U (State.publishDue s) := by
  unfold State.publishDue
  repeat' first
    | with_reducible assumption | with_reducible refine fit_ite ?_ ?_ | with_reducible apply publishItem_fit
    | with_reducible refine fit_foldl ?_ ?_ | with_reducible refine fit_foldl1 ?_ ?_ | intro _
    | (extract_lets +onlyGivenNames z1; first | refine fit_cut z1 ?_ fun hz => ?_ | refine fit_cut z1.1 ?_ fun hz => ?_ | refine fit_cut z1.2 ?_ fun hz => ?_ | refine fit_cut z1.st ?_ fun hz => ?_ | skip)
    | (refine fit_of ?_; dsimp only; refine fit_to ?_) | dsimp +zetaDelta only

theorem hasten_fit (s : State) (slot : Nat) (h : Handle) (number : Nat) (h0 : Fit Q U s) :
    Fit Q U (State.hasten s slot h number) := by
  unfold State.hasten
  repeat' first
    | with_reducible assumption | with_reducible refine fit_ite ?_ ?_ | intro _
    | (extract_lets +onlyGivenNames z1; first | refine fit_cut z1 ?_ fun hz => ?_ | refine fit_cut z1.st ?_ fun hz => ?_ | skip)
    | split | (refine fit_of ?_; dsimp only; refine fit_to ?_) | dsimp +zetaDelta only

theorem publishGen_fit (s : State) (slot : Nat) (h : Handle) (h0 : Fit Q U s) :
    Fit Q U (State.publishGen s slot h) := by
  unfold State.publishGen
  repeat' first
    | with_reducible assumption | with_reducible refine fit_ite ?_ ?_ | with_reducible apply journal_fit
    | with_reducible apply mapIndex_fit | intro _ | split | (refine fit_of ?_; dsimp only; refine fit_to ?_)
    | dsimp +zetaDelta only

theorem publishGens_fit (s : State) (h0 : Fit Q U s) :
    Fit Q U (State.publishGens s) := by
  unfold State.publishGens
  repeat' first
    | with_reducible assumption | with_reducible refine fit_ite ?_ ?_ | with_reducible apply publishGen_fit
    | with_reducible refine fit_foldl ?_ ?_ | with_reducible refine fit_foldl1 ?_ ?_ | intro _
    | (refine fit_of ?_; dsimp only; refine fit_to ?_) | dsimp +zetaDelta only

end Sys2Proof.Machine
end

