-- ==== Sys2Proof/Laws/FitCompact.lean ====
section
/-! SUPPORT. The operations of Compact.lean keep what `Fit` says. -/

namespace Sys2Proof.Machine

set_option linter.tactic.unusedName false

variable {Q : List Instr} {U : Was}

theorem schedule_fit (s : State) (h0 : Fit Q U s) :
    Fit Q U (State.schedule s) := by
  unfold State.schedule
  repeat' first
    | with_reducible assumption | with_reducible refine fit_ite ?_ ?_ | intro _
    | (extract_lets +onlyGivenNames z1; first | refine fit_cut z1 ?_ fun hz => ?_ | refine fit_cut z1.1 ?_ fun hz => ?_ | refine fit_cut z1.2 ?_ fun hz => ?_ | skip)
    | split | (refine fit_of ?_; dsimp only; refine fit_to ?_) | dsimp +zetaDelta only

theorem runOp_fit (s : State) (o : ListOp) (h0 : Fit Q U s) :
    Fit Q U (State.runOp s o) := by
  unfold State.runOp
  repeat' first
    | with_reducible assumption | with_reducible refine fit_ite ?_ ?_ | intro _
    | (extract_lets +onlyGivenNames z1; first | refine fit_cut z1 ?_ fun hz => ?_ | skip) | split
    | (refine fit_of ?_; dsimp only; refine fit_to ?_) | dsimp +zetaDelta only

theorem compactWindow_fit (s : State) (e : EaselEntry) (h0 : Fit Q U s) :
    Fit Q U (State.compactWindow s e) := by
  unfold State.compactWindow
  repeat' first
    | with_reducible assumption | with_reducible refine fit_ite ?_ ?_ | with_reducible apply coreFree_fit
    | with_reducible apply runOp_fit | with_reducible refine fit_foldl ?_ ?_ | with_reducible refine fit_foldl1 ?_ ?_ | intro _
    | (extract_lets +onlyGivenNames z1; first | refine fit_cut z1 ?_ fun hz => ?_ | skip) | split
    | (refine fit_of ?_; dsimp only; refine fit_to ?_) | dsimp +zetaDelta only

theorem publishLists_fit (s : State) (o : ListOp) (x : Index) (new : List (Nat × IList)) (h0 : Fit Q U s) :
    Fit Q U (State.publishLists s o x new) := by
  unfold State.publishLists
  repeat' first
    | with_reducible assumption | with_reducible refine fit_ite ?_ ?_ | with_reducible apply journal_fit
    | with_reducible apply mapIndex_fit | intro _
    | (extract_lets +onlyGivenNames z1; first | refine fit_cut z1 ?_ fun hz => ?_ | refine fit_cut z1.1 ?_ fun hz => ?_ | refine fit_cut z1.st ?_ fun hz => ?_ | skip)
    | split | (refine fit_of ?_; dsimp only; refine fit_to ?_) | dsimp +zetaDelta only

theorem sendEvent_fit (s : State) (o : ListOp) (h0 : Fit Q U s) :
    Fit Q U (State.sendEvent s o) := by
  unfold State.sendEvent
  repeat' first
    | with_reducible assumption | with_reducible refine fit_ite ?_ ?_ | with_reducible apply postAt_fit
    | with_reducible refine fit_foldl ?_ ?_ | with_reducible refine fit_foldl1 ?_ ?_ | intro _ | split
    | (refine fit_of ?_; dsimp only; refine fit_to ?_) | dsimp +zetaDelta only

theorem publishOp_fit (s : State) (o : ListOp) (h0 : Fit Q U s) :
    Fit Q U (State.publishOp s o) := by
  unfold State.publishOp
  repeat' first
    | with_reducible assumption | with_reducible refine fit_ite ?_ ?_ | with_reducible apply publishLists_fit
    | with_reducible apply sendEvent_fit | intro _
    | (extract_lets +onlyGivenNames z1; first | refine fit_cut z1 ?_ fun hz => ?_ | refine fit_cut z1.1 ?_ fun hz => ?_ | refine fit_cut z1.2 ?_ fun hz => ?_ | skip)
    | split | (refine fit_of ?_; dsimp only; refine fit_to ?_) | dsimp +zetaDelta only

theorem publishEvent_fit (s : State) (o : ListOp) (h0 : Fit Q U s) :
    Fit Q U (State.publishEvent s o) := by
  unfold State.publishEvent
  repeat' first
    | with_reducible assumption | with_reducible refine fit_ite ?_ ?_ | with_reducible apply publishLists_fit
    | (extract_lets +onlyGivenNames z1; first | refine fit_cut z1 ?_ fun hz => ?_ | skip) | split
    | (refine fit_of ?_; dsimp only; refine fit_to ?_) | dsimp +zetaDelta only

theorem publishOps_fit (s : State) (h0 : Fit Q U s) :
    Fit Q U (State.publishOps s) := by
  unfold State.publishOps
  repeat' first
    | with_reducible assumption | with_reducible refine fit_ite ?_ ?_ | with_reducible apply publishOp_fit
    | with_reducible apply publishEvent_fit | with_reducible refine fit_foldl ?_ ?_ | with_reducible refine fit_foldl1 ?_ ?_
    | intro _ | (extract_lets +onlyGivenNames z1; first | refine fit_cut z1 ?_ fun hz => ?_ | skip) | split
    | (refine fit_of ?_; dsimp only; refine fit_to ?_) | dsimp +zetaDelta only

theorem clearFreed_fit (s : State) (h0 : Fit Q U s) :
    Fit Q U (State.clearFreed s) := by
  unfold State.clearFreed
  repeat' first
    | with_reducible assumption | with_reducible refine fit_ite ?_ ?_ | with_reducible apply clearRow_fit
    | with_reducible refine fit_foldl ?_ ?_ | with_reducible refine fit_foldl1 ?_ ?_ | intro _
    | (refine fit_of ?_; dsimp only; refine fit_to ?_) | dsimp +zetaDelta only

theorem releaseIndex_fit (s : State) (key : Nat) (x : Index) (h0 : Fit Q U s) :
    Fit Q U (State.releaseIndex s key x) := by
  unfold State.releaseIndex
  repeat' first
    | with_reducible assumption | with_reducible refine fit_ite ?_ ?_ | with_reducible apply mapIndex_fit
    | with_reducible refine fit_foldl ?_ ?_ | with_reducible refine fit_foldl1 ?_ ?_ | intro _
    | (extract_lets +onlyGivenNames z1; first | refine fit_cut z1 ?_ fun hz => ?_ | refine fit_cut z1.2 ?_ fun hz => ?_ | skip)
    | split | (refine fit_of ?_; dsimp only; refine fit_to ?_) | dsimp +zetaDelta only

theorem releaseObjects_fit (s : State) (h0 : Fit Q U s) :
    Fit Q U (State.releaseObjects s) := by
  unfold State.releaseObjects
  repeat' first
    | with_reducible assumption | with_reducible refine fit_ite ?_ ?_ | with_reducible apply releaseIndex_fit
    | with_reducible refine fit_foldl ?_ ?_ | with_reducible refine fit_foldl1 ?_ ?_ | intro _
    | (extract_lets +onlyGivenNames z1; first | refine fit_cut z1 ?_ fun hz => ?_ | refine fit_cut z1.1 ?_ fun hz => ?_ | refine fit_cut z1.2 ?_ fun hz => ?_ | refine fit_cut z1.st ?_ fun hz => ?_ | skip)
    | (refine fit_of ?_; dsimp only; refine fit_to ?_) | dsimp +zetaDelta only

theorem sweepFolios_fit (s : State) (h0 : Fit Q U s) :
    Fit Q U (State.sweepFolios s) := by
  unfold State.sweepFolios
  repeat' first
    | with_reducible assumption | with_reducible refine fit_ite ?_ ?_ | with_reducible apply mapFlash_fit
    | with_reducible apply dropFolio_fit | with_reducible refine fit_foldl ?_ ?_ | with_reducible refine fit_foldl1 ?_ ?_
    | intro _
    | (extract_lets +onlyGivenNames z1; first | refine fit_cut z1 ?_ fun hz => ?_ | refine fit_cut z1.1 ?_ fun hz => ?_ | refine fit_cut z1.2 ?_ fun hz => ?_ | skip)
    | split | (refine fit_of ?_; dsimp only; refine fit_to ?_) | dsimp +zetaDelta only

theorem release6_fit (s : State) (h0 : Fit Q U s) :
    Fit Q U (State.release6 s) := by
  unfold State.release6
  repeat' first
    | with_reducible assumption | with_reducible refine fit_ite ?_ ?_ | with_reducible apply releaseObjects_fit
    | with_reducible apply sweepFolios_fit | (refine fit_of ?_; dsimp only; refine fit_to ?_)

end Sys2Proof.Machine
end

