-- ==== Sys2Proof/Laws/FitChannels.lean ====
section
/-! SUPPORT. The operations of Channels.lean keep what `Fit` says. -/

namespace Sys2Proof.Machine

set_option linter.tactic.unusedName false

variable {Q : List Instr} {U : Was}

theorem identifyBody_fit (g : Go) (s0 : State) (h0 : Fit Q U s0) :
    Fit Q U (identifyBody g s0).1 := by
  unfold identifyBody
  repeat' first
    | with_reducible assumption | with_reducible refine fit_ite ?_ ?_ | with_reducible apply emit_fit
    | with_reducible apply write_fit | with_reducible apply checked_fit | intro _
    | (refine fit_of ?_; dsimp only; refine fit_to ?_) | dsimp +zetaDelta only

theorem createWork_fit (g : Go) (s0 : State) (h0 : Fit Q U s0) :
    Fit Q U (createWork g s0).1 := by
  unfold createWork
  dsimp only
  refine fit_of ?_
  dsimp only
  refine fitOf_chans (sharesOk_more ?_) (fit_to (setKinds_fit _ _ _ (setKinds_fit _ _ _ h0)))
  intro x hx slot c fn e
  rw [List.mem_singleton.mp hx] at e
  cases e
  exact withinShares_zero rfl rfl

theorem channelCreateBody_fit (g : Go) (s0 : State) (h0 : Fit Q U s0) :
    Fit Q U (channelCreateBody g s0).1 := by
  unfold channelCreateBody
  repeat' first
    | with_reducible assumption | with_reducible refine fit_ite ?_ ?_ | with_reducible apply checked_fit
    | with_reducible apply createWork_fit | intro _ | (refine fit_of ?_; dsimp only; refine fit_to ?_) | dsimp +zetaDelta only

theorem channelDestroyBody_fit (g : Go) (s0 : State) (h0 : Fit Q U s0) :
    Fit Q U (channelDestroyBody g s0).1 := by
  unfold channelDestroyBody
  repeat' first
    | with_reducible assumption | with_reducible refine fit_ite ?_ ?_ | with_reducible apply checked_fit
    | (refine fit_of ?_; dsimp only; refine fitOf_chans ?_ (fit_to ?_); first | exact sharesOk_done | exact sharesOk_more (by simp))
    | intro _ | split | (refine fit_of ?_; dsimp only; refine fit_to ?_) | dsimp +zetaDelta only

theorem channelResetBody_fit (g : Go) (s0 : State) (h0 : Fit Q U s0) :
    Fit Q U (channelResetBody g s0).1 := by
  unfold channelResetBody
  repeat' first
    | with_reducible assumption | with_reducible refine fit_ite ?_ ?_ | with_reducible apply checked_fit
    | with_reducible apply withChan_fit
    | (refine fit_of ?_; dsimp only; refine fitOf_chans ?_ (fit_to ?_); first | exact sharesOk_done | exact sharesOk_more (by simp))
    | intro _ | (refine fit_of ?_; dsimp only; refine fit_to ?_) | dsimp +zetaDelta only

theorem release_fit (s : State) (slot : Nat) (c : Chan) (h0 : Fit Q U s) :
    Fit Q U (State.release s slot c) := by
  unfold State.release
  repeat' first
    | with_reducible assumption | with_reducible refine fit_ite ?_ ?_ | with_reducible apply dropFolio_fit
    | with_reducible apply setKinds_fit | with_reducible refine fit_foldl ?_ ?_ | with_reducible refine fit_foldl1 ?_ ?_
    | intro _
    | (extract_lets +onlyGivenNames z1; first | refine fit_cut z1 ?_ fun hz => ?_ | refine fit_cut z1.1 ?_ fun hz => ?_ | refine fit_cut z1.2 ?_ fun hz => ?_ | refine fit_cut z1.st ?_ fun hz => ?_ | skip)
    | split | (refine fit_of ?_; dsimp only; refine fit_to ?_) | dsimp +zetaDelta only

theorem dropWork_fit (s : State) (slot : Nat) (h0 : Fit Q U s) :
    Fit Q U (State.dropWork s slot) := by
  unfold State.dropWork
  repeat' first
    | with_reducible assumption | with_reducible refine fit_ite ?_ ?_ | intro _ | split
    | (refine fit_of ?_; dsimp only; refine fit_to ?_) | dsimp +zetaDelta only

theorem applyFault_fit (s : State) (slot : Nat) (causes : List (Nat × Nat)) (h0 : Fit Q U s) :
    Fit Q U (State.applyFault s slot causes) := by
  unfold State.applyFault
  repeat' first
    | with_reducible assumption | with_reducible refine fit_ite ?_ ?_ | with_reducible apply logAdd_fit
    | with_reducible apply faultRecordOf_fit | with_reducible apply raiseChan_fit
    | (refine fit_of ?_; dsimp only; refine fitOf_chans ?_ (fit_to ?_); first | exact sharesOk_map fun _ hx => hx | (refine sharesOk_put (by assumption) ?_; exact fun hx => hx) | exact sharesOk_tdel | exact sharesOk_map (fun _ _ => withinShares_zero rfl rfl) | exact sharesOk_map (fun _ hx => withinShares_noReissue hx rfl rfl rfl) | exact sharesOk_map (fun _ hx => withinShares_frameStart hx rfl rfl rfl))
    | with_reducible refine fit_foldl ?_ ?_ | with_reducible refine fit_foldl1 ?_ ?_ | intro _
    | (extract_lets +onlyGivenNames z1; first | refine fit_cut z1 ?_ fun hz => ?_ | refine fit_cut z1.1 ?_ fun hz => ?_ | refine fit_cut z1.2 ?_ fun hz => ?_ | refine fit_cut z1.st ?_ fun hz => ?_ | skip)
    | split | (refine fit_of ?_; dsimp only; refine fit_to ?_) | dsimp +zetaDelta only

theorem applyReset_fit (s : State) (slot : Nat) (rings : List Ring) (fn : Nat) (h0 : Fit Q U s) :
    Fit Q U (State.applyReset s slot rings fn) := by
  unfold State.applyReset
  repeat' first
    | with_reducible assumption | with_reducible refine fit_ite ?_ ?_ | with_reducible apply setMb_fit
    | with_reducible apply mbEnd_fit | with_reducible apply id_fit | with_reducible apply dropWork_fit
    | (refine fit_of ?_; dsimp only; refine fitOf_chans ?_ (fit_to ?_); first | exact sharesOk_map fun _ hx => hx | (refine sharesOk_put (by assumption) ?_; exact fun hx => hx) | exact sharesOk_tdel | exact sharesOk_map (fun _ _ => withinShares_zero rfl rfl) | exact sharesOk_map (fun _ hx => withinShares_noReissue hx rfl rfl rfl) | exact sharesOk_map (fun _ hx => withinShares_frameStart hx rfl rfl rfl))
    | intro _
    | (extract_lets +onlyGivenNames z1; first | refine fit_cut z1 ?_ fun hz => ?_ | refine fit_cut z1.st ?_ fun hz => ?_ | skip)
    | split | (refine fit_of ?_; dsimp only; refine fit_to ?_) | dsimp +zetaDelta only

theorem applyDestroy_fit (s : State) (slot : Nat) (fn : Nat) (h0 : Fit Q U s) :
    Fit Q U (State.applyDestroy s slot fn) := by
  unfold State.applyDestroy
  repeat' first
    | with_reducible assumption | with_reducible refine fit_ite ?_ ?_ | with_reducible apply mbEnd_fit
    | with_reducible apply id_fit | with_reducible apply release_fit | with_reducible apply dropWork_fit
    | (refine fit_of ?_; dsimp only; refine fitOf_chans ?_ (fit_to ?_); first | exact sharesOk_map fun _ hx => hx | (refine sharesOk_put (by assumption) ?_; exact fun hx => hx) | exact sharesOk_tdel | exact sharesOk_map (fun _ _ => withinShares_zero rfl rfl) | exact sharesOk_map (fun _ hx => withinShares_noReissue hx rfl rfl rfl) | exact sharesOk_map (fun _ hx => withinShares_frameStart hx rfl rfl rfl))
    | (extract_lets +onlyGivenNames z1; first | refine fit_cut z1 ?_ fun hz => ?_ | skip) | split
    | (refine fit_of ?_; dsimp only; refine fit_to ?_) | dsimp +zetaDelta only

theorem applyCreate_fit (s : State) (slot : Nat) (c : Chan) (fn : Nat) (h0 : Fit Q U s) (hc : U.good → c.withinShares) :
    Fit Q U (State.applyCreate s slot c fn) := by
  unfold State.applyCreate
  refine mbEnd_fit _ _ _ (fit_of ?_)
  dsimp only
  obtain ⟨h1, h2, h3⟩ := fit_to h0
  exact ⟨h1, h2, fun k => ⟨(h3 k).1, (h3 k).2.1, sharesOk_tput (hc k) (h3 k).2.2⟩⟩

theorem applyChange_fit (s : State) (x : ChanChange) (h0 : Fit Q U s)
    (hc : U.good → ∀ slot c fn, x = .create slot c fn → c.withinShares) : Fit Q U (State.applyChange s x) := by
  unfold State.applyChange
  split
  · exact applyCreate_fit _ _ _ _ h0 fun k => hc k _ _ _ rfl
  · exact applyDestroy_fit _ _ _ h0
  · exact applyReset_fit _ _ _ _ h0
  · exact h0
  · exact detach_fit _ _ h0

theorem applyChanges_fit (s : State) (h0 : Fit Q U s) : Fit Q U (State.applyChanges s) := by
  unfold State.applyChanges
  dsimp only
  refine fit_foldlMem (fit_foldl ?_ fun a x ha => applyFault_fit _ _ _ ha) fun a x hx ha => ?_
  · refine fit_of ?_
    dsimp only
    exact fitOf_chans sharesOk_done (fit_to h0)
  · exact applyChange_fit _ _ ha fun k => ((fit_to h0).2.2 k).2.2.2 x hx

end Sys2Proof.Machine
end

