-- ==== Sys2Proof/Laws/FitFlash.lean ====
section
/-! SUPPORT. The operations of Flash.lean keep what `Fit` says. -/

namespace Sys2Proof.Machine

set_option linter.tactic.unusedName false

variable {Q : List Instr} {U : Was}

theorem countFolio_fit (s : State) (folio : Nat) (counter : Nat) (n : Nat) (h0 : Fit Q U s) :
    Fit Q U (State.countFolio s folio counter n) := by
  unfold State.countFolio
  repeat' first
    | with_reducible assumption | with_reducible refine fit_ite ?_ ?_ | with_reducible apply account_fit | split
    | (refine fit_of ?_; dsimp only; refine fit_to ?_)

theorem loseDies_fit (s : State) (ds : List Nat) (h0 : Fit Q U s) :
    Fit Q U (State.loseDies s ds) := by
  unfold State.loseDies
  repeat' first
    | with_reducible assumption | with_reducible refine fit_ite ?_ ?_ | with_reducible apply mapFlash_fit
    | with_reducible apply setMap_fit | with_reducible refine fit_foldl ?_ ?_ | with_reducible refine fit_foldl1 ?_ ?_ | intro _
    | (extract_lets +onlyGivenNames z1; first | refine fit_cut z1 ?_ fun hz => ?_ | refine fit_cut z1.1 ?_ fun hz => ?_ | refine fit_cut z1.2 ?_ fun hz => ?_ | refine fit_cut z1.st ?_ fun hz => ?_ | skip)
    | split | (refine fit_of ?_; dsimp only; refine fit_to ?_) | dsimp +zetaDelta only

theorem retireFlash_fit (s : State) (chan : Nat) (cause : Nat) (h0 : Fit Q U s) :
    Fit Q U (State.retireFlash s chan cause) := by
  unfold State.retireFlash
  repeat' first
    | with_reducible assumption | with_reducible refine fit_ite ?_ ?_ | with_reducible apply faultRecord_fit
    | with_reducible apply raiseNode_fit | with_reducible apply mapFlash_fit | with_reducible apply loseDies_fit | intro _
    | (extract_lets +onlyGivenNames z1; first | refine fit_cut z1 ?_ fun hz => ?_ | skip) | split
    | (refine fit_of ?_; dsimp only; refine fit_to ?_) | dsimp +zetaDelta only

theorem retireBlock_fit (s : State) (die : Nat) (b : Nat) (cause : Nat) (h0 : Fit Q U s) :
    Fit Q U (State.retireBlock s die b cause) := by
  unfold State.retireBlock
  repeat' first
    | with_reducible assumption | with_reducible refine fit_ite ?_ ?_ | with_reducible apply faultRecord_fit
    | with_reducible apply mapFlash_fit | with_reducible apply nodeEntry_fit | with_reducible apply loseDies_fit | intro _
    | (extract_lets +onlyGivenNames z1; first | refine fit_cut z1 ?_ fun hz => ?_ | skip) | split
    | (refine fit_of ?_; dsimp only; refine fit_to ?_) | dsimp +zetaDelta only

theorem moveFolio_fit (s : State) (die : Nat) (p : Nat × MapEntry) (h0 : Fit Q U s) :
    Fit Q U (State.moveFolio s die p) := by
  unfold State.moveFolio
  repeat' first
    | with_reducible assumption | with_reducible refine fit_ite ?_ ?_ | with_reducible apply setMap_fit
    | with_reducible apply takePlace_fit | with_reducible apply countFolio_fit | split
    | (refine fit_of ?_; dsimp only; refine fit_to ?_)

theorem moveInto_fit (s : State) (die : Nat) (blk : Nat) (p : Nat × MapEntry) (h0 : Fit Q U s) :
    Fit Q U (State.moveInto s die blk p) := by
  unfold State.moveInto
  repeat' first
    | with_reducible assumption | with_reducible refine fit_ite ?_ ?_ | with_reducible apply mapFlash_fit
    | with_reducible apply setMap_fit | with_reducible apply countFolio_fit | intro _
    | (extract_lets +onlyGivenNames z1; first | refine fit_cut z1 ?_ fun hz => ?_ | refine fit_cut z1.1 ?_ fun hz => ?_ | refine fit_cut z1.2 ?_ fun hz => ?_ | skip)
    | (refine fit_of ?_; dsimp only; refine fit_to ?_) | dsimp +zetaDelta only

theorem emptyBlock_fit (s : State) (die : Nat) (b : Nat) (into : Option Nat := none) (h0 : Fit Q U s) :
    Fit Q U (State.emptyBlock s die b into) := by
  unfold State.emptyBlock
  repeat' first
    | with_reducible assumption | with_reducible refine fit_ite ?_ ?_ | with_reducible apply mapFlash_fit
    | with_reducible apply moveFolio_fit | with_reducible apply moveInto_fit | with_reducible refine fit_foldl ?_ ?_
    | with_reducible refine fit_foldl1 ?_ ?_ | intro _
    | (extract_lets +onlyGivenNames z1; first | refine fit_cut z1 ?_ fun hz => ?_ | skip) | split
    | (refine fit_of ?_; dsimp only; refine fit_to ?_) | dsimp +zetaDelta only

theorem dieWork_fit (s : State) (die : Nat) (h0 : Fit Q U s) :
    Fit Q U (State.dieWork s die) := by
  unfold State.dieWork
  repeat' first
    | with_reducible assumption | with_reducible refine fit_ite ?_ ?_ | with_reducible apply free_fit
    | with_reducible apply mapFlash_fit | with_reducible apply emptyBlock_fit | with_reducible refine fit_foldl ?_ ?_
    | with_reducible refine fit_foldl1 ?_ ?_ | intro _
    | (extract_lets +onlyGivenNames z1; first | refine fit_cut z1 ?_ fun hz => ?_ | refine fit_cut z1.1 ?_ fun hz => ?_ | refine fit_cut z1.2 ?_ fun hz => ?_ | skip)
    | split | (refine fit_of ?_; dsimp only; refine fit_to ?_) | dsimp +zetaDelta only

theorem startProg_fit (s : State) (p : FProg) (h0 : Fit Q U s) :
    Fit Q U (State.startProg s p) := by
  unfold State.startProg
  repeat' first
    | with_reducible assumption | with_reducible refine fit_ite ?_ ?_ | with_reducible apply mapFlash_fit
    | with_reducible apply id_fit | intro _ | (refine fit_of ?_; dsimp only; refine fit_to ?_) | dsimp +zetaDelta only

theorem journalWork_fit (s : State) (h0 : Fit Q U s) :
    Fit Q U (State.journalWork s) := by
  unfold State.journalWork
  repeat' first
    | with_reducible assumption | with_reducible refine fit_ite ?_ ?_ | with_reducible apply account_fit
    | with_reducible apply startProg_fit | with_reducible refine fit_foldl ?_ ?_ | with_reducible refine fit_foldl1 ?_ ?_
    | intro _
    | (extract_lets +onlyGivenNames z1; first | refine fit_cut z1 ?_ fun hz => ?_ | refine fit_cut z1.st ?_ fun hz => ?_ | skip)
    | split | (refine fit_of ?_; dsimp only; refine fit_to ?_) | dsimp +zetaDelta only

theorem quireWork_fit (s : State) (h0 : Fit Q U s) :
    Fit Q U (State.quireWork s) := by
  unfold State.quireWork
  repeat' first
    | with_reducible assumption | with_reducible refine fit_ite ?_ ?_ | with_reducible apply id_fit
    | with_reducible apply startProg_fit | with_reducible refine fit_foldl ?_ ?_ | with_reducible refine fit_foldl1 ?_ ?_
    | intro _ | split | (refine fit_of ?_; dsimp only; refine fit_to ?_) | dsimp +zetaDelta only

theorem rebuildWork_fit (s : State) (h0 : Fit Q U s) :
    Fit Q U (State.rebuildWork s) := by
  unfold State.rebuildWork
  repeat' first
    | with_reducible assumption | with_reducible refine fit_ite ?_ ?_ | with_reducible apply mapFlash_fit
    | with_reducible apply takePlace_fit | with_reducible apply startProg_fit | with_reducible refine fit_foldl ?_ ?_
    | with_reducible refine fit_foldl1 ?_ ?_ | intro _
    | (extract_lets +onlyGivenNames z1; first | refine fit_cut z1 ?_ fun hz => ?_ | refine fit_cut z1.st ?_ fun hz => ?_ | skip)
    | split | (refine fit_of ?_; dsimp only; refine fit_to ?_) | dsimp +zetaDelta only

theorem folioWork_fit (s : State) (folio : Nat) (h0 : Fit Q U s) :
    Fit Q U (State.folioWork s folio) := by
  unfold State.folioWork
  repeat' first
    | with_reducible assumption | with_reducible refine fit_ite ?_ ?_ | with_reducible apply takePlace_fit
    | with_reducible apply countFolio_fit | with_reducible apply startProg_fit | intro _
    | (extract_lets +onlyGivenNames z1; first | refine fit_cut z1 ?_ fun hz => ?_ | refine fit_cut z1.st ?_ fun hz => ?_ | skip)
    | split | (refine fit_of ?_; dsimp only; refine fit_to ?_) | dsimp +zetaDelta only

theorem foldWork_fit (s : State) (h0 : Fit Q U s) :
    Fit Q U (State.foldWork s) := by
  unfold State.foldWork
  repeat' first
    | with_reducible assumption | with_reducible refine fit_ite ?_ ?_ | with_reducible apply takePlace_fit
    | with_reducible apply countFolio_fit | with_reducible apply startProg_fit | with_reducible refine fit_foldl ?_ ?_
    | with_reducible refine fit_foldl1 ?_ ?_ | intro _
    | (extract_lets +onlyGivenNames z1; first | refine fit_cut z1 ?_ fun hz => ?_ | refine fit_cut z1.1 ?_ fun hz => ?_ | refine fit_cut z1.2 ?_ fun hz => ?_ | refine fit_cut z1.st ?_ fun hz => ?_ | skip)
    | split | (refine fit_of ?_; dsimp only; refine fit_to ?_) | dsimp +zetaDelta only

theorem mapWork_fit (s : State) (h0 : Fit Q U s) :
    Fit Q U (State.mapWork s) := by
  unfold State.mapWork
  repeat' first
    | with_reducible assumption | with_reducible refine fit_ite ?_ ?_ | with_reducible apply mapFlash_fit
    | with_reducible apply startProg_fit | with_reducible refine fit_foldl ?_ ?_ | with_reducible refine fit_foldl1 ?_ ?_
    | intro _ | (refine fit_of ?_; dsimp only; refine fit_to ?_) | dsimp +zetaDelta only

theorem captureWork_fit (s : State) (slot : Nat) (h : Handle) (h0 : Fit Q U s) :
    Fit Q U (State.captureWork s slot h) := by
  unfold State.captureWork
  repeat' first
    | with_reducible assumption | with_reducible refine fit_ite ?_ ?_ | with_reducible apply startProg_fit
    | with_reducible refine fit_foldl ?_ ?_ | with_reducible refine fit_foldl1 ?_ ?_ | intro _ | split
    | (refine fit_of ?_; dsimp only; refine fit_to ?_) | dsimp +zetaDelta only

theorem passWork_fit (s : State) (slot : Nat) (h : Handle) (h0 : Fit Q U s) :
    Fit Q U (State.passWork s slot h) := by
  unfold State.passWork
  repeat' first
    | with_reducible assumption | with_reducible refine fit_ite ?_ ?_ | with_reducible apply account_fit
    | with_reducible apply takePlace_fit | with_reducible apply startProg_fit | intro _
    | (extract_lets +onlyGivenNames z1; first | refine fit_cut z1 ?_ fun hz => ?_ | refine fit_cut z1.st ?_ fun hz => ?_ | skip)
    | split | (refine fit_of ?_; dsimp only; refine fit_to ?_) | dsimp +zetaDelta only

theorem splitReads_fit (s : State) (slot : Nat) (h0 : Fit Q U s) :
    Fit Q U (State.splitReads s slot) := by
  unfold State.splitReads
  repeat' first
    | with_reducible assumption | with_reducible refine fit_ite ?_ ?_ | with_reducible apply account_fit
    | with_reducible refine fit_foldl ?_ ?_ | with_reducible refine fit_foldl1 ?_ ?_ | intro _
    | (extract_lets +onlyGivenNames z1; first | refine fit_cut z1 ?_ fun hz => ?_ | skip) | split
    | (refine fit_of ?_; dsimp only; refine fit_to ?_) | dsimp +zetaDelta only

theorem sparseWork_fit (s : State) (slot : Nat) (h0 : Fit Q U s) :
    Fit Q U (State.sparseWork s slot) := by
  unfold State.sparseWork
  repeat' first
    | with_reducible assumption | with_reducible refine fit_ite ?_ ?_ | with_reducible apply account_fit
    | with_reducible apply placeRecord_fit | with_reducible refine fit_foldl ?_ ?_ | with_reducible refine fit_foldl1 ?_ ?_
    | intro _
    | (extract_lets +onlyGivenNames z1; first | refine fit_cut z1 ?_ fun hz => ?_ | refine fit_cut z1.1 ?_ fun hz => ?_ | refine fit_cut z1.2 ?_ fun hz => ?_ | refine fit_cut z1.st ?_ fun hz => ?_ | skip)
    | split | (refine fit_of ?_; dsimp only; refine fit_to ?_) | dsimp +zetaDelta only

theorem startRead_fit (s : State) (folio : Nat) (m : MapEntry) (back : Nat) (h0 : Fit Q U s) :
    Fit Q U (State.startRead s folio m back) := by
  unfold State.startRead
  repeat' first
    | with_reducible assumption | with_reducible refine fit_ite ?_ ?_ | with_reducible apply mapFlash_fit
    | with_reducible apply id_fit | intro _ | (refine fit_of ?_; dsimp only; refine fit_to ?_) | dsimp +zetaDelta only

theorem verifyWork_fit (s : State) (die : Nat) (h0 : Fit Q U s) :
    Fit Q U (State.verifyWork s die) := by
  unfold State.verifyWork
  repeat' first
    | with_reducible assumption | with_reducible refine fit_ite ?_ ?_ | with_reducible apply checked_fit
    | with_reducible apply startRead_fit | intro _ | split | (refine fit_of ?_; dsimp only; refine fit_to ?_)
    | dsimp +zetaDelta only

theorem patrolWork_fit (s : State) (ok : Nat → Bool) (h0 : Fit Q U s) :
    Fit Q U (State.patrolWork s ok) := by
  unfold State.patrolWork
  repeat' first
    | with_reducible assumption | with_reducible refine fit_ite ?_ ?_ | with_reducible apply mapFlash_fit
    | with_reducible apply startRead_fit | intro _
    | (extract_lets +onlyGivenNames z1; first | refine fit_cut z1 ?_ fun hz => ?_ | refine fit_cut z1.1 ?_ fun hz => ?_ | refine fit_cut z1.2 ?_ fun hz => ?_ | refine fit_cut z1.st ?_ fun hz => ?_ | skip)
    | split | (refine fit_of ?_; dsimp only; refine fit_to ?_) | dsimp +zetaDelta only

theorem backWork_fit (s : State) (slots : List Nat) (ok : Nat → Bool) (h0 : Fit Q U s) :
    Fit Q U (State.backWork s slots ok) := by
  unfold State.backWork
  repeat' first
    | with_reducible assumption | with_reducible refine fit_ite ?_ ?_ | with_reducible apply mapFlash_fit
    | with_reducible apply dieWork_fit | with_reducible apply journalWork_fit | with_reducible apply quireWork_fit
    | with_reducible apply rebuildWork_fit | with_reducible apply folioWork_fit | with_reducible apply foldWork_fit
    | with_reducible apply mapWork_fit | with_reducible apply captureWork_fit | with_reducible apply passWork_fit
    | with_reducible apply splitReads_fit | with_reducible apply sparseWork_fit | with_reducible apply verifyWork_fit
    | with_reducible apply patrolWork_fit | with_reducible refine fit_foldl ?_ ?_ | with_reducible refine fit_foldl1 ?_ ?_
    | intro _
    | (extract_lets +onlyGivenNames z1; first | refine fit_cut z1 ?_ fun hz => ?_ | refine fit_cut z1.1 ?_ fun hz => ?_ | refine fit_cut z1.st ?_ fun hz => ?_ | skip)
    | split | (refine fit_of ?_; dsimp only; refine fit_to ?_) | dsimp +zetaDelta only

theorem background_fit (s : State) (e : EaselEntry) (h0 : Fit Q U s) :
    Fit Q U (State.background s e) := by
  unfold State.background
  repeat' first
    | with_reducible assumption | with_reducible refine fit_ite ?_ ?_ | with_reducible apply mapFlash_fit
    | with_reducible apply backWork_fit | intro _ | (refine fit_of ?_; dsimp only; refine fit_to ?_) | dsimp +zetaDelta only

theorem fill_fit (s : State) (e : EaselEntry) (h0 : Fit Q U s) :
    Fit Q U (State.fill s e) := by
  unfold State.fill
  repeat' first
    | with_reducible assumption | with_reducible refine fit_ite ?_ ?_ | with_reducible apply mapFlash_fit
    | with_reducible apply dieWork_fit | with_reducible apply folioWork_fit | with_reducible apply splitReads_fit
    | with_reducible apply verifyWork_fit | with_reducible apply patrolWork_fit | with_reducible refine fit_foldl ?_ ?_
    | with_reducible refine fit_foldl1 ?_ ?_ | intro _
    | (extract_lets +onlyGivenNames z1; first | refine fit_cut z1 ?_ fun hz => ?_ | refine fit_cut z1.1 ?_ fun hz => ?_ | refine fit_cut z1.st ?_ fun hz => ?_ | skip)
    | split | (refine fit_of ?_; dsimp only; refine fit_to ?_) | dsimp +zetaDelta only

end Sys2Proof.Machine
end

