-- ==== Sys2Proof/Laws/FitSets.lean ====
section
/-! SUPPORT. The operations of Sets.lean keep what `Fit` says. -/

namespace Sys2Proof.Machine

set_option linter.tactic.unusedName false

variable {Q : List Instr} {U : Was}

theorem saveSectors_within (arg : Nat) (ks : List Nat) (x : Chan) (hx : x.withinShares) :
    (ks.foldl (Chan.saveSector arg) x).withinShares := by
  induction ks generalizing x with
  | nil => exact hx
  | cons k r ih =>
    refine ih _ ?_
    unfold Chan.saveSector
    split
    · exact hx
    · exact hx

theorem writeChunk_fit (s : State) (units : List Nat) (i : Nat) (b : Bytes) (h0 : Fit Q U s) :
    Fit Q U (State.writeChunk s units i b) := by
  unfold State.writeChunk
  repeat' first
    | with_reducible assumption | with_reducible refine fit_ite ?_ ?_
    | (extract_lets +onlyGivenNames z1; first | refine fit_cut z1 ?_ fun hz => ?_ | skip)
    | (refine fit_of ?_; dsimp only; refine fit_to ?_)
    | (refine fit_of ?_; dsimp only; refine fitOf_mem ?_ (fit_to ?_); first | exact memWf_bitWrite _ _ _ _ | exact memWf_zeroUnits _ _ | exact fun h => memWf_memWriteN _ _ _ (memWf_memWriteN _ _ _ h))
    | dsimp +zetaDelta only

theorem refuseSet_fit (s : State) (op : Nat) (slot : Nat) (x : AllowSet) (h0 : Fit Q U s) :
    Fit Q U (State.refuseSet s op slot x) := by
  unfold State.refuseSet
  repeat' first
    | with_reducible assumption | with_reducible refine fit_ite ?_ ?_ | with_reducible apply nbRefuse_fit | intro _ | split
    | (refine fit_of ?_; dsimp only; refine fit_to ?_) | dsimp +zetaDelta only

theorem combineChunk_fit (key : Nat) (slot : Nat) (x : AllowSet) (r : CombineRun) (i : Nat) (h0 : Fit Q U r.st) :
    Fit Q U (combineChunk key slot x r i).st := by
  unfold combineChunk
  repeat' first
    | with_reducible assumption | with_reducible refine fit_ite ?_ ?_ | with_reducible apply account_fit
    | with_reducible apply readChunk_fit | with_reducible apply rebuilt_fit | with_reducible apply writeChunk_fit
    | with_reducible refine fit_foldl ?_ ?_ | with_reducible refine fit_foldl1 ?_ ?_
    | with_reducible refine fit_foldlOf CombineRun.st ?_ ?_ | intro _
    | (extract_lets +onlyGivenNames z1; first | refine fit_cut z1 ?_ fun hz => ?_ | refine fit_cut z1.1 ?_ fun hz => ?_ | refine fit_cut z1.2 ?_ fun hz => ?_ | refine fit_cut z1.st ?_ fun hz => ?_ | skip)
    | split | (refine fit_of ?_; dsimp only; refine fit_to ?_) | dsimp +zetaDelta only

theorem combineSet_fit (slot : Nat) (r : CombineRun) (key : Nat) (h0 : Fit Q U r.st) :
    Fit Q U (combineSet slot r key).st := by
  unfold combineSet
  repeat' first
    | with_reducible assumption | with_reducible refine fit_ite ?_ ?_ | with_reducible apply refuseSet_fit
    | with_reducible apply combineChunk_fit | with_reducible refine fit_foldl ?_ ?_ | with_reducible refine fit_foldl1 ?_ ?_
    | with_reducible refine fit_foldlOf CombineRun.st ?_ ?_ | intro _
    | (extract_lets +onlyGivenNames z1; first | refine fit_cut z1 ?_ fun hz => ?_ | refine fit_cut z1.1 ?_ fun hz => ?_ | refine fit_cut z1.2 ?_ fun hz => ?_ | refine fit_cut z1.st ?_ fun hz => ?_ | skip)
    | split | (refine fit_of ?_; dsimp only; refine fit_to ?_) | dsimp +zetaDelta only

theorem initSet_fit (slot : Nat) (r : CombineRun) (key : Nat) (h0 : Fit Q U r.st) :
    Fit Q U (initSet slot r key).st := by
  unfold initSet
  repeat' first
    | with_reducible assumption | with_reducible refine fit_ite ?_ ?_ | with_reducible apply account_fit
    | with_reducible apply refuseSet_fit | intro _
    | (extract_lets +onlyGivenNames z1; first | refine fit_cut z1 ?_ fun hz => ?_ | refine fit_cut z1.st ?_ fun hz => ?_ | skip)
    | split | (refine fit_of ?_; dsimp only; refine fit_to ?_)
    | (refine fit_of ?_; dsimp only; refine fitOf_mem ?_ (fit_to ?_); first | exact memWf_bitWrite _ _ _ _ | exact memWf_zeroUnits _ _ | exact fun h => memWf_memWriteN _ _ _ (memWf_memWriteN _ _ _ h))
    | dsimp +zetaDelta only

theorem combineWindow_fit (s : State) (e : EaselEntry) (h0 : Fit Q U s) :
    Fit Q U (State.combineWindow s e) := by
  unfold State.combineWindow
  repeat' first
    | with_reducible assumption | with_reducible refine fit_ite ?_ ?_ | with_reducible apply combineSet_fit
    | with_reducible apply initSet_fit | with_reducible refine fit_foldl ?_ ?_ | with_reducible refine fit_foldl1 ?_ ?_
    | with_reducible refine fit_foldlOf CombineRun.st ?_ ?_ | intro _
    | (extract_lets +onlyGivenNames z1; first | refine fit_cut z1 ?_ fun hz => ?_ | refine fit_cut z1.st ?_ fun hz => ?_ | skip)
    | split | (refine fit_of ?_; dsimp only; refine fit_to ?_) | dsimp +zetaDelta only

theorem setsEnd_fit (s : State) (h0 : Fit Q U s) :
    Fit Q U (State.setsEnd s) := by
  unfold State.setsEnd
  repeat' first
    | with_reducible assumption | with_reducible refine fit_ite ?_ ?_ | intro _
    | (extract_lets +onlyGivenNames z1; first | refine fit_cut z1 ?_ fun hz => ?_ | refine fit_cut z1.1 ?_ fun hz => ?_ | refine fit_cut z1.2 ?_ fun hz => ?_ | refine fit_cut z1.st ?_ fun hz => ?_ | skip)
    | split | (refine fit_of ?_; dsimp only; refine fit_to ?_) | dsimp +zetaDelta only

theorem rebuildChunks_fit (s : State) (h0 : Fit Q U s) :
    Fit Q U (State.rebuildChunks s) := by
  unfold State.rebuildChunks
  repeat' first
    | with_reducible assumption | with_reducible refine fit_ite ?_ ?_ | with_reducible apply rebuilt_fit
    | with_reducible apply writeChunk_fit | with_reducible refine fit_foldl ?_ ?_ | with_reducible refine fit_foldl1 ?_ ?_
    | with_reducible refine fit_foldlOf CombineRun.st ?_ ?_ | intro _
    | (extract_lets +onlyGivenNames z1; first | refine fit_cut z1 ?_ fun hz => ?_ | refine fit_cut z1.1 ?_ fun hz => ?_ | refine fit_cut z1.2 ?_ fun hz => ?_ | skip)
    | split | (refine fit_of ?_; dsimp only; refine fit_to ?_) | dsimp +zetaDelta only

theorem swapSave_fit (s : State) (e : EaselEntry) (h0 : Fit Q U s) :
    Fit Q U (State.swapSave s e) := by
  unfold State.swapSave
  split
  · exact h0
  · refine fit_ite h0 (fit_ite (fault_fit _ _ _ _ h0) ?_)
    exact account_fit _ _ _ _ (mapChan_fit _ _ _ h0 fun x _ hx => saveSectors_within _ _ x hx)

theorem swapRestore_fit (s : State) (e : EaselEntry) (uncorrectable : Bool) (h0 : Fit Q U s) :
    Fit Q U (State.swapRestore s e uncorrectable) := by
  unfold State.swapRestore
  split
  · exact h0
  · refine fit_ite h0 (fit_ite (fault_fit _ _ _ _ h0) ?_)
    dsimp only
    refine account_fit _ _ _ _ (mapChan_fit _ _ _ (fit_of ?_) fun _ _ hx => hx)
    dsimp only
    exact fitOf_chans (sharesOk_map fun x hx => hx) (fit_to h0)

end Sys2Proof.Machine
end

