-- ==== Sys2Proof/Laws/FitCutoff.lean ====
section
/-! SUPPORT. The operations of Cutoff.lean keep what `Fit` says. -/

namespace Sys2Proof.Machine

set_option linter.tactic.unusedName false

variable {Q : List Instr} {U : Was}

theorem cutWritten_fit (s : State) (c : Cmd) (h0 : Fit Q U s) :
    Fit Q U (State.cutWritten s c) := by
  unfold State.cutWritten
  repeat' first
    | with_reducible assumption | with_reducible refine fit_ite ?_ ?_ | with_reducible refine fit_foldl ?_ ?_
    | with_reducible refine fit_foldl1 ?_ ?_ | intro _
    | (extract_lets +onlyGivenNames z1; first | refine fit_cut z1 ?_ fun hz => ?_ | refine fit_cut z1.1 ?_ fun hz => ?_ | refine fit_cut z1.2 ?_ fun hz => ?_ | skip)
    | split | (refine fit_of ?_; dsimp only; refine fit_to ?_) | dsimp +zetaDelta only

theorem resultDeadline_fit (s : State) (cmds : List (Nat × Nat)) (h0 : Fit Q U s) :
    Fit Q U (State.resultDeadline s cmds) := by
  unfold State.resultDeadline
  repeat' first
    | with_reducible assumption | with_reducible refine fit_ite ?_ ?_ | with_reducible apply land_fit
    | with_reducible apply cutWritten_fit | with_reducible refine fit_foldl ?_ ?_ | with_reducible refine fit_foldl1 ?_ ?_
    | intro _ | (extract_lets +onlyGivenNames z1; first | refine fit_cut z1 ?_ fun hz => ?_ | skip)
    | (refine fit_of ?_; dsimp only; refine fit_to ?_) | dsimp +zetaDelta only

theorem lateQuery_fit (s : State) (q : OwnerQ) (h0 : Fit Q U s) :
    Fit Q U (State.lateQuery s q) := by
  unfold State.lateQuery
  repeat' first
    | with_reducible assumption | with_reducible refine fit_ite ?_ ?_ | with_reducible apply mapOwner_fit
    | with_reducible apply post_fit | intro _
    | (extract_lets +onlyGivenNames z1; first | refine fit_cut z1 ?_ fun hz => ?_ | refine fit_cut z1.1 ?_ fun hz => ?_ | refine fit_cut z1.2 ?_ fun hz => ?_ | skip)
    | split | (refine fit_of ?_; dsimp only; refine fit_to ?_) | dsimp +zetaDelta only

theorem lateReads_fit (s : State) (h0 : Fit Q U s) :
    Fit Q U (State.lateReads s) := by
  unfold State.lateReads
  repeat' first
    | with_reducible assumption | with_reducible refine fit_ite ?_ ?_ | with_reducible apply lateQuery_fit
    | with_reducible refine fit_foldl ?_ ?_ | with_reducible refine fit_foldl1 ?_ ?_ | intro _
    | (refine fit_of ?_; dsimp only; refine fit_to ?_)

theorem cutHome_fit (s : State) (slot : Nat) (pick : Pick) (at_ : Cmd → Bool) (h0 : Fit Q U s) :
    Fit Q U (State.cutHome s slot pick at_).1 := by
  unfold State.cutHome
  repeat' first
    | with_reducible assumption | with_reducible refine fit_ite ?_ ?_ | with_reducible apply cutCmd_fit
    | with_reducible refine fit_foldl ?_ ?_ | with_reducible refine fit_foldl1 ?_ ?_ | intro _
    | (extract_lets +onlyGivenNames z1; first | refine fit_cut z1 ?_ fun hz => ?_ | skip)
    | (refine fit_of ?_; dsimp only; refine fit_to ?_) | dsimp +zetaDelta only

theorem unsend_fit (s : State) (seqs : List Nat) (h0 : Fit Q U s) :
    Fit Q U (State.unsend s seqs) := by
  unfold State.unsend
  repeat' first
    | with_reducible assumption | with_reducible refine fit_ite ?_ ?_ | intro _
    | (refine fit_of ?_; dsimp only; refine fit_to ?_) | dsimp +zetaDelta only

theorem unadmit_fit (s : State) (c : Cmd) (h0 : Fit Q U s) :
    Fit Q U (State.unadmit s c) := by
  unfold State.unadmit
  dsimp only
  refine deferCmd_fit _ _ (mapCmd_fit _ _ _ (unsend_fit _ _ (mapAcct_fit _ _ _ (mapChan_fit _ _ _ h0 fun x _ hx => ?_))))
  exact withinShares_less _ hx rfl rfl rfl

theorem retryScatter_fit (s : State) (port : Nat) (q : Queued) (h0 : Fit Q U s) :
    Fit Q U (State.retryScatter s port q) := by
  unfold State.retryScatter
  repeat' first
    | with_reducible assumption | with_reducible refine fit_ite ?_ ?_ | with_reducible apply mapPort_fit
    | with_reducible apply putOut_fit | intro _
    | (extract_lets +onlyGivenNames z1; first | refine fit_cut z1 ?_ fun hz => ?_ | skip) | split
    | (refine fit_of ?_; dsimp only; refine fit_to ?_) | dsimp +zetaDelta only

theorem retryScatters_fit (s : State) (slot : Nat) (pick : Pick) (h0 : Fit Q U s) :
    Fit Q U (State.retryScatters s slot pick) := by
  unfold State.retryScatters
  repeat' first
    | with_reducible assumption | with_reducible refine fit_ite ?_ ?_ | with_reducible apply retryScatter_fit
    | with_reducible refine fit_foldl ?_ ?_ | with_reducible refine fit_foldl1 ?_ ?_ | intro _
    | (extract_lets +onlyGivenNames z1; first | refine fit_cut z1 ?_ fun hz => ?_ | skip) | split
    | (refine fit_of ?_; dsimp only; refine fit_to ?_) | dsimp +zetaDelta only

theorem recallExtents_fit (s : State) (slot : Nat) (h0 : Fit Q U s) :
    Fit Q U (State.recallExtents s slot) := by
  unfold State.recallExtents
  repeat' first
    | with_reducible assumption | with_reducible refine fit_ite ?_ ?_ | intro _
    | (extract_lets +onlyGivenNames z1; first | refine fit_cut z1 ?_ fun hz => ?_ | refine fit_cut z1.1 ?_ fun hz => ?_ | refine fit_cut z1.2 ?_ fun hz => ?_ | skip)
    | split | (refine fit_of ?_; dsimp only; refine fit_to ?_) | dsimp +zetaDelta only

theorem cutScan_fit (s : State) (q : OwnerQ) (h0 : Fit Q U s) :
    Fit Q U (State.cutScan s q) := by
  unfold State.cutScan
  repeat' first
    | with_reducible assumption | with_reducible refine fit_ite ?_ ?_ | with_reducible apply mapOwner_fit
    | with_reducible apply sendCands_fit | intro _
    | (extract_lets +onlyGivenNames z1; first | refine fit_cut z1 ?_ fun hz => ?_ | refine fit_cut z1.1 ?_ fun hz => ?_ | refine fit_cut z1.2 ?_ fun hz => ?_ | skip)
    | split | (refine fit_of ?_; dsimp only; refine fit_to ?_) | dsimp +zetaDelta only

theorem cutRank_fit (s : State) (q : OwnerQ) (h0 : Fit Q U s) :
    Fit Q U (State.cutRank s q) := by
  unfold State.cutRank
  repeat' first
    | with_reducible assumption | with_reducible refine fit_ite ?_ ?_ | with_reducible apply mapOwner_fit
    | with_reducible apply post_fit | intro _
    | (extract_lets +onlyGivenNames z1; first | refine fit_cut z1 ?_ fun hz => ?_ | refine fit_cut z1.1 ?_ fun hz => ?_ | refine fit_cut z1.2 ?_ fun hz => ?_ | skip)
    | split | (refine fit_of ?_; dsimp only; refine fit_to ?_) | dsimp +zetaDelta only

theorem cutLookups_fit (s : State) (slot : Nat) (pick : Pick) (h0 : Fit Q U s) :
    Fit Q U (State.cutLookups s slot pick).1 := by
  unfold State.cutLookups
  repeat' first
    | with_reducible assumption | with_reducible refine fit_ite ?_ ?_ | intro _
    | (extract_lets +onlyGivenNames z1; first | refine fit_cut z1 ?_ fun hz => ?_ | refine fit_cut z1.1 ?_ fun hz => ?_ | refine fit_cut z1.2 ?_ fun hz => ?_ | skip)
    | split | (refine fit_of ?_; dsimp only; refine fit_to ?_) | dsimp +zetaDelta only

theorem cutStaging_fit (s : State) (slot : Nat) (rows : Bool) (pick : Pick) (h0 : Fit Q U s) :
    Fit Q U (State.cutStaging s slot rows pick).1 := by
  unfold State.cutStaging
  repeat' first
    | with_reducible assumption | with_reducible refine fit_ite ?_ ?_ | with_reducible apply unstage_fit
    | with_reducible apply restageRows_fit | with_reducible apply restageRegions_fit | intro _
    | (extract_lets +onlyGivenNames z1; first | refine fit_cut z1 ?_ fun hz => ?_ | refine fit_cut z1.1 ?_ fun hz => ?_ | refine fit_cut z1.2 ?_ fun hz => ?_ | skip)
    | split | (refine fit_of ?_; dsimp only; refine fit_to ?_) | dsimp +zetaDelta only

theorem cutRouted_fit (s : State) (slot : Nat) (pick : Pick) (h0 : Fit Q U s) :
    Fit Q U (State.cutRouted s slot pick).1 := by
  unfold State.cutRouted
  repeat' first
    | with_reducible assumption | with_reducible refine fit_ite ?_ ?_ | with_reducible apply restageRegions_fit | intro _
    | (extract_lets +onlyGivenNames z1; first | refine fit_cut z1 ?_ fun hz => ?_ | refine fit_cut z1.1 ?_ fun hz => ?_ | refine fit_cut z1.2 ?_ fun hz => ?_ | skip)
    | split | (refine fit_of ?_; dsimp only; refine fit_to ?_) | dsimp +zetaDelta only

theorem cutWork_fit (s : State) (stage : Nat) (slot : Nat) (pick : Pick) (h0 : Fit Q U s) :
    Fit Q U (State.cutWork s stage slot pick).1 := by
  unfold State.cutWork
  repeat' first
    | with_reducible assumption | with_reducible refine fit_ite ?_ ?_ | with_reducible apply fault_fit
    | with_reducible apply stage_fit | with_reducible apply cutWritten_fit | with_reducible apply lateQuery_fit
    | with_reducible apply cutHome_fit | with_reducible apply unsend_fit | with_reducible apply unadmit_fit
    | with_reducible apply retryScatters_fit | with_reducible apply recallExtents_fit | with_reducible apply cutScan_fit
    | with_reducible apply cutRank_fit | with_reducible apply cutLookups_fit | with_reducible apply cutStaging_fit
    | with_reducible apply cutRouted_fit | with_reducible refine fit_foldl ?_ ?_ | with_reducible refine fit_foldl1 ?_ ?_
    | intro _
    | (extract_lets +onlyGivenNames z1; first | refine fit_cut z1 ?_ fun hz => ?_ | refine fit_cut z1.1 ?_ fun hz => ?_ | refine fit_cut z1.2 ?_ fun hz => ?_ | skip)
    | split | (refine fit_of ?_; dsimp only; refine fit_to ?_) | dsimp +zetaDelta only

theorem cutStage_fit (s : State) (stage : Nat) (entry : Nat) (slot : Nat) (pick : Pick) (h0 : Fit Q U s) :
    Fit Q U (State.cutStage s stage entry slot pick) := by
  unfold State.cutStage
  repeat' first
    | with_reducible assumption | with_reducible refine fit_ite ?_ ?_ | with_reducible apply cutEvent_fit
    | with_reducible apply stage_fit | with_reducible apply cutWork_fit
    | (extract_lets +onlyGivenNames z1; first | refine fit_cut z1 ?_ fun hz => ?_ | refine fit_cut z1.1 ?_ fun hz => ?_ | refine fit_cut z1.2 ?_ fun hz => ?_ | skip)
    | (refine fit_of ?_; dsimp only; refine fit_to ?_) | dsimp +zetaDelta only

theorem cutScans_fit (s : State) (h0 : Fit Q U s) :
    Fit Q U (State.cutScans s) := by
  unfold State.cutScans
  repeat' first
    | with_reducible assumption | with_reducible refine fit_ite ?_ ?_ | with_reducible apply account_fit
    | with_reducible apply cutStage_fit | with_reducible refine fit_foldl ?_ ?_ | with_reducible refine fit_foldl1 ?_ ?_
    | intro _
    | (extract_lets +onlyGivenNames z1; first | refine fit_cut z1 ?_ fun hz => ?_ | refine fit_cut z1.1 ?_ fun hz => ?_ | skip)
    | split | (refine fit_of ?_; dsimp only; refine fit_to ?_) | dsimp +zetaDelta only

theorem cutLate_fit (s : State) (stage : Nat) (entry : Nat) (e : EaselEntry) (arrays : Nat) (jobs : List Job) (h0 : Fit Q U s) :
    Fit Q U (State.cutLate s stage entry e arrays jobs) := by
  unfold State.cutLate
  repeat' first
    | with_reducible assumption | with_reducible refine fit_ite ?_ ?_ | with_reducible apply stage_fit
    | with_reducible apply cutStage_fit | intro _
    | (extract_lets +onlyGivenNames z1; first | refine fit_cut z1 ?_ fun hz => ?_ | skip) | split
    | (refine fit_of ?_; dsimp only; refine fit_to ?_) | dsimp +zetaDelta only

theorem drainCheck_fit (s : State) (busy : List Nat) (h0 : Fit Q U s) :
    Fit Q U (State.drainCheck s busy) := by
  unfold State.drainCheck
  repeat' first
    | with_reducible assumption | with_reducible refine fit_ite ?_ ?_ | with_reducible apply stage_fit
    | with_reducible apply cutStage_fit | with_reducible refine fit_foldl ?_ ?_ | with_reducible refine fit_foldl1 ?_ ?_
    | intro _
    | (extract_lets +onlyGivenNames z1; first | refine fit_cut z1 ?_ fun hz => ?_ | refine fit_cut z1.1 ?_ fun hz => ?_ | refine fit_cut z1.2 ?_ fun hz => ?_ | refine fit_cut z1.st ?_ fun hz => ?_ | skip)
    | split | (refine fit_of ?_; dsimp only; refine fit_to ?_) | dsimp +zetaDelta only

theorem missHome_fit (s : State) (slot : Nat) (stage : Nat) (waits : Cmd → Bool) (h0 : Fit Q U s) :
    Fit Q U (State.missHome s slot stage waits) := by
  unfold State.missHome
  repeat' first
    | with_reducible assumption | with_reducible refine fit_ite ?_ ?_ | with_reducible apply cutCmd_fit
    | with_reducible apply cutEvent_fit | with_reducible apply stage_fit | with_reducible refine fit_foldl ?_ ?_
    | with_reducible refine fit_foldl1 ?_ ?_ | intro _
    | (extract_lets +onlyGivenNames z1; first | refine fit_cut z1 ?_ fun hz => ?_ | skip) | split
    | (refine fit_of ?_; dsimp only; refine fit_to ?_) | dsimp +zetaDelta only

theorem missOwner_fit (s : State) (slot stage : Nat) (qs : List OwnerQ) (f : State → OwnerQ → State) (h : Fit Q U s)
    (hf : ∀ a x, Fit Q U a → Fit Q U (f a x)) : Fit Q U (s.missOwner slot stage qs f) := by
  unfold State.missOwner
  split
  · exact h
  · exact cutEvent_fit _ _ _ _ _ (fit_foldl h hf)

theorem missRoute2_fit (s : State) (slot : Nat) (qs : List OwnerQ) (h0 : Fit Q U s) :
    Fit Q U (State.missRoute2 s slot qs) := by
  unfold State.missRoute2
  repeat' first
    | with_reducible assumption | with_reducible refine fit_ite ?_ ?_ | with_reducible apply cutEvent_fit
    | with_reducible apply cutScan_fit | with_reducible apply cutRouted_fit | with_reducible refine fit_foldl ?_ ?_
    | with_reducible refine fit_foldl1 ?_ ?_ | intro _
    | (extract_lets +onlyGivenNames z1; first | refine fit_cut z1 ?_ fun hz => ?_ | refine fit_cut z1.1 ?_ fun hz => ?_ | refine fit_cut z1.2 ?_ fun hz => ?_ | skip)
    | split | (refine fit_of ?_; dsimp only; refine fit_to ?_) | dsimp +zetaDelta only

theorem missFetch_fit (s : State) (slot : Nat) (h0 : Fit Q U s) :
    Fit Q U (State.missFetch s slot) := by
  unfold State.missFetch
  repeat' first
    | with_reducible assumption | with_reducible refine fit_ite ?_ ?_ | intro _ | split
    | (refine fit_of ?_; dsimp only; refine fit_to ?_) | dsimp +zetaDelta only

theorem missLookup_fit (s : State) (slot : Nat) (h0 : Fit Q U s) :
    Fit Q U (State.missLookup s slot) := by
  unfold State.missLookup
  repeat' first
    | with_reducible assumption | with_reducible refine fit_ite ?_ ?_ | with_reducible apply cutEvent_fit
    | with_reducible apply post_fit | with_reducible apply countRows_fit | with_reducible refine fit_foldl ?_ ?_
    | with_reducible refine fit_foldl1 ?_ ?_ | intro _
    | (extract_lets +onlyGivenNames z1; first | refine fit_cut z1 ?_ fun hz => ?_ | refine fit_cut z1.2 ?_ fun hz => ?_ | skip)
    | split | (refine fit_of ?_; dsimp only; refine fit_to ?_) | dsimp +zetaDelta only

theorem missUpdates_fit (s : State) (slot : Nat) (rows : Bool) (h0 : Fit Q U s) :
    Fit Q U (State.missUpdates s slot rows) := by
  unfold State.missUpdates
  repeat' first
    | with_reducible assumption | with_reducible refine fit_ite ?_ ?_ | with_reducible apply cutEvent_fit
    | with_reducible apply reportRows_fit | with_reducible apply stage_fit | with_reducible apply stageReport_fit
    | with_reducible refine fit_foldl ?_ ?_ | with_reducible refine fit_foldl1 ?_ ?_ | intro _
    | (extract_lets +onlyGivenNames z1; first | refine fit_cut z1 ?_ fun hz => ?_ | refine fit_cut z1.1 ?_ fun hz => ?_ | refine fit_cut z1.2 ?_ fun hz => ?_ | refine fit_cut z1.st ?_ fun hz => ?_ | skip)
    | split | (refine fit_of ?_; dsimp only; refine fit_to ?_) | dsimp +zetaDelta only

theorem missDeliver_fit (s : State) (h0 : Fit Q U s) :
    Fit Q U (State.missDeliver s) := by
  unfold State.missDeliver
  repeat' first
    | with_reducible assumption | with_reducible refine fit_ite ?_ ?_ | with_reducible apply missHome_fit
    | with_reducible refine fit_foldl ?_ ?_ | with_reducible refine fit_foldl1 ?_ ?_ | intro _ | split
    | (refine fit_of ?_; dsimp only; refine fit_to ?_) | dsimp +zetaDelta only

theorem missSlot_fit (s : State) (slot : Nat) (h0 : Fit Q U s) :
    Fit Q U (State.missSlot s slot) := by
  unfold State.missSlot
  repeat' first
    | with_reducible assumption | with_reducible refine fit_ite ?_ ?_ | with_reducible apply cutEvent_fit
    | with_reducible apply cutScan_fit | with_reducible apply cutRank_fit | with_reducible apply missHome_fit
    | with_reducible apply missOwner_fit | with_reducible apply missRoute2_fit | with_reducible apply missFetch_fit
    | with_reducible apply missLookup_fit | with_reducible apply missUpdates_fit | with_reducible refine fit_foldl ?_ ?_
    | with_reducible refine fit_foldl1 ?_ ?_ | intro _
    | (extract_lets +onlyGivenNames z1; first | refine fit_cut z1 ?_ fun hz => ?_ | refine fit_cut z1.1 ?_ fun hz => ?_ | skip)
    | split | (refine fit_of ?_; dsimp only; refine fit_to ?_) | dsimp +zetaDelta only

theorem missWindows_fit (s : State) (h0 : Fit Q U s) :
    Fit Q U (State.missWindows s) := by
  unfold State.missWindows
  repeat' first
    | with_reducible assumption | with_reducible refine fit_ite ?_ ?_ | with_reducible apply missSlot_fit
    | with_reducible refine fit_foldl ?_ ?_ | with_reducible refine fit_foldl1 ?_ ?_ | intro _ | split
    | (refine fit_of ?_; dsimp only; refine fit_to ?_) | dsimp +zetaDelta only

end Sys2Proof.Machine
end

