-- ==== Sys2Proof/Laws/FitMedia.lean ====
section
/-! SUPPORT. The operations of Media.lean keep what `Fit` says. -/

namespace Sys2Proof.Machine

set_option linter.tactic.unusedName false

variable {Q : List Instr} {U : Was}

theorem noteRead_fit (s : State) (r : FRead) (o : Nat) (h0 : Fit Q U s) :
    Fit Q U (State.noteRead s r o) := by
  unfold State.noteRead
  repeat' first
    | with_reducible assumption | with_reducible refine fit_ite ?_ ?_ | intro _ | split
    | (refine fit_of ?_; dsimp only; refine fit_to ?_) | dsimp +zetaDelta only

theorem countRead_fit (s : State) (r : FRead) (cs : List (Nat × Nat × Nat)) (h0 : Fit Q U s) :
    Fit Q U (State.countRead s r cs) := by
  unfold State.countRead
  repeat' first
    | with_reducible assumption | with_reducible refine fit_ite ?_ ?_ | with_reducible apply account_fit
    | (extract_lets +onlyGivenNames z1; first | refine fit_cut z1 ?_ fun hz => ?_ | skip) | split
    | (refine fit_of ?_; dsimp only; refine fit_to ?_) | dsimp +zetaDelta only

theorem scheduleMove_fit (s : State) (folio : Nat) (h0 : Fit Q U s) :
    Fit Q U (State.scheduleMove s folio) := by
  unfold State.scheduleMove
  repeat' first
    | with_reducible assumption | with_reducible refine fit_ite ?_ ?_ | with_reducible apply mapFlash_fit | intro _ | split
    | (refine fit_of ?_; dsimp only; refine fit_to ?_) | dsimp +zetaDelta only

theorem wantRebuild_fit (s : State) (folio : Nat) (h0 : Fit Q U s) :
    Fit Q U (State.wantRebuild s folio) := by
  unfold State.wantRebuild
  repeat' first
    | with_reducible assumption | with_reducible refine fit_ite ?_ ?_ | with_reducible apply mapFlash_fit | intro _ | split
    | (refine fit_of ?_; dsimp only; refine fit_to ?_) | dsimp +zetaDelta only

theorem markChecked_fit (s : State) (folio : Nat) (h0 : Fit Q U s) :
    Fit Q U (State.markChecked s folio) := by
  unfold State.markChecked
  repeat' first
    | with_reducible assumption | with_reducible refine fit_ite ?_ ?_ | with_reducible apply mapFlash_fit
    | with_reducible apply checked_fit | intro _ | split | (refine fit_of ?_; dsimp only; refine fit_to ?_)
    | dsimp +zetaDelta only

theorem backDone_fit (s : State) (r : FRead) (o : ReadOutcome) (h0 : Fit Q U s) :
    Fit Q U (State.backDone s r o) := by
  unfold State.backDone
  repeat' first
    | with_reducible assumption | with_reducible refine fit_ite ?_ ?_ | with_reducible apply scheduleMove_fit
    | with_reducible apply wantRebuild_fit | with_reducible apply markChecked_fit | split
    | (refine fit_of ?_; dsimp only; refine fit_to ?_)

theorem readDone_fit (s : State) (id : Nat) (o : ReadOutcome) (h0 : Fit Q U s) :
    Fit Q U (State.readDone s id o) := by
  unfold State.readDone
  repeat' first
    | with_reducible assumption | with_reducible refine fit_ite ?_ ?_ | with_reducible apply logAdd_fit
    | with_reducible apply faultRecordOf_fit | with_reducible apply mapFlash_fit | with_reducible apply id_fit
    | with_reducible apply noteRead_fit | with_reducible apply countRead_fit | with_reducible apply scheduleMove_fit
    | with_reducible apply backDone_fit | intro _
    | (extract_lets +onlyGivenNames z1; first | refine fit_cut z1 ?_ fun hz => ?_ | refine fit_cut z1.1 ?_ fun hz => ?_ | skip)
    | split | (refine fit_of ?_; dsimp only; refine fit_to ?_) | dsimp +zetaDelta only

theorem closePass_fit (s : State) (slot : Nat) (h : Handle) (start : Nat) (h0 : Fit Q U s) :
    Fit Q U (State.closePass s slot h start) := by
  unfold State.closePass
  repeat' first
    | with_reducible assumption | with_reducible refine fit_ite ?_ ?_ | with_reducible apply mapFlash_fit
    | with_reducible apply mapTable_fit | with_reducible apply postAt_fit | with_reducible refine fit_foldl ?_ ?_
    | with_reducible refine fit_foldl1 ?_ ?_ | intro _
    | (extract_lets +onlyGivenNames z1; first | refine fit_cut z1 ?_ fun hz => ?_ | skip)
    | (refine fit_of ?_; dsimp only; refine fit_to ?_) | dsimp +zetaDelta only

theorem startPass_fit (s : State) (slot : Nat) (h : Handle) (h0 : Fit Q U s) :
    Fit Q U (State.startPass s slot h) := by
  unfold State.startPass
  repeat' first
    | with_reducible assumption | with_reducible refine fit_ite ?_ ?_ | with_reducible apply mapTable_fit
    | with_reducible apply closePass_fit | intro _ | split | (refine fit_of ?_; dsimp only; refine fit_to ?_)
    | dsimp +zetaDelta only

theorem captureDone_fit (s : State) (slot : Nat) (h : Handle) (row : Nat) (frame : Nat) (h0 : Fit Q U s) :
    Fit Q U (State.captureDone s slot h row frame) := by
  unfold State.captureDone
  repeat' first
    | with_reducible assumption | with_reducible refine fit_ite ?_ ?_ | with_reducible apply account_fit
    | with_reducible apply mapTable_fit | with_reducible apply placeRecord_fit | intro _
    | (extract_lets +onlyGivenNames z1; first | refine fit_cut z1 ?_ fun hz => ?_ | refine fit_cut z1.1 ?_ fun hz => ?_ | refine fit_cut z1.2 ?_ fun hz => ?_ | refine fit_cut z1.st ?_ fun hz => ?_ | skip)
    | split | (refine fit_of ?_; dsimp only; refine fit_to ?_) | dsimp +zetaDelta only

theorem rowsSaved_fit (s : State) (p : FProg) (h0 : Fit Q U s) :
    Fit Q U (State.rowsSaved s p) := by
  unfold State.rowsSaved
  repeat' first
    | with_reducible assumption | with_reducible refine fit_ite ?_ ?_ | with_reducible apply mapFlash_fit
    | with_reducible apply setMap_fit | with_reducible apply mapTable_fit | with_reducible apply closePass_fit
    | with_reducible refine fit_foldl ?_ ?_ | with_reducible refine fit_foldl1 ?_ ?_ | intro _
    | (extract_lets +onlyGivenNames z1; first | refine fit_cut z1 ?_ fun hz => ?_ | refine fit_cut z1.1 ?_ fun hz => ?_ | refine fit_cut z1.2 ?_ fun hz => ?_ | skip)
    | split | (refine fit_of ?_; dsimp only; refine fit_to ?_) | dsimp +zetaDelta only

theorem journalDone_fit (s : State) (p : FProg) (h0 : Fit Q U s) :
    Fit Q U (State.journalDone s p) := by
  unfold State.journalDone
  repeat' first
    | with_reducible assumption | with_reducible refine fit_ite ?_ ?_ | with_reducible apply mapFlash_fit
    | with_reducible apply journal_fit | with_reducible apply journalWork_fit | with_reducible refine fit_foldl ?_ ?_
    | with_reducible refine fit_foldl1 ?_ ?_ | intro _
    | (extract_lets +onlyGivenNames z1; first | refine fit_cut z1 ?_ fun hz => ?_ | refine fit_cut z1.st ?_ fun hz => ?_ | skip)
    | split | (refine fit_of ?_; dsimp only; refine fit_to ?_) | dsimp +zetaDelta only

theorem progDone_fit (s : State) (p : FProg) (h0 : Fit Q U s) :
    Fit Q U (State.progDone s p) := by
  unfold State.progDone
  repeat' first
    | with_reducible assumption | with_reducible refine fit_ite ?_ ?_ | with_reducible apply mapFlash_fit
    | with_reducible apply setMap_fit | with_reducible apply id_fit | with_reducible apply captureDone_fit
    | with_reducible apply rowsSaved_fit | with_reducible apply journalDone_fit | with_reducible refine fit_foldl ?_ ?_
    | with_reducible refine fit_foldl1 ?_ ?_ | intro _
    | (extract_lets +onlyGivenNames z1; first | refine fit_cut z1 ?_ fun hz => ?_ | refine fit_cut z1.1 ?_ fun hz => ?_ | refine fit_cut z1.2 ?_ fun hz => ?_ | refine fit_cut z1.st ?_ fun hz => ?_ | skip)
    | split | (refine fit_of ?_; dsimp only; refine fit_to ?_) | dsimp +zetaDelta only

theorem retireWritten_fit (s : State) (die : Nat) (block : Nat) (h0 : Fit Q U s) :
    Fit Q U (State.retireWritten s die block) := by
  unfold State.retireWritten
  repeat' first
    | with_reducible assumption | with_reducible refine fit_ite ?_ ?_ | with_reducible apply retireBlock_fit
    | with_reducible apply moveFolio_fit | with_reducible refine fit_foldl ?_ ?_ | with_reducible refine fit_foldl1 ?_ ?_
    | intro _ | (refine fit_of ?_; dsimp only; refine fit_to ?_) | dsimp +zetaDelta only

theorem progFailed_fit (s : State) (p : FProg) (h0 : Fit Q U s) :
    Fit Q U (State.progFailed s p) := by
  unfold State.progFailed
  repeat' first
    | with_reducible assumption | with_reducible refine fit_ite ?_ ?_ | with_reducible apply takePlace_fit
    | with_reducible apply PlanRun_again_fit | with_reducible apply retireBlock_fit | with_reducible apply startProg_fit
    | with_reducible apply retireWritten_fit
    | (extract_lets +onlyGivenNames z1; first | refine fit_cut z1 ?_ fun hz => ?_ | refine fit_cut z1.st ?_ fun hz => ?_ | skip)
    | split | (refine fit_of ?_; dsimp only; refine fit_to ?_) | dsimp +zetaDelta only

theorem captureMissed_fit (s : State) (slot : Nat) (h : Handle) (h0 : Fit Q U s) :
    Fit Q U (State.captureMissed s slot h) := by
  unfold State.captureMissed
  repeat' first
    | with_reducible assumption | with_reducible refine fit_ite ?_ ?_ | with_reducible apply faultRecord_fit
    | with_reducible apply mapTable_fit | with_reducible refine fit_foldl ?_ ?_ | with_reducible refine fit_foldl1 ?_ ?_
    | intro _ | (extract_lets +onlyGivenNames z1; first | refine fit_cut z1 ?_ fun hz => ?_ | skip) | split
    | (refine fit_of ?_; dsimp only; refine fit_to ?_) | dsimp +zetaDelta only

end Sys2Proof.Machine
end

