-- ==== Sys2Proof/Laws/FitRegisters.lean ====
section
/-! SUPPORT. The operations of Registers.lean keep what `Fit` says. -/

namespace Sys2Proof.Machine

set_option linter.tactic.unusedName false

variable {Q : List Instr} {U : Was}

theorem settingRefused_fit (s : State) (slot : Nat) (h0 : Fit Q U s) :
    Fit Q U (State.settingRefused s slot) := by
  unfold State.settingRefused
  repeat' first
    | with_reducible assumption | with_reducible refine fit_ite ?_ ?_ | with_reducible apply mapChan_fit
    | exact fun _ _ hx => hx | intro _ | (refine fit_of ?_; dsimp only; refine fit_to ?_) | dsimp +zetaDelta only

theorem writePart_fit (s : State) (slot : Nat) (g : Nat) (h0 : Fit Q U s) :
    Fit Q U (State.writePart s slot g) := by
  unfold State.writePart
  repeat' first
    | with_reducible assumption | with_reducible refine fit_ite ?_ ?_ | with_reducible apply mapChan_fit
    | with_reducible apply settingRefused_fit | exact fun _ _ hx => hx | intro _ | split
    | (refine fit_of ?_; dsimp only; refine fit_to ?_) | dsimp +zetaDelta only

theorem writeSlip_fit (s : State) (slot : Nat) (g : Nat) (h0 : Fit Q U s) :
    Fit Q U (State.writeSlip s slot g) := by
  unfold State.writeSlip
  repeat' first
    | with_reducible assumption | with_reducible refine fit_ite ?_ ?_ | with_reducible apply mapChan_fit
    | with_reducible apply settingRefused_fit | exact fun _ _ hx => hx | intro _ | split
    | (refine fit_of ?_; dsimp only; refine fit_to ?_) | dsimp +zetaDelta only

theorem writeResidency_fit (s : State) (slot : Nat) (swapped : Bool) (h0 : Fit Q U s) :
    Fit Q U (State.writeResidency s slot swapped) := by
  unfold State.writeResidency
  repeat' first
    | with_reducible assumption | with_reducible refine fit_ite ?_ ?_ | with_reducible apply mapChan_fit
    | with_reducible apply settingRefused_fit | exact fun _ _ hx => hx | intro _ | split
    | (refine fit_of ?_; dsimp only; refine fit_to ?_) | dsimp +zetaDelta only

theorem rwaWrite_fit (s : State) (fn : Nat) (slot : Nat) (off : Nat) (v : Nat) (h0 : Fit Q U s) :
    Fit Q U (State.rwaWrite s fn slot off v) := by
  unfold State.rwaWrite
  repeat' first
    | with_reducible assumption | with_reducible refine fit_ite ?_ ?_ | with_reducible apply settingRefused_fit
    | with_reducible apply writePart_fit | with_reducible apply writeSlip_fit | with_reducible apply writeResidency_fit | split
    | (refine fit_of ?_; dsimp only; refine fit_to ?_)

theorem chanWrite_fit (s : State) (fn : Nat) (slot : Nat) (off : Nat) (v : Nat) (h0 : Fit Q U s) :
    Fit Q U (State.chanWrite s fn slot off v) := by
  unfold State.chanWrite
  repeat' first
    | with_reducible assumption | with_reducible refine fit_ite ?_ ?_ | with_reducible apply mapChan_fit
    | with_reducible apply police_fit | with_reducible apply rwaWrite_fit | exact fun _ _ hx => hx | intro _
    | (extract_lets +onlyGivenNames z1; first | refine fit_cut z1 ?_ fun hz => ?_ | skip) | split
    | (refine fit_of ?_; dsimp only; refine fit_to ?_) | dsimp +zetaDelta only

theorem setAp_fit (s : State) (fn : Nat) (a : Aperture) (h0 : Fit Q U s) :
    Fit Q U (State.setAp s fn a) := by
  unfold State.setAp
  repeat' first
    | with_reducible assumption | with_reducible refine fit_ite ?_ ?_ | (refine fit_of ?_; dsimp only; refine fit_to ?_)

theorem wordWrite_fit (s : State) (fn : Nat) (off : Nat) (v : Nat) (h0 : Fit Q U s) :
    Fit Q U (State.wordWrite s fn off v) := by
  unfold State.wordWrite
  repeat' first
    | with_reducible assumption | with_reducible refine fit_ite ?_ ?_ | with_reducible apply setMb_fit
    | with_reducible apply chanWrite_fit | with_reducible apply setAp_fit
    | (extract_lets +onlyGivenNames z1; first | refine fit_cut z1 ?_ fun hz => ?_ | skip) | split
    | (refine fit_of ?_; dsimp only; refine fit_to ?_) | dsimp +zetaDelta only

theorem wordSet_fit (s : State) (fn : Nat) (off : Nat) (v : Nat) (h0 : Fit Q U s) :
    Fit Q U (State.wordSet s fn off v) := by
  unfold State.wordSet
  repeat' first
    | with_reducible assumption | with_reducible refine fit_ite ?_ ?_ | with_reducible apply setMb_fit
    | with_reducible apply settingRefused_fit | with_reducible apply setAp_fit
    | (extract_lets +onlyGivenNames z1; first | refine fit_cut z1 ?_ fun hz => ?_ | skip) | split
    | (refine fit_of ?_; dsimp only; refine fit_to ?_) | dsimp +zetaDelta only

theorem registerWrite_fit (s : State) (fn : Nat) (off : Nat) (size : Nat) (v : Nat) (sets : Nat) (h0 : Fit Q U s) :
    Fit Q U (State.registerWrite s fn off size v sets) := by
  unfold State.registerWrite
  repeat' first
    | with_reducible assumption | with_reducible refine fit_ite ?_ ?_ | with_reducible apply wordWrite_fit
    | with_reducible apply wordSet_fit | split | (refine fit_of ?_; dsimp only; refine fit_to ?_)

theorem apertureFail_fit (s : State) (fn : Nat) (off : Nat) (st : Nat) (twin : Bool) (h0 : Fit Q U s) :
    Fit Q U (State.apertureFail s fn off st twin) := by
  unfold State.apertureFail
  repeat' first
    | with_reducible assumption | with_reducible refine fit_ite ?_ ?_ | with_reducible apply emit_fit
    | with_reducible apply setAp_fit | (refine fit_of ?_; dsimp only; refine fit_to ?_)

theorem apertureServe_fit (s : State) (fn : Nat) (off : Nat) (len : Nat) (corrected : Nat) (uncorrectable : Bool) (da : Nat) (bad : Option (Nat × Bool)) (h0 : Fit Q U s) :
    Fit Q U (State.apertureServe s fn off len corrected uncorrectable da bad) := by
  unfold State.apertureServe
  repeat' first
    | with_reducible assumption | with_reducible refine fit_ite ?_ ?_ | with_reducible apply emit_fit
    | with_reducible apply account_fit | with_reducible apply wordLost_fit | with_reducible apply twinMismatch_fit
    | with_reducible apply setAp_fit | with_reducible apply apertureFail_fit | with_reducible refine fit_foldl ?_ ?_
    | with_reducible refine fit_foldl1 ?_ ?_ | intro _
    | (extract_lets +onlyGivenNames z1; first | refine fit_cut z1 ?_ fun hz => ?_ | refine fit_cut z1.1 ?_ fun hz => ?_ | refine fit_cut z1.2 ?_ fun hz => ?_ | skip)
    | split | (refine fit_of ?_; dsimp only; refine fit_to ?_) | dsimp +zetaDelta only

theorem apertureRead_fit (s : State) (fn : Nat) (off : Nat) (len : Nat) (corrected : Nat) (uncorrectable : Bool) (h0 : Fit Q U s) :
    Fit Q U (State.apertureRead s fn off len corrected uncorrectable) := by
  unfold State.apertureRead
  repeat' first
    | with_reducible assumption | with_reducible refine fit_ite ?_ ?_ | with_reducible apply apertureServe_fit
    | (refine fit_of ?_; dsimp only; refine fit_to ?_)

end Sys2Proof.Machine
end

