-- ==== Sys2Proof/Laws/FitSecurity.lean ====
section
/-! SUPPORT. The operations of Security.lean keep what `Fit` says. -/

namespace Sys2Proof.Machine

set_option linter.tactic.unusedName false

variable {Q : List Instr} {U : Was}

theorem writeDevice_fit (s : State) (h0 : Fit Q U s) :
    Fit Q U (State.writeDevice s) := by
  unfold State.writeDevice
  repeat' first
    | with_reducible assumption | with_reducible refine fit_ite ?_ ?_ | (refine fit_of ?_; dsimp only; refine fit_to ?_)

theorem nextBlock_fit (s : State) (h0 : Fit Q U s) :
    Fit Q U (State.nextBlock s) := by
  unfold State.nextBlock
  repeat' first
    | with_reducible assumption | with_reducible refine fit_ite ?_ ?_ | with_reducible apply writeDevice_fit | intro _
    | (extract_lets +onlyGivenNames z1; first | refine fit_cut z1 ?_ fun hz => ?_ | skip)
    | (refine fit_of ?_; dsimp only; refine fit_to ?_) | dsimp +zetaDelta only

theorem programIndex_fit (s : State) (q : Nat) (h0 : Fit Q U s) :
    Fit Q U (State.programIndex s q) := by
  unfold State.programIndex
  repeat' first
    | with_reducible assumption | with_reducible refine fit_ite ?_ ?_ | intro _
    | (refine fit_of ?_; dsimp only; refine fit_to ?_) | dsimp +zetaDelta only

theorem useIndex_fit (s : State) (h0 : Fit Q U s) :
    Fit Q U (State.useIndex s) := by
  unfold State.useIndex
  repeat' first
    | with_reducible assumption | with_reducible refine fit_ite ?_ ?_ | with_reducible apply nextBlock_fit
    | with_reducible apply programIndex_fit | (refine fit_of ?_; dsimp only; refine fit_to ?_)

theorem attestReportBody_fit (g : Go) (s0 : State) (h0 : Fit Q U s0) :
    Fit Q U (attestReportBody g s0).1 := by
  unfold attestReportBody
  repeat' first
    | with_reducible assumption | with_reducible refine fit_ite ?_ ?_ | with_reducible apply emit_fit
    | with_reducible apply write_fit | with_reducible apply checked_fit | with_reducible apply useIndex_fit | intro _
    | (extract_lets +onlyGivenNames z1; first | refine fit_cut z1 ?_ fun hz => ?_ | refine fit_cut z1.st ?_ fun hz => ?_ | skip)
    | split | (refine fit_of ?_; dsimp only; refine fit_to ?_) | dsimp +zetaDelta only

theorem installKey_fit (s : State) (slot : Nat) (id : Nat) (key : Bytes) (h0 : Fit Q U s) :
    Fit Q U (State.installKey s slot id key) := by
  unfold State.installKey
  repeat' first
    | with_reducible assumption | with_reducible refine fit_ite ?_ ?_ | with_reducible apply mapChan_fit
    | with_reducible apply id_fit | exact fun _ _ hx => hx | intro _
    | (extract_lets +onlyGivenNames z1; first | refine fit_cut z1 ?_ fun hz => ?_ | refine fit_cut z1.1 ?_ fun hz => ?_ | skip)
    | split | (refine fit_of ?_; dsimp only; refine fit_to ?_) | dsimp +zetaDelta only

theorem keyInstallBody_fit (g : Go) (key : Option Bytes) (s0 : State) (h0 : Fit Q U s0) :
    Fit Q U (keyInstallBody g key s0).1 := by
  unfold keyInstallBody
  repeat' first
    | with_reducible assumption | with_reducible refine fit_ite ?_ ?_ | with_reducible apply checked_fit
    | with_reducible apply withChan_fit | with_reducible apply mapPort_fit | with_reducible apply id_fit
    | with_reducible apply installKey_fit | intro _
    | (extract_lets +onlyGivenNames z1; first | refine fit_cut z1 ?_ fun hz => ?_ | refine fit_cut z1.2 ?_ fun hz => ?_ | refine fit_cut z1.st ?_ fun hz => ?_ | skip)
    | split | (refine fit_of ?_; dsimp only; refine fit_to ?_) | dsimp +zetaDelta only

theorem takeKeys_fit (s : State) (h0 : Fit Q U s) :
    Fit Q U (State.takeKeys s) := by
  unfold State.takeKeys
  repeat' first
    | with_reducible assumption | with_reducible refine fit_ite ?_ ?_ | (refine fit_of ?_; dsimp only; refine fit_to ?_)

theorem ownerTakeBody_fit (g : Go) (s0 : State) (h0 : Fit Q U s0) :
    Fit Q U (ownerTakeBody g s0).1 := by
  unfold ownerTakeBody
  repeat' first
    | with_reducible assumption | with_reducible refine fit_ite ?_ ?_ | with_reducible apply checked_fit
    | with_reducible apply writeDevice_fit | intro _
    | (extract_lets +onlyGivenNames z1; first | refine fit_cut z1 ?_ fun hz => ?_ | refine fit_cut z1.st ?_ fun hz => ?_ | skip)
    | split | (refine fit_of ?_; dsimp only; refine fit_to ?_) | dsimp +zetaDelta only

theorem fwStageBody_fit (g : Go) (s0 : State) (h0 : Fit Q U s0) :
    Fit Q U (fwStageBody g s0).1 := by
  unfold fwStageBody
  repeat' first
    | with_reducible assumption | with_reducible refine fit_ite ?_ ?_ | with_reducible apply checked_fit | intro _
    | (extract_lets +onlyGivenNames z1; first | refine fit_cut z1 ?_ fun hz => ?_ | refine fit_cut z1.st ?_ fun hz => ?_ | skip)
    | (refine fit_of ?_; dsimp only; refine fit_to ?_) | dsimp +zetaDelta only

end Sys2Proof.Machine
end

