-- ==== Sys2Proof/Laws/FitAccount.lean ====
section
/-! SUPPORT. The operations of Account.lean keep what `Fit` says. -/

namespace Sys2Proof.Machine

set_option linter.tactic.unusedName false

variable {Q : List Instr} {U : Was}

theorem closeAccts_fit (s : State) (h0 : Fit Q U s) :
    Fit Q U (State.closeAccts s) := by
  unfold State.closeAccts
  repeat' first
    | with_reducible assumption | with_reducible refine fit_ite ?_ ?_ | with_reducible apply raiseChan_fit
    | with_reducible refine fit_foldl ?_ ?_ | with_reducible refine fit_foldl1 ?_ ?_ | intro _
    | (extract_lets +onlyGivenNames z1; first | refine fit_cut z1 ?_ fun hz => ?_ | refine fit_cut z1.1 ?_ fun hz => ?_ | refine fit_cut z1.2 ?_ fun hz => ?_ | skip)
    | (refine fit_of ?_; dsimp only; refine fit_to ?_) | dsimp +zetaDelta only

theorem coolAll_fit (s : State) (h0 : Fit Q U s) :
    Fit Q U (State.coolAll s) := by
  unfold State.coolAll
  repeat' first
    | with_reducible assumption | with_reducible refine fit_ite ?_ ?_ | intro _
    | (refine fit_of ?_; dsimp only; refine fit_to ?_) | dsimp +zetaDelta only

theorem sampleQueue_fit (now : Nat) (s : State) (q : Nat × List Nat) (h0 : Fit Q U s) :
    Fit Q U (State.sampleQueue now s q) := by
  unfold State.sampleQueue
  repeat' first
    | with_reducible assumption | with_reducible refine fit_ite ?_ ?_ | with_reducible refine fit_foldl ?_ ?_
    | with_reducible refine fit_foldl1 ?_ ?_ | intro _
    | (extract_lets +onlyGivenNames z1; first | refine fit_cut z1 ?_ fun hz => ?_ | refine fit_cut z1.1 ?_ fun hz => ?_ | refine fit_cut z1.2 ?_ fun hz => ?_ | skip)
    | split | (refine fit_of ?_; dsimp only; refine fit_to ?_) | dsimp +zetaDelta only

theorem sampleAll_fit (s : State) (h0 : Fit Q U s) :
    Fit Q U (State.sampleAll s) := by
  unfold State.sampleAll
  repeat' first
    | with_reducible assumption | with_reducible refine fit_ite ?_ ?_ | with_reducible apply sampleQueue_fit
    | with_reducible refine fit_foldl ?_ ?_ | with_reducible refine fit_foldl1 ?_ ?_ | intro _
    | (refine fit_of ?_; dsimp only; refine fit_to ?_)

theorem saturation_fit (s : State) (x : Stream) (h0 : Fit Q U s) :
    Fit Q U (State.saturation s x) := by
  unfold State.saturation
  repeat' first
    | with_reducible assumption | with_reducible refine fit_ite ?_ ?_ | with_reducible apply raiseChan_fit | split
    | (refine fit_of ?_; dsimp only; refine fit_to ?_)

theorem saturations_fit (s : State) (h0 : Fit Q U s) :
    Fit Q U (State.saturations s) := by
  unfold State.saturations
  repeat' first
    | with_reducible assumption | with_reducible refine fit_ite ?_ ?_ | with_reducible apply saturation_fit
    | with_reducible refine fit_foldl ?_ ?_ | with_reducible refine fit_foldl1 ?_ ?_ | intro _
    | (extract_lets +onlyGivenNames z1; first | refine fit_cut z1 ?_ fun hz => ?_ | refine fit_cut z1.st ?_ fun hz => ?_ | skip)
    | (refine fit_of ?_; dsimp only; refine fit_to ?_) | dsimp +zetaDelta only

theorem retireLanes_fit (s : State) (p : Nat) (h0 : Fit Q U s) :
    Fit Q U (State.retireLanes s p) := by
  unfold State.retireLanes
  repeat' first
    | with_reducible assumption | with_reducible refine fit_ite ?_ ?_ | with_reducible apply faultRecord_fit
    | with_reducible apply mapPort_fit | with_reducible apply laneDown_fit | with_reducible refine fit_foldl ?_ ?_
    | with_reducible refine fit_foldl1 ?_ ?_ | intro _
    | (extract_lets +onlyGivenNames z1; first | refine fit_cut z1 ?_ fun hz => ?_ | refine fit_cut z1.1 ?_ fun hz => ?_ | refine fit_cut z1.2 ?_ fun hz => ?_ | skip)
    | split | (refine fit_of ?_; dsimp only; refine fit_to ?_) | dsimp +zetaDelta only

theorem lanesDue_fit (s : State) (h0 : Fit Q U s) :
    Fit Q U (State.lanesDue s) := by
  unfold State.lanesDue
  repeat' first
    | with_reducible assumption | with_reducible refine fit_ite ?_ ?_ | with_reducible apply retireLanes_fit
    | with_reducible refine fit_foldl ?_ ?_ | with_reducible refine fit_foldl1 ?_ ?_ | intro _
    | (refine fit_of ?_; dsimp only; refine fit_to ?_)

theorem capture_fit (s : State) (k : Nat × Nat) (h0 : Fit Q U s) :
    Fit Q U (State.capture s k) := by
  unfold State.capture
  repeat' first
    | with_reducible assumption | with_reducible refine fit_ite ?_ ?_ | intro _
    | (refine fit_of ?_; dsimp only; refine fit_to ?_) | dsimp +zetaDelta only

theorem captureRows_fit (s : State) (h0 : Fit Q U s) :
    Fit Q U (State.captureRows s) := by
  unfold State.captureRows
  repeat' first
    | with_reducible assumption | with_reducible refine fit_ite ?_ ?_ | with_reducible apply capture_fit
    | with_reducible refine fit_foldl ?_ ?_ | with_reducible refine fit_foldl1 ?_ ?_ | intro _
    | (extract_lets +onlyGivenNames z1; first | refine fit_cut z1 ?_ fun hz => ?_ | refine fit_cut z1.1 ?_ fun hz => ?_ | refine fit_cut z1.2 ?_ fun hz => ?_ | skip)
    | split | (refine fit_of ?_; dsimp only; refine fit_to ?_) | dsimp +zetaDelta only

theorem eachTable_fit (s : State) (f : State → Nat → Handle → State) (h : Fit Q U s)
    (hf : ∀ a n k, Fit Q U a → Fit Q U (f a n k)) : Fit Q U (s.eachTable f) :=
  fit_foldl h fun _ _ ha => hf _ _ _ ha

theorem startPasses_fit (s : State) (h0 : Fit Q U s) :
    Fit Q U (State.startPasses s) := by
  unfold State.startPasses
  repeat' first
    | with_reducible assumption | with_reducible refine fit_ite ?_ ?_ | with_reducible apply startPass_fit
    | with_reducible apply eachTable_fit | intro _ | split | (refine fit_of ?_; dsimp only; refine fit_to ?_)
    | dsimp +zetaDelta only

theorem countCheck_fit (s : State) (a : Nat) (h0 : Fit Q U s) :
    Fit Q U (State.countCheck s a) := by
  unfold State.countCheck
  repeat' first
    | with_reducible assumption | with_reducible refine fit_ite ?_ ?_ | with_reducible refine fit_foldl ?_ ?_
    | with_reducible refine fit_foldl1 ?_ ?_ | intro _ | (refine fit_of ?_; dsimp only; refine fit_to ?_)
    | dsimp +zetaDelta only

theorem retireArray_fit (s : State) (a : Nat) (h0 : Fit Q U s) :
    Fit Q U (State.retireArray s a) := by
  unfold State.retireArray
  repeat' first
    | with_reducible assumption | with_reducible refine fit_ite ?_ ?_ | with_reducible apply faultRecord_fit
    | with_reducible apply writeDevice_fit | split | (refine fit_of ?_; dsimp only; refine fit_to ?_)

theorem residueFail_fit (s : State) (a : Nat) (h0 : Fit Q U s) :
    Fit Q U (State.residueFail s a) := by
  unfold State.residueFail
  repeat' first
    | with_reducible assumption | with_reducible refine fit_ite ?_ ?_ | with_reducible apply faultRecord_fit
    | with_reducible apply countCheck_fit | with_reducible apply retireArray_fit | intro _
    | (extract_lets +onlyGivenNames z1; first | refine fit_cut z1 ?_ fun hz => ?_ | refine fit_cut z1.1 ?_ fun hz => ?_ | skip)
    | split | (refine fit_of ?_; dsimp only; refine fit_to ?_) | dsimp +zetaDelta only

theorem fenceTile_fit (s : State) (t : Nat) (affected : Nat) (h0 : Fit Q U s) :
    Fit Q U (State.fenceTile s t affected) := by
  unfold State.fenceTile
  repeat' first
    | with_reducible assumption | with_reducible refine fit_ite ?_ ?_ | with_reducible apply faultRecord_fit
    | with_reducible apply writeDevice_fit | split | (refine fit_of ?_; dsimp only; refine fit_to ?_)

theorem tileWord_fit (s : State) (t : Nat) (h0 : Fit Q U s) :
    Fit Q U (State.tileWord s t) := by
  unfold State.tileWord
  repeat' first
    | with_reducible assumption | with_reducible refine fit_ite ?_ ?_ | with_reducible apply fenceTile_fit | intro _
    | (extract_lets +onlyGivenNames z1; first | refine fit_cut z1 ?_ fun hz => ?_ | refine fit_cut z1.1 ?_ fun hz => ?_ | skip)
    | split | (refine fit_of ?_; dsimp only; refine fit_to ?_) | dsimp +zetaDelta only

theorem checksEnd_fit (s : State) (i : CwIn) (h0 : Fit Q U s) :
    Fit Q U (State.checksEnd s i) := by
  unfold State.checksEnd
  repeat' first
    | with_reducible assumption | with_reducible refine fit_ite ?_ ?_ | with_reducible apply selfSuspect_fit
    | with_reducible apply countCheck_fit | with_reducible apply retireArray_fit | with_reducible apply residueFail_fit
    | with_reducible apply fenceTile_fit | with_reducible apply tileWord_fit | with_reducible refine fit_foldl ?_ ?_
    | with_reducible refine fit_foldl1 ?_ ?_ | intro _
    | (extract_lets +onlyGivenNames z1; first | refine fit_cut z1 ?_ fun hz => ?_ | skip) | split
    | (refine fit_of ?_; dsimp only; refine fit_to ?_) | dsimp +zetaDelta only

theorem putEvent_fit (s : State) (fn : Nat) (e : Event) (h0 : Fit Q U s) :
    Fit Q U (State.putEvent s fn e) := by
  unfold State.putEvent
  repeat' first
    | with_reducible assumption | with_reducible refine fit_ite ?_ ?_ | with_reducible apply emit_fit
    | with_reducible apply hostWrite_fit | with_reducible apply write_fit
    | (extract_lets +onlyGivenNames z1; first | refine fit_cut z1 ?_ fun hz => ?_ | skip) | split
    | (refine fit_of ?_; dsimp only; refine fit_to ?_) | dsimp +zetaDelta only

theorem flushEvents_fit (s : State) (h0 : Fit Q U s) :
    Fit Q U (State.flushEvents s) := by
  unfold State.flushEvents
  repeat' first
    | with_reducible assumption | with_reducible refine fit_ite ?_ ?_ | with_reducible apply emit_fit
    | with_reducible apply putEvent_fit | with_reducible refine fit_foldl ?_ ?_ | with_reducible refine fit_foldl1 ?_ ?_
    | intro _
    | (extract_lets +onlyGivenNames z1; first | refine fit_cut z1 ?_ fun hz => ?_ | refine fit_cut z1.1 ?_ fun hz => ?_ | refine fit_cut z1.2 ?_ fun hz => ?_ | skip)
    | split | (refine fit_of ?_; dsimp only; refine fit_to ?_) | dsimp +zetaDelta only

theorem ringVectors_fit (s : State) (h0 : Fit Q U s) :
    Fit Q U (State.ringVectors s) := by
  unfold State.ringVectors
  repeat' first
    | with_reducible assumption | with_reducible refine fit_ite ?_ ?_ | with_reducible apply emit_fit
    | (refine fit_of ?_; dsimp only; refine fitOf_chans ?_ (fit_to ?_); first | exact sharesOk_map fun _ hx => hx | (refine sharesOk_put (by assumption) ?_; exact fun hx => hx) | exact sharesOk_tdel | exact sharesOk_map (fun _ _ => withinShares_zero rfl rfl) | exact sharesOk_map (fun _ hx => withinShares_noReissue hx rfl rfl rfl) | exact sharesOk_map (fun _ hx => withinShares_frameStart hx rfl rfl rfl))
    | with_reducible refine fit_foldl ?_ ?_ | with_reducible refine fit_foldl1 ?_ ?_ | intro _
    | (extract_lets +onlyGivenNames z1; first | refine fit_cut z1 ?_ fun hz => ?_ | refine fit_cut z1.1 ?_ fun hz => ?_ | refine fit_cut z1.2 ?_ fun hz => ?_ | skip)
    | (refine fit_of ?_; dsimp only; refine fit_to ?_) | dsimp +zetaDelta only

end Sys2Proof.Machine
end

