-- ==== Sys2Proof/Laws/FitBuild.lean ====
section
/-! SUPPORT. The operations of Build.lean keep what `Fit` says. -/

namespace Sys2Proof.Machine

set_option linter.tactic.unusedName false

variable {Q : List Instr} {U : Was}

theorem placeItem_fit (slot : Nat) (h : Handle) (x : Index) (r : PlaceRun) (i : Nat × Key × Nat × Bytes × Bytes) (h0 : Fit Q U r.st) :
    Fit Q U (placeItem slot h x r i).st := by
  unfold placeItem
  repeat' first
    | with_reducible assumption | with_reducible refine fit_ite ?_ ?_ | with_reducible apply placeRecord_fit | intro _
    | (extract_lets +onlyGivenNames z1; first | refine fit_cut z1 ?_ fun hz => ?_ | refine fit_cut z1.1 ?_ fun hz => ?_ | refine fit_cut z1.2 ?_ fun hz => ?_ | refine fit_cut z1.st ?_ fun hz => ?_ | skip)
    | split | (refine fit_of ?_; dsimp only; refine fit_to ?_) | dsimp +zetaDelta only

theorem placement_fit (s : State) (slot : Nat) (h : Handle) (x : Index) (b : Build) (h0 : Fit Q U s) :
    Fit Q U (State.placement s slot h x b).st := by
  unfold State.placement
  repeat' first
    | with_reducible assumption | with_reducible refine fit_ite ?_ ?_ | with_reducible apply placeItem_fit
    | with_reducible refine fit_foldl ?_ ?_ | with_reducible refine fit_foldl1 ?_ ?_
    | with_reducible refine fit_foldlOf PlaceRun.st ?_ ?_ | intro _ | (refine fit_of ?_; dsimp only; refine fit_to ?_)

theorem freeBuilt_fit (s : State) (slot : Nat) (h : Handle) (h0 : Fit Q U s) :
    Fit Q U (State.freeBuilt s slot h) := by
  unfold State.freeBuilt
  repeat' first
    | with_reducible assumption | with_reducible refine fit_ite ?_ ?_ | with_reducible apply mapIndex_fit | intro _ | split
    | (refine fit_of ?_; dsimp only; refine fit_to ?_) | dsimp +zetaDelta only

theorem buildWork_fit (g : Go) (slot : Nat) (x : Index) (s0 : State) (h0 : Fit Q U s0) :
    Fit Q U (buildWork g slot x s0).1 := by
  unfold buildWork
  repeat' first
    | with_reducible assumption | with_reducible refine fit_ite ?_ ?_ | with_reducible apply mapIndex_fit
    | with_reducible apply begin_fit | with_reducible apply freeBuilt_fit | intro _
    | (extract_lets +onlyGivenNames z1; first | refine fit_cut z1 ?_ fun hz => ?_ | skip) | split
    | (refine fit_of ?_; dsimp only; refine fit_to ?_) | dsimp +zetaDelta only

theorem buildBody_fit (g : Go) (s0 : State) (h0 : Fit Q U s0) :
    Fit Q U (buildBody g s0).1 := by
  unfold buildBody
  repeat' first
    | with_reducible assumption | with_reducible refine fit_ite ?_ ?_ | with_reducible apply withChan_fit
    | with_reducible apply buildWork_fit | intro _ | split | (refine fit_of ?_; dsimp only; refine fit_to ?_)
    | dsimp +zetaDelta only

theorem mapBuild_fit (s : State) (slot : Nat) (h : Handle) (f : Build → Build) (h0 : Fit Q U s) :
    Fit Q U (State.mapBuild s slot h f) := by
  unfold State.mapBuild
  repeat' first
    | with_reducible assumption | with_reducible refine fit_ite ?_ ?_ | intro _ | split
    | (refine fit_of ?_; dsimp only; refine fit_to ?_) | dsimp +zetaDelta only

theorem takeBuild_fit (s : State) (x0 : Move) (h0 : Fit Q U s) :
    Fit Q U (State.takeBuild s x0) := by
  unfold State.takeBuild
  repeat' first
    | with_reducible assumption | with_reducible refine fit_ite ?_ ?_ | with_reducible apply mapBuild_fit
    | with_reducible refine fit_foldl ?_ ?_ | with_reducible refine fit_foldl1 ?_ ?_
    | with_reducible refine fit_foldlOf PlaceRun.st ?_ ?_ | intro _ | split | (refine fit_of ?_; dsimp only; refine fit_to ?_)
    | dsimp +zetaDelta only

theorem buildOne_fit (e : EaselEntry) (s : State) (b : Build) (h0 : Fit Q U s) :
    Fit Q U (State.buildOne e s b) := by
  unfold State.buildOne
  repeat' first
    | with_reducible assumption | with_reducible refine fit_ite ?_ ?_ | with_reducible apply arrayWork_fit
    | with_reducible apply mapBuild_fit | intro _ | split | (refine fit_of ?_; dsimp only; refine fit_to ?_)
    | dsimp +zetaDelta only

theorem buildWindow_fit (s : State) (e : EaselEntry) (h0 : Fit Q U s) :
    Fit Q U (State.buildWindow s e) := by
  unfold State.buildWindow
  repeat' first
    | with_reducible assumption | with_reducible refine fit_ite ?_ ?_ | with_reducible apply coreFree_fit
    | with_reducible apply takeBuild_fit | with_reducible apply buildOne_fit | with_reducible refine fit_foldl ?_ ?_
    | with_reducible refine fit_foldl1 ?_ ?_ | with_reducible refine fit_foldlOf PlaceRun.st ?_ ?_ | intro _
    | (extract_lets +onlyGivenNames z1; first | refine fit_cut z1 ?_ fun hz => ?_ | refine fit_cut z1.2 ?_ fun hz => ?_ | skip)
    | split | (refine fit_of ?_; dsimp only; refine fit_to ?_) | dsimp +zetaDelta only

theorem logPhase_fit (s : State) (b : Build) (status : Nat) (h0 : Fit Q U s) :
    Fit Q U (State.logPhase s b status) := by
  unfold State.logPhase
  repeat' first
    | with_reducible assumption | with_reducible refine fit_ite ?_ ?_ | with_reducible apply logAdd_fit
    | (refine fit_of ?_; dsimp only; refine fit_to ?_)

theorem sendItems_fit (s : State) (b : Build) (x : Index) (h0 : Fit Q U s) :
    Fit Q U (State.sendItems s b x) := by
  unfold State.sendItems
  repeat' first
    | with_reducible assumption | with_reducible refine fit_ite ?_ ?_ | with_reducible apply postAt_fit
    | with_reducible refine fit_foldl ?_ ?_ | with_reducible refine fit_foldl1 ?_ ?_
    | with_reducible refine fit_foldlOf PlaceRun.st ?_ ?_ | intro _
    | (extract_lets +onlyGivenNames z1; first | refine fit_cut z1 ?_ fun hz => ?_ | refine fit_cut z1.1 ?_ fun hz => ?_ | refine fit_cut z1.2 ?_ fun hz => ?_ | refine fit_cut z1.st ?_ fun hz => ?_ | skip)
    | (refine fit_of ?_; dsimp only; refine fit_to ?_) | dsimp +zetaDelta only

theorem sendLists_fit (s : State) (b : Build) (x : Index) (h0 : Fit Q U s) :
    Fit Q U (State.sendLists s b x) := by
  unfold State.sendLists
  repeat' first
    | with_reducible assumption | with_reducible refine fit_ite ?_ ?_ | with_reducible apply postAt_fit
    | with_reducible refine fit_foldl ?_ ?_ | with_reducible refine fit_foldl1 ?_ ?_
    | with_reducible refine fit_foldlOf PlaceRun.st ?_ ?_ | intro _
    | (extract_lets +onlyGivenNames z1; first | refine fit_cut z1 ?_ fun hz => ?_ | refine fit_cut z1.2 ?_ fun hz => ?_ | skip)
    | (refine fit_of ?_; dsimp only; refine fit_to ?_) | dsimp +zetaDelta only

theorem placeAll_fit (s : State) (b : Build) (x : Index) (h0 : Fit Q U s) :
    Fit Q U (State.placeAll s b x) := by
  unfold State.placeAll
  repeat' first
    | with_reducible assumption | with_reducible refine fit_ite ?_ ?_ | with_reducible apply mapIndex_fit
    | with_reducible apply placement_fit | with_reducible apply mapBuild_fit | with_reducible apply logPhase_fit | intro _
    | (extract_lets +onlyGivenNames z1; first | refine fit_cut z1 ?_ fun hz => ?_ | refine fit_cut z1.st ?_ fun hz => ?_ | skip)
    | split | (refine fit_of ?_; dsimp only; refine fit_to ?_) | dsimp +zetaDelta only

theorem restBuild_fit (s : State) (b : Build) (h0 : Fit Q U s) :
    Fit Q U (State.restBuild s b) := by
  unfold State.restBuild
  repeat' first
    | with_reducible assumption | with_reducible refine fit_ite ?_ ?_ | with_reducible apply mapBuild_fit | intro _
    | (refine fit_of ?_; dsimp only; refine fit_to ?_) | dsimp +zetaDelta only

theorem finishBuild_fit (s : State) (b : Build) (h0 : Fit Q U s) :
    Fit Q U (State.finishBuild s b) := by
  unfold State.finishBuild
  repeat' first
    | with_reducible assumption | with_reducible refine fit_ite ?_ ?_ | with_reducible apply mapBuild_fit
    | with_reducible apply logPhase_fit | with_reducible apply sendItems_fit | with_reducible apply sendLists_fit
    | with_reducible apply placeAll_fit | with_reducible apply restBuild_fit | intro _
    | (extract_lets +onlyGivenNames z1; first | refine fit_cut z1 ?_ fun hz => ?_ | skip) | split
    | (refine fit_of ?_; dsimp only; refine fit_to ?_) | dsimp +zetaDelta only

theorem finishBuilds_fit (s : State) (h0 : Fit Q U s) :
    Fit Q U (State.finishBuilds s) := by
  unfold State.finishBuilds
  repeat' first
    | with_reducible assumption | with_reducible refine fit_ite ?_ ?_ | with_reducible apply finishBuild_fit
    | with_reducible refine fit_foldl ?_ ?_ | with_reducible refine fit_foldl1 ?_ ?_
    | with_reducible refine fit_foldlOf PlaceRun.st ?_ ?_ | intro _ | (refine fit_of ?_; dsimp only; refine fit_to ?_)

end Sys2Proof.Machine
end

