-- ==== Sys2Proof/Laws/FitEnumerate.lean ====
section
/-! SUPPORT. The operations of Enumerate.lean keep what `Fit` says. -/

namespace Sys2Proof.Machine

set_option linter.tactic.unusedName false

variable {Q : List Instr} {U : Was}

theorem trainFlash_fit (s : State) (l : List (Nat × Option Nat)) (h0 : Fit Q U s) :
    Fit Q U (State.trainFlash s l) := by
  unfold State.trainFlash
  repeat' first
    | with_reducible assumption | with_reducible refine fit_ite ?_ ?_ | with_reducible apply mapFlash_fit
    | with_reducible apply retireFlash_fit | with_reducible refine fit_foldl ?_ ?_ | with_reducible refine fit_foldl1 ?_ ?_
    | intro _ | split | (refine fit_of ?_; dsimp only; refine fit_to ?_) | dsimp +zetaDelta only

end Sys2Proof.Machine
end

