-- ==== Sys2Proof/Laws/FitPower.lean ====
section
/-! SUPPORT. The operations of Power.lean keep what `Fit` says. -/

namespace Sys2Proof.Machine

set_option linter.tactic.unusedName false

variable {Q : List Instr} {U : Was}

theorem mapPower_fit (s : State) (f : Power → Power) (h0 : Fit Q U s) :
    Fit Q U (State.mapPower s f) := by
  unfold State.mapPower
  repeat' first
    | with_reducible assumption | with_reducible refine fit_ite ?_ ?_ | (refine fit_of ?_; dsimp only; refine fit_to ?_)

theorem setpoint_fit (s : State) (mv : Nat) (h0 : Fit Q U s) :
    Fit Q U (State.setpoint s mv) := by
  unfold State.setpoint
  repeat' first
    | with_reducible assumption | with_reducible refine fit_ite ?_ ?_ | with_reducible apply emit_fit
    | with_reducible apply mapPower_fit | intro _ | split | (refine fit_of ?_; dsimp only; refine fit_to ?_)
    | dsimp +zetaDelta only

theorem selfRefresh_fit (s : State) (h0 : Fit Q U s) :
    Fit Q U (State.selfRefresh s) := by
  unfold State.selfRefresh
  repeat' first
    | with_reducible assumption | with_reducible refine fit_ite ?_ ?_ | (refine fit_of ?_; dsimp only; refine fit_to ?_)

theorem powerEnd_fit (s : State) (h0 : Fit Q U s) :
    Fit Q U (State.powerEnd s) := by
  unfold State.powerEnd
  repeat' first
    | with_reducible assumption | with_reducible refine fit_ite ?_ ?_ | with_reducible apply mbEndCode_fit | split
    | (refine fit_of ?_; dsimp only; refine fit_to ?_)

theorem wantState_fit (s : State) (st : Nat) (x : Nat) (h0 : Fit Q U s) :
    Fit Q U (State.wantState s st x) := by
  unfold State.wantState
  repeat' first
    | with_reducible assumption | with_reducible refine fit_ite ?_ ?_ | with_reducible apply mapPower_fit
    | with_reducible apply setpoint_fit | intro _
    | (extract_lets +onlyGivenNames z1; first | refine fit_cut z1 ?_ fun hz => ?_ | refine fit_cut z1.st ?_ fun hz => ?_ | skip)
    | split | (refine fit_of ?_; dsimp only; refine fit_to ?_) | dsimp +zetaDelta only

theorem powerSetBody_fit (g : Go) (s0 : State) (h0 : Fit Q U s0) :
    Fit Q U (powerSetBody g s0).1 := by
  unfold powerSetBody
  repeat' first
    | with_reducible assumption | with_reducible refine fit_ite ?_ ?_ | with_reducible apply checked_fit
    | with_reducible apply mapPower_fit | with_reducible apply wantState_fit | intro _
    | (extract_lets +onlyGivenNames z1; first | refine fit_cut z1 ?_ fun hz => ?_ | refine fit_cut z1.st ?_ fun hz => ?_ | skip)
    | split | (refine fit_of ?_; dsimp only; refine fit_to ?_) | dsimp +zetaDelta only

theorem serviceStep_fit (s : State) (h0 : Fit Q U s) :
    Fit Q U (State.serviceStep s) := by
  unfold State.serviceStep
  repeat' first
    | with_reducible assumption | with_reducible refine fit_ite ?_ ?_ | with_reducible apply mapPower_fit
    | with_reducible apply powerEnd_fit | intro _ | split | (refine fit_of ?_; dsimp only; refine fit_to ?_)
    | dsimp +zetaDelta only

theorem clockSwitch_fit (s : State) (h0 : Fit Q U s) :
    Fit Q U (State.clockSwitch s) := by
  unfold State.clockSwitch
  repeat' first
    | with_reducible assumption | with_reducible refine fit_ite ?_ ?_ | with_reducible apply mapPower_fit
    | with_reducible apply setpoint_fit | with_reducible apply powerEnd_fit | intro _ | split
    | (refine fit_of ?_; dsimp only; refine fit_to ?_) | dsimp +zetaDelta only

theorem voutSettled_fit (s : State) (mv : Nat) (h0 : Fit Q U s) :
    Fit Q U (State.voutSettled s mv) := by
  unfold State.voutSettled
  repeat' first
    | with_reducible assumption | with_reducible refine fit_ite ?_ ?_ | with_reducible apply mapPower_fit
    | with_reducible apply powerEnd_fit | intro _
    | (extract_lets +onlyGivenNames z1; first | refine fit_cut z1 ?_ fun hz => ?_ | refine fit_cut z1.st ?_ fun hz => ?_ | skip)
    | split | (refine fit_of ?_; dsimp only; refine fit_to ?_) | dsimp +zetaDelta only

theorem unpowered_fit (s : State) (h0 : Fit Q U s) :
    Fit Q U (State.unpowered s) := by
  unfold State.unpowered
  repeat' first
    | with_reducible assumption | with_reducible refine fit_ite ?_ ?_
    | (refine fit_of ?_; dsimp only; refine fitOf_chans ?_ (fit_to ?_); first | exact sharesOk_map fun _ hx => hx | (refine sharesOk_put (by assumption) ?_; exact fun hx => hx) | exact sharesOk_tdel | exact sharesOk_map (fun _ _ => withinShares_zero rfl rfl) | exact sharesOk_map (fun _ hx => withinShares_noReissue hx rfl rfl rfl) | exact sharesOk_map (fun _ hx => withinShares_frameStart hx rfl rfl rfl))
    | intro _ | (refine fit_of ?_; dsimp only; refine fit_to ?_) | dsimp +zetaDelta only

theorem standbyEnter_fit (s : State) (h0 : Fit Q U s) :
    Fit Q U (State.standbyEnter s) := by
  unfold State.standbyEnter
  repeat' first
    | with_reducible assumption | with_reducible refine fit_ite ?_ ?_ | with_reducible apply mapPower_fit
    | with_reducible apply setpoint_fit | with_reducible apply selfRefresh_fit | with_reducible apply powerEnd_fit
    | with_reducible apply unpowered_fit | intro _
    | (extract_lets +onlyGivenNames z1; first | refine fit_cut z1 ?_ fun hz => ?_ | refine fit_cut z1.st ?_ fun hz => ?_ | skip)
    | split | (refine fit_of ?_; dsimp only; refine fit_to ?_) | dsimp +zetaDelta only

theorem standbyExit_fit (s : State) (lanes : List Nat) (train : List (Nat × Option Nat)) (h0 : Fit Q U s) :
    Fit Q U (State.standbyExit s lanes train) := by
  unfold State.standbyExit
  repeat' first
    | with_reducible assumption | with_reducible refine fit_ite ?_ ?_ | with_reducible apply trainFlash_fit
    | with_reducible apply mapPower_fit | with_reducible apply setpoint_fit | with_reducible apply powerEnd_fit | intro _
    | (extract_lets +onlyGivenNames z1; first | refine fit_cut z1 ?_ fun hz => ?_ | refine fit_cut z1.1 ?_ fun hz => ?_ | refine fit_cut z1.st ?_ fun hz => ?_ | skip)
    | split | (refine fit_of ?_; dsimp only; refine fit_to ?_) | dsimp +zetaDelta only

theorem flushTables_fit (s : State) (h0 : Fit Q U s) :
    Fit Q U (State.flushTables s) := by
  unfold State.flushTables
  repeat' first
    | with_reducible assumption | with_reducible refine fit_ite ?_ ?_ | with_reducible apply mapFlash_fit
    | with_reducible apply mapTable_fit | with_reducible refine fit_foldl ?_ ?_ | with_reducible refine fit_foldl1 ?_ ?_
    | intro _
    | (extract_lets +onlyGivenNames z1; first | refine fit_cut z1 ?_ fun hz => ?_ | refine fit_cut z1.1 ?_ fun hz => ?_ | refine fit_cut z1.2 ?_ fun hz => ?_ | skip)
    | (refine fit_of ?_; dsimp only; refine fit_to ?_) | dsimp +zetaDelta only

theorem flushFolio_fit (s : State) (h0 : Fit Q U s) :
    Fit Q U (State.flushFolio s) := by
  unfold State.flushFolio
  repeat' first
    | with_reducible assumption | with_reducible refine fit_ite ?_ ?_ | with_reducible apply mapFlash_fit
    | with_reducible apply journal_fit | intro _
    | (extract_lets +onlyGivenNames z1; first | refine fit_cut z1 ?_ fun hz => ?_ | skip) | split
    | (refine fit_of ?_; dsimp only; refine fit_to ?_) | dsimp +zetaDelta only

theorem flushJournal_fit (s : State) (h0 : Fit Q U s) :
    Fit Q U (State.flushJournal s) := by
  unfold State.flushJournal
  repeat' first
    | with_reducible assumption | with_reducible refine fit_ite ?_ ?_ | with_reducible apply flushFolio_fit
    | with_reducible refine fit_foldl ?_ ?_ | with_reducible refine fit_foldl1 ?_ ?_ | intro _
    | (refine fit_of ?_; dsimp only; refine fit_to ?_) | dsimp +zetaDelta only

theorem flushFlash_fit (s : State) (h0 : Fit Q U s) :
    Fit Q U (State.flushFlash s) := by
  unfold State.flushFlash
  repeat' first
    | with_reducible assumption | with_reducible refine fit_ite ?_ ?_ | with_reducible apply mapFlash_fit
    | with_reducible apply flushJournal_fit | with_reducible refine fit_foldl ?_ ?_ | with_reducible refine fit_foldl1 ?_ ?_
    | intro _ | (refine fit_of ?_; dsimp only; refine fit_to ?_) | dsimp +zetaDelta only

theorem stopMark_fit (s : State) (kind : Nat) (h0 : Fit Q U s) :
    Fit Q U (State.stopMark s kind) := by
  unfold State.stopMark
  repeat' first
    | with_reducible assumption | with_reducible refine fit_ite ?_ ?_ | with_reducible apply mapFlash_fit
    | with_reducible apply journal_fit | intro _ | (refine fit_of ?_; dsimp only; refine fit_to ?_) | dsimp +zetaDelta only

theorem flush_fit (s : State) (passes : Bool) (kind : Nat) (h0 : Fit Q U s) :
    Fit Q U (State.flush s passes kind) := by
  unfold State.flush
  repeat' first
    | with_reducible assumption | with_reducible refine fit_ite ?_ ?_ | with_reducible apply detachAll_fit
    | with_reducible apply selfRefresh_fit | with_reducible apply flushTables_fit | with_reducible apply flushFlash_fit
    | with_reducible apply stopMark_fit
    | (extract_lets +onlyGivenNames z1; first | refine fit_cut z1 ?_ fun hz => ?_ | refine fit_cut z1.st ?_ fun hz => ?_ | skip)
    | (refine fit_of ?_; dsimp only; refine fit_to ?_) | dsimp +zetaDelta only

theorem offReady_fit (s : State) (h0 : Fit Q U s) :
    Fit Q U (State.offReady s) := by
  unfold State.offReady
  repeat' first
    | with_reducible assumption | with_reducible refine fit_ite ?_ ?_ | with_reducible apply mapPower_fit
    | with_reducible apply setpoint_fit | with_reducible apply powerEnd_fit | with_reducible apply unpowered_fit
    | with_reducible apply flush_fit | intro _
    | (extract_lets +onlyGivenNames z1; first | refine fit_cut z1 ?_ fun hz => ?_ | skip) | split
    | (refine fit_of ?_; dsimp only; refine fit_to ?_) | dsimp +zetaDelta only

theorem sectorGateBody_fit (g : Go) (s0 : State) (h0 : Fit Q U s0) :
    Fit Q U (sectorGateBody g s0).1 := by
  unfold sectorGateBody
  repeat' first
    | with_reducible assumption | with_reducible refine fit_ite ?_ ?_ | with_reducible apply checked_fit
    | with_reducible apply plan_fit | with_reducible apply PlanRun_plan_fit | intro _
    | (extract_lets +onlyGivenNames z1; first | refine fit_cut z1 ?_ fun hz => ?_ | refine fit_cut z1.st ?_ fun hz => ?_ | skip)
    | (refine fit_of ?_; dsimp only; refine fit_to ?_) | dsimp +zetaDelta only

theorem dipStart_fit (s : State) (mv : Nat) (h0 : Fit Q U s) :
    Fit Q U (State.dipStart s mv) := by
  unfold State.dipStart
  repeat' first
    | with_reducible assumption | with_reducible refine fit_ite ?_ ?_ | with_reducible apply mapPower_fit | intro _ | split
    | (refine fit_of ?_; dsimp only; refine fit_to ?_) | dsimp +zetaDelta only

theorem dipEnd_fit (s : State) (mv : Nat) (h0 : Fit Q U s) :
    Fit Q U (State.dipEnd s mv) := by
  unfold State.dipEnd
  repeat' first
    | with_reducible assumption | with_reducible refine fit_ite ?_ ?_ | with_reducible apply raiseNode_fit
    | with_reducible apply mapPower_fit | with_reducible apply setpoint_fit | intro _
    | (extract_lets +onlyGivenNames z1; first | refine fit_cut z1 ?_ fun hz => ?_ | refine fit_cut z1.st ?_ fun hz => ?_ | skip)
    | split | (refine fit_of ?_; dsimp only; refine fit_to ?_) | dsimp +zetaDelta only

theorem dipLong_fit (s : State) (mv : Nat) (h0 : Fit Q U s) :
    Fit Q U (State.dipLong s mv) := by
  unfold State.dipLong
  repeat' first
    | with_reducible assumption | with_reducible refine fit_ite ?_ ?_ | with_reducible apply logAdd_fit
    | with_reducible apply raiseNode_fit | with_reducible apply mapPower_fit | intro _
    | (extract_lets +onlyGivenNames z1; first | refine fit_cut z1 ?_ fun hz => ?_ | skip) | split
    | (refine fit_of ?_; dsimp only; refine fit_to ?_) | dsimp +zetaDelta only

theorem dipTick_fit (s : State) (h0 : Fit Q U s) :
    Fit Q U (State.dipTick s) := by
  unfold State.dipTick
  repeat' first
    | with_reducible assumption | with_reducible refine fit_ite ?_ ?_ | with_reducible apply mapPower_fit | intro _ | split
    | (refine fit_of ?_; dsimp only; refine fit_to ?_) | dsimp +zetaDelta only

theorem holdTick_fit (s : State) (h0 : Fit Q U s) :
    Fit Q U (State.holdTick s) := by
  unfold State.holdTick
  repeat' first
    | with_reducible assumption | with_reducible refine fit_ite ?_ ?_ | with_reducible apply mapPower_fit | intro _
    | (extract_lets +onlyGivenNames z1; first | refine fit_cut z1 ?_ fun hz => ?_ | refine fit_cut z1.2 ?_ fun hz => ?_ | refine fit_cut z1.st ?_ fun hz => ?_ | skip)
    | (refine fit_of ?_; dsimp only; refine fit_to ?_) | dsimp +zetaDelta only

theorem calibrate_fit (s : State) (meas : Nat) (leak : Nat) (model : Nat) (h0 : Fit Q U s) :
    Fit Q U (State.calibrate s meas leak model) := by
  unfold State.calibrate
  repeat' first
    | with_reducible assumption | with_reducible refine fit_ite ?_ ?_ | with_reducible apply free_fit
    | with_reducible apply mapPower_fit | intro _
    | (extract_lets +onlyGivenNames z1; first | refine fit_cut z1 ?_ fun hz => ?_ | refine fit_cut z1.1 ?_ fun hz => ?_ | refine fit_cut z1.2 ?_ fun hz => ?_ | refine fit_cut z1.st ?_ fun hz => ?_ | skip)
    | split | (refine fit_of ?_; dsimp only; refine fit_to ?_) | dsimp +zetaDelta only

theorem takeScale_fit (s : State) (h0 : Fit Q U s) :
    Fit Q U (State.takeScale s) := by
  unfold State.takeScale
  repeat' first
    | with_reducible assumption | with_reducible refine fit_ite ?_ ?_ | with_reducible apply mapPower_fit | intro _ | split
    | (refine fit_of ?_; dsimp only; refine fit_to ?_) | dsimp +zetaDelta only

theorem powerTick_fit (s : State) (h0 : Fit Q U s) :
    Fit Q U (State.powerTick s) := by
  unfold State.powerTick
  repeat' first
    | with_reducible assumption | with_reducible refine fit_ite ?_ ?_ | with_reducible apply clockSwitch_fit
    | with_reducible apply dipTick_fit | with_reducible apply takeScale_fit | (refine fit_of ?_; dsimp only; refine fit_to ?_)

end Sys2Proof.Machine
end

