-- ==== Sys2Proof/Laws/FitStarts.lean ====
section
/-! SUPPORT. The operations of Starts.lean keep what `Fit` says. -/

namespace Sys2Proof.Machine

set_option linter.tactic.unusedName false

variable {Q : List Instr} {U : Was}

theorem undoEntry_fit (s : State) (e : JEntry) (h0 : Fit Q U s) :
    Fit Q U (State.undoEntry s e) := by
  unfold State.undoEntry
  repeat' first
    | with_reducible assumption | with_reducible refine fit_ite ?_ ?_ | with_reducible apply mapIndex_fit
    | with_reducible apply mapTable_fit | with_reducible apply tombBit_fit | with_reducible apply setBitTo_fit
    | with_reducible apply clearRow_fit | intro _ | split | (refine fit_of ?_; dsimp only; refine fit_to ?_)
    | dsimp +zetaDelta only

theorem takeBack_fit (s : State) (h0 : Fit Q U s) :
    Fit Q U (State.takeBack s) := by
  unfold State.takeBack
  repeat' first
    | with_reducible assumption | with_reducible refine fit_ite ?_ ?_ | with_reducible apply mapFlash_fit
    | with_reducible apply undoEntry_fit | with_reducible refine fit_foldl ?_ ?_ | with_reducible refine fit_foldl1 ?_ ?_
    | intro _ | (extract_lets +onlyGivenNames z1; first | refine fit_cut z1 ?_ fun hz => ?_ | skip)
    | (refine fit_of ?_; dsimp only; refine fit_to ?_) | dsimp +zetaDelta only

theorem started_fit (s : State) (i : StartIn) (h0 : Fit Q U s) :
    Fit Q U (State.started s i) := by
  unfold State.started
  repeat' first
    | with_reducible assumption | with_reducible refine fit_ite ?_ ?_ | with_reducible apply lateReads_fit
    | (refine fit_of ?_; dsimp only; refine fitOf_chans ?_ (fit_to ?_); first | exact sharesOk_done | exact sharesOk_more (by simp))
    | split | (refine fit_of ?_; dsimp only; refine fit_to ?_)

theorem reachReady_fit (s : State) (i : StartIn) (warm : Bool) (h0 : Fit Q U s) :
    Fit Q U (State.reachReady s i warm) := by
  have hl : Fit Q U (s.boot.heldCauses.foldl (fun acc c => acc.logAdd c.1 0 0 c.2.1 c.2.2) s) :=
    fit_foldl h0 fun _ _ ha => logAdd_fit _ _ _ _ _ _ ha
  unfold State.reachReady
  dsimp only
  with_reducible apply selectGm_fit
  obtain ⟨h1, h2, h3⟩ := fit_to h0
  obtain ⟨l1, l2, l3⟩ := fit_to hl
  exact ⟨l1, h2, l3⟩

theorem enterRecovery_fit (s : State) (h0 : Fit Q U s) :
    Fit Q U (State.enterRecovery s) := by
  unfold State.enterRecovery
  repeat' first
    | with_reducible assumption | with_reducible refine fit_ite ?_ ?_ | with_reducible apply mapPower_fit | intro _
    | (refine fit_of ?_; dsimp only; refine fit_to ?_) | dsimp +zetaDelta only

theorem chooseStart_fit (s : State) (bootMode : Nat) (h0 : Fit Q U s) :
    Fit Q U (State.chooseStart s bootMode) := by
  unfold State.chooseStart
  repeat' first
    | with_reducible assumption | with_reducible refine fit_ite ?_ ?_ | with_reducible apply enterRecovery_fit | intro _
    | (extract_lets +onlyGivenNames z1; first | refine fit_cut z1 ?_ fun hz => ?_ | refine fit_cut z1.st ?_ fun hz => ?_ | skip)
    | split | (refine fit_of ?_; dsimp only; refine fit_to ?_) | dsimp +zetaDelta only

theorem startFailed_fit (s : State) (cause : Nat) (h0 : Fit Q U s) :
    Fit Q U (State.startFailed s cause) := by
  unfold State.startFailed
  repeat' first
    | with_reducible assumption | with_reducible refine fit_ite ?_ ?_ | with_reducible apply writeDevice_fit
    | with_reducible apply chooseStart_fit
    | (extract_lets +onlyGivenNames z1; first | refine fit_cut z1 ?_ fun hz => ?_ | refine fit_cut z1.st ?_ fun hz => ?_ | skip)
    | split | (refine fit_of ?_; dsimp only; refine fit_to ?_) | dsimp +zetaDelta only

theorem regulatorOn_fit (s : State) (h0 : Fit Q U s) :
    Fit Q U (State.regulatorOn s) := by
  unfold State.regulatorOn
  repeat' first
    | with_reducible assumption | with_reducible refine fit_ite ?_ ?_ | with_reducible apply emit_fit
    | (refine fit_of ?_; dsimp only; refine fit_to ?_)

theorem tested_fit (s : State) (i : StartIn) (h0 : Fit Q U s) :
    Fit Q U (State.tested s i) := by
  refine fit_of ?_
  unfold State.tested State.keptCells
  dsimp only
  exact fitOf_mem (fun h => memWf_filter _ _ h) (fit_to h0)

theorem restore_fit (s : State) (h0 : Fit Q U s) :
    Fit Q U (State.restore s) := by
  refine fit_of ?_
  unfold State.restore
  dsimp only
  exact fitOf_chans (sharesOk_map fun _ _ => withinShares_zero rfl rfl) (fitOf_noLog (fit_to h0))

theorem format_fit (s : State) (h0 : Fit Q U s) :
    Fit Q U (State.format s) := by
  refine fit_of ?_
  unfold State.format
  dsimp only
  exact fitOf_chans sharesOk_nil (fitOf_noLog (fitOf_mem (fun _ => rfl) (fit_to h0)))

theorem coldStart_fit (s : State) (i : StartIn) (h0 : Fit Q U s) :
    Fit Q U (State.coldStart s i) := by
  unfold State.coldStart
  repeat' first
    | with_reducible assumption | with_reducible refine fit_ite ?_ ?_ | with_reducible apply mapFlash_fit
    | with_reducible apply rebase_fit | with_reducible apply writeDevice_fit | with_reducible apply trainFlash_fit
    | with_reducible apply mapPower_fit | with_reducible apply takeBack_fit | with_reducible apply started_fit
    | with_reducible apply reachReady_fit | with_reducible apply startFailed_fit | with_reducible apply tested_fit
    | with_reducible apply restore_fit | with_reducible apply format_fit | intro _
    | (extract_lets +onlyGivenNames z1; first | refine fit_cut z1 ?_ fun hz => ?_ | refine fit_cut z1.1 ?_ fun hz => ?_ | refine fit_cut z1.st ?_ fun hz => ?_ | skip)
    | split | (refine fit_of ?_; dsimp only; refine fit_to ?_) | dsimp +zetaDelta only

theorem warmStart_fit (s : State) (i : StartIn) (h0 : Fit Q U s) :
    Fit Q U (State.warmStart s i) := by
  unfold State.warmStart
  repeat' first
    | with_reducible assumption | with_reducible refine fit_ite ?_ ?_ | with_reducible apply rebase_fit
    | with_reducible apply trainFlash_fit | with_reducible apply started_fit | with_reducible apply reachReady_fit
    | with_reducible apply startFailed_fit
    | (refine fit_of ?_; dsimp only; refine fitOf_chans ?_ (fit_to ?_); first | exact sharesOk_map fun _ hx => hx | (refine sharesOk_put (by assumption) ?_; exact fun hx => hx) | exact sharesOk_tdel | exact sharesOk_map (fun _ _ => withinShares_zero rfl rfl) | exact sharesOk_map (fun _ hx => withinShares_noReissue hx rfl rfl rfl) | exact sharesOk_map (fun _ hx => withinShares_frameStart hx rfl rfl rfl))
    | intro _
    | (extract_lets +onlyGivenNames z1; first | refine fit_cut z1 ?_ fun hz => ?_ | refine fit_cut z1.1 ?_ fun hz => ?_ | refine fit_cut z1.2 ?_ fun hz => ?_ | refine fit_cut z1.st ?_ fun hz => ?_ | skip)
    | split | (refine fit_of ?_; dsimp only; refine fit_to ?_) | dsimp +zetaDelta only

theorem activate_fit (s : State) (cold : Bool) (h0 : Fit Q U s) :
    Fit Q U (State.activate s cold) := by
  unfold State.activate
  repeat' first
    | with_reducible assumption | with_reducible refine fit_ite ?_ ?_ | with_reducible apply writeDevice_fit
    | with_reducible apply chooseStart_fit | intro _
    | (extract_lets +onlyGivenNames z1; first | refine fit_cut z1 ?_ fun hz => ?_ | refine fit_cut z1.st ?_ fun hz => ?_ | skip)
    | split | (refine fit_of ?_; dsimp only; refine fit_to ?_) | dsimp +zetaDelta only

theorem fwActivateBody_fit (g : Go) (s0 : State) (h0 : Fit Q U s0) :
    Fit Q U (fwActivateBody g s0).1 := by
  unfold fwActivateBody
  repeat' first
    | with_reducible assumption | with_reducible refine fit_ite ?_ ?_ | with_reducible apply checked_fit
    | with_reducible apply mapPower_fit | with_reducible apply activate_fit | intro _
    | (extract_lets +onlyGivenNames z1; first | refine fit_cut z1 ?_ fun hz => ?_ | refine fit_cut z1.st ?_ fun hz => ?_ | skip)
    | split | (refine fit_of ?_; dsimp only; refine fit_to ?_) | dsimp +zetaDelta only

theorem activateDue_fit (s : State) (h0 : Fit Q U s) :
    Fit Q U (State.activateDue s) := by
  unfold State.activateDue
  repeat' first
    | with_reducible assumption | with_reducible refine fit_ite ?_ ?_ | with_reducible apply flush_fit
    | with_reducible apply activate_fit | split | (refine fit_of ?_; dsimp only; refine fit_to ?_)

theorem stopFor_fit (s : State) (cause : Nat) (data : Nat) (h0 : Fit Q U s) :
    Fit Q U (State.stopFor s cause data) := by
  unfold State.stopFor
  repeat' first
    | with_reducible assumption | with_reducible refine fit_ite ?_ ?_ | split | (refine fit_of ?_; dsimp only; refine fit_to ?_)

theorem plossFlush_fit (s : State) (h0 : Fit Q U s) :
    Fit Q U (State.plossFlush s) := by
  unfold State.plossFlush
  repeat' first
    | with_reducible assumption | with_reducible refine fit_ite ?_ ?_ | with_reducible apply free_fit
    | with_reducible apply selfRefresh_fit | with_reducible apply flushFlash_fit | with_reducible apply stopMark_fit
    | (extract_lets +onlyGivenNames z1; first | refine fit_cut z1 ?_ fun hz => ?_ | refine fit_cut z1.1 ?_ fun hz => ?_ | refine fit_cut z1.2 ?_ fun hz => ?_ | refine fit_cut z1.st ?_ fun hz => ?_ | skip)
    | (refine fit_of ?_; dsimp only; refine fit_to ?_) | dsimp +zetaDelta only

theorem ploss_fit (s : State) (h0 : Fit Q U s) :
    Fit Q U (State.ploss s) := by
  unfold State.ploss
  repeat' first
    | with_reducible assumption | with_reducible refine fit_ite ?_ ?_ | with_reducible apply mapPower_fit
    | with_reducible apply plossFlush_fit | intro _
    | (extract_lets +onlyGivenNames z1; first | refine fit_cut z1 ?_ fun hz => ?_ | refine fit_cut z1.st ?_ fun hz => ?_ | skip)
    | split | (refine fit_of ?_; dsimp only; refine fit_to ?_) | dsimp +zetaDelta only

theorem queueDetach_fit (s : State) (mine : Chan → Bool) (h0 : Fit Q U s) :
    Fit Q U (State.queueDetach s mine) := by
  unfold State.queueDetach
  refine fit_of ?_
  dsimp only
  refine fitOf_chans (sharesOk_more fun x hx slot c fn e => ?_) (fit_to h0)
  obtain ⟨_, _, rfl⟩ := List.mem_map.mp hx
  cases e

theorem resetFn_fit (s : State) (fn : Nat) (h0 : Fit Q U s) :
    Fit Q U (State.resetFn s fn) := by
  unfold State.resetFn
  repeat' first
    | with_reducible assumption | with_reducible refine fit_ite ?_ ?_ | with_reducible apply lateReads_fit
    | (refine fit_of ?_; dsimp only; refine fit_to ?_)

end Sys2Proof.Machine
end

