-- ==== Sys2Proof/Laws/FitCommit.lean ====
section
/-! SUPPORT. The operations of Commit.lean keep what `Fit` says. -/

namespace Sys2Proof.Machine

set_option linter.tactic.unusedName false

variable {Q : List Instr} {U : Was}

theorem tileCut_fit (s : State) (w : Nat × Nat × Nat) (h0 : Fit Q U s) :
    Fit Q U (State.tileCut s w) := by
  unfold State.tileCut
  repeat' first
    | with_reducible assumption | with_reducible refine fit_ite ?_ ?_ | with_reducible apply cutStage_fit
    | with_reducible refine fit_foldl ?_ ?_ | with_reducible refine fit_foldl1 ?_ ?_ | intro _ | split
    | (refine fit_of ?_; dsimp only; refine fit_to ?_) | dsimp +zetaDelta only

theorem arrayCut_fit (s : State) (w : Nat × Nat × Nat) (h0 : Fit Q U s) :
    Fit Q U (State.arrayCut s w) := by
  unfold State.arrayCut
  repeat' first
    | with_reducible assumption | with_reducible refine fit_ite ?_ ?_ | with_reducible apply cutStage_fit
    | with_reducible refine fit_foldl ?_ ?_ | with_reducible refine fit_foldl1 ?_ ?_ | intro _ | split
    | (refine fit_of ?_; dsimp only; refine fit_to ?_) | dsimp +zetaDelta only

theorem rowsAgain_fit (s : State) (slot : Nat) (home : Nat) (seq : Nat) (h0 : Fit Q U s) :
    Fit Q U (State.rowsAgain s slot home seq) := by
  unfold State.rowsAgain
  repeat' first
    | with_reducible assumption | with_reducible refine fit_ite ?_ ?_ | with_reducible apply unstage_fit
    | with_reducible apply restageRows_fit | intro _
    | (extract_lets +onlyGivenNames z1; first | refine fit_cut z1 ?_ fun hz => ?_ | refine fit_cut z1.1 ?_ fun hz => ?_ | skip)
    | split | (refine fit_of ?_; dsimp only; refine fit_to ?_) | dsimp +zetaDelta only

theorem tileReplay_fit (s : State) (w : Nat × Nat × Nat) (h0 : Fit Q U s) :
    Fit Q U (State.tileReplay s w) := by
  unfold State.tileReplay
  repeat' first
    | with_reducible assumption | with_reducible refine fit_ite ?_ ?_ | with_reducible apply PlanRun_again_fit
    | with_reducible apply rowsAgain_fit | intro _
    | (extract_lets +onlyGivenNames z1; first | refine fit_cut z1 ?_ fun hz => ?_ | refine fit_cut z1.1 ?_ fun hz => ?_ | refine fit_cut z1.2 ?_ fun hz => ?_ | skip)
    | split | (refine fit_of ?_; dsimp only; refine fit_to ?_) | dsimp +zetaDelta only

theorem arrayReplay_fit (s : State) (w : Nat × Nat × Nat) (h0 : Fit Q U s) :
    Fit Q U (State.arrayReplay s w) := by
  unfold State.arrayReplay
  repeat' first
    | with_reducible assumption | with_reducible refine fit_ite ?_ ?_ | intro _ | split
    | (refine fit_of ?_; dsimp only; refine fit_to ?_) | dsimp +zetaDelta only

theorem lostArrays_fit (s : State) (l : List (Nat × Nat × Nat)) (h0 : Fit Q U s) :
    Fit Q U (State.lostArrays s l) := by
  unfold State.lostArrays
  repeat' first
    | with_reducible assumption | with_reducible refine fit_ite ?_ ?_ | with_reducible apply arrayCut_fit
    | with_reducible apply arrayReplay_fit | with_reducible refine fit_foldl ?_ ?_ | with_reducible refine fit_foldl1 ?_ ?_
    | intro _ | split | (refine fit_of ?_; dsimp only; refine fit_to ?_) | dsimp +zetaDelta only

theorem tileWork_fit (s : State) (l : List (Nat × Nat × Nat)) (h0 : Fit Q U s) :
    Fit Q U (State.tileWork s l) := by
  unfold State.tileWork
  repeat' first
    | with_reducible assumption | with_reducible refine fit_ite ?_ ?_ | with_reducible apply tileCut_fit
    | with_reducible apply tileReplay_fit | with_reducible refine fit_foldl ?_ ?_ | with_reducible refine fit_foldl1 ?_ ?_
    | intro _ | split | (refine fit_of ?_; dsimp only; refine fit_to ?_) | dsimp +zetaDelta only

theorem searchEnd_fit (s : State) (h0 : Fit Q U s) :
    Fit Q U (State.searchEnd s) := by
  unfold State.searchEnd
  repeat' first
    | with_reducible assumption | with_reducible refine fit_ite ?_ ?_ | with_reducible apply cutCmd_fit
    | with_reducible refine fit_foldl ?_ ?_ | with_reducible refine fit_foldl1 ?_ ?_ | intro _
    | (refine fit_of ?_; dsimp only; refine fit_to ?_) | dsimp +zetaDelta only

theorem drain_fit (s : State) (i : CwIn) (h0 : Fit Q U s) :
    Fit Q U (State.drain s i) := by
  unfold State.drain
  repeat' first
    | with_reducible assumption | with_reducible refine fit_ite ?_ ?_ | with_reducible apply fault_fit
    | with_reducible apply arrayWork_fit | with_reducible apply answerFetches_fit | with_reducible apply settleMissing_fit
    | with_reducible apply lateReads_fit | with_reducible apply cutScans_fit | with_reducible apply drainCheck_fit
    | with_reducible apply missWindows_fit | with_reducible apply lostArrays_fit | with_reducible apply tileWork_fit
    | with_reducible apply searchEnd_fit | with_reducible refine fit_foldl ?_ ?_ | with_reducible refine fit_foldl1 ?_ ?_
    | intro _
    | (extract_lets +onlyGivenNames z1; first | refine fit_cut z1 ?_ fun hz => ?_ | refine fit_cut z1.1 ?_ fun hz => ?_ | refine fit_cut z1.2 ?_ fun hz => ?_ | skip)
    | (refine fit_of ?_; dsimp only; refine fit_to ?_) | dsimp +zetaDelta only

theorem replicaSend_fit (s : State) (h0 : Fit Q U s) :
    Fit Q U (State.replicaSend s) := by
  unfold State.replicaSend
  repeat' first
    | with_reducible assumption | with_reducible refine fit_ite ?_ ?_ | with_reducible apply acceptAck_fit
    | with_reducible apply acceptReceipt_fit | with_reducible apply postAt_fit | with_reducible refine fit_foldl ?_ ?_
    | with_reducible refine fit_foldl1 ?_ ?_ | intro _
    | (extract_lets +onlyGivenNames z1; first | refine fit_cut z1 ?_ fun hz => ?_ | refine fit_cut z1.1 ?_ fun hz => ?_ | refine fit_cut z1.2 ?_ fun hz => ?_ | skip)
    | split | (refine fit_of ?_; dsimp only; refine fit_to ?_) | dsimp +zetaDelta only

theorem announceSilent_fit (s : State) (slot : Nat) (object : Handle) (number : Nat) (h0 : Fit Q U s) :
    Fit Q U (State.announceSilent s slot object number) := by
  unfold State.announceSilent
  repeat' first
    | with_reducible assumption | with_reducible refine fit_ite ?_ ?_ | with_reducible apply announceAll_fit
    | (extract_lets +onlyGivenNames z1; first | refine fit_cut z1 ?_ fun hz => ?_ | skip) | split
    | (refine fit_of ?_; dsimp only; refine fit_to ?_) | dsimp +zetaDelta only

theorem ackCheck_fit (s : State) (h0 : Fit Q U s) :
    Fit Q U (State.ackCheck s) := by
  unfold State.ackCheck
  repeat' first
    | with_reducible assumption | with_reducible refine fit_ite ?_ ?_ | with_reducible apply announceSilent_fit
    | with_reducible refine fit_foldl ?_ ?_ | with_reducible refine fit_foldl1 ?_ ?_ | intro _
    | (extract_lets +onlyGivenNames z1; first | refine fit_cut z1 ?_ fun hz => ?_ | skip) | split
    | (refine fit_of ?_; dsimp only; refine fit_to ?_) | dsimp +zetaDelta only

theorem receiptCheck_fit (s : State) (h0 : Fit Q U s) :
    Fit Q U (State.receiptCheck s) := by
  unfold State.receiptCheck
  repeat' first
    | with_reducible assumption | with_reducible refine fit_ite ?_ ?_ | with_reducible apply announceSilent_fit
    | with_reducible refine fit_foldl ?_ ?_ | with_reducible refine fit_foldl1 ?_ ?_ | intro _
    | (extract_lets +onlyGivenNames z1; first | refine fit_cut z1 ?_ fun hz => ?_ | skip) | split
    | (refine fit_of ?_; dsimp only; refine fit_to ?_) | dsimp +zetaDelta only

theorem replicaCheck_fit (s : State) (h0 : Fit Q U s) :
    Fit Q U (State.replicaCheck s) := by
  unfold State.replicaCheck
  repeat' first
    | with_reducible assumption | with_reducible refine fit_ite ?_ ?_ | with_reducible apply ackCheck_fit
    | with_reducible apply receiptCheck_fit | intro _
    | (extract_lets +onlyGivenNames z1; first | refine fit_cut z1 ?_ fun hz => ?_ | skip) | split
    | (refine fit_of ?_; dsimp only; refine fit_to ?_) | dsimp +zetaDelta only

theorem noteDurable_fit (s : State) (h0 : Fit Q U s) :
    Fit Q U (State.noteDurable s) := by
  unfold State.noteDurable
  repeat' first
    | with_reducible assumption | with_reducible refine fit_ite ?_ ?_ | intro _
    | (extract_lets +onlyGivenNames z1; first | refine fit_cut z1 ?_ fun hz => ?_ | refine fit_cut z1.1 ?_ fun hz => ?_ | skip)
    | split | (refine fit_of ?_; dsimp only; refine fit_to ?_) | dsimp +zetaDelta only

theorem reportActing_fit (s : State) (after : State) (h0 : Fit Q U s) (h1 : Fit Q U after) :
    Fit Q U (State.reportActing s after) := by
  unfold State.reportActing
  repeat' first
    | with_reducible assumption | with_reducible refine fit_ite ?_ ?_ | with_reducible apply report_fit
    | with_reducible apply reportRows_fit | with_reducible refine fit_foldl ?_ ?_ | with_reducible refine fit_foldl1 ?_ ?_
    | intro _
    | (extract_lets +onlyGivenNames z1; first | refine fit_cut z1 ?_ fun hz => ?_ | refine fit_cut z1.1 ?_ fun hz => ?_ | refine fit_cut z1.2 ?_ fun hz => ?_ | skip)
    | (refine fit_of ?_; dsimp only; refine fit_to ?_) | dsimp +zetaDelta only

theorem hastenActing_fit (s : State) (h0 : Fit Q U s) :
    Fit Q U (State.hastenActing s) := by
  unfold State.hastenActing
  repeat' first
    | with_reducible assumption | with_reducible refine fit_ite ?_ ?_ | with_reducible apply install_fit
    | with_reducible apply installOrders_fit | with_reducible apply hasten_fit | with_reducible apply reportActing_fit
    | with_reducible refine fit_foldl ?_ ?_ | with_reducible refine fit_foldl1 ?_ ?_ | intro _
    | (extract_lets +onlyGivenNames z1; first | refine fit_cut z1 ?_ fun hz => ?_ | refine fit_cut z1.st ?_ fun hz => ?_ | skip)
    | split | (refine fit_of ?_; dsimp only; refine fit_to ?_) | dsimp +zetaDelta only

theorem publishAll_fit (s0 : State) (h0 : Fit Q U s0) :
    Fit Q U (State.publishAll s0) := by
  unfold State.publishAll
  repeat' first
    | with_reducible assumption | with_reducible refine fit_ite ?_ ?_ | with_reducible apply carryOutDue_fit
    | with_reducible apply publishDue_fit | with_reducible apply publishGens_fit | with_reducible apply schedule_fit
    | with_reducible apply publishOps_fit | with_reducible apply clearFreed_fit | with_reducible apply rebuildChunks_fit
    | with_reducible apply finishBuilds_fit | with_reducible apply hastenActing_fit | intro _
    | (extract_lets +onlyGivenNames z1; first | refine fit_cut z1 ?_ fun hz => ?_ | refine fit_cut z1.1 ?_ fun hz => ?_ | refine fit_cut z1.2 ?_ fun hz => ?_ | skip)
    | split | (refine fit_of ?_; dsimp only; refine fit_to ?_) | dsimp +zetaDelta only

theorem installStep_fit (s : State) (h0 : Fit Q U s) :
    Fit Q U (State.installStep s) := by
  unfold State.installStep
  repeat' first
    | with_reducible assumption | with_reducible refine fit_ite ?_ ?_ | with_reducible apply mbEndCode_fit
    | with_reducible apply install_fit | with_reducible apply installOrders_fit | intro _
    | (extract_lets +onlyGivenNames z1; first | refine fit_cut z1 ?_ fun hz => ?_ | skip) | split
    | (refine fit_of ?_; dsimp only; refine fit_to ?_) | dsimp +zetaDelta only

theorem changeStep_fit (s : State) (h0 : Fit Q U s) :
    Fit Q U (State.changeStep s) := by
  unfold State.changeStep
  repeat' first
    | with_reducible assumption | with_reducible refine fit_ite ?_ ?_ | with_reducible apply carryOutDue_fit
    | with_reducible apply applyChanges_fit | with_reducible apply serviceStep_fit
    | (refine fit_of ?_; dsimp only; refine fit_to ?_)

theorem closeDigest_fit (s : State) (h0 : Fit Q U s) :
    Fit Q U (State.closeDigest s) := by
  unfold State.closeDigest
  repeat' first
    | with_reducible assumption | with_reducible refine fit_ite ?_ ?_ | with_reducible apply shadowCheck_fit
    | (extract_lets +onlyGivenNames z1; first | refine fit_cut z1 ?_ fun hz => ?_ | skip)
    | (refine fit_of ?_; dsimp only; refine fit_to ?_) | dsimp +zetaDelta only

theorem scrubEvent_fit (s : State) (h0 : Fit Q U s) :
    Fit Q U (State.scrubEvent s) := by
  unfold State.scrubEvent
  repeat' first
    | with_reducible assumption | with_reducible refine fit_ite ?_ ?_ | with_reducible apply raiseNode_fit | split
    | (refine fit_of ?_; dsimp only; refine fit_to ?_)

theorem forgetOld_fit (s : State) (h0 : Fit Q U s) :
    Fit Q U (State.forgetOld s) := by
  unfold State.forgetOld
  repeat' first
    | with_reducible assumption | with_reducible refine fit_ite ?_ ?_
    | (refine fit_of ?_; dsimp only; refine fitOf_chans ?_ (fit_to ?_); first | exact sharesOk_map fun _ hx => hx | (refine sharesOk_put (by assumption) ?_; exact fun hx => hx) | exact sharesOk_tdel | exact sharesOk_map (fun _ _ => withinShares_zero rfl rfl) | exact sharesOk_map (fun _ hx => withinShares_noReissue hx rfl rfl rfl) | exact sharesOk_map (fun _ hx => withinShares_frameStart hx rfl rfl rfl))
    | intro _ | split | (refine fit_of ?_; dsimp only; refine fit_to ?_) | dsimp +zetaDelta only

theorem closeStep_fit (s : State) (i : CwIn) (h0 : Fit Q U s) :
    Fit Q U (State.closeStep s i) := by
  unfold State.closeStep
  repeat' first
    | with_reducible assumption | with_reducible refine fit_ite ?_ ?_ | with_reducible apply movesEnd_fit
    | with_reducible apply startRebuilds_fit | with_reducible apply lead_fit | with_reducible apply rollbacks_fit
    | with_reducible apply countApplied_fit | with_reducible apply release6_fit | with_reducible apply setsEnd_fit
    | with_reducible apply captureMissed_fit | with_reducible apply takeKeys_fit | with_reducible apply closeAccts_fit
    | with_reducible apply coolAll_fit | with_reducible apply sampleAll_fit | with_reducible apply saturations_fit
    | with_reducible apply lanesDue_fit | with_reducible apply captureRows_fit | with_reducible apply eachTable_fit
    | with_reducible apply startPasses_fit | with_reducible apply checksEnd_fit | with_reducible apply holdTick_fit
    | with_reducible apply closeDigest_fit | with_reducible apply scrubEvent_fit | with_reducible apply forgetOld_fit
    | (extract_lets +onlyGivenNames z1; first | refine fit_cut z1 ?_ fun hz => ?_ | refine fit_cut z1.st ?_ fun hz => ?_ | skip)
    | (refine fit_of ?_; dsimp only; refine fit_to ?_) | dsimp +zetaDelta only

theorem stuckStop_fit (s : State) (h0 : Fit Q U s) :
    Fit Q U (State.stuckStop s) := by
  unfold State.stuckStop
  repeat' first
    | with_reducible assumption | with_reducible refine fit_ite ?_ ?_ | with_reducible apply faultRecord_fit
    | (refine fit_of ?_; dsimp only; refine fit_to ?_)

theorem commit_fit (s : State) (i : CwIn) (h0 : Fit Q U s) :
    Fit Q U (State.commit s i) := by
  unfold State.commit
  repeat' first
    | with_reducible assumption | with_reducible refine fit_ite ?_ ?_ | with_reducible apply easelSwitch_fit
    | with_reducible apply publishRestored_fit | with_reducible apply flushEvents_fit | with_reducible apply ringVectors_fit
    | with_reducible apply standbyEnter_fit | with_reducible apply activateDue_fit | with_reducible apply drain_fit
    | with_reducible apply replicaSend_fit | with_reducible apply replicaCheck_fit | with_reducible apply noteDurable_fit
    | with_reducible apply publishAll_fit | with_reducible apply installStep_fit | with_reducible apply changeStep_fit
    | with_reducible apply closeStep_fit | with_reducible apply stuckStop_fit
    | (extract_lets +onlyGivenNames z1; first | refine fit_cut z1 ?_ fun hz => ?_ | refine fit_cut z1.st ?_ fun hz => ?_ | skip)
    | split | (refine fit_of ?_; dsimp only; refine fit_to ?_) | dsimp +zetaDelta only

end Sys2Proof.Machine
end

