-- ==== Sys2Proof/Laws/FitFrame.lean ====
section
/-! SUPPORT. The operations of Frame.lean keep what `Fit` says. -/

namespace Sys2Proof.Machine

set_option linter.tactic.unusedName false

variable {Q : List Instr} {U : Was}

theorem sendDue_fit (s : State) (h0 : Fit Q U s) :
    Fit Q U (State.sendDue s) := by
  unfold State.sendDue
  repeat' first
    | with_reducible assumption | with_reducible refine fit_ite ?_ ?_ | with_reducible apply send_fit
    | with_reducible refine fit_foldl ?_ ?_ | with_reducible refine fit_foldl1 ?_ ?_ | intro _
    | (extract_lets +onlyGivenNames z1; first | refine fit_cut z1 ?_ fun hz => ?_ | refine fit_cut z1.1 ?_ fun hz => ?_ | refine fit_cut z1.2 ?_ fun hz => ?_ | skip)
    | (refine fit_of ?_; dsimp only; refine fit_to ?_) | dsimp +zetaDelta only

theorem reportDurable_fit (s : State) (h0 : Fit Q U s) :
    Fit Q U (State.reportDurable s) := by
  unfold State.reportDurable
  repeat' first
    | with_reducible assumption | with_reducible refine fit_ite ?_ ?_ | with_reducible apply send_fit
    | with_reducible refine fit_foldl ?_ ?_ | with_reducible refine fit_foldl1 ?_ ?_ | intro _
    | (extract_lets +onlyGivenNames z1; first | refine fit_cut z1 ?_ fun hz => ?_ | skip)
    | (refine fit_of ?_; dsimp only; refine fit_to ?_) | dsimp +zetaDelta only

theorem deferStart_fit (s : State) (h0 : Fit Q U s) :
    Fit Q U (State.deferStart s) := by
  unfold State.deferStart
  repeat' first
    | with_reducible assumption | with_reducible refine fit_ite ?_ ?_ | with_reducible apply deferAll_fit
    | with_reducible apply deferReading_fit | with_reducible refine fit_foldl ?_ ?_ | with_reducible refine fit_foldl1 ?_ ?_
    | intro _ | split | (refine fit_of ?_; dsimp only; refine fit_to ?_) | dsimp +zetaDelta only

theorem advertCheck_fit (s : State) (h0 : Fit Q U s) :
    Fit Q U (State.advertCheck s) := by
  unfold State.advertCheck
  repeat' first
    | with_reducible assumption | with_reducible refine fit_ite ?_ ?_ | with_reducible apply advertLoss_fit | split
    | (refine fit_of ?_; dsimp only; refine fit_to ?_)

theorem nextNumber_fit (s : State) (h0 : Fit Q U s) :
    Fit Q U (State.nextNumber s) := by
  unfold State.nextNumber
  repeat' first
    | with_reducible assumption | with_reducible refine fit_ite ?_ ?_ | with_reducible apply joinNow_fit
    | with_reducible apply leaveDue_fit | (extract_lets +onlyGivenNames z1; first | refine fit_cut z1 ?_ fun hz => ?_ | skip)
    | split | (refine fit_of ?_; dsimp only; refine fit_to ?_) | dsimp +zetaDelta only

theorem frameSettings_fit (s : State) (h0 : Fit Q U s) :
    Fit Q U (State.frameSettings s) := by
  unfold State.frameSettings
  repeat' first
    | with_reducible assumption | with_reducible refine fit_ite ?_ ?_ | with_reducible apply free_fit
    | with_reducible apply applyModes_fit | with_reducible apply fenceNow_fit | with_reducible apply takePlace_fit
    | with_reducible apply powerTick_fit | with_reducible apply advertCheck_fit
    | (refine fit_of ?_; dsimp only; refine fitOf_chans ?_ (fit_to ?_); first | exact sharesOk_map fun _ hx => hx | (refine sharesOk_put (by assumption) ?_; exact fun hx => hx) | exact sharesOk_tdel | exact sharesOk_map (fun _ _ => withinShares_zero rfl rfl) | exact sharesOk_map (fun _ hx => withinShares_noReissue hx rfl rfl rfl) | exact sharesOk_map (fun _ hx => withinShares_frameStart hx rfl rfl rfl))
    | intro _
    | (extract_lets +onlyGivenNames z1; first | refine fit_cut z1 ?_ fun hz => ?_ | refine fit_cut z1.1 ?_ fun hz => ?_ | refine fit_cut z1.2 ?_ fun hz => ?_ | skip)
    | (refine fit_of ?_; dsimp only; refine fit_to ?_) | dsimp +zetaDelta only

theorem announceFaults_fit (s : State) (h0 : Fit Q U s) :
    Fit Q U (State.announceFaults s) := by
  unfold State.announceFaults
  repeat' first
    | with_reducible assumption | with_reducible refine fit_ite ?_ ?_ | with_reducible apply announce_fit
    | with_reducible refine fit_foldl ?_ ?_ | with_reducible refine fit_foldl1 ?_ ?_ | intro _
    | (extract_lets +onlyGivenNames z1; first | refine fit_cut z1 ?_ fun hz => ?_ | refine fit_cut z1.1 ?_ fun hz => ?_ | refine fit_cut z1.2 ?_ fun hz => ?_ | refine fit_cut z1.st ?_ fun hz => ?_ | skip)
    | split | (refine fit_of ?_; dsimp only; refine fit_to ?_) | dsimp +zetaDelta only

theorem frameStart_fit (s : State) (h0 : Fit Q U s) :
    Fit Q U (State.frameStart s) := by
  unfold State.frameStart
  repeat' first
    | with_reducible assumption | with_reducible refine fit_ite ?_ ?_ | with_reducible apply writeDue_fit
    | with_reducible apply movesStart_fit | with_reducible apply askAll_fit | with_reducible apply settleAll_fit
    | with_reducible apply statsDue_fit | with_reducible apply missDeliver_fit | with_reducible apply sendDue_fit
    | with_reducible apply reportDurable_fit | with_reducible apply deferStart_fit | with_reducible apply nextNumber_fit
    | with_reducible apply frameSettings_fit | with_reducible apply announceFaults_fit
    | (extract_lets +onlyGivenNames z1; first | refine fit_cut z1 ?_ fun hz => ?_ | refine fit_cut z1.st ?_ fun hz => ?_ | skip)
    | (refine fit_of ?_; dsimp only; refine fit_to ?_) | dsimp +zetaDelta only

end Sys2Proof.Machine
end

