-- ==== Sys2Proof/Laws/FitExec.lean ====
section
/-! SUPPORT. Every command answers a next state, and what `Fit` says holds of it. -/

namespace Sys2Proof.Machine

set_option linter.tactic.unusedName false

variable {Q : List Instr} {U : Was}

/-- The answer is a next state of which `Fit` holds. -/
def Stays (q : List Instr) (u : Was) (o : Answer) : Prop := ∃ t, o = .next t ∧ Fit q u t

theorem next_stays {t : State} (h : Fit Q U t) : Stays Q U (.next t) := ⟨t, rfl, h⟩

theorem whenLive_stays {f : State → State} {s : State} (h : Fit Q U s) (hf : ∀ t, Fit Q U t → Fit Q U (f t)) :
    Stays Q U (whenLive f s) := next_stays (fit_ite (hf s h) h)

theorem always_stays {f : State → State} {s : State} (h : Fit Q U s) (hf : ∀ t, Fit Q U t → Fit Q U (f t)) :
    Stays Q U (always f s) := next_stays (hf s h)

theorem whenAnswered_stays {f : State → State} {s : State} (h : Fit Q U s) (hf : ∀ t, Fit Q U t → Fit Q U (f t)) :
    Stays Q U (whenAnswered f s) := next_stays (fit_ite (hf s h) h)

theorem mailbox_stays {b : Bool} {code : Nat} {g : Go} {body : MbBody} {s : State} (h : Fit Q U s)
    (hb : ∀ t, Fit Q U t → Fit Q U (body t).1) : Stays Q U (mailbox b code g body s) :=
  next_stays (fit_ite (goMb_fit _ _ _ _ _ h hb) h)

theorem inWindow_stays {n stage : Nat} {f : EaselEntry → State → State} {s : State} (h : Fit Q U s)
    (hf : ∀ e t, Fit Q U t → Fit Q U (f e t)) : Stays Q U (inWindow n stage f s) := by
  refine whenLive_stays h fun t ht => ?_
  split
  · exact ht
  · exact fit_ite (hf _ _ (enter_fit _ _ _ ht)) (enter_fit _ _ _ ht)

theorem inNodeWindow_stays {n stage : Nat} {f : EaselEntry → State → State} {s : State} (h : Fit Q U s)
    (hf : ∀ e t, Fit Q U t → Fit Q U (f e t)) : Stays Q U (inNodeWindow n stage f s) := by
  refine whenLive_stays h fun t ht => ?_
  split
  · exact ht
  · exact fit_ite (hf _ _ (enter_fit _ _ _ ht)) (enter_fit _ _ _ ht)

theorem memWf_nbWrite (m : List Host.Cell) (op : NbOp) (a b r : Nat) (h : memWf m = true) :
    memWf (nbWrite m op a b r) = true := memWf_memWriteN _ _ _ h

theorem fit_scrubAt {t : State} (n : Nat) (h : Fit Q U t) : Fit Q U { t with dram := { t.dram with scrubAt := n } } :=
  fit_of (fit_to h)

theorem fit_kept {t : State} (l : List Nat) (h : Fit Q U t) : Fit Q U { t with dram := { t.dram with kept := l } } :=
  fit_of (fit_to h)

theorem fit_corrected {t : State} (n : Nat) (h : Fit Q U t) : Fit Q U { t with dram := { t.dram with corrected := n } } :=
  fit_of (fit_to h)

theorem execEaselLoad_fit (g : Go) (s : State) (h0 : Fit Q U s) :
    Stays Q U (execEaselLoad g s) := by
  unfold execEaselLoad
  repeat' first
    | with_reducible apply mailbox_stays | intro _
    | with_reducible assumption | with_reducible refine fit_ite ?_ ?_ | with_reducible apply easelLoadBody_fit
    | (refine fit_of ?_; dsimp only; refine fit_to ?_)

theorem execEaselArm_fit (g : Go) (s : State) (h0 : Fit Q U s) :
    Stays Q U (execEaselArm g s) := by
  unfold execEaselArm
  repeat' first
    | with_reducible apply mailbox_stays | intro _
    | with_reducible assumption | with_reducible refine fit_ite ?_ ?_ | with_reducible apply armBody_fit
    | (refine fit_of ?_; dsimp only; refine fit_to ?_)

theorem execEaselArmCancel_fit (g : Go) (s : State) (h0 : Fit Q U s) :
    Stays Q U (execEaselArmCancel g s) := by
  unfold execEaselArmCancel
  repeat' first
    | with_reducible apply mailbox_stays | intro _
    | with_reducible assumption | with_reducible refine fit_ite ?_ ?_ | with_reducible apply armBody_fit
    | (refine fit_of ?_; dsimp only; refine fit_to ?_)

theorem execGatesLoad_fit (g : Go) (s : State) (h0 : Fit Q U s) :
    Stays Q U (execGatesLoad g s) := by
  unfold execGatesLoad
  repeat' first
    | with_reducible apply mailbox_stays | intro _
    | with_reducible assumption | with_reducible refine fit_ite ?_ ?_ | with_reducible apply gatesLoadBody_fit
    | (refine fit_of ?_; dsimp only; refine fit_to ?_)

theorem execModeSet_fit (g : Go) (s : State) (h0 : Fit Q U s) :
    Stays Q U (execModeSet g s) := by
  unfold execModeSet
  repeat' first
    | with_reducible apply mailbox_stays | intro _
    | with_reducible assumption | with_reducible refine fit_ite ?_ ?_ | with_reducible apply modeSetBody_fit
    | (refine fit_of ?_; dsimp only; refine fit_to ?_)

theorem execModeSwitch_fit (s : State) (h0 : Fit Q U s) :
    Stays Q U (execModeSwitch s) := by
  unfold execModeSwitch
  repeat' first
    | with_reducible apply whenLive_stays | intro _
    | with_reducible assumption | with_reducible refine fit_ite ?_ ?_ | with_reducible apply applyModes_fit
    | (refine fit_of ?_; dsimp only; refine fit_to ?_)

theorem execEaselSwitch_fit (s : State) (h0 : Fit Q U s) :
    Stays Q U (execEaselSwitch s) := by
  unfold execEaselSwitch
  repeat' first
    | with_reducible apply whenLive_stays | intro _
    | with_reducible assumption | with_reducible refine fit_ite ?_ ?_ | with_reducible apply easelSwitch_fit
    | (refine fit_of ?_; dsimp only; refine fit_to ?_)

theorem execIndexCreate_fit (g : Go) (s : State) (h0 : Fit Q U s) :
    Stays Q U (execIndexCreate g s) := by
  unfold execIndexCreate
  repeat' first
    | with_reducible apply mailbox_stays | intro _
    | with_reducible assumption | with_reducible refine fit_ite ?_ ?_ | with_reducible apply indexCreateBody_fit
    | (refine fit_of ?_; dsimp only; refine fit_to ?_)

theorem execIndexDrop_fit (g : Go) (s : State) (h0 : Fit Q U s) :
    Stays Q U (execIndexDrop g s) := by
  unfold execIndexDrop
  repeat' first
    | with_reducible apply mailbox_stays | intro _
    | with_reducible assumption | with_reducible refine fit_ite ?_ ?_ | with_reducible apply indexDropBody_fit
    | (refine fit_of ?_; dsimp only; refine fit_to ?_)

theorem execTableCreate_fit (g : Go) (s : State) (h0 : Fit Q U s) :
    Stays Q U (execTableCreate g s) := by
  unfold execTableCreate
  repeat' first
    | with_reducible apply mailbox_stays | intro _
    | with_reducible assumption | with_reducible refine fit_ite ?_ ?_ | with_reducible apply tableCreateBody_fit
    | (refine fit_of ?_; dsimp only; refine fit_to ?_)

theorem execTableDrop_fit (g : Go) (s : State) (h0 : Fit Q U s) :
    Stays Q U (execTableDrop g s) := by
  unfold execTableDrop
  repeat' first
    | with_reducible apply mailbox_stays | intro _
    | with_reducible assumption | with_reducible refine fit_ite ?_ ?_ | with_reducible apply tableDropBody_fit
    | (refine fit_of ?_; dsimp only; refine fit_to ?_)

theorem execAllowsetCreate_fit (g : Go) (s : State) (h0 : Fit Q U s) :
    Stays Q U (execAllowsetCreate g s) := by
  unfold execAllowsetCreate
  repeat' first
    | with_reducible apply mailbox_stays | intro _
    | with_reducible assumption | with_reducible refine fit_ite ?_ ?_ | with_reducible apply allowsetCreateBody_fit
    | (refine fit_of ?_; dsimp only; refine fit_to ?_)

theorem execGraphLoad_fit (g : Go) (s : State) (h0 : Fit Q U s) :
    Stays Q U (execGraphLoad g s) := by
  unfold execGraphLoad
  repeat' first
    | with_reducible apply mailbox_stays | intro _
    | with_reducible assumption | with_reducible refine fit_ite ?_ ?_ | with_reducible apply graphLoadBody_fit
    | (refine fit_of ?_; dsimp only; refine fit_to ?_)

theorem execGraphPublish_fit (slot : Nat) (object : Handle) (s : State) (h0 : Fit Q U s) :
    Stays Q U (execGraphPublish slot object s) := by
  unfold execGraphPublish
  repeat' first
    | with_reducible apply whenLive_stays
    | with_reducible assumption | with_reducible refine fit_ite ?_ ?_ | intro _
    | (refine fit_of ?_; dsimp only; refine fit_to ?_) | dsimp +zetaDelta only

theorem execPaletteSet_fit (g : Go) (s : State) (h0 : Fit Q U s) :
    Stays Q U (execPaletteSet g s) := by
  unfold execPaletteSet
  repeat' first
    | with_reducible apply mailbox_stays | intro _
    | with_reducible assumption | with_reducible refine fit_ite ?_ ?_ | with_reducible apply paletteSetBody_fit
    | (refine fit_of ?_; dsimp only; refine fit_to ?_)

theorem execGateEntryOpen_fit (port : Nat) (entry : Nat) (s : State) (h0 : Fit Q U s) :
    Stays Q U (execGateEntryOpen port entry s) := by
  unfold execGateEntryOpen
  repeat' first
    | with_reducible apply whenLive_stays
    | with_reducible assumption | with_reducible refine fit_ite ?_ ?_ | with_reducible apply gateOpen_fit | intro _ | split
    | (refine fit_of ?_; dsimp only; refine fit_to ?_) | dsimp +zetaDelta only

theorem execNegativeAck_fit (port : Nat) (seq : Nat) (s : State) (h0 : Fit Q U s) :
    Stays Q U (execNegativeAck port seq s) := by
  unfold execNegativeAck
  repeat' first
    | with_reducible apply whenLive_stays
    | with_reducible assumption | with_reducible refine fit_ite ?_ ?_ | with_reducible apply resendCopy_fit | intro _
    | (refine fit_of ?_; dsimp only; refine fit_to ?_) | dsimp +zetaDelta only

theorem execRetransmitTimeout_fit (port : Nat) (seq : Nat) (s : State) (h0 : Fit Q U s) :
    Stays Q U (execRetransmitTimeout port seq s) := by
  unfold execRetransmitTimeout
  repeat' first
    | with_reducible apply whenLive_stays
    | with_reducible assumption | with_reducible refine fit_ite ?_ ?_ | with_reducible apply resendCopy_fit | intro _
    | (refine fit_of ?_; dsimp only; refine fit_to ?_) | dsimp +zetaDelta only

theorem execGroupResendRequest_fit (port : Nat) (dst : Nat) (object : Handle) (gen : Nat) (groups : List Nat) (s : State) (h0 : Fit Q U s) :
    Stays Q U (execGroupResendRequest port dst object gen groups s) := by
  unfold execGroupResendRequest
  repeat' first
    | with_reducible apply whenLive_stays
    | with_reducible assumption | with_reducible refine fit_ite ?_ ?_ | with_reducible apply resendGroups_fit | intro _
    | (refine fit_of ?_; dsimp only; refine fit_to ?_) | dsimp +zetaDelta only

theorem execLinkControlSymbols_fit (port : Nat) (acks : List Nat) (keyId : Option Nat) (partner : Nat) (s : State) (h0 : Fit Q U s) :
    Stays Q U (execLinkControlSymbols port acks keyId partner s) := by
  unfold execLinkControlSymbols
  repeat' first
    | with_reducible apply whenLive_stays
    | with_reducible assumption | with_reducible refine fit_ite ?_ ?_ | with_reducible apply mapPort_fit | intro _ | split
    | (refine fit_of ?_; dsimp only; refine fit_to ?_) | dsimp +zetaDelta only

theorem execAnnouncement_fit (frame : Nat) (a : Announce) (s : State) (h0 : Fit Q U s) :
    Stays Q U (execAnnouncement frame a s) := by
  unfold execAnnouncement
  repeat' first
    | with_reducible apply whenLive_stays
    | with_reducible assumption | with_reducible refine fit_ite ?_ ?_ | with_reducible apply acceptAnnounce_fit
    | with_reducible apply installLate_fit | intro _ | (refine fit_of ?_; dsimp only; refine fit_to ?_) | dsimp +zetaDelta only

theorem execReplicaAcknowledgement_fit (owner : Nat) (slot : Nat) (object : Handle) (region : Nat) (frame : Nat) (s : State) (h0 : Fit Q U s) :
    Stays Q U (execReplicaAcknowledgement owner slot object region frame s) := by
  unfold execReplicaAcknowledgement
  repeat' first
    | with_reducible apply whenLive_stays
    | with_reducible assumption | with_reducible refine fit_ite ?_ ?_ | with_reducible apply acceptAck_fit | intro _
    | (refine fit_of ?_; dsimp only; refine fit_to ?_) | dsimp +zetaDelta only

theorem execReplicaReceipt_fit (owner : Nat) (slot : Nat) (object : Handle) (region : Nat) (frame : Nat) (counts : List (Nat × Nat)) (digest : Nat) (s : State) (h0 : Fit Q U s) :
    Stays Q U (execReplicaReceipt owner slot object region frame counts digest s) := by
  unfold execReplicaReceipt
  repeat' first
    | with_reducible apply whenLive_stays
    | with_reducible assumption | with_reducible refine fit_ite ?_ ?_ | with_reducible apply acceptReceipt_fit | intro _
    | (refine fit_of ?_; dsimp only; refine fit_to ?_) | dsimp +zetaDelta only

theorem execMigrateRegion_fit (g : Go) (s : State) (h0 : Fit Q U s) :
    Stays Q U (execMigrateRegion g s) := by
  unfold execMigrateRegion
  repeat' first
    | with_reducible apply mailbox_stays | intro _
    | with_reducible assumption | with_reducible refine fit_ite ?_ ?_ | with_reducible apply migrateBody_fit
    | (refine fit_of ?_; dsimp only; refine fit_to ?_)

theorem execMigrateShard_fit (g : Go) (s : State) (h0 : Fit Q U s) :
    Stays Q U (execMigrateShard g s) := by
  unfold execMigrateShard
  repeat' first
    | with_reducible apply mailbox_stays | intro _
    | with_reducible assumption | with_reducible refine fit_ite ?_ ?_ | with_reducible apply migrateBody_fit
    | (refine fit_of ?_; dsimp only; refine fit_to ?_)

theorem execMigrateHotRows_fit (g : Go) (s : State) (h0 : Fit Q U s) :
    Stays Q U (execMigrateHotRows g s) := by
  unfold execMigrateHotRows
  repeat' first
    | with_reducible apply mailbox_stays | intro _
    | with_reducible assumption | with_reducible refine fit_ite ?_ ?_ | with_reducible apply migrateBody_fit
    | (refine fit_of ?_; dsimp only; refine fit_to ?_)

theorem execMigrationAcceptance_fit (id : Nat) (accepted : Bool) (s : State) (h0 : Fit Q U s) :
    Stays Q U (execMigrationAcceptance id accepted s) := by
  unfold execMigrationAcceptance
  repeat' first
    | with_reducible apply whenLive_stays
    | with_reducible assumption | with_reducible refine fit_ite ?_ ?_ | with_reducible apply logMove_fit
    | with_reducible apply dropMig_fit | with_reducible apply mapMig_fit | with_reducible apply id_fit | intro _ | split
    | (refine fit_of ?_; dsimp only; refine fit_to ?_) | dsimp +zetaDelta only

theorem execMigrationFlip_fit (id : Nat) (s : State) (h0 : Fit Q U s) :
    Stays Q U (execMigrationFlip id s) := by
  unfold execMigrationFlip
  repeat' first
    | with_reducible apply whenLive_stays
    | with_reducible assumption | with_reducible refine fit_ite ?_ ?_ | with_reducible apply flip_fit
    | with_reducible apply id_fit | intro _ | split | (refine fit_of ?_; dsimp only; refine fit_to ?_) | dsimp +zetaDelta only

theorem execRebuildComplete_fit (id : Nat) (s : State) (h0 : Fit Q U s) :
    Stays Q U (execRebuildComplete id s) := by
  unfold execRebuildComplete
  repeat' first
    | with_reducible apply whenLive_stays
    | with_reducible assumption | with_reducible refine fit_ite ?_ ?_ | with_reducible apply flip_fit
    | with_reducible apply id_fit | intro _ | split | (refine fit_of ?_; dsimp only; refine fit_to ?_) | dsimp +zetaDelta only

theorem execTimeExchange_fit (port : Nat) (t1 : Nat) (t2 : Nat) (t3 : Nat) (t4 : Nat) (pps : Nat) (prio : Nat) (gm : Nat) (hops : Nat) (s : State) (h0 : Fit Q U s) :
    Stays Q U (execTimeExchange port t1 t2 t3 t4 pps prio gm hops s) := by
  unfold execTimeExchange
  repeat' first
    | with_reducible apply whenLive_stays
    | with_reducible assumption | with_reducible refine fit_ite ?_ ?_ | with_reducible apply timeExchange_fit | intro _ | split
    | (refine fit_of ?_; dsimp only; refine fit_to ?_) | dsimp +zetaDelta only

theorem execGmAdvertLoss_fit (s : State) (h0 : Fit Q U s) :
    Stays Q U (execGmAdvertLoss s) := by
  unfold execGmAdvertLoss
  repeat' first
    | with_reducible apply whenLive_stays | intro _
    | with_reducible assumption | with_reducible refine fit_ite ?_ ?_ | with_reducible apply advertLoss_fit
    | (refine fit_of ?_; dsimp only; refine fit_to ?_)

theorem execPpsInEdge_fit (offset : Int) (s : State) (h0 : Fit Q U s) :
    Stays Q U (execPpsInEdge offset s) := by
  unfold execPpsInEdge
  repeat' first
    | with_reducible apply whenLive_stays
    | with_reducible assumption | with_reducible refine fit_ite ?_ ?_ | with_reducible apply ppsEdge_fit | intro _
    | (refine fit_of ?_; dsimp only; refine fit_to ?_) | dsimp +zetaDelta only

theorem execPpsTimeout_fit (s : State) (h0 : Fit Q U s) :
    Stays Q U (execPpsTimeout s) := by
  unfold execPpsTimeout
  repeat' first
    | with_reducible apply whenLive_stays
    | with_reducible assumption | with_reducible refine fit_ite ?_ ?_ | with_reducible apply selectGm_fit | intro _
    | (refine fit_of ?_; dsimp only; refine fit_to ?_) | dsimp +zetaDelta only

theorem execMissReport_fit (port : Nat) (s : State) (h0 : Fit Q U s) :
    Stays Q U (execMissReport port s) := by
  unfold execMissReport
  repeat' first
    | with_reducible apply whenLive_stays
    | with_reducible assumption | with_reducible refine fit_ite ?_ ?_ | with_reducible apply missReport_fit | intro _
    | (refine fit_of ?_; dsimp only; refine fit_to ?_) | dsimp +zetaDelta only

theorem execControlSlot_fit (s : State) (h0 : Fit Q U s) :
    Stays Q U (execControlSlot s) := by
  unfold execControlSlot
  repeat' first
    | with_reducible apply whenLive_stays | intro _
    | with_reducible assumption | with_reducible refine fit_ite ?_ ?_ | with_reducible apply controlSlot_fit
    | (refine fit_of ?_; dsimp only; refine fit_to ?_)

theorem execUllaHeartbeat_fit (port : Nat) (hb : Heartbeat) (crcOk : Bool) (s : State) (h0 : Fit Q U s) :
    Stays Q U (execUllaHeartbeat port hb crcOk s) := by
  unfold execUllaHeartbeat
  repeat' first
    | with_reducible apply whenLive_stays
    | with_reducible assumption | with_reducible refine fit_ite ?_ ?_ | with_reducible apply takeBeat_fit | intro _
    | (refine fit_of ?_; dsimp only; refine fit_to ?_) | dsimp +zetaDelta only

theorem execNodeUnlockedLimit_fit (s : State) (h0 : Fit Q U s) :
    Stays Q U (execNodeUnlockedLimit s) := by
  unfold execNodeUnlockedLimit
  repeat' first
    | with_reducible apply whenLive_stays
    | with_reducible assumption | with_reducible refine fit_ite ?_ ?_ | with_reducible apply selfSuspect_fit | intro _ | split
    | (refine fit_of ?_; dsimp only; refine fit_to ?_) | dsimp +zetaDelta only

theorem execRollback_fit (subject : Nat) (s : State) (h0 : Fit Q U s) :
    Stays Q U (execRollback subject s) := by
  unfold execRollback
  repeat' first
    | with_reducible apply whenLive_stays
    | with_reducible assumption | with_reducible refine fit_ite ?_ ?_ | with_reducible apply rollback_fit | intro _
    | (refine fit_of ?_; dsimp only; refine fit_to ?_) | dsimp +zetaDelta only

theorem execOrderInstall_fit (s : State) (h0 : Fit Q U s) :
    Stays Q U (execOrderInstall s) := by
  unfold execOrderInstall
  repeat' first
    | with_reducible apply whenLive_stays | intro _
    | with_reducible assumption | with_reducible refine fit_ite ?_ ?_ | with_reducible apply installOrders_fit
    | (refine fit_of ?_; dsimp only; refine fit_to ?_)

theorem execTakeoverConfirm_fit (g : Go) (s : State) (h0 : Fit Q U s) :
    Stays Q U (execTakeoverConfirm g s) := by
  unfold execTakeoverConfirm
  repeat' first
    | with_reducible apply mailbox_stays | intro _
    | with_reducible assumption | with_reducible refine fit_ite ?_ ?_ | with_reducible apply confirmBody_fit
    | (refine fit_of ?_; dsimp only; refine fit_to ?_)

theorem execSparePromote_fit (g : Go) (s : State) (h0 : Fit Q U s) :
    Stays Q U (execSparePromote g s) := by
  unfold execSparePromote
  repeat' first
    | with_reducible apply mailbox_stays | intro _
    | with_reducible assumption | with_reducible refine fit_ite ?_ ?_ | with_reducible apply promoteBody_fit
    | (refine fit_of ?_; dsimp only; refine fit_to ?_)

theorem execShadowStart_fit (g : Go) (relayNames : Bool) (shadowed : Bool) (encrypt : Bool) (s : State) (h0 : Fit Q U s) :
    Stays Q U (execShadowStart g relayNames shadowed encrypt s) := by
  unfold execShadowStart
  repeat' first
    | with_reducible apply mailbox_stays | intro _
    | with_reducible assumption | with_reducible refine fit_ite ?_ ?_ | with_reducible apply shadowBody_fit
    | (refine fit_of ?_; dsimp only; refine fit_to ?_)

theorem execShadowPassed_fit (s : State) (h0 : Fit Q U s) :
    Stays Q U (execShadowPassed s) := by
  unfold execShadowPassed
  repeat' first
    | with_reducible apply whenLive_stays | intro _
    | with_reducible assumption | with_reducible refine fit_ite ?_ ?_ | with_reducible apply shadowPassed_fit
    | (refine fit_of ?_; dsimp only; refine fit_to ?_)

theorem execArrayJoin_fit (g : Go) (s : State) (h0 : Fit Q U s) :
    Stays Q U (execArrayJoin g s) := by
  unfold execArrayJoin
  repeat' first
    | with_reducible apply mailbox_stays | intro _
    | with_reducible assumption | with_reducible refine fit_ite ?_ ?_ | with_reducible apply joinBody_fit
    | (refine fit_of ?_; dsimp only; refine fit_to ?_)

theorem execArrayLeave_fit (g : Go) (s : State) (h0 : Fit Q U s) :
    Stays Q U (execArrayLeave g s) := by
  unfold execArrayLeave
  repeat' first
    | with_reducible apply mailbox_stays | intro _
    | with_reducible assumption | with_reducible refine fit_ite ?_ ?_ | with_reducible apply leaveBody_fit
    | (refine fit_of ?_; dsimp only; refine fit_to ?_)

theorem execArrayLeaveEffect_fit (s : State) (h0 : Fit Q U s) :
    Stays Q U (execArrayLeaveEffect s) := by
  unfold execArrayLeaveEffect
  repeat' first
    | with_reducible apply whenLive_stays
    | with_reducible assumption | with_reducible refine fit_ite ?_ ?_ | with_reducible apply leaveDue_fit | intro _ | split
    | (refine fit_of ?_; dsimp only; refine fit_to ?_) | dsimp +zetaDelta only

theorem execDoorbellSubmissionTail_fit (fn : Nat) (cycle : Nat) (size : Nat) (value : BitVec 64) (s : State) (h0 : Fit Q U s) :
    Stays Q U (execDoorbellSubmissionTail fn cycle size value s) := by
  unfold execDoorbellSubmissionTail
  repeat' first
    | with_reducible apply whenLive_stays
    | with_reducible assumption | with_reducible refine fit_ite ?_ ?_ | with_reducible apply doorbell_fit | intro _
    | (refine fit_of ?_; dsimp only; refine fit_to ?_) | dsimp +zetaDelta only

theorem execDoorbellCompletionHead_fit (fn : Nat) (cycle : Nat) (size : Nat) (value : BitVec 64) (s : State) (h0 : Fit Q U s) :
    Stays Q U (execDoorbellCompletionHead fn cycle size value s) := by
  unfold execDoorbellCompletionHead
  repeat' first
    | with_reducible apply whenLive_stays
    | with_reducible assumption | with_reducible refine fit_ite ?_ ?_ | with_reducible apply doorbell_fit | intro _
    | (refine fit_of ?_; dsimp only; refine fit_to ?_) | dsimp +zetaDelta only

theorem execSearch_fit (slot : Nat) (ring : Nat) (entry : Bytes) (bufs : Option (List Bytes)) (s : State) (h0 : Fit Q U s) :
    Stays Q U (execSearch slot ring entry bufs s) := by
  unfold execSearch
  repeat' first
    | with_reducible apply whenLive_stays
    | with_reducible assumption | with_reducible refine fit_ite ?_ ?_ | with_reducible apply land_fit | intro _
    | (refine fit_of ?_; dsimp only; refine fit_to ?_) | dsimp +zetaDelta only

theorem execLookup_fit (slot : Nat) (ring : Nat) (entry : Bytes) (bufs : Option (List Bytes)) (s : State) (h0 : Fit Q U s) :
    Stays Q U (execLookup slot ring entry bufs s) := by
  unfold execLookup
  repeat' first
    | with_reducible apply whenLive_stays
    | with_reducible assumption | with_reducible refine fit_ite ?_ ?_ | with_reducible apply land_fit | intro _
    | (refine fit_of ?_; dsimp only; refine fit_to ?_) | dsimp +zetaDelta only

theorem execApply_fit (slot : Nat) (ring : Nat) (entry : Bytes) (bufs : Option (List Bytes)) (s : State) (h0 : Fit Q U s) :
    Stays Q U (execApply slot ring entry bufs s) := by
  unfold execApply
  repeat' first
    | with_reducible apply whenLive_stays
    | with_reducible assumption | with_reducible refine fit_ite ?_ ?_ | with_reducible apply land_fit | intro _
    | (refine fit_of ?_; dsimp only; refine fit_to ?_) | dsimp +zetaDelta only

theorem execUpsert_fit (slot : Nat) (ring : Nat) (entry : Bytes) (bufs : Option (List Bytes)) (s : State) (h0 : Fit Q U s) :
    Stays Q U (execUpsert slot ring entry bufs s) := by
  unfold execUpsert
  repeat' first
    | with_reducible apply whenLive_stays
    | with_reducible assumption | with_reducible refine fit_ite ?_ ?_ | with_reducible apply land_fit | intro _
    | (refine fit_of ?_; dsimp only; refine fit_to ?_) | dsimp +zetaDelta only

theorem execDelete_fit (slot : Nat) (ring : Nat) (entry : Bytes) (s : State) (h0 : Fit Q U s) :
    Stays Q U (execDelete slot ring entry s) := by
  unfold execDelete
  repeat' first
    | with_reducible apply whenLive_stays
    | with_reducible assumption | with_reducible refine fit_ite ?_ ?_ | with_reducible apply land_fit | intro _
    | (refine fit_of ?_; dsimp only; refine fit_to ?_) | dsimp +zetaDelta only

theorem execFetch_fit (slot : Nat) (ring : Nat) (entry : Bytes) (s : State) (h0 : Fit Q U s) :
    Stays Q U (execFetch slot ring entry s) := by
  unfold execFetch
  repeat' first
    | with_reducible apply whenLive_stays
    | with_reducible assumption | with_reducible refine fit_ite ?_ ?_ | with_reducible apply land_fit | intro _
    | (refine fit_of ?_; dsimp only; refine fit_to ?_) | dsimp +zetaDelta only

theorem execSetEdit_fit (slot : Nat) (ring : Nat) (entry : Bytes) (bufs : Option (List Bytes)) (s : State) (h0 : Fit Q U s) :
    Stays Q U (execSetEdit slot ring entry bufs s) := by
  unfold execSetEdit
  repeat' first
    | with_reducible apply whenLive_stays
    | with_reducible assumption | with_reducible refine fit_ite ?_ ?_ | with_reducible apply land_fit | intro _
    | (refine fit_of ?_; dsimp only; refine fit_to ?_) | dsimp +zetaDelta only

theorem execFence_fit (slot : Nat) (ring : Nat) (entry : Bytes) (s : State) (h0 : Fit Q U s) :
    Stays Q U (execFence slot ring entry s) := by
  unfold execFence
  repeat' first
    | with_reducible apply whenLive_stays
    | with_reducible assumption | with_reducible refine fit_ite ?_ ?_ | with_reducible apply fences_fit
    | with_reducible apply land_fit | intro _ | (refine fit_of ?_; dsimp only; refine fit_to ?_) | dsimp +zetaDelta only

theorem execSnapshot_fit (slot : Nat) (ring : Nat) (entry : Bytes) (s : State) (h0 : Fit Q U s) :
    Stays Q U (execSnapshot slot ring entry s) := by
  unfold execSnapshot
  repeat' first
    | with_reducible apply whenLive_stays
    | with_reducible assumption | with_reducible refine fit_ite ?_ ?_ | with_reducible apply land_fit | intro _
    | (refine fit_of ?_; dsimp only; refine fit_to ?_) | dsimp +zetaDelta only

theorem execReplaceRows_fit (slot : Nat) (ring : Nat) (entry : Bytes) (bufs : Option (List Bytes)) (s : State) (h0 : Fit Q U s) :
    Stays Q U (execReplaceRows slot ring entry bufs s) := by
  unfold execReplaceRows
  repeat' first
    | with_reducible apply whenLive_stays
    | with_reducible assumption | with_reducible refine fit_ite ?_ ?_ | with_reducible apply land_fit | intro _
    | (refine fit_of ?_; dsimp only; refine fit_to ?_) | dsimp +zetaDelta only

theorem execStats_fit (slot : Nat) (ring : Nat) (entry : Bytes) (s : State) (h0 : Fit Q U s) :
    Stays Q U (execStats slot ring entry s) := by
  unfold execStats
  repeat' first
    | with_reducible apply whenLive_stays
    | with_reducible assumption | with_reducible refine fit_ite ?_ ?_ | with_reducible apply land_fit | intro _
    | (refine fit_of ?_; dsimp only; refine fit_to ?_) | dsimp +zetaDelta only

theorem execInvalidOpcode_fit (slot : Nat) (ring : Nat) (entry : Bytes) (s : State) (h0 : Fit Q U s) :
    Stays Q U (execInvalidOpcode slot ring entry s) := by
  unfold execInvalidOpcode
  repeat' first
    | with_reducible apply whenLive_stays
    | with_reducible assumption | with_reducible refine fit_ite ?_ ?_ | with_reducible apply land_fit | intro _
    | (refine fit_of ?_; dsimp only; refine fit_to ?_) | dsimp +zetaDelta only

theorem execHostBufferReadDone_fit (slot : Nat) (ring : Nat) (pos : Nat) (bufs : List Bytes) (s : State) (h0 : Fit Q U s) :
    Stays Q U (execHostBufferReadDone slot ring pos bufs s) := by
  unfold execHostBufferReadDone
  repeat' first
    | with_reducible apply whenLive_stays
    | with_reducible assumption | with_reducible refine fit_ite ?_ ?_ | with_reducible apply bufferDone_fit | intro _
    | (refine fit_of ?_; dsimp only; refine fit_to ?_) | dsimp +zetaDelta only

theorem execHostAccessFailed_fit (slot : Nat) (what : AccessFail) (s : State) (h0 : Fit Q U s) :
    Stays Q U (execHostAccessFailed slot what s) := by
  unfold execHostAccessFailed
  repeat' first
    | with_reducible apply whenLive_stays
    | with_reducible assumption | with_reducible refine fit_ite ?_ ?_ | with_reducible apply accessFailed_fit | intro _
    | (refine fit_of ?_; dsimp only; refine fit_to ?_) | dsimp +zetaDelta only

theorem execAdmitWindow_fit (n : Nat) (s : State) (h0 : Fit Q U s) :
    Stays Q U (execAdmitWindow n s) := by
  unfold execAdmitWindow
  repeat' first
    | with_reducible apply inWindow_stays
    | with_reducible assumption | with_reducible refine fit_ite ?_ ?_ | with_reducible apply admitWindow_fit | intro _
    | (refine fit_of ?_; dsimp only; refine fit_to ?_) | dsimp +zetaDelta only

theorem execScatter_fit (n : Nat) (s : State) (h0 : Fit Q U s) :
    Stays Q U (execScatter n s) := by
  unfold execScatter
  repeat' first
    | with_reducible apply inWindow_stays
    | with_reducible assumption | with_reducible refine fit_ite ?_ ?_ | with_reducible apply scatterWindow_fit | intro _
    | (refine fit_of ?_; dsimp only; refine fit_to ?_) | dsimp +zetaDelta only

theorem execNominate_fit (n : Nat) (s : State) (h0 : Fit Q U s) :
    Stays Q U (execNominate n s) := by
  unfold execNominate
  repeat' first
    | with_reducible apply inWindow_stays
    | with_reducible assumption | with_reducible refine fit_ite ?_ ?_ | with_reducible apply nominateWindow_fit | intro _
    | (refine fit_of ?_; dsimp only; refine fit_to ?_) | dsimp +zetaDelta only

theorem execScan_fit (w : ReadWindow) (s : State) (h0 : Fit Q U s) :
    Stays Q U (execScan w s) := by
  unfold execScan
  repeat' first
    | with_reducible apply inWindow_stays
    | with_reducible assumption | with_reducible refine fit_ite ?_ ?_ | with_reducible apply meetFaults_fit
    | with_reducible apply scanWindow_fit | intro _ | (refine fit_of ?_; dsimp only; refine fit_to ?_) | dsimp +zetaDelta only

theorem execRank_fit (n : Nat) (s : State) (h0 : Fit Q U s) :
    Stays Q U (execRank n s) := by
  unfold execRank
  repeat' first
    | with_reducible apply inWindow_stays
    | with_reducible assumption | with_reducible refine fit_ite ?_ ?_ | with_reducible apply rankWindow_fit | intro _
    | (refine fit_of ?_; dsimp only; refine fit_to ?_) | dsimp +zetaDelta only

theorem execDeliver_fit (n : Nat) (s : State) (h0 : Fit Q U s) :
    Stays Q U (execDeliver n s) := by
  unfold execDeliver
  repeat' first
    | with_reducible apply inWindow_stays
    | with_reducible assumption | with_reducible refine fit_ite ?_ ?_ | with_reducible apply deliverWindow_fit
    | with_reducible apply replayNow_fit | intro _ | (refine fit_of ?_; dsimp only; refine fit_to ?_) | dsimp +zetaDelta only

theorem execLookupWindow_fit (w : ReadWindow) (s : State) (h0 : Fit Q U s) :
    Stays Q U (execLookupWindow w s) := by
  unfold execLookupWindow
  repeat' first
    | with_reducible apply inWindow_stays
    | with_reducible assumption | with_reducible refine fit_ite ?_ ?_ | with_reducible apply meetFaults_fit
    | with_reducible apply lookupWindow_fit | intro _ | (refine fit_of ?_; dsimp only; refine fit_to ?_) | dsimp +zetaDelta only

theorem execApplyStage_fit (w : ReadWindow) (s : State) (h0 : Fit Q U s) :
    Stays Q U (execApplyStage w s) := by
  unfold execApplyStage
  repeat' first
    | with_reducible apply inWindow_stays
    | with_reducible assumption | with_reducible refine fit_ite ?_ ?_ | with_reducible apply meetFaults_fit
    | with_reducible apply applyStage_fit | intro _ | (refine fit_of ?_; dsimp only; refine fit_to ?_) | dsimp +zetaDelta only

theorem execMigrateWindow_fit (n : Nat) (s : State) (h0 : Fit Q U s) :
    Stays Q U (execMigrateWindow n s) := by
  unfold execMigrateWindow
  repeat' first
    | with_reducible apply inNodeWindow_stays
    | with_reducible assumption | with_reducible refine fit_ite ?_ ?_ | with_reducible apply migrateThen_fit | intro _
    | (refine fit_of ?_; dsimp only; refine fit_to ?_) | dsimp +zetaDelta only

theorem execStatsRead_fit (g : Go) (s : State) (h0 : Fit Q U s) :
    Stays Q U (execStatsRead g s) := by
  unfold execStatsRead
  repeat' first
    | with_reducible apply mailbox_stays | intro _
    | with_reducible assumption | with_reducible refine fit_ite ?_ ?_ | with_reducible apply statsReadBody_fit
    | (refine fit_of ?_; dsimp only; refine fit_to ?_)

theorem execLogRead_fit (g : Go) (s : State) (h0 : Fit Q U s) :
    Stays Q U (execLogRead g s) := by
  unfold execLogRead
  repeat' first
    | with_reducible apply mailbox_stays | intro _
    | with_reducible assumption | with_reducible refine fit_ite ?_ ?_ | with_reducible apply logReadBody_fit
    | (refine fit_of ?_; dsimp only; refine fit_to ?_)

theorem execPacketReceived_fit (port : Nat) (p : Packet) (crcOk : Bool) (tagOk : Bool) (words : List (Nat × Nat)) (s : State) (h0 : Fit Q U s) :
    Stays Q U (execPacketReceived port p crcOk tagOk words s) := by
  unfold execPacketReceived
  repeat' first
    | with_reducible apply whenLive_stays
    | with_reducible assumption | with_reducible refine fit_ite ?_ ?_ | with_reducible apply receive_fit
    | with_reducible apply installLate_fit | with_reducible apply replayNow_fit | with_reducible apply settleMoved_fit
    | with_reducible apply settleAll_fit | intro _ | (refine fit_of ?_; dsimp only; refine fit_to ?_) | dsimp +zetaDelta only

theorem execDurabilityReport_fit (home : Nat) (seq : Nat) (owner : Nat) (s : State) (h0 : Fit Q U s) :
    Stays Q U (execDurabilityReport home seq owner s) := by
  unfold execDurabilityReport
  repeat' first
    | with_reducible apply whenLive_stays
    | with_reducible assumption | with_reducible refine fit_ite ?_ ?_ | with_reducible apply accept_fit
    | with_reducible apply settleAll_fit | intro _ | split | (refine fit_of ?_; dsimp only; refine fit_to ?_)
    | dsimp +zetaDelta only

theorem execGenerationPublish_fit (slot : Nat) (object : Handle) (s : State) (h0 : Fit Q U s) :
    Stays Q U (execGenerationPublish slot object s) := by
  unfold execGenerationPublish
  repeat' first
    | with_reducible apply whenLive_stays
    | with_reducible assumption | with_reducible refine fit_ite ?_ ?_ | with_reducible apply publishGen_fit | intro _
    | (refine fit_of ?_; dsimp only; refine fit_to ?_) | dsimp +zetaDelta only

theorem execCompact_fit (n : Nat) (s : State) (h0 : Fit Q U s) :
    Stays Q U (execCompact n s) := by
  unfold execCompact
  repeat' first
    | with_reducible apply inWindow_stays
    | with_reducible assumption | with_reducible refine fit_ite ?_ ?_ | with_reducible apply compactWindow_fit | intro _
    | (refine fit_of ?_; dsimp only; refine fit_to ?_) | dsimp +zetaDelta only

theorem execVersionRelease_fit (s : State) (h0 : Fit Q U s) :
    Stays Q U (execVersionRelease s) := by
  unfold execVersionRelease
  repeat' first
    | with_reducible apply whenLive_stays
    | with_reducible assumption | with_reducible refine fit_ite ?_ ?_ | with_reducible apply clearFreed_fit
    | with_reducible apply release6_fit | intro _ | (refine fit_of ?_; dsimp only; refine fit_to ?_) | dsimp +zetaDelta only

theorem execIdentify_fit (g : Go) (s : State) (h0 : Fit Q U s) :
    Stays Q U (execIdentify g s) := by
  unfold execIdentify
  repeat' first
    | with_reducible apply mailbox_stays | intro _
    | with_reducible assumption | with_reducible refine fit_ite ?_ ?_ | with_reducible apply identifyBody_fit
    | (refine fit_of ?_; dsimp only; refine fit_to ?_)

theorem execChannelCreate_fit (g : Go) (s : State) (h0 : Fit Q U s) :
    Stays Q U (execChannelCreate g s) := by
  unfold execChannelCreate
  repeat' first
    | with_reducible apply mailbox_stays | intro _
    | with_reducible assumption | with_reducible refine fit_ite ?_ ?_ | with_reducible apply channelCreateBody_fit
    | (refine fit_of ?_; dsimp only; refine fit_to ?_)

theorem execChannelDestroy_fit (g : Go) (s : State) (h0 : Fit Q U s) :
    Stays Q U (execChannelDestroy g s) := by
  unfold execChannelDestroy
  repeat' first
    | with_reducible apply mailbox_stays | intro _
    | with_reducible assumption | with_reducible refine fit_ite ?_ ?_ | with_reducible apply channelDestroyBody_fit
    | (refine fit_of ?_; dsimp only; refine fit_to ?_)

theorem execChannelReset_fit (g : Go) (s : State) (h0 : Fit Q U s) :
    Stays Q U (execChannelReset g s) := by
  unfold execChannelReset
  repeat' first
    | with_reducible apply mailbox_stays | intro _
    | with_reducible assumption | with_reducible refine fit_ite ?_ ?_ | with_reducible apply channelResetBody_fit
    | (refine fit_of ?_; dsimp only; refine fit_to ?_)

theorem execMbUnlistedCode_fit (g : Go) (code : Nat) (s : State) (h0 : Fit Q U s) :
    Stays Q U (execMbUnlistedCode g code s) := by
  unfold execMbUnlistedCode
  repeat' first
    | with_reducible apply mailbox_stays
    | with_reducible assumption | with_reducible refine fit_ite ?_ ?_ | intro _
    | (refine fit_of ?_; dsimp only; refine fit_to ?_) | dsimp +zetaDelta only

theorem execOverrun_fit (fn : Nat) (s : State) (h0 : Fit Q U s) :
    Stays Q U (execOverrun fn s) := by
  unfold execOverrun
  repeat' first
    | refine next_stays ?_ | intro _
    | with_reducible assumption | with_reducible refine fit_ite ?_ ?_ | with_reducible apply setMb_fit
    | (refine fit_of ?_; dsimp only; refine fit_to ?_)

theorem execMbResp_fit (fn : Nat) (s : State) (h0 : Fit Q U s) :
    Stays Q U (execMbResp fn s) := by
  unfold execMbResp
  repeat' first
    | refine next_stays ?_ | intro _
    | with_reducible assumption | with_reducible refine fit_ite ?_ ?_ | with_reducible apply emit_fit
    | with_reducible apply setMb_fit | split | (refine fit_of ?_; dsimp only; refine fit_to ?_)

theorem execFlashBackground_fit (n : Nat) (s : State) (h0 : Fit Q U s) :
    Stays Q U (execFlashBackground n s) := by
  unfold execFlashBackground
  repeat' first
    | with_reducible apply inNodeWindow_stays
    | with_reducible assumption | with_reducible refine fit_ite ?_ ?_ | with_reducible apply background_fit | intro _
    | (refine fit_of ?_; dsimp only; refine fit_to ?_) | dsimp +zetaDelta only

theorem execFetchWindow_fit (w : ReadWindow) (s : State) (h0 : Fit Q U s) :
    Stays Q U (execFetchWindow w s) := by
  unfold execFetchWindow
  repeat' first
    | with_reducible apply inWindow_stays
    | with_reducible assumption | with_reducible refine fit_ite ?_ ?_ | with_reducible apply meetFaults_fit
    | with_reducible apply fetchWindow_fit | with_reducible apply fill_fit | intro _
    | (refine fit_of ?_; dsimp only; refine fit_to ?_) | dsimp +zetaDelta only

theorem execSetCombine_fit (n : Nat) (s : State) (h0 : Fit Q U s) :
    Stays Q U (execSetCombine n s) := by
  unfold execSetCombine
  repeat' first
    | with_reducible apply inWindow_stays
    | with_reducible assumption | with_reducible refine fit_ite ?_ ?_ | with_reducible apply combineWindow_fit | intro _
    | (refine fit_of ?_; dsimp only; refine fit_to ?_) | dsimp +zetaDelta only

theorem execSwapSave_fit (n : Nat) (s : State) (h0 : Fit Q U s) :
    Stays Q U (execSwapSave n s) := by
  unfold execSwapSave
  repeat' first
    | with_reducible apply inWindow_stays
    | with_reducible assumption | with_reducible refine fit_ite ?_ ?_ | with_reducible apply swapSave_fit | intro _
    | (refine fit_of ?_; dsimp only; refine fit_to ?_) | dsimp +zetaDelta only

theorem execSwapRestore_fit (n : Nat) (uncorrectable : Bool) (s : State) (h0 : Fit Q U s) :
    Stays Q U (execSwapRestore n uncorrectable s) := by
  unfold execSwapRestore
  repeat' first
    | with_reducible apply inWindow_stays
    | with_reducible assumption | with_reducible refine fit_ite ?_ ?_ | with_reducible apply swapRestore_fit | intro _
    | (refine fit_of ?_; dsimp only; refine fit_to ?_) | dsimp +zetaDelta only

theorem execResultWriteDeadline_fit (cmds : List (Nat × Nat)) (s : State) (h0 : Fit Q U s) :
    Stays Q U (execResultWriteDeadline cmds s) := by
  unfold execResultWriteDeadline
  repeat' first
    | with_reducible apply whenLive_stays
    | with_reducible assumption | with_reducible refine fit_ite ?_ ?_ | with_reducible apply resultDeadline_fit | intro _
    | split | (refine fit_of ?_; dsimp only; refine fit_to ?_) | dsimp +zetaDelta only

theorem execRoute1_fit (w : ReadWindow) (s : State) (h0 : Fit Q U s) :
    Stays Q U (execRoute1 w s) := by
  unfold execRoute1
  repeat' first
    | with_reducible apply inWindow_stays
    | with_reducible assumption | with_reducible refine fit_ite ?_ ?_ | with_reducible apply meetFaults_fit
    | with_reducible apply route1_fit | with_reducible apply cutLate_fit | intro _
    | (refine fit_of ?_; dsimp only; refine fit_to ?_) | dsimp +zetaDelta only

theorem execRoute2_fit (w : ReadWindow) (s : State) (h0 : Fit Q U s) :
    Stays Q U (execRoute2 w s) := by
  unfold execRoute2
  repeat' first
    | with_reducible apply inWindow_stays
    | with_reducible assumption | with_reducible refine fit_ite ?_ ?_ | with_reducible apply meetFaults_fit
    | with_reducible apply route2_fit | with_reducible apply cutLate_fit | intro _
    | (refine fit_of ?_; dsimp only; refine fit_to ?_) | dsimp +zetaDelta only

theorem execRescore_fit (w : ReadWindow) (s : State) (h0 : Fit Q U s) :
    Stays Q U (execRescore w s) := by
  unfold execRescore
  repeat' first
    | with_reducible apply inWindow_stays
    | with_reducible assumption | with_reducible refine fit_ite ?_ ?_ | with_reducible apply meetFaults_fit
    | with_reducible apply rescoreWindow_fit | with_reducible apply cutLate_fit | intro _
    | (refine fit_of ?_; dsimp only; refine fit_to ?_) | dsimp +zetaDelta only

theorem execUpdateStage_fit (w : ReadWindow) (s : State) (h0 : Fit Q U s) :
    Stays Q U (execUpdateStage w s) := by
  unfold execUpdateStage
  repeat' first
    | with_reducible apply inWindow_stays
    | with_reducible assumption | with_reducible refine fit_ite ?_ ?_ | with_reducible apply meetFaults_fit
    | with_reducible apply sendFresh_fit | with_reducible apply updateStage_fit | with_reducible apply cutLate_fit | intro _
    | (refine fit_of ?_; dsimp only; refine fit_to ?_) | dsimp +zetaDelta only

theorem execStageCutOff_fit (stage : Nat) (entry : Nat) (slot : Nat) (cmds : List (Nat × Nat)) (s : State) (h0 : Fit Q U s) :
    Stays Q U (execStageCutOff stage entry slot cmds s) := by
  unfold execStageCutOff
  repeat' first
    | with_reducible apply whenLive_stays
    | with_reducible assumption | with_reducible refine fit_ite ?_ ?_ | with_reducible apply stage_fit
    | with_reducible apply cutStage_fit | intro _ | split | (refine fit_of ?_; dsimp only; refine fit_to ?_)
    | dsimp +zetaDelta only

theorem execFlashReadComplete_fit (id : Nat) (o : ReadOutcome) (s : State) (h0 : Fit Q U s) :
    Stays Q U (execFlashReadComplete id o s) := by
  unfold execFlashReadComplete
  repeat' first
    | with_reducible apply whenLive_stays
    | with_reducible assumption | with_reducible refine fit_ite ?_ ?_ | with_reducible apply id_fit
    | with_reducible apply readDone_fit | intro _ | (refine fit_of ?_; dsimp only; refine fit_to ?_) | dsimp +zetaDelta only

theorem execCheckpointPassStart_fit (slot : Nat) (object : Handle) (s : State) (h0 : Fit Q U s) :
    Stays Q U (execCheckpointPassStart slot object s) := by
  unfold execCheckpointPassStart
  repeat' first
    | with_reducible apply whenLive_stays
    | with_reducible assumption | with_reducible refine fit_ite ?_ ?_ | with_reducible apply startPass_fit | intro _ | split
    | (refine fit_of ?_; dsimp only; refine fit_to ?_) | dsimp +zetaDelta only

theorem execFlashProgramComplete_fit (id : Nat) (ok : Bool) (s : State) (h0 : Fit Q U s) :
    Stays Q U (execFlashProgramComplete id ok s) := by
  unfold execFlashProgramComplete
  repeat' first
    | with_reducible apply whenLive_stays
    | with_reducible assumption | with_reducible refine fit_ite ?_ ?_ | with_reducible apply mapFlash_fit
    | with_reducible apply id_fit | with_reducible apply progDone_fit | with_reducible apply progFailed_fit | intro _
    | (extract_lets +onlyGivenNames z1; first | refine fit_cut z1 ?_ fun hz => ?_ | refine fit_cut z1.1 ?_ fun hz => ?_ | skip)
    | split | (refine fit_of ?_; dsimp only; refine fit_to ?_) | dsimp +zetaDelta only

theorem execFlashEraseComplete_fit (die : Nat) (block : Nat) (ok : Bool) (s : State) (h0 : Fit Q U s) :
    Stays Q U (execFlashEraseComplete die block ok s) := by
  unfold execFlashEraseComplete
  repeat' first
    | with_reducible apply whenLive_stays
    | with_reducible assumption | with_reducible refine fit_ite ?_ ?_ | with_reducible apply mapFlash_fit
    | with_reducible apply checked_fit | with_reducible apply retireBlock_fit | intro _
    | (extract_lets +onlyGivenNames z1; first | refine fit_cut z1 ?_ fun hz => ?_ | refine fit_cut z1.1 ?_ fun hz => ?_ | skip)
    | split | (refine fit_of ?_; dsimp only; refine fit_to ?_) | dsimp +zetaDelta only

theorem execFlashCommandTimeout_fit (chan : Nat) (die : Nat) (rate : Option Nat) (s : State) (h0 : Fit Q U s) :
    Stays Q U (execFlashCommandTimeout chan die rate s) := by
  unfold execFlashCommandTimeout
  repeat' first
    | with_reducible apply whenLive_stays
    | with_reducible assumption | with_reducible refine fit_ite ?_ ?_ | with_reducible apply faultRecord_fit
    | with_reducible apply mapFlash_fit | with_reducible apply retireFlash_fit | with_reducible refine fit_foldl ?_ ?_
    | with_reducible refine fit_foldl1 ?_ ?_ | intro _
    | (extract_lets +onlyGivenNames z1; first | refine fit_cut z1 ?_ fun hz => ?_ | refine fit_cut z1.1 ?_ fun hz => ?_ | refine fit_cut z1.2 ?_ fun hz => ?_ | skip)
    | split | (refine fit_of ?_; dsimp only; refine fit_to ?_) | dsimp +zetaDelta only

theorem execCaptureDeadline_fit (slot : Nat) (object : Handle) (s : State) (h0 : Fit Q U s) :
    Stays Q U (execCaptureDeadline slot object s) := by
  unfold execCaptureDeadline
  repeat' first
    | with_reducible apply whenLive_stays
    | with_reducible assumption | with_reducible refine fit_ite ?_ ?_ | with_reducible apply captureMissed_fit | intro _ | split
    | (refine fit_of ?_; dsimp only; refine fit_to ?_) | dsimp +zetaDelta only

theorem scrubRow_fit (da : Nat) (o : ScrubOutcome) (s : State) (hz : Fit Q U s) : Fit Q U (s.scrubRow da o) := by
  unfold State.scrubRow
  split
  · exact hz
  · exact twinMismatch_fit _ _ hz
  · exact hz
  · exact faultRecord_fit _ _ _ _ _ (fit_corrected _ hz)
  · have hw : Fit Q U (s.wordLost da) := wordLost_fit s da hz
    exact fit_ite (fit_kept _ hw) hw
  · exact hz
  · exact hz

theorem execPatrolScrub_fit (da : Nat) (o : ScrubOutcome) (s : State) (h0 : Fit Q U s) :
    Stays Q U (execPatrolScrub da o s) := by
  unfold execPatrolScrub
  exact whenLive_stays h0 fun t ht => fit_ite (scrubRow_fit _ _ _ (fit_scrubAt _ ht)) ht

theorem execNearBankRowStep_fit (op : NbOp) (a : Nat) (b : Nat) (r : Nat) (allocator : Bool) (s : State) (h0 : Fit Q U s) :
    Stays Q U (execNearBankRowStep op a b r allocator s) := by
  unfold execNearBankRowStep
  refine whenLive_stays h0 fun t ht => ?_
  dsimp only
  refine fit_ite ht (fit_ite ?_ (fit_ite ?_ ?_))
  · refine fit_of ?_
    dsimp only
    exact fitOf_mem (fun h => memWf_nbWrite _ _ _ _ _ (memWf_nbWrite _ _ _ _ _ h)) (fit_to ht)
  · refine fit_of ?_
    dsimp only
    exact fitOf_mem (fun h => memWf_nbWrite _ _ _ _ _ h) (fit_to ht)
  · split
    · exact nbRefuse_fit _ _ _ ht
    · exact ht

theorem execUnitZeroed_fit (u : Nat) (s : State) (h0 : Fit Q U s) :
    Stays Q U (execUnitZeroed u s) := by
  unfold execUnitZeroed
  repeat' first
    | with_reducible apply whenLive_stays
    | with_reducible assumption | with_reducible refine fit_ite ?_ ?_ | with_reducible apply free_fit
    | with_reducible apply setKinds_fit | intro _ | split | (refine fit_of ?_; dsimp only; refine fit_to ?_)
    | (refine fit_of ?_; dsimp only; refine fitOf_mem ?_ (fit_to ?_); first | exact memWf_bitWrite _ _ _ _ | exact memWf_zeroUnits _ _ | exact fun h => memWf_memWriteN _ _ _ (memWf_memWriteN _ _ _ h))
    | dsimp +zetaDelta only

theorem execRwaFieldWrite_fit (fn : Nat) (slot : Nat) (off : Nat) (value : BitVec 32) (s : State) (h0 : Fit Q U s) :
    Stays Q U (execRwaFieldWrite fn slot off value s) := by
  unfold execRwaFieldWrite
  repeat' first
    | with_reducible apply whenAnswered_stays
    | with_reducible assumption | with_reducible refine fit_ite ?_ ?_ | with_reducible apply rwaWrite_fit | intro _
    | (refine fit_of ?_; dsimp only; refine fit_to ?_) | dsimp +zetaDelta only

theorem execRegisterWrite_fit (fn : Nat) (off : Nat) (size : Nat) (value : RegBits) (s : State) (h0 : Fit Q U s) :
    Stays Q U (execRegisterWrite fn off size value s) := by
  unfold execRegisterWrite
  repeat' first
    | with_reducible apply whenAnswered_stays
    | with_reducible assumption | with_reducible refine fit_ite ?_ ?_ | with_reducible apply registerWrite_fit | intro _
    | (refine fit_of ?_; dsimp only; refine fit_to ?_) | dsimp +zetaDelta only

theorem execFrameNumLoRead_fit (fn : Nat) (cycle : Nat) (s : State) (h0 : Fit Q U s) :
    Stays Q U (execFrameNumLoRead fn cycle s) := by
  unfold execFrameNumLoRead
  repeat' first
    | with_reducible apply whenAnswered_stays
    | with_reducible assumption | with_reducible refine fit_ite ?_ ?_ | with_reducible apply emit_fit | intro _
    | (refine fit_of ?_; dsimp only; refine fit_to ?_) | dsimp +zetaDelta only

theorem execNtNsLoRead_fit (fn : Nat) (cycle : Nat) (s : State) (h0 : Fit Q U s) :
    Stays Q U (execNtNsLoRead fn cycle s) := by
  unfold execNtNsLoRead
  repeat' first
    | with_reducible apply whenAnswered_stays
    | with_reducible assumption | with_reducible refine fit_ite ?_ ?_ | with_reducible apply emit_fit | intro _
    | (extract_lets +onlyGivenNames z1; first | refine fit_cut z1 ?_ fun hz => ?_ | refine fit_cut z1.1 ?_ fun hz => ?_ | refine fit_cut z1.2 ?_ fun hz => ?_ | skip)
    | (refine fit_of ?_; dsimp only; refine fit_to ?_) | dsimp +zetaDelta only

theorem execApertureRead_fit (fn : Nat) (off : Nat) (len : Nat) (corrected : Nat) (uncorrectable : Bool) (s : State) (h0 : Fit Q U s) :
    Stays Q U (execApertureRead fn off len corrected uncorrectable s) := by
  unfold execApertureRead
  repeat' first
    | with_reducible apply whenLive_stays
    | with_reducible assumption | with_reducible refine fit_ite ?_ ?_ | with_reducible apply apertureRead_fit | intro _ | split
    | (refine fit_of ?_; dsimp only; refine fit_to ?_) | dsimp +zetaDelta only

theorem execApertureWrite_fit (fn : Nat) (_off : Nat) (_len : Nat) (s : State) (h0 : Fit Q U s) :
    Stays Q U (execApertureWrite fn _off _len s) := by
  unfold execApertureWrite
  repeat' first
    | with_reducible apply whenLive_stays
    | with_reducible assumption | with_reducible refine fit_ite ?_ ?_ | with_reducible apply setAp_fit | intro _
    | (refine fit_of ?_; dsimp only; refine fit_to ?_) | dsimp +zetaDelta only

theorem execAttestReport_fit (g : Go) (s : State) (h0 : Fit Q U s) :
    Stays Q U (execAttestReport g s) := by
  unfold execAttestReport
  repeat' first
    | with_reducible apply mailbox_stays | intro _
    | with_reducible assumption | with_reducible refine fit_ite ?_ ?_ | with_reducible apply attestReportBody_fit
    | (refine fit_of ?_; dsimp only; refine fit_to ?_)

theorem execKeyInstallChannel_fit (g : Go) (key : Option Bytes) (s : State) (h0 : Fit Q U s) :
    Stays Q U (execKeyInstallChannel g key s) := by
  unfold execKeyInstallChannel
  repeat' first
    | with_reducible apply mailbox_stays | intro _
    | with_reducible assumption | with_reducible refine fit_ite ?_ ?_ | with_reducible apply keyInstallBody_fit
    | (refine fit_of ?_; dsimp only; refine fit_to ?_)

theorem execKeyInstallPort_fit (g : Go) (key : Option Bytes) (s : State) (h0 : Fit Q U s) :
    Stays Q U (execKeyInstallPort g key s) := by
  unfold execKeyInstallPort
  repeat' first
    | with_reducible apply mailbox_stays | intro _
    | with_reducible assumption | with_reducible refine fit_ite ?_ ?_ | with_reducible apply keyInstallBody_fit
    | (refine fit_of ?_; dsimp only; refine fit_to ?_)

theorem execKeyInstallIde_fit (g : Go) (key : Option Bytes) (s : State) (h0 : Fit Q U s) :
    Stays Q U (execKeyInstallIde g key s) := by
  unfold execKeyInstallIde
  repeat' first
    | with_reducible apply mailbox_stays | intro _
    | with_reducible assumption | with_reducible refine fit_ite ?_ ?_ | with_reducible apply keyInstallBody_fit
    | (refine fit_of ?_; dsimp only; refine fit_to ?_)

theorem execOwnerTake_fit (g : Go) (s : State) (h0 : Fit Q U s) :
    Stays Q U (execOwnerTake g s) := by
  unfold execOwnerTake
  repeat' first
    | with_reducible apply mailbox_stays | intro _
    | with_reducible assumption | with_reducible refine fit_ite ?_ ?_ | with_reducible apply ownerTakeBody_fit
    | (refine fit_of ?_; dsimp only; refine fit_to ?_)

theorem execFwStage_fit (g : Go) (s : State) (h0 : Fit Q U s) :
    Stays Q U (execFwStage g s) := by
  unfold execFwStage
  repeat' first
    | with_reducible apply mailbox_stays | intro _
    | with_reducible assumption | with_reducible refine fit_ite ?_ ?_ | with_reducible apply fwStageBody_fit
    | (refine fit_of ?_; dsimp only; refine fit_to ?_)

theorem execFwStageEnd_fit (ok : Bool) (s : State) (h0 : Fit Q U s) :
    Stays Q U (execFwStageEnd ok s) := by
  unfold execFwStageEnd
  repeat' first
    | with_reducible apply always_stays
    | with_reducible assumption | with_reducible refine fit_ite ?_ ?_ | with_reducible apply logAdd_fit | intro _
    | (extract_lets +onlyGivenNames z1; first | refine fit_cut z1 ?_ fun hz => ?_ | refine fit_cut z1.st ?_ fun hz => ?_ | skip)
    | split | (refine fit_of ?_; dsimp only; refine fit_to ?_) | dsimp +zetaDelta only

theorem execBuildTrainRegions_fit (g : Go) (s : State) (h0 : Fit Q U s) :
    Stays Q U (execBuildTrainRegions g s) := by
  unfold execBuildTrainRegions
  repeat' first
    | with_reducible apply mailbox_stays | intro _
    | with_reducible assumption | with_reducible refine fit_ite ?_ ?_ | with_reducible apply buildBody_fit
    | (refine fit_of ?_; dsimp only; refine fit_to ?_)

theorem execBuildLoad_fit (g : Go) (s : State) (h0 : Fit Q U s) :
    Stays Q U (execBuildLoad g s) := by
  unfold execBuildLoad
  repeat' first
    | with_reducible apply mailbox_stays | intro _
    | with_reducible assumption | with_reducible refine fit_ite ?_ ?_ | with_reducible apply buildBody_fit
    | (refine fit_of ?_; dsimp only; refine fit_to ?_)

theorem execBuildTrainLists_fit (g : Go) (s : State) (h0 : Fit Q U s) :
    Stays Q U (execBuildTrainLists g s) := by
  unfold execBuildTrainLists
  repeat' first
    | with_reducible apply mailbox_stays | intro _
    | with_reducible assumption | with_reducible refine fit_ite ?_ ?_ | with_reducible apply buildBody_fit
    | (refine fit_of ?_; dsimp only; refine fit_to ?_)

theorem execBuildPlace_fit (g : Go) (s : State) (h0 : Fit Q U s) :
    Stays Q U (execBuildPlace g s) := by
  unfold execBuildPlace
  repeat' first
    | with_reducible apply mailbox_stays | intro _
    | with_reducible assumption | with_reducible refine fit_ite ?_ ?_ | with_reducible apply buildBody_fit
    | (refine fit_of ?_; dsimp only; refine fit_to ?_)

theorem execBuildPublish_fit (g : Go) (s : State) (h0 : Fit Q U s) :
    Stays Q U (execBuildPublish g s) := by
  unfold execBuildPublish
  repeat' first
    | with_reducible apply mailbox_stays | intro _
    | with_reducible assumption | with_reducible refine fit_ite ?_ ?_ | with_reducible apply buildBody_fit
    | (refine fit_of ?_; dsimp only; refine fit_to ?_)

theorem execBuildWindow_fit (n : Nat) (s : State) (h0 : Fit Q U s) :
    Stays Q U (execBuildWindow n s) := by
  unfold execBuildWindow
  repeat' first
    | with_reducible apply inWindow_stays
    | with_reducible assumption | with_reducible refine fit_ite ?_ ?_ | with_reducible apply buildWindow_fit | intro _
    | (refine fit_of ?_; dsimp only; refine fit_to ?_) | dsimp +zetaDelta only

theorem execPowerSetActive_fit (g : Go) (s : State) (h0 : Fit Q U s) :
    Stays Q U (execPowerSetActive g s) := by
  unfold execPowerSetActive
  repeat' first
    | with_reducible apply mailbox_stays | intro _
    | with_reducible assumption | with_reducible refine fit_ite ?_ ?_ | with_reducible apply powerSetBody_fit
    | (refine fit_of ?_; dsimp only; refine fit_to ?_)

theorem execPowerSetActiveLow_fit (g : Go) (s : State) (h0 : Fit Q U s) :
    Stays Q U (execPowerSetActiveLow g s) := by
  unfold execPowerSetActiveLow
  repeat' first
    | with_reducible apply mailbox_stays | intro _
    | with_reducible assumption | with_reducible refine fit_ite ?_ ?_ | with_reducible apply powerSetBody_fit
    | (refine fit_of ?_; dsimp only; refine fit_to ?_)

theorem execPowerSetIdle_fit (g : Go) (s : State) (h0 : Fit Q U s) :
    Stays Q U (execPowerSetIdle g s) := by
  unfold execPowerSetIdle
  repeat' first
    | with_reducible apply mailbox_stays | intro _
    | with_reducible assumption | with_reducible refine fit_ite ?_ ?_ | with_reducible apply powerSetBody_fit
    | (refine fit_of ?_; dsimp only; refine fit_to ?_)

theorem execPowerSetStandby_fit (g : Go) (s : State) (h0 : Fit Q U s) :
    Stays Q U (execPowerSetStandby g s) := by
  unfold execPowerSetStandby
  repeat' first
    | with_reducible apply mailbox_stays | intro _
    | with_reducible assumption | with_reducible refine fit_ite ?_ ?_ | with_reducible apply powerSetBody_fit
    | (refine fit_of ?_; dsimp only; refine fit_to ?_)

theorem execPowerSetOffReady_fit (g : Go) (s : State) (h0 : Fit Q U s) :
    Stays Q U (execPowerSetOffReady g s) := by
  unfold execPowerSetOffReady
  repeat' first
    | with_reducible apply mailbox_stays | intro _
    | with_reducible assumption | with_reducible refine fit_ite ?_ ?_ | with_reducible apply powerSetBody_fit
    | (refine fit_of ?_; dsimp only; refine fit_to ?_)

theorem execPowerSetService_fit (g : Go) (s : State) (h0 : Fit Q U s) :
    Stays Q U (execPowerSetService g s) := by
  unfold execPowerSetService
  repeat' first
    | with_reducible apply mailbox_stays | intro _
    | with_reducible assumption | with_reducible refine fit_ite ?_ ?_ | with_reducible apply powerSetBody_fit
    | (refine fit_of ?_; dsimp only; refine fit_to ?_)

theorem execVoutSettled_fit (mv : Nat) (s : State) (h0 : Fit Q U s) :
    Stays Q U (execVoutSettled mv s) := by
  unfold execVoutSettled
  repeat' first
    | with_reducible apply whenLive_stays
    | with_reducible assumption | with_reducible refine fit_ite ?_ ?_ | with_reducible apply voutSettled_fit | intro _
    | (refine fit_of ?_; dsimp only; refine fit_to ?_) | dsimp +zetaDelta only

theorem execStandbyEntry_fit (s : State) (h0 : Fit Q U s) :
    Stays Q U (execStandbyEntry s) := by
  unfold execStandbyEntry
  repeat' first
    | with_reducible apply whenLive_stays
    | with_reducible assumption | with_reducible refine fit_ite ?_ ?_ | with_reducible apply standbyEnter_fit | intro _ | split
    | (refine fit_of ?_; dsimp only; refine fit_to ?_) | dsimp +zetaDelta only

theorem execStandbyExit_fit (train : Trained) (s : State) (h0 : Fit Q U s) :
    Stays Q U (execStandbyExit train s) := by
  unfold execStandbyExit
  repeat' first
    | with_reducible apply whenLive_stays
    | with_reducible assumption | with_reducible refine fit_ite ?_ ?_ | with_reducible apply standbyExit_fit | intro _
    | (refine fit_of ?_; dsimp only; refine fit_to ?_) | dsimp +zetaDelta only

theorem execOffReadyFlush_fit (s : State) (h0 : Fit Q U s) :
    Stays Q U (execOffReadyFlush s) := by
  unfold execOffReadyFlush
  repeat' first
    | with_reducible apply whenLive_stays | intro _
    | with_reducible assumption | with_reducible refine fit_ite ?_ ?_ | with_reducible apply offReady_fit
    | (refine fit_of ?_; dsimp only; refine fit_to ?_)

theorem execSectorGate_fit (g : Go) (s : State) (h0 : Fit Q U s) :
    Stays Q U (execSectorGate g s) := by
  unfold execSectorGate
  repeat' first
    | with_reducible apply mailbox_stays | intro _
    | with_reducible assumption | with_reducible refine fit_ite ?_ ?_ | with_reducible apply sectorGateBody_fit
    | (refine fit_of ?_; dsimp only; refine fit_to ?_)

theorem execSupplyDipStart_fit (mv : Nat) (s : State) (h0 : Fit Q U s) :
    Stays Q U (execSupplyDipStart mv s) := by
  unfold execSupplyDipStart
  repeat' first
    | with_reducible apply whenLive_stays
    | with_reducible assumption | with_reducible refine fit_ite ?_ ?_ | with_reducible apply dipStart_fit | intro _
    | (refine fit_of ?_; dsimp only; refine fit_to ?_) | dsimp +zetaDelta only

theorem execSupplyDipLong_fit (mv : Nat) (s : State) (h0 : Fit Q U s) :
    Stays Q U (execSupplyDipLong mv s) := by
  unfold execSupplyDipLong
  repeat' first
    | with_reducible apply whenLive_stays
    | with_reducible assumption | with_reducible refine fit_ite ?_ ?_ | with_reducible apply dipLong_fit | intro _
    | (refine fit_of ?_; dsimp only; refine fit_to ?_) | dsimp +zetaDelta only

theorem execThermalWarn_fit (sensor : Nat) (milliC : Nat) (s : State) (h0 : Fit Q U s) :
    Stays Q U (execThermalWarn sensor milliC s) := by
  unfold execThermalWarn
  repeat' first
    | with_reducible apply whenLive_stays
    | with_reducible assumption | with_reducible refine fit_ite ?_ ?_ | with_reducible apply raiseNode_fit | intro _ | split
    | (refine fit_of ?_; dsimp only; refine fit_to ?_) | dsimp +zetaDelta only

theorem execPmbAlertN_fit (status : Nat) (s : State) (h0 : Fit Q U s) :
    Stays Q U (execPmbAlertN status s) := by
  unfold execPmbAlertN
  repeat' first
    | with_reducible apply whenLive_stays
    | with_reducible assumption | with_reducible refine fit_ite ?_ ?_ | with_reducible apply emit_fit
    | with_reducible apply logAdd_fit | intro _ | (refine fit_of ?_; dsimp only; refine fit_to ?_) | dsimp +zetaDelta only

theorem execPmbusFailure_fit (code : Nat) (s : State) (h0 : Fit Q U s) :
    Stays Q U (execPmbusFailure code s) := by
  unfold execPmbusFailure
  repeat' first
    | with_reducible apply whenLive_stays
    | with_reducible assumption | with_reducible refine fit_ite ?_ ?_ | with_reducible apply logAdd_fit
    | with_reducible apply mapPower_fit | intro _ | split | (refine fit_of ?_; dsimp only; refine fit_to ?_)
    | dsimp +zetaDelta only

theorem execPmbusRetry_fit (ok : Bool) (s : State) (h0 : Fit Q U s) :
    Stays Q U (execPmbusRetry ok s) := by
  unfold execPmbusRetry
  repeat' first
    | with_reducible apply whenLive_stays
    | with_reducible assumption | with_reducible refine fit_ite ?_ ?_ | with_reducible apply mapPower_fit | intro _ | split
    | (refine fit_of ?_; dsimp only; refine fit_to ?_) | dsimp +zetaDelta only

theorem execEnergyCalibration_fit (meas : Nat) (leak : Nat) (model : Nat) (s : State) (h0 : Fit Q U s) :
    Stays Q U (execEnergyCalibration meas leak model s) := by
  unfold execEnergyCalibration
  repeat' first
    | with_reducible apply whenLive_stays
    | with_reducible assumption | with_reducible refine fit_ite ?_ ?_ | with_reducible apply calibrate_fit | intro _
    | (refine fit_of ?_; dsimp only; refine fit_to ?_) | dsimp +zetaDelta only

theorem execPwrgoodRise_fit (bootMode : Nat) (cold : Bool) (s : State) (h0 : Fit Q U s) :
    Stays Q U (execPwrgoodRise bootMode cold s) := by
  unfold execPwrgoodRise
  repeat' first
    | with_reducible apply always_stays
    | with_reducible assumption | with_reducible refine fit_ite ?_ ?_ | with_reducible apply mapPower_fit
    | with_reducible apply chooseStart_fit | intro _
    | (extract_lets +onlyGivenNames z1; first | refine fit_cut z1 ?_ fun hz => ?_ | skip) | split
    | (refine fit_of ?_; dsimp only; refine fit_to ?_) | dsimp +zetaDelta only

theorem execTemperatureHoldRelease_fit (s : State) (h0 : Fit Q U s) :
    Stays Q U (execTemperatureHoldRelease s) := by
  unfold execTemperatureHoldRelease
  repeat' first
    | with_reducible apply always_stays
    | with_reducible assumption | with_reducible refine fit_ite ?_ ?_ | with_reducible apply chooseStart_fit | intro _ | split
    | (refine fit_of ?_; dsimp only; refine fit_to ?_) | dsimp +zetaDelta only

theorem execRecovery_fit (s : State) (h0 : Fit Q U s) :
    Stays Q U (execRecovery s) := by
  unfold execRecovery
  repeat' first
    | with_reducible apply always_stays
    | with_reducible assumption | with_reducible refine fit_ite ?_ ?_ | with_reducible apply enterRecovery_fit | intro _ | split
    | (refine fit_of ?_; dsimp only; refine fit_to ?_) | dsimp +zetaDelta only

theorem execStartFailure_fit (cause : Nat) (s : State) (h0 : Fit Q U s) :
    Stays Q U (execStartFailure cause s) := by
  unfold execStartFailure
  repeat' first
    | with_reducible apply always_stays
    | with_reducible assumption | with_reducible refine fit_ite ?_ ?_ | with_reducible apply startFailed_fit | intro _
    | (refine fit_of ?_; dsimp only; refine fit_to ?_) | dsimp +zetaDelta only

theorem execStartTimeLimit_fit (s : State) (h0 : Fit Q U s) :
    Stays Q U (execStartTimeLimit s) := by
  unfold execStartTimeLimit
  repeat' first
    | with_reducible apply always_stays
    | with_reducible assumption | with_reducible refine fit_ite ?_ ?_ | with_reducible apply startFailed_fit | intro _
    | (refine fit_of ?_; dsimp only; refine fit_to ?_) | dsimp +zetaDelta only

theorem execColdStart_fit (i : StartIn) (s : State) (h0 : Fit Q U s) :
    Stays Q U (execColdStart i s) := by
  unfold execColdStart
  repeat' first
    | with_reducible apply always_stays
    | with_reducible assumption | with_reducible refine fit_ite ?_ ?_ | with_reducible apply regulatorOn_fit
    | with_reducible apply coldStart_fit | intro _ | split | (refine fit_of ?_; dsimp only; refine fit_to ?_)
    | dsimp +zetaDelta only

theorem execWarmStart_fit (i : StartIn) (s : State) (h0 : Fit Q U s) :
    Stays Q U (execWarmStart i s) := by
  unfold execWarmStart
  repeat' first
    | with_reducible apply always_stays
    | with_reducible assumption | with_reducible refine fit_ite ?_ ?_ | with_reducible apply regulatorOn_fit
    | with_reducible apply warmStart_fit | intro _ | split | (refine fit_of ?_; dsimp only; refine fit_to ?_)
    | dsimp +zetaDelta only

theorem execFwActivateWarm_fit (g : Go) (s : State) (h0 : Fit Q U s) :
    Stays Q U (execFwActivateWarm g s) := by
  unfold execFwActivateWarm
  repeat' first
    | with_reducible apply mailbox_stays | intro _
    | with_reducible assumption | with_reducible refine fit_ite ?_ ?_ | with_reducible apply fwActivateBody_fit
    | (refine fit_of ?_; dsimp only; refine fit_to ?_)

theorem execFwActivateCold_fit (g : Go) (s : State) (h0 : Fit Q U s) :
    Stays Q U (execFwActivateCold g s) := by
  unfold execFwActivateCold
  repeat' first
    | with_reducible apply mailbox_stays | intro _
    | with_reducible assumption | with_reducible refine fit_ite ?_ ?_ | with_reducible apply fwActivateBody_fit
    | (refine fit_of ?_; dsimp only; refine fit_to ?_)

theorem execResetThreshold_fit (mv : Nat) (s : State) (h0 : Fit Q U s) :
    Stays Q U (execResetThreshold mv s) := by
  unfold execResetThreshold
  repeat' first
    | with_reducible apply always_stays
    | with_reducible assumption | with_reducible refine fit_ite ?_ ?_ | with_reducible apply stopFor_fit | intro _
    | (refine fit_of ?_; dsimp only; refine fit_to ?_) | dsimp +zetaDelta only

theorem execThermtripN_fit (sensor : Nat) (s : State) (h0 : Fit Q U s) :
    Stays Q U (execThermtripN sensor s) := by
  unfold execThermtripN
  repeat' first
    | with_reducible apply always_stays
    | with_reducible assumption | with_reducible refine fit_ite ?_ ?_ | with_reducible apply mapPower_fit
    | with_reducible apply stopFor_fit | intro _ | split | (refine fit_of ?_; dsimp only; refine fit_to ?_)
    | dsimp +zetaDelta only

theorem execPwrgoodFall_fit (s : State) (h0 : Fit Q U s) :
    Stays Q U (execPwrgoodFall s) := by
  unfold execPwrgoodFall
  repeat' first
    | with_reducible apply always_stays
    | with_reducible assumption | with_reducible refine fit_ite ?_ ?_ | intro _
    | (extract_lets +onlyGivenNames z1; first | refine fit_cut z1 ?_ fun hz => ?_ | refine fit_cut z1.st ?_ fun hz => ?_ | skip)
    | split | (refine fit_of ?_; dsimp only; refine fit_to ?_) | dsimp +zetaDelta only

theorem execPlossN_fit (s : State) (h0 : Fit Q U s) :
    Stays Q U (execPlossN s) := by
  unfold execPlossN
  repeat' first
    | with_reducible apply always_stays | intro _
    | with_reducible assumption | with_reducible refine fit_ite ?_ ?_ | with_reducible apply ploss_fit
    | (refine fit_of ?_; dsimp only; refine fit_to ?_)

theorem execSupplyDipEnd_fit (mv : Nat) (s : State) (h0 : Fit Q U s) :
    Stays Q U (execSupplyDipEnd mv s) := by
  unfold execSupplyDipEnd
  repeat' first
    | with_reducible apply always_stays
    | with_reducible assumption | with_reducible refine fit_ite ?_ ?_ | with_reducible apply mapPower_fit
    | with_reducible apply dipEnd_fit | with_reducible apply plossFlush_fit | intro _ | split
    | (refine fit_of ?_; dsimp only; refine fit_to ?_) | dsimp +zetaDelta only

theorem execRetentionFlagClear_fit (stack : Nat) (s : State) (h0 : Fit Q U s) :
    Stays Q U (execRetentionFlagClear stack s) := by
  unfold execRetentionFlagClear
  repeat' first
    | with_reducible apply always_stays
    | with_reducible assumption | with_reducible refine fit_ite ?_ ?_ | intro _
    | (refine fit_of ?_; dsimp only; refine fit_to ?_) | dsimp +zetaDelta only

theorem execFunctionLevelReset_fit (fn : Nat) (s : State) (h0 : Fit Q U s) :
    Stays Q U (execFunctionLevelReset fn s) := by
  unfold execFunctionLevelReset
  repeat' first
    | with_reducible apply whenAnswered_stays
    | with_reducible assumption | with_reducible refine fit_ite ?_ ?_ | with_reducible apply queueDetach_fit
    | with_reducible apply resetFn_fit | intro _ | (refine fit_of ?_; dsimp only; refine fit_to ?_) | dsimp +zetaDelta only

theorem execNumvfsChange_fit (n : Nat) (s : State) (h0 : Fit Q U s) :
    Stays Q U (execNumvfsChange n s) := by
  unfold execNumvfsChange
  repeat' first
    | with_reducible apply whenAnswered_stays
    | with_reducible assumption | with_reducible refine fit_ite ?_ ?_ | with_reducible apply queueDetach_fit | intro _ | split
    | (refine fit_of ?_; dsimp only; refine fit_to ?_) | dsimp +zetaDelta only

theorem execPerst_fit (s : State) (h0 : Fit Q U s) :
    Stays Q U (execPerst s) := by
  unfold execPerst
  repeat' first
    | with_reducible apply always_stays
    | with_reducible assumption | with_reducible refine fit_ite ?_ ?_ | with_reducible apply mapPower_fit
    | with_reducible apply queueDetach_fit | with_reducible apply resetFn_fit | with_reducible refine fit_foldl ?_ ?_
    | with_reducible refine fit_foldl1 ?_ ?_ | intro _
    | (extract_lets +onlyGivenNames z1; first | refine fit_cut z1 ?_ fun hz => ?_ | skip) | split
    | (refine fit_of ?_; dsimp only; refine fit_to ?_) | dsimp +zetaDelta only

theorem execPePerstNDeassert_fit (s : State) (h0 : Fit Q U s) :
    Stays Q U (execPePerstNDeassert s) := by
  unfold execPePerstNDeassert
  repeat' first
    | with_reducible apply always_stays
    | with_reducible assumption | with_reducible refine fit_ite ?_ ?_ | with_reducible apply mapPower_fit | intro _ | split
    | (refine fit_of ?_; dsimp only; refine fit_to ?_) | dsimp +zetaDelta only

theorem execHostLinkDown_fit (s : State) (h0 : Fit Q U s) :
    Stays Q U (execHostLinkDown s) := by
  unfold execHostLinkDown
  repeat' first
    | with_reducible apply whenAnswered_stays
    | with_reducible assumption | with_reducible refine fit_ite ?_ ?_ | with_reducible apply queueDetach_fit | intro _
    | (refine fit_of ?_; dsimp only; refine fit_to ?_) | dsimp +zetaDelta only

theorem execHostLinkUp_fit (width : Nat) (rate : Nat) (s : State) (h0 : Fit Q U s) :
    Stays Q U (execHostLinkUp width rate s) := by
  unfold execHostLinkUp
  repeat' first
    | with_reducible apply always_stays
    | with_reducible assumption | with_reducible refine fit_ite ?_ ?_ | intro _ | split
    | (refine fit_of ?_; dsimp only; refine fit_to ?_) | dsimp +zetaDelta only

theorem execFrameStart_fit (s : State) (h0 : Fit Q U s) :
    Stays Q U (execFrameStart s) := by
  unfold execFrameStart
  repeat' first
    | with_reducible apply whenLive_stays | intro _
    | with_reducible assumption | with_reducible refine fit_ite ?_ ?_ | with_reducible apply frameStart_fit
    | (refine fit_of ?_; dsimp only; refine fit_to ?_)

end Sys2Proof.Machine
end

