-- ==== Sys2Proof/Laws/FitShadow.lean ====
section
/-! SUPPORT. The operations of Shadow.lean keep what `Fit` says. -/

namespace Sys2Proof.Machine

set_option linter.tactic.unusedName false

variable {Q : List Instr} {U : Was}

theorem ranTo_fit {s : State} {o : Answer} (h : Stays Q U o) : Fit Q U (ranTo s o) := by
  obtain ⟨t, rfl, ht⟩ := h
  exact ht

theorem mirrorClose_fit (s : State) (h0 : Fit Q U s) :
    Fit Q U (State.mirrorClose s) := by
  unfold State.mirrorClose
  repeat' first
    | with_reducible assumption | with_reducible refine fit_ite ?_ ?_ | with_reducible apply mapMirror_fit
    | with_reducible apply toShadow_fit | with_reducible apply mirrorOut_fit | with_reducible apply copyShadow_fit
    | with_reducible refine fit_foldl ?_ ?_ | with_reducible refine fit_foldl1 ?_ ?_ | intro _
    | (extract_lets +onlyGivenNames z1; first | refine fit_cut z1 ?_ fun hz => ?_ | skip) | split
    | (refine fit_of ?_; dsimp only; refine fit_to ?_) | dsimp +zetaDelta only

theorem takeInput_fit (s : State) (port : Nat) (x0 : Msg) (h0 : Fit Q U s) :
    Fit Q U (State.takeInput s port x0) := by
  unfold State.takeInput
  repeat' first
    | with_reducible assumption | with_reducible refine fit_ite ?_ ?_ | with_reducible apply mirrorPacket_fit
    | with_reducible apply consume_fit | with_reducible apply land_fit | intro _ | split
    | (refine fit_of ?_; dsimp only; refine fit_to ?_) | dsimp +zetaDelta only

theorem takeOutcome_fit (s : State) (x0 : Msg) (h0 : Fit Q U s) :
    Fit Q U (State.takeOutcome s x0) := by
  unfold State.takeOutcome
  repeat' first
    | with_reducible assumption | with_reducible refine fit_ite ?_ ?_ | intro _
    | (extract_lets +onlyGivenNames z1; first | refine fit_cut z1 ?_ fun hz => ?_ | refine fit_cut z1.1 ?_ fun hz => ?_ | refine fit_cut z1.st ?_ fun hz => ?_ | skip)
    | split | (refine fit_of ?_; dsimp only; refine fit_to ?_) | dsimp +zetaDelta only

theorem runStage_fit (s : State) (n : Nat) (stage : Nat) (h0 : Fit Q U s) :
    Fit Q U (State.runStage s n stage) := by
  unfold State.runStage
  refine ranTo_fit ?_
  split
  · exact execAdmitWindow_fit _ s h0
  · exact execRoute1_fit _ s h0
  · exact execScatter_fit _ s h0
  · exact execRoute2_fit _ s h0
  · exact execScan_fit _ s h0
  · exact execNominate_fit _ s h0
  · exact execFetchWindow_fit _ s h0
  · exact execRank_fit _ s h0
  · exact execRescore_fit _ s h0
  · exact execDeliver_fit _ s h0
  · exact execLookupWindow_fit _ s h0
  · exact execApplyStage_fit _ s h0
  · exact execUpdateStage_fit _ s h0
  · exact execCompact_fit _ s h0
  · exact execFlashBackground_fit _ s h0
  · exact execMigrateWindow_fit _ s h0
  · exact execBuildWindow_fit _ s h0
  · exact execSwapSave_fit _ s h0
  · exact execSwapRestore_fit _ _ s h0
  · exact execSetCombine_fit _ s h0
  · exact next_stays h0

theorem runEntry_fit (inputs : List Msg) (port : Nat) (s : State) (x : Nat × EaselEntry) (h0 : Fit Q U s) :
    Fit Q U (State.runEntry inputs port s x) := by
  unfold State.runEntry
  repeat' first
    | with_reducible assumption | with_reducible refine fit_ite ?_ ?_ | with_reducible apply mapFlash_fit
    | with_reducible apply stage_fit | with_reducible apply takeInput_fit | with_reducible apply takeOutcome_fit
    | with_reducible apply runStage_fit | with_reducible refine fit_foldl ?_ ?_ | with_reducible refine fit_foldl1 ?_ ?_
    | intro _
    | (extract_lets +onlyGivenNames z1; first | refine fit_cut z1 ?_ fun hz => ?_ | refine fit_cut z1.1 ?_ fun hz => ?_ | refine fit_cut z1.2 ?_ fun hz => ?_ | refine fit_cut z1.st ?_ fun hz => ?_ | skip)
    | split | (refine fit_of ?_; dsimp only; refine fit_to ?_) | dsimp +zetaDelta only

theorem asTarget_fit (s : State) (target : Nat) (f : Nat) (h0 : Fit Q U s) :
    Fit Q U (State.asTarget s target f) := by
  unfold State.asTarget
  repeat' first
    | with_reducible assumption | with_reducible refine fit_ite ?_ ?_ | with_reducible apply writeDue_fit
    | with_reducible apply askAll_fit | with_reducible apply settleAll_fit | with_reducible apply statsDue_fit
    | with_reducible apply missDeliver_fit | with_reducible apply sendDue_fit | with_reducible apply reportDurable_fit
    | with_reducible apply frameStart_fit
    | (refine fit_of ?_; dsimp only; refine fitOf_chans ?_ (fit_to ?_); first | exact sharesOk_map fun _ hx => hx | (refine sharesOk_put (by assumption) ?_; exact fun hx => hx) | exact sharesOk_tdel | exact sharesOk_map (fun _ _ => withinShares_zero rfl rfl) | exact sharesOk_map (fun _ hx => withinShares_noReissue hx rfl rfl rfl) | exact sharesOk_map (fun _ hx => withinShares_frameStart hx rfl rfl rfl))
    | intro _
    | (extract_lets +onlyGivenNames z1; first | refine fit_cut z1 ?_ fun hz => ?_ | refine fit_cut z1.1 ?_ fun hz => ?_ | refine fit_cut z1.2 ?_ fun hz => ?_ | refine fit_cut z1.st ?_ fun hz => ?_ | skip)
    | (refine fit_of ?_; dsimp only; refine fit_to ?_) | dsimp +zetaDelta only

theorem runCommit_fit (s : State) (h0 : Fit Q U s) :
    Fit Q U (State.runCommit s) := by
  unfold State.runCommit
  repeat' first
    | with_reducible assumption | with_reducible refine fit_ite ?_ ?_ | with_reducible apply install_fit
    | with_reducible apply countApplied_fit | with_reducible apply release6_fit | with_reducible apply setsEnd_fit
    | with_reducible apply captureMissed_fit | with_reducible apply coolAll_fit | with_reducible apply captureRows_fit
    | with_reducible apply eachTable_fit | with_reducible apply startPasses_fit | with_reducible apply drain_fit
    | with_reducible apply replicaSend_fit | with_reducible apply replicaCheck_fit | with_reducible apply noteDurable_fit
    | with_reducible apply publishAll_fit | with_reducible apply forgetOld_fit
    | (extract_lets +onlyGivenNames z1; first | refine fit_cut z1 ?_ fun hz => ?_ | refine fit_cut z1.st ?_ fun hz => ?_ | skip)
    | (refine fit_of ?_; dsimp only; refine fit_to ?_) | dsimp +zetaDelta only

theorem afterRun_fit (s : State) (t : State) (rest : List Msg) (h0 : Fit Q U s) (h1 : Fit Q U t) :
    Fit Q U (State.afterRun s t rest) := ⟨h0.1, h0.2.1, fun k => ⟨(h1.2.2 k).1, (h0.2.2 k).2.1, (h1.2.2 k).2.2⟩⟩

theorem shadowRun_fit (s : State) (h0 : Fit Q U s) :
    Fit Q U (State.shadowRun s) := by
  unfold State.shadowRun
  repeat' first
    | with_reducible assumption | with_reducible refine fit_ite ?_ ?_ | with_reducible apply shadowEnd_fit
    | with_reducible apply takeInput_fit | with_reducible apply runEntry_fit | with_reducible apply asTarget_fit
    | with_reducible apply runCommit_fit | with_reducible apply afterRun_fit | with_reducible refine fit_foldl ?_ ?_
    | with_reducible refine fit_foldl1 ?_ ?_ | intro _
    | (extract_lets +onlyGivenNames z1; first | refine fit_cut z1 ?_ fun hz => ?_ | skip) | split
    | (refine fit_of ?_; dsimp only; refine fit_to ?_) | dsimp +zetaDelta only

theorem execCommitWindow_fit (i : CwIn) (s : State) (h0 : Fit Q U s) :
    Stays Q U (execCommitWindow i s) :=
  by
  unfold execCommitWindow
  exact whenLive_stays h0 fun t ht => fit_ite ht (mirrorClose_fit _ (commit_fit _ i (shadowRun_fit t ht)))

end Sys2Proof.Machine
end

