-- ==== Sys2Proof/Machine/Tap.lean ====
section
/-! DEFINITION. The test access port (R453). No row of the opcode table loads a TAP instruction or shifts its data, so no command calls
these operations (log entry 94): they say what the port does for whoever drives its pins. -/

namespace Sys2Proof.Machine

/-- IDCODE (R453). -/
def tapIdcode : BitVec 32 := 0x0A5BE0D3

/-- The EXTEST instructions. -/
def TapInstr.isExtest : TapInstr → Bool
  | .extest | .extestPulse | .extestTrain => true
  | .bypass | .idcode | .samplePreload => false

/-- What the port does now: the EXTEST instructions take effect only in recovery (R436, R453). -/
def State.tapActs (s : State) : TapInstr := if s.tap.isExtest && s.power.run != .recovery then .bypass else s.tap

/-- An instruction loaded: outside recovery BYPASS takes the place of an EXTEST instruction (R453). -/
def State.tapLoad (s : State) (i : TapInstr) : State :=
  { s with tap := if i.isExtest && s.power.run != .recovery then .bypass else i }

/-- Test-Logic-Reset, which JTAG_TRST_N with its pull-down also forces: IEEE 1149.1 puts IDCODE in force (PRESUMED, log entry 94). -/
def State.tapReset (s : State) : State := { s with tap := .idcode }

end Sys2Proof.Machine
end

