-- ==== Sys2Proof/Laws/FitTap.lean ====
section
/-! SUPPORT. The operations of Tap.lean keep what `Fit` says. -/

namespace Sys2Proof.Machine

set_option linter.tactic.unusedName false

variable {Q : List Instr} {U : Was}

theorem tapLoad_fit (s : State) (i : TapInstr) (h0 : Fit Q U s) :
    Fit Q U (State.tapLoad s i) := by
  unfold State.tapLoad
  repeat' first
    | with_reducible assumption | with_reducible refine fit_ite ?_ ?_ | split | (refine fit_of ?_; dsimp only; refine fit_to ?_)

theorem tapReset_fit (s : State) (h0 : Fit Q U s) :
    Fit Q U (State.tapReset s) := by
  unfold State.tapReset
  repeat' first
    | with_reducible assumption | with_reducible refine fit_ite ?_ ?_ | (refine fit_of ?_; dsimp only; refine fit_to ?_)

end Sys2Proof.Machine
end

