-- ==== Sys2Proof/Laws/Hash.lean ====
section
/-! SUPPORT. The lengths of the digests, and numbers written into strings. -/

namespace Sys2Proof.Machine

/-- The number of a string has as many bytes as the string. -/
theorem le_lt (bs : Bytes) : le bs < 256 ^ bs.length := by
  induction bs with
  | nil => decide
  | cons b t ih =>
    have h : b.toNat < 256 := b.isLt
    simp only [le, List.length_cons, Nat.pow_succ]
    omega

theorem shaRounds_length (ks w st : List Nat) (h : st.length = 8) : (shaRounds ks w st).length = 8 := by
  induction ks generalizing w st with
  | nil => simpa [shaRounds] using h
  | cons k ks ih =>
    match st, h with
    | [a, b, c, d, e, f, g, x], _ => exact ih _ _ rfl

theorem shaBlocks_length (n : Nat) (st : List Nat) (bs : Bytes) (h : st.length = 8) : (shaBlocks n st bs).length = 8 := by
  induction n generalizing st bs with
  | zero => simpa [shaBlocks] using h
  | succ n ih =>
    unfold shaBlocks
    split
    · exact h
    · exact ih _ _ (by simp [shaBlock, shaRounds_length, h])

theorem sha256_length (m : Bytes) : (sha256 m).length = 32 := by
  have h : ∀ l : List Nat, ((l.map (toBe 4)).flatten).length = 4 * l.length := by
    intro l
    induction l with
    | nil => rfl
    | cons a t ih => simp only [List.map_cons, List.flatten_cons, List.length_append, ih, List.length_cons, toBe, List.length_reverse, toLe_length]; omega
  unfold sha256
  rw [h, shaBlocks_length _ _ _ rfl]

/-- A digest has 256 bits. -/
theorem digest_lt (m : Bytes) : digest m < 2 ^ 256 := by
  have h := le_lt (sha256 m)
  rw [sha256_length] at h
  exact h

/-- A number written between two parts of a string reads back. -/
theorem rd_written (a b : Bytes) (n w : Nat) (h : w < 256 ^ n) : rd (a ++ (toLe n w ++ b)) a.length n = w := by
  simp only [rd, slice, List.drop_left]
  rw [List.take_left' (toLe_length n w), le_toLe, Nat.mod_eq_of_lt h]

end Sys2Proof.Machine
end

