-- ==== Sys2Proof/Machine/Cores.lean ====
section
/-! DEFINITION. What a scan core and a tile have (R145, R146): sizes, rates and the banks of tile memory. What their registers and memories
hold between two cycles of one window no rule shows to anything outside: State holds none of it (log entry 95). -/

namespace Sys2Proof.Machine

/-- Vector registers of a core and their bits, and bytes of its private local memory (R145). -/
def coreRegisters : Nat := 32
def coreRegisterBits : Nat := 512
def coreLocalBytes : Nat := 16384

/-- Per core and cycle (R145): words of XOR and population count, fp16 or bf16 multiply-adds, int8 multiply-adds, compare-exchanges, and the
bytes of local memory read and written. -/
def coreWords : Nat := 1
def coreFma : Nat := 32
def coreMac8 : Nat := 64
def coreExchanges : Nat := 8
def coreLocalPort : Nat := 64

/-- Tile memory: 128 KiB in 16 banks (R146). -/
def tileBytes : Nat := 131072
def tileBanks : Nat := 16
def bankBytes : Nat := 8192

/-- The one bank that core i may reach in core cycle t, 64 bytes of it (R146). -/
def bankAt (t i : Nat) : Nat := (t + i) % tileBanks

/-- The cores of a node and their clock (R145): 25,600 at 1.75 GHz. -/
def nodeCores : Nat := 25600
def coreHertz : Nat := 1750000000

/-- A per-cycle rate of one core over the node, per second. -/
def nodeRate (perCycle : Nat) : Nat := nodeCores * coreHertz * perCycle

end Sys2Proof.Machine
end

