-- ==== Sys2Proof/Machine/PalMsg.lean ====
section
/-! DEFINITION. The bytes of a palette message (R308): compressed vectors (R305, palWire) back to back as a stream, cut into blocks of 64
bytes and groups of 16 blocks, each group with its CRC-16, three groups to a packet behind 16 bytes that name them. -/

namespace Sys2Proof.Machine

/-- A stream with its last block of 64 bytes zero-filled. -/
def palPadded (stream : Bytes) : Bytes := stream ++ List.replicate ((64 - stream.length % 64) % 64) 0

/-- Group g of a stream, with its CRC-16 stored little-endian. -/
def palGroup (stream : Bytes) (g : Nat) : Bytes :=
  let bs := ((palPadded stream).drop (1024 * g)).take 1024
  bs ++ toLe 2 (crc16 bs)

/-- The 16 bytes before the groups of each packet's payload. -/
def palHead (object : Handle) (gen kind : Nat) (p4 : Bool) (vectors first : Nat) : Bytes :=
  toLe 4 object.toNat ++ toLe 2 gen ++ toLe 2 (kind % 4 + (if p4 then 4 else 0)) ++ toLe 4 (vectors % 2 ^ 24) ++ toLe 4 first

/-- The payload of packet i of a message: its 16 bytes and groups 3 i to 3 i + 2, as far as the stream has them. -/
def palPayload (object : Handle) (gen kind : Nat) (p4 : Bool) (vectors : Nat) (stream : Bytes) (i : Nat) : Bytes :=
  palHead object gen kind p4 vectors (3 * i) ++
    ((List.range 3).filter fun j => decide (3 * i + j < groupCount stream.length)).flatMap fun j => palGroup stream (3 * i + j)

/-- Where byte p of a stream lies: the packet of the message, and the offset in its payload. -/
def streamPlace (p : Nat) : Nat × Nat := (p / 3072, 16 + p % 3072 + 2 * (p % 3072 / 1024))

end Sys2Proof.Machine
end

