-- ==== Sys2Proof/WellFormed.lean ====
section
/-! DEFINITION. When a command is well formed: its operands lie in the ranges that the spec gives them. Whether the machine
accepts a well-formed command is decided by its state. -/

namespace Sys2Proof

/-- A function number is 0 to 63 (R316), a mailbox command carries 44 bytes of arguments and as many block bytes as PB_LEN
says when the read succeeds (R322, R324), its code and tag have 16 bits and the cycle lies in a frame (R18). -/
def Go.wf (g : Go) : Bool :=
  decide (g.fn < 64) && g.args.length == 44 && decide (g.tag < 2 ^ 16) && decide (g.cycle < 2000000) &&
    decide (g.pbAddr < 2 ^ 64) && decide (g.pbLen < 2 ^ 32) && (g.fail.isSome || g.pb.length == g.pbLen)

/-- A submission entry: a channel slot 0 to 127 (R329), a ring 0 to 15 (R338), 64 bytes (R344). -/
def entryWf (slot ring : Nat) (entry : Bytes) : Bool :=
  decide (slot < 128) && decide (ring < 16) && entry.length == 64

/-- A register access: function 0 to 63, offset within a 64 KiB window (R318), size 1, 2, 4 or 8 bytes. -/
def accessWf (fn off size : Nat) : Bool :=
  decide (fn < 64) && decide (off < 0x10000) && (size == 1 || size == 2 || size == 4 || size == 8)

/-- An easel entry number (R27: up to 4,096 entries). -/
def easelNoWf (e : Nat) : Bool := decide (e < 4096)

/-- A fabric port is P0 to P7 (R281). -/
def portWf (p : Nat) : Bool := decide (p < 8)

/-- A logical ID has 10 bits and lies below 576 (R12). -/
def idWf (n : Nat) : Bool := decide (n < 576)

/-- The ends of a packet: a logical ID, or 0x3FF, the link partner alone (R285). -/
def endWf (n : Nat) : Bool := idWf n || n == 0x3FF

/-- The ranges of a command's operands. -/
def Instr.wf : Instr → Bool
  | .identify g | .channelCreate g | .channelDestroy g | .channelReset g | .easelLoad g | .easelArm g | .easelArmCancel g
  | .gatesLoad g | .indexCreate g | .indexDrop g | .tableCreate g | .tableDrop g | .allowsetCreate g | .graphLoad g
  | .paletteSet g | .buildTrainRegions g | .buildLoad g | .buildTrainLists g | .buildPlace g | .buildPublish g
  | .migrateRegion g | .migrateShard g | .migrateHotRows g | .powerSetActive g | .powerSetActiveLow g | .powerSetIdle g
  | .powerSetStandby g | .powerSetOffReady g | .powerSetService g | .sectorGate g | .modeSet g | .attestReport g
  | .keyInstallChannel g _ | .keyInstallPort g _ | .keyInstallIde g _ | .ownerTake g | .arrayJoin g | .arrayLeave g
  | .shadowStart g _ _ _ | .sparePromote g | .takeoverConfirm g | .statsRead g | .logRead g | .fwStage g
  | .fwActivateWarm g | .fwActivateCold g => g.wf
  | .mbUnlistedCode g code => g.wf && decide (code < 2 ^ 16)
  | .overrun fn | .mbResp fn | .functionLevelReset fn => decide (fn < 64)
  | .doorbellSubmissionTail fn cycle size _ | .doorbellCompletionHead fn cycle size _ =>
    accessWf fn 0 size && decide (cycle < 2000000)
  | .search slot ring entry _ | .lookup slot ring entry _ | .apply slot ring entry _ | .upsert slot ring entry _
  | .setEdit slot ring entry _ | .replaceRows slot ring entry _ => entryWf slot ring entry
  | .delete slot ring entry | .fetch slot ring entry | .fence slot ring entry | .snapshot slot ring entry
  | .stats slot ring entry | .invalidOpcode slot ring entry => entryWf slot ring entry
  | .hostBufferReadDone slot ring _ _ => decide (slot < 128) && decide (ring < 16)
  | .hostAccessFailed slot _ => decide (slot < 128)
  | .rwaFieldWrite fn slot off _ => decide (fn < 64) && decide (slot < 128) && decide (off < 0x1000)
  | .registerWrite fn off size _ => accessWf fn off size
  | .frameNumLoRead fn cycle | .ntNsLoRead fn cycle => decide (fn < 64) && decide (cycle < 2000000)
  | .apertureRead fn off len _ _ => decide (fn < 64) && decide (off + len ≤ 2 ^ 36) && decide (len ≤ 4096)
  | .apertureWrite fn off len => decide (fn < 64) && decide (off + len ≤ 2 ^ 36)
  | .admitWindow e | .scatter e | .nominate e | .rank e | .deliver e | .compact e | .flashBackground e | .migrateWindow e
  | .buildWindow e | .swapSave e | .swapRestore e _ | .setCombine e => easelNoWf e
  | .route1 w | .route2 w | .scan w | .fetchWindow w | .rescore w | .lookupWindow w | .applyStage w | .updateStage w => easelNoWf w.entry
  | .stageCutOff stage _ slot _ => decide (stage < 256) && decide (slot < 128)
  | .generationPublish slot _ | .graphPublish slot _ | .checkpointPassStart slot _ | .captureDeadline slot _ =>
    decide (slot < 128)
  | .packetReceived port p _ _ _ => portWf port && endWf p.hdr.src && endWf p.hdr.dst
  | .negativeAck port _ | .retransmitTimeout port _ | .groupResendRequest port _ _ _ _ | .timeExchange port _ _ _ _ _ _ _ _
  | .missReport port | .gateEntryOpen port _ | .linkControlSymbols port _ _ _ => portWf port
  | .ullaHeartbeat port hb _ => portWf port && endWf hb.sender
  | .replicaAcknowledgement owner slot _ region _ | .replicaReceipt owner slot _ region _ _ _ =>
    idWf owner && decide (slot < 128) && decide (region < 262144)
  | .durabilityReport home _ owner => idWf home && idWf owner
  | .rollback subject => idWf subject
  | .flashEraseComplete die block _ => decide (die < 384) && decide (block < 2 ^ 22)
  | .flashCommandTimeout chan die rate =>
    decide (chan < 24) && decide (die < 384) && (match rate with | some r => [3600, 3200, 2400, 1600].contains r | none => true)
  | .patrolScrub da _ => decide (da < 2 ^ 39)
  | .nearBankRowStep op a b r _ => decide (a < 2 ^ 39) && decide (b < 2 ^ 39) && decide (r < 2 ^ 39) && Machine.oneUnit (Machine.nbRows op a b r)
  | .unitZeroed u => decide (u < 1152)
  | .pwrgoodRise mode _ => decide (mode < 4)
  | .numvfsChange n => decide (n < 64)
  | .retentionFlagClear stack => decide (stack < 8)
  | .hostLinkUp width rate => decide (width ≤ 16) && decide (rate ≤ 128)
  | .frameStart | .resultWriteDeadline _ | .commitWindow _ | .easelSwitch | .modeSwitch | .arrayLeaveEffect
  | .versionRelease | .migrationAcceptance _ _ | .migrationFlip _ | .rebuildComplete _ | .controlSlot | .announcement _ _
  | .orderInstall | .shadowPassed | .gmAdvertLoss | .ppsInEdge _ | .ppsTimeout | .nodeUnlockedLimit
  | .flashReadComplete _ _ | .flashProgramComplete _ _ | .pwrgoodFall | .coldStart _ | .warmStart _ | .recovery
  | .startFailure _ | .startTimeLimit | .temperatureHoldRelease | .plossN | .thermtripN _ | .thermalWarn _ _
  | .supplyDipStart _ | .supplyDipEnd _ | .supplyDipLong _ | .resetThreshold _ | .pmbAlertN _ | .pmbusFailure _
  | .pmbusRetry _ | .energyCalibration _ _ _ | .voutSettled _ | .standbyEntry | .standbyExit _ | .offReadyFlush | .perst
  | .hostLinkDown | .pePerstNDeassert | .fwStageEnd _ => true

end Sys2Proof
end

