-- ==== Sys2Proof/Tests/Slice0.lean ====
section
/-! SUPPORT. Tests of the model on small states, a state and operands for the hypotheses of every statement, and an ill-formed term
for every check of well-formedness. -/

open Sys2Proof Sys2Proof.Machine

namespace Sys2Proof.Tests

-- One theorem at a time: their kernel evaluations together would ask for too many threads.
set_option Elab.async false

/-! ### The states and operands of the tests -/

/-- The node after a start, at rest. -/
def up : State := { State.reset with power := { State.reset.power with run := .ready } }

/-- The same with every unit free. -/
def upFree : State := { up with dram := { up.dram with units := [] } }

/-- n bytes, zero but for the numbers v of k bytes at offset o that are listed as (o, k, v). -/
def blk (n : Nat) (l : List (Nat × Nat × Nat)) : Bytes :=
  l.foldl (fun b f => b.take f.1 ++ toLe f.2.1 f.2.2 ++ b.drop (f.1 + f.2.1)) (List.replicate n 0)

/-- A GO of the physical function at cycle 0, for a channel, with a block at 0x1000; ARGS are listed by their offsets in MB_CMD. -/
def go (h : Nat) (args : List (Nat × Nat × Nat)) (pb : Bytes) : Go :=
  { fn := 0, cycle := 0, tag := 1, chan := BitVec.ofNat 32 h, pbAddr := 0x1000, pbLen := pb.length,
    args := (blk 64 args).drop 20, pb := pb, ext1 := [], ext2 := [], fail := none, fail1 := none, fail2 := none }

/-- A creation block: function 0, slot 1, one ring of 16 entries on vector 2, four open units, and shares. -/
def cb : Bytes :=
  blk 160 [(1, 1, 1), (2, 1, 1), (14, 1, 4), (0x12, 2, 4), (0x18, 4, 64), (0x1C, 4, 512), (0x20, 4, 16), (0x24, 4, 512), (0x28, 4, 2048),
    (0x80, 8, 0x10000), (0x88, 8, 0x20000), (0x90, 1, 4), (0x91, 1, 2), (0x92, 1, 1)]

/-- The channel that it makes, with one group of sealed units and four open ones. -/
def ch : Chan := chanFrom cb 1 [0] [1000, 1001, 1002, 1003] []

/-- The node with that channel in slot 1, handle 0x1_0001. -/
def w1 : State := { up with chans := [(1, ch)] }

/-- What a next state says, false for anything else. -/
def after (a : Host.Outcome State Fault Refusal) (p : State → Bool) : Bool :=
  match a with
  | .next t => p t
  | _ => false

def h1 : Nat := 0x10001
/-- The state with a mailbox at work. -/
def atWork : State := up.setMb 0 { Mailbox.zero with busy := true }

/-! ### Witnesses: the queue and the mailbox -/

theorem wit_StepRunsTheFrontCommand :
    ({ up with pending := [.perst, .frameStart] } : State).pending = .perst :: [.frameStart] := rfl

theorem wit_EmptyQueueIdles : State.reset.pending = [] := rfl

theorem wit_EveryStepKeepsTheInvariant :
    up.Inv ∧ ∃ t, Steps { up with pending := [.ppsTimeout] } t :=
  ⟨⟨rfl, ⟨by decide, fun i r h => by simp [up, State.reset] at h⟩, fun p h => by simp [up, State.reset] at h, fun x h => by
    simp [up, State.reset] at h⟩, _, rfl⟩

theorem wit_GoWhileBusyOverruns :
    (Instr.identify (go 0 [] [])).goes = some (0x01, go 0 [] []) ∧ atWork.live = true ∧ (atWork.mb 0).busy = true := by decide

theorem wit_MailboxEvents :
    (atWork.mb 0).busy = true ∧
    ((up.setMb 0 { Mailbox.zero with busy := true, ready := some Resp.zero }).mb 0).ready = some Resp.zero ∧
    up.takesGo (go 0 [] []) := ⟨by decide, by decide, rfl, rfl⟩

/-! ### Witnesses: channels, the easel and the gate lists -/

theorem wit_identify :
    up.takesGo (go 0 [] (blk 256 [])) ∧
    decideRows ([inv [(go 0 [] (blk 256 [])).strayArgs []]] ++ (go 0 [] (blk 256 [])).outRows 256) = none :=
  ⟨⟨rfl, rfl⟩, by decide +kernel⟩

theorem wit_channelCreate :
    upFree.takesGo (go 0 [] cb) ∧
    decideRows ([(go 0 [] cb).pfOnly, inv [(go 0 [] cb).strayArgs []]] ++ (go 0 [] cb).pbRows 128 ++
      [inv (ringsRow (go 0 [] cb) ++ createChecks (go 0 [] cb) upFree)]) = none := ⟨⟨rfl, rfl⟩, by decide +kernel⟩

theorem wit_channelDestroy :
    w1.takesGo (go h1 [] []) ∧ decideRows [(go h1 [] []).pfOnly, inv [(go h1 [] []).strayArgs []]] = none ∧
    w1.chanOf 0 (go h1 [] []).chan = some (1, ch) := ⟨⟨rfl, rfl⟩, by decide +kernel, by decide +kernel⟩

/-- A reset block: one ring. -/
def rb : Bytes := blk 160 [(2, 1, 1), (0x80, 8, 0x10000), (0x88, 8, 0x20000), (0x90, 1, 4), (0x91, 1, 2)]

theorem wit_appliedChanges : tget w1.chans 1 = some ch ∧ ch.st ≠ .retired := by decide +kernel

theorem wit_channelReset :
    w1.takesGo (go h1 [] rb) ∧ decideRows [inv [(go h1 [] rb).strayArgs []]] = none ∧
    w1.chanOf 0 (go h1 [] rb).chan = some (1, ch) ∧ ch.st ≠ .retired ∧
    decideRows ((go h1 [] rb).pbRows 128 ++ [inv (ringsRow (go h1 [] rb) ++ resetChecks (go h1 [] rb))]) = none :=
  ⟨⟨rfl, rfl⟩, by decide +kernel, by decide +kernel, by decide +kernel, by decide +kernel⟩

/-- An image's entries: SCAN of slot 1 on sector 0 for 1,000 cycles, FLASH_BACKGROUND of the node for 300,000. -/
def easelBody : Bytes :=
  blk 64 [(4, 3, 1000), (7, 1, 5), (8, 1, 1), (10, 1, 0x11), (16, 1, 1), (24, 1, 1),
    (36, 3, 300000), (39, 1, 0x21), (42, 1, 0x40), (44, 3, 0xFFFFFF), (48, 4, 0xFF000000), (56, 1, 1)]
def easelImg : Bytes :=
  blk 24 [(0, 4, 0x45534C31), (4, 2, 1), (6, 2, 2), (8, 2, 200), (10, 1, 1), (11, 1, 3), (12, 2, 1)] ++ sha256 easelBody ++ blk 8 [] ++ easelBody

theorem wit_easelLoad :
    w1.takesGo (go 0 [] easelImg) ∧ decideRows [(go 0 [] easelImg).pfOnly, inv [(go 0 [] easelImg).strayArgs []]] = none ∧
    w1.easel.arm = none ∧ decideRows ((go 0 [] easelImg).pbRows 64 ++ easelSizeRows (go 0 [] easelImg)) = none ∧
    decideRows [easelRow w1 easelImg, w1.ownerSigRow easelImg (rd easelImg 0x38 4)] = none :=
  ⟨⟨rfl, rfl⟩, by decide +kernel, rfl, by decide +kernel, by decide +kernel⟩

/-- The node with that image in the standby area, and armed for frame 4. -/
def wStandby : State := { w1 with easel := { w1.easel with standby := some (easelOf easelImg) } }
def wArmed : State := { wStandby with easel := { wStandby.easel with arm := some (4, 0) } }

/-- A gate list's one entry: port 0, from 1,000 ns for 500 ns, no class. -/
def gateBody : Bytes := blk 16 [(0, 4, 1000), (4, 4, 500)]
def gatesImg : Bytes :=
  blk 32 [(0, 4, 0x47415431), (4, 2, 1), (6, 1, 1), (7, 1, 3), (8, 2, 200), (16, 2, 1)] ++ sha256 gateBody ++ blk 64 [] ++ gateBody

theorem wit_gatesLoad :
    w1.takesGo (go 0 [] gatesImg) ∧ decideRows [(go 0 [] gatesImg).pfOnly, inv [(go 0 [] gatesImg).strayArgs []]] = none ∧
    w1.easel.arm = none ∧
    decideRows ((go 0 [] gatesImg).pbRows 128 ++ gatesSizeRows (go 0 [] gatesImg) ++
      [gatesRow w1 gatesImg, w1.ownerSigRow gatesImg (rd gatesImg 0x40 4)]) = none :=
  ⟨⟨rfl, rfl⟩, by decide +kernel, rfl, by decide +kernel⟩

/-- EASEL_ARM for frame 4, its cancel, MODE_SET of the exact mode for frame 6. -/
def gArm : Go := go 0 [(0x18, 4, 4)] []
def gCancel : Go := go 0 [(0x14, 1, 16)] []
def gMode : Go := go 0 [(0x14, 1, 1), (0x18, 4, 6)] []

theorem wit_easelArm :
    wStandby.takesGo gArm ∧ gArm.arg 0x14 4 1 ≠ 1 ∧ decideRows [gArm.pfOnly, inv (armChecks gArm wStandby)] = none :=
  ⟨⟨rfl, rfl⟩, by decide +kernel, by decide +kernel⟩

theorem wit_easelArmCancel :
    wArmed.takesGo gCancel ∧ gCancel.arg 0x14 4 1 = 1 ∧ decideRows [gCancel.pfOnly, inv [gCancel.strayArgs armLayout]] = none ∧
    wArmed.easel.arm = some (4, 0) ∧ wArmed.frame.num + 1 < 4 :=
  ⟨⟨rfl, rfl⟩, by decide +kernel, by decide +kernel, rfl, by decide +kernel⟩

theorem wit_modeSet :
    up.takesGo gMode ∧
    decideRows [gMode.pfOnly, inv [gMode.strayArgs [(0x14, 0, 1), (0x14, 8, 5), (0x18, 0, 48)],
      (decide (16 < orDefault (gMode.arg 0x14 8 5) 2), 0x15),
      (gMode.arg 0x18 0 48 % up.hyperAt (gMode.arg 0x18 0 48) != 0 || decide (gMode.arg 0x18 0 48 ≤ up.frame.num + 1), 0x18)]] = none :=
  ⟨⟨rfl, rfl⟩, by decide +kernel⟩

theorem wit_easelLoad_armed :
    wArmed.takesGo (go 0 [] easelImg) ∧ decideRows [(go 0 [] easelImg).pfOnly, inv [(go 0 [] easelImg).strayArgs []]] = none ∧
    wArmed.easel.arm.isSome := ⟨⟨rfl, rfl⟩, by decide +kernel, rfl⟩

/-! ### Witnesses: objects -/

/-- An attribute block of an index: kind 1, number 1, 1,024 regions, 64 lists, DIM 32, fp16, 2^20 rows. -/
def ib : Bytes := blk 64 [(0, 4, 0x10000001), (4, 4, 1024), (8, 2, 64), (10, 1, 1), (24, 1, 1), (40, 8, 0x4000)]

/-- A route table of n entries: the primary is node 0 and the buddy node 1. -/
def rt : Nat → Bytes
  | 0 => []
  | n + 1 => toLe 4 1024 ++ rt n

theorem rd_rt (n i : Nat) (h : i < n) : rd (rt n) (4 * i) 4 = 1024 := by
  induction n generalizing i with
  | zero => omega
  | succ n ih =>
    have e : rt (n + 1) = 0 :: 4 :: 0 :: 0 :: rt n := rfl
    cases i with
    | zero => rw [e]; rfl
    | succ i =>
      have := ih i (by omega)
      rw [e, show 4 * (i + 1) = 4 * i + 1 + 1 + 1 + 1 by omega]
      simpa [rd, slice] using this

theorem rt_good (n : Nat) : badRoute (rt n) n = none := by
  have h : ((List.range n).find? fun i =>
      let e := rd (rt n) (4 * i) 4
      decide (2 ^ 20 ≤ e) || rtPrimary e == rtBuddy e || decide (511 < rtPrimary e) || decide (511 < rtBuddy e)) = none := by
    rw [List.find?_eq_none]
    intro i hi
    rw [rd_rt n i (by simpa using hi)]
    decide
  simp only [badRoute]
  rw [h]; rfl

theorem route_is (n : Nat) : routeOf (rt n) n = List.replicate n 1024 := by
  rw [List.eq_replicate_iff]
  refine ⟨by simp [routeOf], fun x h => ?_⟩
  obtain ⟨i, hi, rfl⟩ := List.mem_map.mp h
  exact rd_rt n i (by simpa using hi)

def gIndex : Go := { go h1 [] ib with ext1 := rt 1024 }

theorem wit_indexCreate :
    w1.takesGo gIndex ∧ decideRows [inv [gIndex.strayArgs []]] = none ∧ w1.chanOf 0 gIndex.chan = some (1, ch) ∧
    ch.st ≠ .retired ∧ decideRows (gIndex.pbRows 64) = none ∧ decideRows [indexRow w1 1 ch gIndex.pb] = none ∧ gIndex.fail1 = none ∧
    badRoute gIndex.ext1 (indexAttrOf gIndex.pb).regions = none ∧
    indexFits w1 1 ch (indexAttrOf gIndex.pb) (routeOf gIndex.ext1 (indexAttrOf gIndex.pb).regions) = true :=
  ⟨⟨rfl, rfl⟩, by decide +kernel, by decide +kernel, by decide +kernel, by decide +kernel, by decide +kernel, rfl, rt_good 1024, by
    rw [show (indexAttrOf gIndex.pb).regions = 1024 by decide +kernel, show gIndex.ext1 = rt 1024 from rfl, route_is]
    decide +kernel⟩

/-- An attribute block of a table: kind 2, number 2, 1,024 rows, DIM 32. -/
def tb : Bytes := blk 96 [(0, 4, 0x20000002), (4, 4, 1), (8, 1, 1), (56, 8, 0x4000)]
def gTable : Go := { go h1 [] tb with ext1 := rt 1 }

theorem wit_tableCreate :
    w1.takesGo gTable ∧ decideRows [inv [gTable.strayArgs []]] = none ∧ w1.chanOf 0 gTable.chan = some (1, ch) ∧
    ch.st ≠ .retired ∧ decideRows (gTable.pbRows 96) = none ∧ decideRows [tableRow w1 1 gTable.pb] = none ∧ gTable.fail1 = none ∧
    badRoute gTable.ext1 (shardCount (tableAttrOf gTable.pb)) = none ∧
    tableFits w1 1 ch (tableAttrOf gTable.pb) (routeOf gTable.ext1 (shardCount (tableAttrOf gTable.pb))) = true :=
  ⟨⟨rfl, rfl⟩, by decide +kernel, by decide +kernel, by decide +kernel, by decide +kernel, by decide +kernel, rfl, rt_good 1,
    by decide +kernel⟩

/-- The index, the table and a set over the index; the node with them. -/
def ix : Index :=
  { attr := indexAttrOf ib, route := List.replicate 1024 1024, cur := { blank := some (1024, 64, 32, 0), centroids := [], lists := [] },
    old := none, next := none, rowsUsed := [], rowsFreeable := [], tombUnits := [1000], tombRows := [], tombLog := [], dropped := none }
def tab : Table :=
  { attr := tableAttrOf tb, route := [1024], hot := [], rows := [], heat := [], counts := [], top := [], saved := [],
    pass := none, changed := [], closed := 0, capElig := [], captures := [], items := [], fresh := [], dropped := none }
def hI : Handle := 0x10000001
def hT : Handle := 0x20000002
def hS : Handle := 0x30000003
def w2 : State := { w1 with indexes := [(objKey 1 hI, ix)], tables := [(objKey 1 hT, tab)] }

def gDropI : Go := go h1 [(0x14, 4, 0x10000001)] []
def gDropT : Go := go h1 [(0x14, 4, 0x20000002)] []

theorem wit_indexDrop :
    w2.takesGo gDropI ∧ decideRows [inv [gDropI.strayArgs [(0x14, 0, 32)]]] = none ∧ w2.chanOf 0 gDropI.chan = some (1, ch) ∧
    (w2.index? 1 (Go.object gDropI)).isSome := ⟨⟨rfl, rfl⟩, by decide +kernel, by decide +kernel, by decide +kernel⟩

theorem wit_tableDrop :
    w2.takesGo gDropT ∧ decideRows [inv [gDropT.strayArgs [(0x14, 0, 32)]]] = none ∧ w2.chanOf 0 gDropT.chan = some (1, ch) ∧
    (w2.table? 1 (Go.object gDropT)).isSome := ⟨⟨rfl, rfl⟩, by decide +kernel, by decide +kernel, by decide +kernel⟩

/-- ALLOWSET_CREATE of a base set, and of a derived set over one base set. -/
def gSet : Go := go h1 [(0x14, 4, 0x30000003), (0x18, 4, 0x10000001)] []
def gSetDerived : Go := go h1 [(0x14, 4, 0x30000004), (0x18, 4, 0x10000001), (0x1D, 1, 1), (0x20, 4, 0x30000003)] []
def base : AllowSet :=
  { index := hI, derived := false, ops := [], sets := [], units := [1001], stamp := 0, fresh := true, dirty := [], inits := 0, rows := [],
    bitLog := [], dropped := none }
def w3 : State := { w2 with sets := [(objKey 1 hS, base)] }

theorem index_w2 : w2.index? 1 hI = some ix := by decide +kernel

theorem index_w3 : w3.index? 1 hI = some ix := by decide +kernel

theorem obj_set : gSet.arg 0x18 0 32 = 0x10000001 ∧ gSetDerived.arg 0x18 0 32 = 0x10000001 := by decide +kernel

theorem wit_allowsetCreate :
    w2.takesGo gSet ∧ w2.chanOf 0 gSet.chan = some (1, ch) ∧ ch.st ≠ .retired ∧ decideRows [setRow gSet w2 1 ch] = none ∧
    w2.index? 1 (BitVec.ofNat 32 (gSet.arg 0x18 0 32)) = some ix ∧ gSet.arg 0x1C 8 1 ≠ 1 :=
  ⟨⟨rfl, rfl⟩, by decide +kernel, by decide +kernel, by decide +kernel, by rw [obj_set.1]; exact index_w2, by decide +kernel⟩

theorem wit_allowsetCreate_derived :
    w3.takesGo gSetDerived ∧ w3.chanOf 0 gSetDerived.chan = some (1, ch) ∧ decideRows [setRow gSetDerived w3 1 ch] = none ∧
    w3.index? 1 (BitVec.ofNat 32 (gSetDerived.arg 0x18 0 32)) = some ix ∧
    (gSetDerived.arg 0x1C 8 1 = 1 → ∀ h ∈ (setOperands gSetDerived).take (opCount (setOps gSetDerived) + 1), (w3.set? 1 h).isSome) :=
  ⟨⟨rfl, rfl⟩, by decide +kernel, by decide +kernel, by rw [obj_set.2]; exact index_w3,
    fun _ => List.all_eq_true.mp (by decide +kernel)⟩

/-- A palette of the index's queries: 32 elements, one scale. -/
def scaleBytes : Bytes := toLe 4 0x3F800000
def palImg : Bytes :=
  blk 24 [(0, 4, 0x50414C31), (4, 2, 1), (8, 4, 0x10000001), (12, 2, 1), (16, 2, 32)] ++ sha256 scaleBytes ++ blk 8 [] ++ scaleBytes

theorem wit_paletteSet :
    w2.takesGo (go h1 [] palImg) ∧ decideRows [inv [(go h1 [] palImg).strayArgs []]] = none ∧
    w2.chanOf 0 (go h1 [] palImg).chan = some (1, ch) ∧
    decideRows ((go h1 [] palImg).pbRows 64 ++ paletteSizeRows (go h1 [] palImg) ++ paletteRows w2 1 palImg ++
      [w2.ownerSigRow palImg (rd palImg 0x38 4)]) = none :=
  ⟨⟨rfl, rfl⟩, by decide +kernel, by decide +kernel, by decide +kernel⟩

/-! ### Witness: GRAPH_LOAD. The image's digest is written into it, and is not computed here. -/

/-- What the digest covers: one int8 layer of width 1 with scales 1.0 and the identity, weights at 0x1_0000, biases after them. -/
def graphBody : Bytes :=
  blk 4800 [(0, 1, 1), (2, 1, 7), (4, 4, 0x3F800000), (12, 4, 0x3F800000), (16, 4, 65536), (24, 4, 65600)] ++ List.replicate 60740 0
def graphHead : Bytes := blk 24 [(0, 4, 0x47524631), (4, 2, 1), (6, 1, 1), (16, 4, 65604)]
def graphImg : Bytes := graphHead ++ (toLe 32 (digest graphBody) ++ (blk 8 [] ++ graphBody))
def gGraph : Go := { go h1 [(0x14, 4, 0x10000001), (0x18, 4, 4)] graphImg with pbLen := 65604 }

theorem graph_digest : digest (slice graphImg 0x40 (rd graphImg 16 8 - 0x40)) = le (slice graphImg 24 32) := by
  have w : rd graphImg 24 32 = digest graphBody := rd_written graphHead (blk 8 [] ++ graphBody) 32 (digest graphBody) (digest_lt _)
  have n : rd graphImg 16 8 = 65604 := by decide +kernel
  have b : graphBody.length = 65540 := by
    have h0 : ∀ x : Bytes, x.length = 4800 → (x ++ List.replicate 60740 (0 : Byte)).length = 65540 := by
      intro x hx; rw [List.length_append, List.length_replicate, hx]
    exact h0 _ (by decide +kernel)
  have d : slice graphImg 0x40 65540 = graphBody := by
    have h0 : ∀ x y z w : Bytes, x.length = 24 → y.length = 32 → z.length = 8 → w.length = 65540 →
        slice (x ++ (y ++ (z ++ w))) 0x40 65540 = w := by
      intro x y z w hx hy hz hw
      have e : (x ++ (y ++ z)).length = 0x40 := by simp [hx, hy, hz]
      rw [slice, ← List.append_assoc y, ← List.append_assoc x, ← e, List.drop_left, ← hw, List.take_length]
    exact h0 _ _ _ _ (by decide +kernel) (toLe_length _ _) (by decide +kernel) b
  rw [n, show 65604 - 0x40 = 65540 from rfl, d]
  exact w.symm

theorem le_append (a b : Bytes) : le (a ++ b) = le a + 256 ^ a.length * le b := by
  induction a with
  | nil => simp [le]
  | cons x t ih => 
    simp only [List.cons_append, le, ih, List.length_cons, Nat.pow_succ]
    rw [Nat.mul_add, ← Nat.mul_assoc 256, Nat.mul_comm 256, ← Nat.add_assoc]
    simp only [Nat.mul_comm]

theorem and_parts (h a x y k : Nat) (hh : h < 2 ^ k) (ha : a < 2 ^ k) :
    (h + 2 ^ k * x) &&& (a + 2 ^ k * y) = (h &&& a) + 2 ^ k * (x &&& y) := by
  have hb : h &&& a < 2 ^ k := Nat.lt_of_le_of_lt Nat.and_le_left hh
  apply Nat.eq_of_testBit_eq
  intro i
  rw [Nat.add_comm h, Nat.add_comm a, Nat.add_comm (h &&& a)]
  simp only [Nat.testBit_and, Nat.testBit_two_pow_mul_add _ hh, Nat.testBit_two_pow_mul_add _ ha, Nat.testBit_two_pow_mul_add _ hb]
  split <;> simp

/-- A 64-byte header whose digest lies at 24 has no stray bit where the rest has none. -/
theorem stray_header (l : Layout) (h t : Bytes) (d : Nat) (eh : h.length = 24) (hd : d < 2 ^ 256) (et : le t = 0)
    (m : layoutMask l / 2 ^ 192 % 2 ^ 256 = 2 ^ 256 - 1) (hm : le h &&& layoutMask l % 2 ^ 192 = le h) :
    stray 0x1000 l (h ++ (toLe 32 d ++ t)) = (false, 0) := by
  have n : le (h ++ (toLe 32 d ++ t)) = le h + 2 ^ 192 * d := by
    rw [le_append, le_append, eh, et, le_toLe, Nat.mod_eq_of_lt (by simpa using hd), Nat.mul_zero, Nat.add_zero,
      show (256 : Nat) ^ 24 = 2 ^ 192 from rfl]
  have hl : le h < 2 ^ 192 := by
    have := le_lt h; rw [eh] at this; simpa using this
  have e : layoutMask l = layoutMask l % 2 ^ 192 + 2 ^ 192 * (layoutMask l / 2 ^ 192) := by
    rw [Nat.add_comm]; exact (Nat.div_add_mod _ _).symm
  have a : d &&& layoutMask l / 2 ^ 192 = d := by
    apply Nat.eq_of_testBit_eq
    intro i
    rw [Nat.testBit_and]
    by_cases c : i < 256
    · have : (layoutMask l / 2 ^ 192).testBit i = true := by
        have := congrArg (fun z => z.testBit i) m
        simp only [Nat.testBit_mod_two_pow, Nat.testBit_two_pow_sub_one, c, decide_true, Bool.true_and] at this
        exact this
      rw [this, Bool.and_true]
    · rw [Nat.testBit_lt_two_pow (Nat.lt_of_lt_of_le hd (Nat.pow_le_pow_right (by decide) (by omega)))]
      rfl
  have s : strayByte l (h ++ (toLe 32 d ++ t)) = none := by
    have z : le (h ++ (toLe 32 d ++ t)) &&& layoutMask l = le (h ++ (toLe 32 d ++ t)) := by
      rw [n, e, and_parts _ _ _ _ _ hl (Nat.mod_lt _ (Nat.two_pow_pos 192)), hm, a]
    simp only [strayByte, z, Nat.sub_self, if_true]
  rw [stray, s]

theorem graph_stray : stray 0x1000 graphHeaderLayout (slice graphImg 0 64) = (false, 0) := by
  have e : slice graphImg 0 64 = graphHead ++ (toLe 32 (digest graphBody) ++ blk 8 []) := by
    have h0 : ∀ x y z w : Bytes, x.length = 24 → y.length = 32 → z.length = 8 →
        slice (x ++ (y ++ (z ++ w))) 0 64 = x ++ (y ++ z) := by
      intro x y z w hx hy hz
      have e : (x ++ (y ++ z)).length = 64 := by simp [hx, hy, hz]
      rw [slice, List.drop_zero, ← List.append_assoc y, ← List.append_assoc x, ← e, List.take_left]
    exact h0 _ _ _ _ (by decide +kernel) (toLe_length _ _) (by decide +kernel)
  rw [e]
  exact stray_header _ _ _ _ (by decide +kernel) (digest_lt _) (by decide +kernel) (by decide +kernel) (by decide +kernel)

theorem wit_graphLoad :
    w2.takesGo gGraph ∧
    decideRows [inv [gGraph.strayArgs [(0x14, 0, 32), (0x18, 0, 48)], (decide (gGraph.arg 0x18 0 48 ≤ w2.frame.num + 1), 0x18)]] = none ∧
    w2.chanOf 0 gGraph.chan = some (1, ch) ∧ ch.st ≠ .retired ∧ w2.index? 1 (Go.object gGraph) = some ix ∧
    decideRows (gGraph.pbRows 64 ++ graphSizeRows gGraph ++
      [graphRow w2 1 ch ix.attr graphImg, w2.ownerSigRow graphImg (rd graphImg 0x38 4)]) = none :=
  ⟨⟨rfl, rfl⟩, by decide +kernel, by decide +kernel, by decide +kernel,
    by rw [show Go.object gGraph = hI by decide +kernel]; exact index_w2,
    by simp only [graphRow, graph_digest, graph_stray, bne_self_eq_false]; decide +kernel⟩

/-! ### Witnesses: BUILD and MIGRATE -/

/-- The channel with one granule of partition in sector 0; the index's node with it. -/
def chP : Chan := { ch with rwa := { ch.rwa with partGran := 1 }, partSectors := 1 }
def wBuild (l : List Build) : State := { w2 with chans := [(1, chP)], builds := l }

/-- A build that has ended a phase. -/
def built (n : Nat) : Build := { Build.empty 1 hI with phase := n }

/-- BUILD of a phase, with a count and a frame. -/
def gBuild (phase n f : Nat) : Go := go h1 [(0x14, 4, 0x10000001), (0x18, 1, phase), (0x1C, 4, n), (0x20, 4, if phase ≤ 1 then 0x4000 else 0), (0x28, 4, f)] []

/-- What BUILD needs for a phase after the phases done. -/
def BuildMeets (l : List Build) (g : Go) : Prop :=
  (wBuild l).takesGo g ∧ (wBuild l).chanOf 0 g.chan = some (1, chP) ∧ chP.st ≠ .retired ∧
  (wBuild l).index? 1 (Go.object g) = some ix ∧ decideRows [buildRow g ((wBuild l).begun 0x37 g) 1 chP ix] = none ∧
  decideRows (buildDataRows g ix.attr) = none

theorem obj_build (g : Go) (h : Go.object g = hI) (l : List Build) : (wBuild l).index? 1 (Go.object g) = some ix := by
  rw [h]; exact index_w2

theorem wit_buildTrainRegions : BuildMeets [] (gBuild 0 1024 0) :=
  ⟨⟨rfl, rfl⟩, by decide +kernel, by decide +kernel, obj_build _ (by decide +kernel) _, by decide +kernel, by decide +kernel⟩

/-- LOAD of one item block: key 7, a zero vector. -/
def gLoad : Go := { gBuild 1 1 0 with ext1 := blk 128 [(0, 8, 7)] }

theorem wit_buildLoad : BuildMeets [built 0] gLoad :=
  ⟨⟨rfl, rfl⟩, by decide +kernel, by decide +kernel, obj_build _ (by decide +kernel) _, by decide +kernel, by decide +kernel⟩

theorem wit_buildTrainLists : BuildMeets [built 1] (gBuild 2 0 0) :=
  ⟨⟨rfl, rfl⟩, by decide +kernel, by decide +kernel, obj_build _ (by decide +kernel) _, by decide +kernel, by decide +kernel⟩

theorem wit_buildPlace : BuildMeets [built 2] (gBuild 3 0 0) :=
  ⟨⟨rfl, rfl⟩, by decide +kernel, by decide +kernel, obj_build _ (by decide +kernel) _, by decide +kernel, by decide +kernel⟩

theorem wit_buildPublish : BuildMeets [built 3] (gBuild 4 0 5) ∧ ((built 3).begin (gBuild 4 0 5) 0 ix.attr).phase = 4 :=
  ⟨⟨⟨rfl, rfl⟩, by decide +kernel, by decide +kernel, obj_build _ (by decide +kernel) _, by decide +kernel, by decide +kernel⟩,
    by decide +kernel⟩

/-- The node as member 0 of an array. -/
def wMember : State := { w2 with frame := { w2.frame with logicalId := 0, joined := true } }

/-- MIGRATE to node 5 from frame 10: region 3, shard 0, hot row 9. -/
def gRegion : Go := go h1 [(0x14, 4, 0x10000001), (0x18, 2, 0x500), (0x20, 4, 3), (0x28, 4, 10)] []
def gShard : Go := go h1 [(0x14, 4, 0x20000002), (0x18, 2, 0x501), (0x20, 4, 0), (0x28, 4, 10)] []
def gRows : Go :=
  { go h1 [(0x14, 4, 0x20000002), (0x18, 2, 0x502), (0x20, 4, 1), (0x28, 4, 10), (0x30, 4, 0x4000)] [] with ext1 := toLe 4 9 }

theorem obj_migrate : Go.object gRegion = hI ∧ Go.object gShard = hT ∧ Go.object gRows = hT := by decide +kernel
theorem index_wM : wMember.index? 1 hI = some ix := by decide +kernel
theorem table_wMember : wMember.table? 1 hT = some tab := by decide +kernel

theorem wit_migrateRegion :
    gRegion.arg 0x18 0 2 = 0 ∧ wMember.takesGo gRegion ∧ wMember.chanOf 0 gRegion.chan = some (1, ch) ∧ ch.st ≠ .retired ∧
    wMember.index? 1 (Go.object gRegion) = some ix ∧ decideRows [migrateRow gRegion wMember 1 ch 0 ix.route none] = none :=
  ⟨by decide +kernel, ⟨rfl, rfl⟩, by decide +kernel, by decide +kernel, by rw [obj_migrate.1]; exact index_wM, by decide +kernel⟩

theorem wit_migrateShard :
    gShard.arg 0x18 0 2 = 1 ∧ wMember.takesGo gShard ∧ wMember.chanOf 0 gShard.chan = some (1, ch) ∧
    wMember.table? 1 (Go.object gShard) = some tab ∧
    decideRows [migrateRow gShard wMember 1 ch (gShard.arg 0x18 0 2) tab.route (some tab)] = none :=
  ⟨by decide +kernel, ⟨rfl, rfl⟩, by decide +kernel, by rw [obj_migrate.2.1]; exact table_wMember, by decide +kernel⟩

theorem wit_migrateHotRows :
    gRows.arg 0x18 0 2 = 2 ∧ wMember.takesGo gRows ∧ wMember.chanOf 0 gRows.chan = some (1, ch) ∧
    wMember.table? 1 (Go.object gRows) = some tab ∧
    decideRows [migrateRow gRows wMember 1 ch (gRows.arg 0x18 0 2) tab.route (some tab)] = none ∧
    (gRows.arg 0x18 0 2 = 2 → gRows.fail1 = none ∧ badHotRow wMember gRows tab = none) :=
  ⟨by decide +kernel, ⟨rfl, rfl⟩, by decide +kernel, by rw [obj_migrate.2.2]; exact table_wMember, by decide +kernel,
    fun _ => ⟨rfl, by decide +kernel⟩⟩

/-! ### Witnesses: power and sectors -/

/-- POWER_STATE_SET of a power state; the node in a power state. -/
def gPower (st : Nat) : Go := go 0 [(0x14, 1, st + 64)] []
def inState (st : Nat) : State := { up with power := { up.power with state := st } }

/-- What a request of a state needs. -/
def PowerMeets (st : Nat) (s : State) : Prop :=
  s.takesGo (gPower st) ∧ (gPower st).arg 0x14 0 3 = st ∧ (gPower st).arg 0x14 6 1 = 1 ∧ (gPower st).arg 0x14 0 3 ≠ s.power.state ∧
  s.power.want = none ∧
  decideRows [(gPower st).pfOnly, inv [(gPower st).strayArgs [(0x14, 0, 3), (0x14, 4, 3)], (s.stateBroken ((gPower st).arg 0x14 0 3), 0x14)]] =
    none

theorem wit_powerStates :
    PowerMeets 0 (inState 2) ∧ PowerMeets 1 (inState 0) ∧ PowerMeets 2 (inState 0) ∧ PowerMeets 3 (inState 0) ∧ PowerMeets 4 (inState 0) :=
  ⟨⟨⟨rfl, rfl⟩, by decide +kernel, by decide +kernel, by decide +kernel, rfl, by decide +kernel⟩,
   ⟨⟨rfl, rfl⟩, by decide +kernel, by decide +kernel, by decide +kernel, rfl, by decide +kernel⟩,
   ⟨⟨rfl, rfl⟩, by decide +kernel, by decide +kernel, by decide +kernel, rfl, by decide +kernel⟩,
   ⟨⟨rfl, rfl⟩, by decide +kernel, by decide +kernel, by decide +kernel, rfl, by decide +kernel⟩,
   ⟨⟨rfl, rfl⟩, by decide +kernel, by decide +kernel, by decide +kernel, rfl, by decide +kernel⟩⟩

/-- POWER_STATE_SET of service state MAINTENANCE alone. -/
def gService : Go := go 0 [(0x14, 1, 0x27)] []

theorem wit_powerSetService :
    up.takesGo gService ∧ gService.arg 0x14 0 3 = 7 ∧ gService.arg 0x14 6 1 ≠ 1 ∧ gService.arg 0x14 4 2 ≠ up.power.service ∧
    decideRows [gService.pfOnly, inv [gService.strayArgs [(0x14, 0, 3), (0x14, 4, 3)], (up.serviceBroken (gService.arg 0x14 4 2), 0x14)]] =
      none := ⟨⟨rfl, rfl⟩, by decide +kernel, by decide +kernel, by decide +kernel, by decide +kernel⟩

/-- POWER_STATE_SET of ACTIVE-LOW with service state MAINTENANCE. -/
def gBoth : Go := go 0 [(0x14, 1, 0x21)] []

theorem wit_powerSetBoth :
    up.takesGo gBoth ∧
    decideRows [gBoth.pfOnly, inv [gBoth.strayArgs [(0x14, 0, 3), (0x14, 4, 3)],
      (up.stateBroken (gBoth.arg 0x14 0 3) || (!(gBoth.arg 0x14 6 1 == 1) && up.serviceBroken (gBoth.arg 0x14 4 2)), 0x14)]] = none :=
  ⟨⟨rfl, rfl⟩, by decide +kernel⟩

theorem wit_wantState : 3 ≤ 4 ∧ up.power.drainFrom = none := by decide

def gSectors : Go := go 0 [(0x14, 2, 0x00FF)] []

theorem wit_sectorGate :
    up.takesGo gSectors ∧
    decideRows [gSectors.pfOnly, inv [gSectors.strayArgs [(0x14, 0, 16)], (up.gateBroken (gSectors.arg 0x14 0 16), 0x14)]] = none :=
  ⟨⟨rfl, rfl⟩, by decide +kernel⟩

/-! ### Witnesses: security -/

/-- ATTEST_REPORT with its nonce 0. -/
def gAttest : Go := go 0 [] (blk 7012 [])

theorem wit_attestReport :
    up.takesGo gAttest ∧ up.sigIndex ≤ 1048575 ∧
    decideRows (inv [gAttest.strayArgs [(0x18, 0, 256)]] :: gAttest.outRows (6612 + 40 * (up.measurements gAttest.fn).length)) = none :=
  ⟨⟨rfl, rfl⟩, by decide +kernel, by decide +kernel⟩

/-- A key package: its first 16 bytes, the digest of the key pair in use, and a part that the tests leave 0. -/
def package (h : Bytes) : Bytes := h ++ (toLe 32 (digest up.encapKey) ++ List.replicate 1660 0)

theorem package_digest (h : Bytes) (e : h.length = 16) : rd (package h) 0x10 32 = digest up.encapKey := by
  have w := rd_written h (List.replicate 1660 0) 32 (digest up.encapKey) (digest_lt _)
  rw [e] at w
  exact w

/-- The channel with ENCRYPT, its key and its package. -/
def chE : Chan := { ch with encrypt := true }
def wE : State := { up with chans := [(1, chE)] }
def key : Bytes := List.replicate 32 7 ++ List.replicate 32 0
def pkC : Bytes := blk 16 [(0, 4, 0x4B455931), (8, 4, h1), (12, 4, 3)]
def pkP : Bytes := blk 16 [(0, 4, 0x4B455931), (4, 1, 0x21), (12, 4, 4)]
def pkI : Bytes := blk 16 [(0, 4, 0x4B455931), (4, 1, 0x32), (12, 4, 5)]
def gKeyC : Go := { go h1 [] (package pkC) with pbLen := 1708 }
def gKeyP : Go := { go 0 [(0x14, 1, 0x21)] (package pkP) with pbLen := 1708 }
def gKeyI : Go := { go 0 [(0x14, 1, 0x32)] (package pkI) with pbLen := 1708 }

theorem packageRow_is (g : Go) (k : Bytes) (t : Nat) (s : State) (h : Bytes) (e : h.length = 16) (p : g.pb = package h)
    (n : s.encapKey = up.encapKey) :
    packageRow g (some k) t s =
      [stray 0x1000 keyLayout (slice (package h) 0 16), (rd (package h) 0 4 != 0x4B455931, 0x1000), (fld (package h) 4 0 2 != t, 0x1004),
       (fld (package h) 4 4 7 != g.arg 0x14 4 7, 0x1004), (rd (package h) 8 4 != (if t = 0 then g.chan.toNat else 0), 0x1008),
       (false, 0x1010), (!(k.length == 64 && (t == 0 || allZero (k.drop 32))), 0x1030)] := by
  simp only [packageRow, p, n, package_digest h e, bne_self_eq_false]

theorem wit_keyInstallChannel :
    wE.takesGo gKeyC ∧ gKeyC.arg 0x14 0 2 = 0 ∧ decideRows [inv [gKeyC.strayArgs [(0x14, 0, 2), (0x14, 4, 7)]]] = none ∧
    wE.chanOf 0 gKeyC.chan = some (1, chE) ∧ chE.st ≠ .retired ∧
    decideRows (gKeyC.pbRows 1708 ++ [inv (packageRow gKeyC (some key) 0 wE ++
        [(!chE.encrypt, 0x04), (chE.key.isSome && chE.keyBytes != key, 0x165C),
         ((match chE.checkValue with | some v => v.2 != checkValueOf key | none => false), 0x165C)])]) = none :=
  ⟨⟨rfl, rfl⟩, by decide +kernel, by decide +kernel, by decide +kernel, by decide +kernel,
    by rw [packageRow_is gKeyC key 0 wE pkC rfl rfl rfl]; decide +kernel⟩

theorem wit_keyInstallPort :
    up.takesGo gKeyP ∧ gKeyP.arg 0x14 0 2 = 1 ∧
    decideRows (gKeyP.pfOnly :: inv [gKeyP.strayArgs [(0x14, 0, 2), (0x14, 4, 7)], (decide (7 < gKeyP.arg 0x14 4 7), 0x14)] ::
      gKeyP.pbRows 1708 ++ [inv (packageRow gKeyP (some key) 1 up ++
        [((match up.ports[gKeyP.arg 0x14 4 7]? with | some p => p.keyIds.contains (rd gKeyP.pb 0xC 4) | none => false), 0x100C)])]) =
      none :=
  ⟨⟨rfl, rfl⟩, by decide +kernel, by rw [packageRow_is gKeyP key 1 up pkP rfl rfl rfl]; decide +kernel⟩

theorem wit_keyInstallIde :
    up.takesGo gKeyI ∧ gKeyI.arg 0x14 0 2 = 2 ∧
    decideRows (gKeyI.pfOnly :: inv [gKeyI.strayArgs [(0x14, 0, 2), (0x14, 4, 7)], (decide (7 < gKeyI.arg 0x14 4 7), 0x14)] ::
      gKeyI.pbRows 1708 ++ [inv (packageRow gKeyI (some key) 2 up)]) = none :=
  ⟨⟨rfl, rfl⟩, by decide +kernel, by rw [packageRow_is gKeyI key 2 up pkI rfl rfl rfl]; decide +kernel⟩

/-- An owner record with SEQ 1. -/
def gOwner : Go := go 0 [] (blk 96 [(0, 4, 0x4F574E31), (4, 2, 1), (0x18, 4, 1), (0x20, 1, 9)])

theorem wit_ownerTake :
    up.takesGo gOwner ∧ up.chans = [] ∧ up.easel.arm = none ∧
    decideRows (gOwner.pfOnly :: inv [gOwner.strayArgs []] :: gOwner.pbRows 0x60 ++
      (match up.boot.ownerHash with
        | some _ => [inv [(decide (gOwner.pbLen < 0x60 + 16 + 1840 * rd gOwner.pb 0x64 1), 0x1064)]]
        | none => []) ++ [inv (ownerRow gOwner up)]) = none :=
  ⟨⟨rfl, rfl⟩, rfl, rfl, by decide +kernel⟩

/-- A firmware header of an image of 64 bytes; FW_ACTIVATE warm and cold; the node with a verified image. -/
def gStage : Go := go 0 [] (blk 64 [(0, 4, 0x4657494D), (4, 2, 1), (6, 2, 2), (8, 4, 64)])
def gWarm : Go := go 0 [] []
def gCold : Go := go 0 [(0x14, 1, 1)] []
def wStaged : State :=
  { up with boot := { up.boot with staged := some { version := 2, digest := 0, good := true, verified := true } } }

theorem wit_fwStage :
    up.takesGo gStage ∧
    decideRows (gStage.pfOnly :: inv [gStage.strayArgs []] :: gStage.pbRows 64 ++ fwSizeRows gStage ++ [fwRow gStage]) = none :=
  ⟨⟨rfl, rfl⟩, by decide +kernel⟩

theorem wit_fwActivate :
    gWarm.arg 0x14 0 1 = 0 ∧ wStaged.takesGo gWarm ∧ decideRows [gWarm.pfOnly, inv [gWarm.strayArgs [(0x14, 0, 1)]]] = none ∧
    gCold.arg 0x14 0 1 = 1 ∧ wStaged.takesGo gCold ∧ decideRows [gCold.pfOnly, inv [gCold.strayArgs [(0x14, 0, 1)]]] = none ∧
    ∃ f, wStaged.boot.staged = some f ∧ f.verified = true :=
  ⟨by decide +kernel, ⟨rfl, rfl⟩, by decide +kernel, by decide +kernel, ⟨rfl, rfl⟩, by decide +kernel, _, rfl, rfl⟩

/-! ### Witnesses: the array and the reads -/

/-- A member of an array with group (0, 8, 512); a spare, logical ID 513, that shadows node 3. -/
def wGroup : State :=
  { up with frame := { up.frame with logicalId := 0, joined := true }, member := { up.member with groups := [(0, 8, 512)] } }
def takeover : Order := { kind := 1, subject := 3, phys := 512, issuer := 0, frame := 5 }
def wTakeover : State := { wGroup with member := { wGroup.member with orders := [takeover] } }
def wShadow : State :=
  { up with
    frame := { up.frame with logicalId := 513, joined := true }
    ports := setAt up.ports 6 fun p => { p with neighbour := 3 }
    member := { up.member with vacated := [3], shadow := some { target := 3, port := 6, copied := true, clean := 2000, passed := true, inputs := [], since := 0 } } }
def gConfirm : Go := go 0 [(0x14, 2, 3), (0x18, 4, 5)] []
def gPromote : Go := go 0 [(0x14, 2, 3), (0x18, 4, 20)] []
def gShadow : Go := go 0 [(0x14, 2, 3)] []

theorem wit_takeoverConfirm :
    wTakeover.takesGo gConfirm ∧
    decideRows [gConfirm.pfOnly, inv [gConfirm.strayArgs [(0x14, 0, 10), (0x18, 0, 48)],
      (!(wTakeover.member.orders.any fun o => o.kind == 1 && o.subject == gConfirm.arg 0x14 0 10 && o.frame == gConfirm.arg 0x18 0 48), 0x14),
      (decide (gConfirm.arg 0x18 0 48 + wTakeover.holdFrames ≤ wTakeover.frame.num), 0x18)]] = none :=
  ⟨⟨rfl, rfl⟩, by decide +kernel⟩

theorem wit_sparePromote :
    wShadow.takesGo gPromote ∧
    decideRows [gPromote.pfOnly, inv [gPromote.strayArgs [(0x14, 0, 10), (0x18, 0, 48)],
      (!(match wShadow.member.shadow with | some sh => sh.passed | none => false) || !wShadow.placeOpen (gPromote.arg 0x14 0 10), 0x14),
      (decide (gPromote.arg 0x18 0 48 < wShadow.acceptFrame gPromote.cycle + 16), 0x18)]] = none :=
  ⟨⟨rfl, rfl⟩, by decide +kernel⟩

theorem wit_shadowStart :
    wShadow.takesGo gShadow ∧ wShadow.auxPort (gShadow.arg 0x14 0 10) = some 6 ∧ wShadow.frame.joined = true ∧
    512 ≤ wShadow.frame.logicalId ∧ wShadow.member.fenced = false ∧
    (wShadow.member.groups.any fun x => x.2.2 == wShadow.frame.logicalId) = false ∧
    (false = true → (wShadow.port 6).encrypted = true) ∧ decideRows [gShadow.pfOnly, inv [gShadow.strayArgs [(0x14, 0, 10)]]] = none :=
  ⟨⟨rfl, rfl⟩, by decide +kernel, rfl, by decide, rfl, by decide, fun h => absurd h (by decide), by decide +kernel⟩

/-- ARRAY_JOIN as node 5 with frames of 200 µs, a relay table without ports and one group. -/
def relayBytes : Nat → Bytes
  | 0 => []
  | n + 1 => 0xFF :: 0 :: relayBytes n

theorem rd_relay (n i : Nat) (h : i < n) : rd (relayBytes n) (2 * i) 2 = 255 := by
  induction n generalizing i with
  | zero => omega
  | succ n ih =>
    cases i with
    | zero => rfl
    | succ i =>
      have := ih i (by omega)
      rw [relayBytes, show 2 * (i + 1) = 2 * i + 1 + 1 by omega]
      simpa [rd, slice] using this

theorem relay_good : badRelay (relayBytes 576) = none := by
  have h : ((List.range 576).find? fun i =>
      let e := rd (relayBytes 576) (2 * i) 2
      let bad := fun (p : Nat) => decide (7 < p) && p != 15
      decide (255 < e) || bad (e % 16) || bad (e / 16)) = none := by
    rw [List.find?_eq_none]
    intro i hi
    rw [rd_relay 576 i (by simpa using hi)]
    decide
  simp only [badRelay]
  rw [h]; rfl

def gJoin : Go :=
  { go 0 [(0x14, 2, 5), (0x16, 2, 200), (0x20, 4, 0x4000), (0x30, 4, 0x5000)] [] with
    ext1 := relayBytes 576, ext2 := blk 16 [(2, 1, 8), (4, 2, 512)] }

theorem wit_arrayJoin :
    up.takesGo gJoin ∧ up.frame.joined = false ∧ up.frame.join = none ∧ up.power.service ≠ 3 ∧ decideRows [gJoin.pfOnly] = none ∧
    decideRows [inv [gJoin.strayArgs joinLayout, (decide (575 < gJoin.arg 0x14 0 10), 0x14),
          (decide (gJoin.arg 0x14 16 10 < 50) || decide (1000 < gJoin.arg 0x14 16 10), 0x16),
          (up.unlikeHeard (gJoin.arg64 0x18) (gJoin.arg 0x14 16 10), 0x16),
          (gJoin.arg64 0x20 == 0 || gJoin.arg64 0x20 % 64 != 0, 0x20), (decide (16 < orDefault (gJoin.arg 0x28 9 5) 2), 0x29),
          (gJoin.arg64 0x30 == 0 || gJoin.arg64 0x30 % 64 != 0, 0x30)]] = none ∧
    gJoin.fail1 = none ∧ badRelay gJoin.ext1 = none ∧ gJoin.fail2 = none ∧ badGroups gJoin.ext2 = none :=
  ⟨⟨rfl, rfl⟩, rfl, rfl, by decide, by decide +kernel, by decide +kernel, rfl, relay_good, rfl, by decide +kernel⟩

/-- ARRAY_LEAVE before frame 9. -/
def gLeave : Go := go 0 [(0x18, 4, 9)] []

theorem wit_arrayLeave :
    wGroup.takesGo gLeave ∧ wGroup.frame.joined = true ∧ decideRows [gLeave.pfOnly, inv [gLeave.strayArgs [(0x18, 0, 48)]]] = none :=
  ⟨⟨rfl, rfl⟩, rfl, by decide +kernel⟩

/-- STATS_READ of a class and a selector, for the channel h; LOG_READ from SEQ 0. -/
def gStats (h cls sel : Nat) : Go := { go h [(0x14, 1, cls), (0x18, 4, sel)] [] with pbLen := 65536 }
def gLog : Go := go 0 [] (blk 128 [])

/-- The class is one of R355's, whatever its selector. -/
def StatsGood (s : State) (g : Go) (cls sel : Nat) : Prop :=
  s.takesGo g ∧ decideRows [inv [g.strayArgs statsArgLayout, (decide (4 < g.arg 0x14 0 8), 0x14)]] = none ∧ g.arg 0x14 0 8 = cls ∧
    g.arg 0x18 0 32 = sel

theorem wit_statsRead_node :
    StatsGood w1 (gStats 0 0 0) 0 0 ∧ (gStats 0 0 0).fn = 0 ∧
    decideRows ((gStats 0 0 0).outRows (acctBytes w1.nodeTotals (min ((w1.chans.map fun p => p.2.faults).sum) 0xFFFF) 0).length) = none :=
  ⟨⟨⟨rfl, rfl⟩, by decide +kernel, by decide +kernel, by decide +kernel⟩, rfl, by decide +kernel⟩

theorem wit_statsRead_channel :
    StatsGood w1 (gStats 0 0 h1) 0 h1 ∧ StatsGood w1 (gStats 0 4 h1) 4 h1 ∧ w1.chanOf 0 (BitVec.ofNat 32 h1) = some (1, ch) ∧
    ch.st ≠ .retired ∧ decideRows ((gStats 0 0 h1).outRows (w1.statsData 1 ch 0 (chanHandle 1 ch)).length) = none ∧
    decideRows ((gStats 0 4 h1).outRows (w1.statsData 1 ch 4 (chanHandle 1 ch)).length) = none :=
  ⟨⟨⟨rfl, rfl⟩, by decide +kernel, by decide +kernel, by decide +kernel⟩, ⟨⟨rfl, rfl⟩, by decide +kernel, by decide +kernel, by decide +kernel⟩,
    by decide +kernel, by decide +kernel, by decide +kernel, by decide +kernel⟩

/-- The histogram of ring 0 of slot 1, of stage 4 of port 7, and of the last stage. -/
theorem wit_statsRead_histogram :
    (∀ sel ∈ [16, 2 ^ 24 + 60, 2 ^ 25 + 23], StatsGood w1 (gStats 0 1 sel) 1 sel ∧ sel / 2 ^ 16 % 2 ^ 8 = 0 ∧
      decideRows ((gStats 0 1 sel).outRows (w1.histo sel).bytes.length) = none) ∧
    tget w1.chans 1 = some ch ∧ 0 < ch.rings.length ∧ 60 / 8 < 8 ∧ 60 % 8 < 5 := by
  refine ⟨fun sel h => ?_, by decide +kernel, by decide +kernel, by decide, by decide⟩
  have c : sel = 16 ∨ sel = 2 ^ 24 + 60 ∨ sel = 2 ^ 25 + 23 := by simpa using h
  rcases c with rfl | rfl | rfl <;>
    exact ⟨⟨⟨rfl, rfl⟩, by decide +kernel, by decide +kernel, by decide +kernel⟩, by decide, by decide +kernel⟩

theorem wit_statsRead_object :
    StatsGood w2 (gStats h1 2 hI.toNat) 2 hI.toNat ∧ StatsGood w2 (gStats h1 3 hT.toNat) 3 hT.toNat ∧
    w2.chanOf 0 (gStats h1 2 hI.toNat).chan = some (1, ch) ∧ ch.st ≠ .retired ∧
    (statsSize w2 1 ch 2 hI).isSome ∧ (statsSize w2 1 ch 3 hT).isSome ∧
    decideRows ((gStats h1 2 hI.toNat).outRows (w2.statsData 1 ch 2 hI).length) = none ∧
    decideRows ((gStats h1 3 hT.toNat).outRows (w2.statsData 1 ch 3 hT).length) = none :=
  ⟨⟨⟨rfl, rfl⟩, by decide +kernel, by decide +kernel, by decide +kernel⟩, ⟨⟨rfl, rfl⟩, by decide +kernel, by decide +kernel, by decide +kernel⟩,
    by decide +kernel, by decide +kernel, by decide +kernel, by decide +kernel, by decide +kernel, by decide +kernel⟩

theorem wit_logRead :
    up.takesGo gLog ∧ decideRows (inv [gLog.strayArgs [(0x18, 0, 64)]] :: gLog.outRows 0) = none :=
  ⟨⟨rfl, rfl⟩, by decide +kernel⟩

/-! ### Witnesses: doorbells and ring commands -/

/-- A doorbell of slot 1, generation 1, ring 0: kind 0 or 1, and an index. -/
def bellWord (kind index : Nat) : BitVec 64 := BitVec.ofNat 64 (2 ^ 40 + 2 ^ 32 + kind * 2 ^ 20 + index)
def ring0 : Ring := ringOf (slice cb 0x80 32)

/-- The channel with its ring in another state. -/
def wRing (f : Ring → Ring) : State := { up with chans := [(1, { ch with rings := [f ring0] })] }

theorem wit_doorbell_tail :
    up.live = true ∧ w1.bell 0 (bellWord 0 3).toNat ch ring0 ∧ dbKind (bellWord 0 3).toNat = 0 ∧
    (ring0.sqTail + 2 ^ ring0.log2 - ring0.sqHead) % 2 ^ ring0.log2 +
      (dbIndex (bellWord 0 3).toNat + 2 ^ ring0.log2 - ring0.sqTail) % 2 ^ ring0.log2 < 2 ^ ring0.log2 :=
  ⟨rfl, ⟨by decide +kernel, rfl, by decide +kernel, by decide +kernel, by decide +kernel, by decide +kernel, by decide +kernel⟩,
    by decide +kernel, by decide +kernel⟩

/-- With the tail at 8 and the head at 0, a tail of 0 reaches the head. -/
def ring8 (r : Ring) : Ring := { r with sqTail := 8 }

theorem wit_doorbell_tail_passes :
    (wRing ring8).live = true ∧ (wRing ring8).bell 0 (bellWord 0 0).toNat { ch with rings := [ring8 ring0] } (ring8 ring0) ∧
    2 ^ ring0.log2 ≤ (8 + 2 ^ ring0.log2 - 0) % 2 ^ ring0.log2 + (dbIndex (bellWord 0 0).toNat + 2 ^ ring0.log2 - 8) % 2 ^ ring0.log2 :=
  ⟨rfl, ⟨by decide +kernel, rfl, by decide +kernel, by decide +kernel, by decide +kernel, by decide +kernel, by decide +kernel⟩,
    by decide +kernel⟩

theorem wit_doorbell_foreign : up.live = true ∧ ∀ c, tget up.chans (dbSlot (bellWord 0 0).toNat) = some c → c.fn ≠ 0 ∨
    c.gen ≠ dbGen (bellWord 0 0).toNat := ⟨rfl, fun c h => by simp [up, State.reset, tget] at h⟩

/-- Two completions that the host has not read. -/
def ringRead (r : Ring) : Ring := { r with unread := 2 }

theorem wit_doorbell_head :
    (wRing ringRead).bell 0 (bellWord 1 2).toNat { ch with rings := [ringRead ring0] } (ringRead ring0) ∧
    dbKind (bellWord 1 2).toNat = 1 ∧
    (dbIndex (bellWord 1 2).toNat + 2 ^ ring0.log2 - 0) % 2 ^ ring0.log2 ≤ (ringRead ring0).unread ∧
    (ringRead ring0).unread < (dbIndex (bellWord 1 3).toNat + 2 ^ ring0.log2 - 0) % 2 ^ ring0.log2 ∧
    (wRing ringRead).bell 0 (bellWord 1 3).toNat { ch with rings := [ringRead ring0] } (ringRead ring0) :=
  ⟨⟨by decide +kernel, rfl, by decide +kernel, by decide +kernel, by decide +kernel, by decide +kernel, by decide +kernel⟩,
    by decide +kernel, by decide +kernel, by decide +kernel,
   ⟨by decide +kernel, rfl, by decide +kernel, by decide +kernel, by decide +kernel, by decide +kernel, by decide +kernel⟩⟩

theorem wit_doorbell_reserved :
    tget w1.chans (dbSlot (bellWord 1 2 + 2 ^ 25).toNat) = some ch ∧ ch.fn = 0 ∧ ch.gen = dbGen (bellWord 1 2 + 2 ^ 25).toNat ∧
    dbReserved (bellWord 1 2 + 2 ^ 25).toNat = true :=
  ⟨by decide +kernel, by decide +kernel, by decide +kernel, by decide +kernel⟩

theorem wit_EligibleFrame : 20 ≤ up.frame.len ∧ 0 < up.frame.len * 1750 := by decide

/-- One entry has been handed to the ring's reads; palettes stand for the index's queries and the table's gradients. -/
def pal : Palette := { gen := 1, code := 0, dim := 32, limit := 0, scales := [0x3F800000], pub := 0 }
def streamOf (h : Handle) (k : Nat) : Stream :=
  { slot := 1, object := h, kind := k, cur := some pal, prev := none, next := none, clipped := 0 }
def land0 : Landing := { land := 0, slot := 1, ring := 0, pos := 0, at_ := 0, elig := 1 }
def wLand : State := { w3 with landings := [land0], streams := [streamOf hI 0, streamOf hT 2] }

/-- The entries of the ring commands. -/
def eSearch : Bytes :=
  blk 64 [(0, 1, 1), (4, 4, 0x10000001), (8, 8, 0x4000), (0x18, 4, 64), (0x1C, 1, 1), (0x1E, 1, 1), (0x20, 1, 16), (0x24, 1, 1)]
def eLookup : Bytes := blk 64 [(0, 1, 2), (4, 4, 0x20000002), (8, 8, 0x4000), (0x18, 4, 256), (0x1C, 1, 1)]
def eApply : Bytes := blk 64 [(0, 1, 3), (4, 4, 0x20000002), (8, 8, 0x4000), (0x10, 8, 0x5000), (0x24, 1, 1)]
def eUpsert : Bytes := blk 64 [(0, 1, 4), (4, 4, 0x10000001), (8, 8, 7), (0x18, 8, 0x4000), (0x28, 4, 0xFFFFFFFF)]
def eDelete : Bytes := blk 64 [(0, 1, 5), (4, 4, 0x10000001), (8, 8, 7), (0x10, 4, 3)]
def eFetch : Bytes := blk 64 [(0, 1, 6), (4, 4, 0x10000001), (8, 8, 7), (0x18, 4, 64), (0x1C, 4, 3)]
def eSetEdit : Bytes := blk 64 [(0, 1, 7), (4, 4, 0x30000003), (8, 8, 0x4000), (0x10, 1, 1)]
def eFence : Bytes := blk 64 [(0, 1, 8)]
def eSnapshot : Bytes := blk 64 [(0, 1, 9)]
def eReplace : Bytes := blk 64 [(0, 1, 10), (4, 4, 0x20000002), (8, 8, 0x4000), (0x10, 8, 0x5000), (0x18, 1, 1)]
def eStats : Bytes := blk 64 [(0, 1, 11), (8, 8, 0x4000), (0x10, 4, 128), (0x1C, 4, h1)]

/-- The table's rows of the tests are fp32 zeros: 128 bytes. -/
def vec : Bytes := blk 128 []

/-- What a ring command that passes all its checks needs. -/
def LandsGood (x : Instr) (op : Nat) (e : Bytes) (bs : List Bytes) : Prop :=
  x.lands = some (op, 1, 0, e, some bs) ∧ wLand.landsNext 1 0 land0 ch ∧ ch.police = false ∧
  decideBuf (landingRows (wLand.takeEntry land0 op e (some bs)).2 1 ch op e bs) = none

theorem lands_next : wLand.landsNext 1 0 land0 ch := ⟨rfl, by decide +kernel, by decide +kernel, by decide +kernel⟩

theorem wit_search : LandsGood (.search 1 0 eSearch (some [vec])) 1 eSearch [vec] :=
  ⟨rfl, lands_next, by decide +kernel, by decide +kernel⟩
theorem wit_lookup : LandsGood (.lookup 1 0 eLookup (some [blk 4 []])) 2 eLookup [blk 4 []] :=
  ⟨rfl, lands_next, by decide +kernel, by decide +kernel⟩
theorem wit_apply : LandsGood (.apply 1 0 eApply (some [blk 4 [], vec])) 3 eApply [blk 4 [], vec] :=
  ⟨rfl, lands_next, by decide +kernel, by decide +kernel⟩
theorem wit_upsert : LandsGood (.upsert 1 0 eUpsert (some [vec])) 4 eUpsert [vec] :=
  ⟨rfl, lands_next, by decide +kernel, by decide +kernel⟩
theorem wit_delete : LandsGood (.delete 1 0 eDelete) 5 eDelete [] :=
  ⟨rfl, lands_next, by decide +kernel, by decide +kernel⟩
theorem wit_fetch : LandsGood (.fetch 1 0 eFetch) 6 eFetch [] :=
  ⟨rfl, lands_next, by decide +kernel, by decide +kernel⟩
theorem wit_setEdit : LandsGood (.setEdit 1 0 eSetEdit (some [blk 16 []])) 7 eSetEdit [blk 16 []] :=
  ⟨rfl, lands_next, by decide +kernel, by decide +kernel⟩
theorem wit_snapshot : LandsGood (.snapshot 1 0 eSnapshot) 9 eSnapshot [] :=
  ⟨rfl, lands_next, by decide +kernel, by decide +kernel⟩
theorem wit_replaceRows : LandsGood (.replaceRows 1 0 eReplace (some [blk 4 [], vec])) 10 eReplace [blk 4 [], vec] :=
  ⟨rfl, lands_next, by decide +kernel, by decide +kernel⟩
theorem wit_stats : LandsGood (.stats 1 0 eStats) 11 eStats [] :=
  ⟨rfl, lands_next, by decide +kernel, by decide +kernel⟩

theorem wit_fence : wLand.landsNext 1 0 land0 ch ∧ ch.police = false ∧ decideBuf (fenceRows eFence) = none :=
  ⟨lands_next, by decide +kernel, by decide +kernel⟩

theorem wit_entry_alone :
    (Instr.search 1 0 eSearch none).lands = some (1, 1, 0, eSearch, none) ∧ wLand.landsNext 1 0 land0 ch ∧
    decideBuf (entryRow (wLand.takeEntry land0 1 eSearch none).2 1 ch 1 eSearch) = none :=
  ⟨rfl, lands_next, by decide +kernel⟩

/-- A SEARCH with K = 0 is refused; a policed channel without tokens. -/
def eBad : Bytes := blk 64 [(0, 1, 1), (4, 4, 0x10000001), (8, 8, 0x4000), (0x18, 4, 64), (0x1C, 1, 1), (0x1E, 1, 1), (0x20, 1, 16)]
def chPol : Chan := { ch with police := true }
def wPol : State := { wLand with chans := [(1, chPol)] }

theorem wit_refused :
    (Instr.search 1 0 eBad (some [vec])).lands = some (1, 1, 0, eBad, some [vec]) ∧ wLand.landsNext 1 0 land0 ch ∧
    decideBuf (landingRows (wLand.takeEntry land0 1 eBad (some [vec])).2 1 ch 1 eBad [vec]) = some (stInvalid, 0x24, 0) :=
  ⟨rfl, lands_next, by decide +kernel⟩

theorem wit_policed :
    (Instr.snapshot 1 0 eSnapshot).lands = some (9, 1, 0, eSnapshot, some []) ∧ wPol.landsNext 1 0 land0 chPol ∧ chPol.police = true ∧
    decideBuf (landingRows (wPol.takeEntry land0 9 eSnapshot (some [])).2 1 chPol 9 eSnapshot []) = none :=
  ⟨rfl, ⟨rfl, by decide +kernel, by decide +kernel, by decide +kernel⟩, rfl, by decide +kernel⟩

/-- The channel faulted, and the node fenced, before the entry was read. -/
def chFault : Chan := { ch with st := .faulted }

theorem wit_lostLanding :
    wLand.lostLanding chFault land0 = some stFault ∧
    ({ wLand with member := { wLand.member with fenced := true, fenceLand := 1 } } : State).lostLanding ch land0 = some stAbandoned ∧
    ch.st ≠ .faulted ∧ ch.st ≠ .retired ∧ land0.land < 1 := by decide +kernel

/-! ### Witnesses: host accesses, registers, apertures -/

/-- Of every statement that asks only that the node runs. -/
theorem wit_live : up.live = true := rfl

/-- The command whose buffers are still read. -/
def wRead : State := (wLand.takeEntry land0 1 eSearch none).2
def cRead : Cmd := (wLand.takeEntry land0 1 eSearch none).1

theorem wit_hostBufferReadDone :
    wRead.live = true ∧ wRead.reading 1 0 0 = some cRead ∧
    (∃ c, tget wRead.chans 1 = some c ∧ c.police = false ∧
      decideBuf (landingRows ((wRead.mapCmd cRead.land fun x => { x with bufs := some [vec] }).account 1 6 (([vec].map (·.length)).sum))
        cRead.slot c cRead.op cRead.entry [vec]) = none) :=
  ⟨by decide +kernel, by decide +kernel, { ch with rings := [{ ring0 with sqHead := 1 }] }, by decide +kernel, by decide +kernel,
    by decide +kernel⟩

/-- The same command with K = 0 is refused; the position next to it has no command. -/
def wReadBad : State := (wLand.takeEntry land0 1 eBad none).2

theorem wit_hostBufferReadDone_refused :
    ∃ c r d, wReadBad.live = true ∧ wReadBad.reading 1 0 0 = some c ∧ tget wReadBad.chans 1 = some d ∧
      decideBuf (landingRows ((wReadBad.mapCmd c.land fun x => { x with bufs := some [vec] }).account 1 6 (([vec].map (·.length)).sum))
        c.slot d c.op c.entry [vec]) = some r :=
  ⟨(wLand.takeEntry land0 1 eBad none).1, (stInvalid, 0x24, 0), { ch with rings := [{ ring0 with sqHead := 1 }] }, by decide +kernel,
    by decide +kernel, by decide +kernel, by decide +kernel⟩

theorem wit_hostBufferReadDone_none : wRead.reading 1 0 1 = none := by decide +kernel

theorem wit_hostAccessFailed : w1.live = true ∧ tget w1.chans 1 = some ch := ⟨rfl, by decide +kernel⟩

theorem wit_ResidencyFieldWrites :
    wArmed.answers = true ∧ w1.answers = true ∧ wArmed.blockOf 0 1 = some ch ∧ wArmed.easel.arm.isSome ∧ w1.blockOf 0 1 = some ch ∧ w1.easel.arm = none ∧
    ch.pend.swapped = hasBit (0x00010000 : BitVec 32).toNat 0 ∧ ch.pend.swapped = false :=
  ⟨rfl, rfl, by decide +kernel, rfl, by decide +kernel, rfl, by decide +kernel, by decide +kernel⟩

theorem wit_RegisterAccesses :
    up.answers = true ∧ hasBit 1 0 = true ∧ hasBit 2 0 = false ∧
       0x0004 % 4 = 0 ∧ 0x0008 % 8 = 0 ∧ ¬(2 = 4 ∧ 0x0004 % 4 = 0) ∧ ¬(8 = 8 ∧ 0x0004 % 8 = 0) ∧ (atWork.mb 0).busy = true ∧ 1 < 128 ∧
    w1.blockOf 0 1 = some ch := by decide +kernel

/-- An aperture on unit 1000, or on unit 4; the units of the channel. -/
def wUnits (n : Nat) (opn : Bool) (k : UnitKind) (sus : List (Nat × Nat × Nat)) : State :=
  { w2 with dram := { w2.dram with units := [(n, k)], suspects := sus }
            aps := [(0, { w2.ap 0 with unitNo := n, openPath := opn })] }

theorem wit_apertureRead_open :
    (wUnits 1000 true (.opened 1) []).live = true ∧ 0 < 64 ∧ 268435456064 = ((wUnits 1000 true (.opened 1) []).ap 0).unitNo * 2 ^ 28 + 64 ∧
    ((wUnits 1000 true (.opened 1) []).ap 0).openPath = true ∧
    (wUnits 1000 true (.opened 1) []).apertureCheck 0 268435456064 64 true = none ∧
    (wUnits 1000 true (.opened 1) []).badTwins 268435456064 64 = [] ∧
    (wUnits 1000 true (.opened 1) []).unitKind (daUnit 268435456064) = .opened 1 :=
  ⟨rfl, by decide, by decide +kernel, rfl, by decide +kernel, by decide +kernel, by decide +kernel⟩

theorem wit_apertureRead_sealed :
    1073741888 = ((wUnits 4 false (.sealed 1) []).ap 0).unitNo * 2 ^ 28 + 64 ∧ ((wUnits 4 false (.sealed 1) []).ap 0).openPath = false ∧
    (wUnits 4 false (.sealed 1) []).apertureCheck 0 1073741888 64 false = none := ⟨by decide +kernel, rfl, by decide +kernel⟩

theorem wit_apertureRead_fails :
    (wUnits 4 true (.sealed 1) []).apertureCheck 0 1073741888 64 true = some (stMismatch, false) ∧
    (wUnits 4 true .zeroing []).apertureCheck 0 1073741888 64 true = some (stInvalid, false) := by decide +kernel

theorem wit_apertureRead_suspect :
    (wUnits 1000 true (.opened 1) [(objKey 1 hI, 0, 0)]).openObject (268435456064 - 268435456064 % 1024) = some (objKey 1 hI, 0) ∧
    (wUnits 1000 true (.opened 1) [(objKey 1 hI, 0, 0)]).isSuspect (objKey 1 hI) 0 = true := by decide +kernel

/-! ### Witnesses: windows, admission, cut-offs -/

/-- An easel in force with one entry of a stage for slot 1; the node with it. -/
def entryFor (stage : Nat) : EaselEntry :=
  { start := 0, length := 1000, stage := stage, sectors := 1, engines := 0xFFFFF, arrays := 1, shape := 0, flash := 0, ports := 0,
    channel := 1, arg := 0, phases := 1 }
def easelFor (stage : Nat) : Easel :=
  { frameLen := 200, hyper := 1, validLow := false, laneBasis := 3, sectorUse := 1, compileId := 0, digest := 0,
    entries := [entryFor stage] }
def wWin (stage : Nat) : State := { w3 with easel := { w3.easel with inForce := some (easelFor stage) } }

/-- The stages of R28. -/
def stages : List Nat :=
  [0x01, 0x02, 0x03, 0x04, 0x05, 0x06, 0x07, 0x08, 0x09, 0x0A, 0x10, 0x11, 0x12, 0x20, 0x21, 0x22, 0x23, 0x30, 0x31, 0x32]

theorem wit_windows_run : ∀ st ∈ stages, (wWin st).runs 0 st (entryFor st) := by
  intro st h
  have a : (stages.all fun st => (wWin st).window? 0 st == some (entryFor st) && ((wWin st).enter 0 (entryFor st)).slotRuns (entryFor st) &&
      (wWin st).able (entryFor st)) = true := by decide +kernel
  have b := List.all_eq_true.mp a st h
  simp only [Bool.and_eq_true, beq_iff_eq] at b
  exact ⟨⟨rfl, b.1.1⟩, b.1.2, b.2⟩

/-- A window of another stage, one whose channel is gone, and one that claims no engine. -/
theorem wit_windows_idle :
    (wWin 0x05).window? 0 0x01 = none ∧ (wWin 0x12).window? 0 0x05 = none ∧ (wWin 0x05).window? 0 0x12 = none ∧
    (wWin 0x05).window? 0 0x21 = none ∧
    (({ wWin 0x05 with chans := [] } : State).enter 0 (entryFor 0x05)).slotRuns (entryFor 0x05) = false ∧
    ({ wWin 0x05 with chans := [] } : State).window? 0 0x05 = some (entryFor 0x05) ∧
    ({ wWin 0x23 with chans := [] } : State).window? 0 0x23 = some (entryFor 0x23) ∧
    (wWin 0x05).able { entryFor 0x05 with engines := 0 } = false ∧ (entryFor 0x21).isNode = false := by decide +kernel

theorem wit_WindowsKeepControl : ∃ t, (Instr.scan ⟨0, .sound⟩).isWindow = true ∧ exec (.scan ⟨0, .sound⟩) up = .next t := ⟨_, rfl, rfl⟩

/-- A channel that may defer a command once, with shares or none, and a command of it that passed its checks. -/
def chDefer (l : List Nat) : Chan := { ch with deferMax := 1, shares := l }
def wDefer (l : List Nat) : State := { w3 with chans := [(1, chDefer l)] }
def cPassed (n : Nat) : Cmd := { cRead with passed := true, deferred := n }

theorem wit_AdmissionOfOneCommand :
    (∀ l, tget (wDefer l).chans (cPassed 0).slot = some (chDefer l)) ∧ (cPassed 0).passed = true ∧
    (wDefer []).objectGone (cPassed 0) = false ∧ (wDefer []).frame.pendModes = [] ∧
    leL (addL (chDefer ch.shares).homeUsed ((wDefer ch.shares).charges (wDefer ch.shares).frame.exact 1 1 eSearch)) (chDefer ch.shares).shares =
      true ∧
    leL (addL (chDefer [0, 0, 0, 0, 0, 0]).homeUsed ((wDefer [0, 0, 0, 0, 0, 0]).charges false 1 1 eSearch)) (chDefer [0, 0, 0, 0, 0, 0]).shares =
      false ∧
    (cPassed 0).deferred < (chDefer []).deferMax ∧ (chDefer []).deferMax ≤ (cPassed 1).deferred ∧ (cPassed 1).slot = (cPassed 0).slot :=
  ⟨fun l => by simp [wDefer, tget, cPassed, cRead, State.takeEntry, land0], rfl, by decide +kernel, rfl, by decide +kernel, by decide +kernel,
    by decide +kernel, by decide +kernel, by decide +kernel⟩

/-- In the frame before a MODE_SET's an update waits and another command does not; outside it neither does. -/
theorem wit_admission_gap :
    ({ wDefer [] with frame := { w3.frame with pendModes := [(1, true, 3)] } } : State).updateGap = true ∧ isUpdate 0x04 = true ∧
    isUpdate 0x01 = false ∧ (wDefer []).updateGap = false ∧ cRead.passed = false ∧ (cPassed 0).passed = true ∧
    ({ wDefer [] with indexes := [] } : State).objectGone (cPassed 0) = true := by decide +kernel

theorem wit_CutOffsTakeEffect :
    up.live = true ∧ up.frame.committed = false ∧ ({ up.frame with committed := true } : FrameSt).committed = true ∧
    tget w1.chans 1 = some ch ∧ 0 < 1 ∧ w1.events = [] := by decide +kernel

/-- A cut-off's event of this frame, to which another one adds. -/
def cutEv : Event := { code := 0x0B, frame := w1.frame.num, chan := (chanHandle 1 ch).toNat, fn := some 0, d0 := 5 + 2 * 2 ^ 16, d1 := 1, d2 := 0 }

theorem wit_cutEvent_adds :
    [cutEv].any (fun v => v.code == 0x0B && v.frame == w1.frame.num && v.chan == (chanHandle 1 ch).toNat && v.d0 == 5 + 2 * 2 ^ 16) = true := by
  decide +kernel

/-! ### Witnesses: frames, switches, publications, passes, moves -/

/-- The node in frame f. -/
def at_ (s : State) (f : Nat) : State := { s with frame := { s.frame with num := f } }
def closed (s : State) : State := { s with frame := { s.frame with committed := true } }

theorem wit_FramesStartAndCommit :
    up.live = true ∧ (closed up).live = true ∧ up.member.shadow = none ∧ up.member.mirror = none ∧
    up.frame.join = none ∧ up.frame.leave = none ∧ chPol.police = true ∧ ch.police = false ∧ up.frame.committed = false ∧
    (closed up).frame.committed = true := by decide +kernel

theorem wit_EaselAndModeSwitches :
    (at_ wArmed 3).easel.arm = some (4, 0) ∧ (at_ wArmed 3).frame.num + 1 = 4 ∧ (∀ a d, wArmed.easel.arm = some (a, d) → wArmed.frame.num + 1 ≠ a) ∧
    ch.pend = ch.rwa ∧ ({ ch with pend := { ch.pend with swapped := true } } : Chan).pend.swapped ≠ ch.rwa.swapped ∧
    (∀ p ∈ up.frame.pendModes, up.frame.num < p.1) :=
  ⟨rfl, rfl, fun a d h => by
    have e : (4, 0) = (a, d) := Option.some.inj h
    cases e; decide, by decide +kernel, by decide +kernel, by decide +kernel⟩

theorem wit_modeSwitch :
    ∃ s : State, s.live = true ∧ s.frame.pendModes = [(2, true, 3)] ∧ 2 ≤ s.frame.num :=
  ⟨{ up with frame := { up.frame with num := 2, pendModes := [(2, true, 3)] } }, rfl, rfl, by decide⟩

/-- The index with a generation that waits for frame 6; a graph that waits for frame 6. -/
def ixNext : Index := { ix with next := some (6, ix.cur) }
def wNext : State := { w2 with indexes := [(objKey 1 hI, ixNext)] }
def graph6 : Graph := { image := [], older := [], next := [(6, [1])] }

theorem wit_PublicationsTakeEffect :
    (at_ wNext 6).index? 1 hI = some ixNext ∧ ixNext.next = some ((at_ wNext 6).frame.num, ix.cur) ∧
    wNext.index? 1 hI = some ixNext ∧ 6 ≠ wNext.frame.num ∧ graph6.next = (6, [1]) :: [] ∧ 6 ≤ 5 + 1 ∧ (∀ p ∈ graph6.next, 4 + 1 < p.1) := by decide +kernel

/-- The table in frame 5,000, with and without a row changed; a capture of row 9 of frame 1. -/
def cap9 : Capture := { row := 9, frame := 1, image := [], written := false }
def wCap : State := { w2 with tables := [(objKey 1 hT, { tab with captures := [cap9] })] }

theorem wit_checkpointPassStart :
    (closed (at_ w2 5000)).frame.committed = true ∧ (closed (at_ w2 5000)).table? 1 hT = some tab ∧ 0 < tab.attr.ckpt ∧
    (closed (at_ w2 5000)).frame.num % tab.attr.ckpt = 0 ∧ tab.pass = none ∧ tab.closed ≠ (closed (at_ w2 5000)).frame.num ∧
    w2.table? 1 hT = some tab ∧ w2.frame.committed = false := by decide +kernel

theorem wit_captureDeadline :
    wCap.table? 1 hT = some { tab with captures := [cap9] } ∧ wCap.power.heldStarts = [] ∧ cap9.written = false ∧
    wCap.frame.num < cap9.frame + 8 ∧ cap9.frame + 8 ≤ (at_ wCap 9).frame.num ∧ wCap.frame.exact = false ∧
    ({ wCap with frame := { wCap.frame with exact := true } } : State).frame.exact = true := by decide +kernel

theorem wit_arrayLeaveEffect :
    ∃ s : State, s.live = true ∧ s.frame.committed = true ∧ s.frame.leave = some 1 :=
  ⟨closed { wGroup with frame := { wGroup.frame with leave := some 1 } }, rfl, rfl, rfl⟩

/-- A move of region 3 as its source, accepted or not, and one of kind 3. -/
def move (what : Nat) (acc : Bool) : Mig :=
  { id := 8, what := what, slot := 1, object := hI, number := 3, role := 0, dest := 5, peer := 5, folios := 32, start := 1, rows := [],
    source := true, accepted := acc, table := false, extents := [], done := 0, fwd := [], sent := (0, 0), cancel := false, ended := none,
    space := 0, bytes := (0, 0) }
def wMove (what : Nat) (acc : Bool) : State := { wMember with migs := [move what acc] }

theorem wit_moves :
    ((wMove 0 false).migs.find? fun m => m.id == 8 && m.source && !m.accepted) = some (move 0 false) ∧
    ((wMove 0 true).migs.find? fun m => m.id == 8 && m.source) = some (move 0 true) ∧
    ((wMove 3 true).migs.find? fun m => m.id == 8 && m.source && m.what == 3) = some (move 3 true) ∧
    (wMember.migs.find? fun m => m.id == 8 && m.source) = none := by decide +kernel

/-- The frame after a move's last copy, of a region and of a rebuilt holding, without and with a shadow that takes it. -/
def moved (what : Nat) : Mig := { move what true with ended := some 4 }
def mirror5 : Mirror := { shadow := 5, port := 6, done := [], live := true, sent := 0, count := 0, full := false }

theorem wit_flip :
    (moved 0).ended = some 4 ∧ (moved 0).source = true ∧ (at_ (wMove 0 true) 5).frame.num = 4 + 1 ∧ (moved 0).what ≠ 3 ∧
    (moved 3).what = 3 ∧ (at_ (wMove 3 true) 5).mirrorTo (moved 3).dest = none ∧
    (({ wMove 3 true with member := { wMember.member with mirror := some mirror5 } } : State).mirrorTo (moved 3).dest).isSome ∧
    (∀ c, (moved 0).ended = some c → (at_ (wMove 0 true) 6).frame.num ≠ c + 1) :=
  ⟨rfl, rfl, rfl, by decide, rfl, by decide +kernel, by decide +kernel, fun c h => by cases h; decide⟩

/-! ### Witnesses: the fabric -/

/-- A packet for this node, and for node 9 with two hops left; ports with a sequence number received, with a key. -/
def hdr (dst hops : Nat) : Header := { (default : Header) with dst := dst, hops := hops, seq := 7 }
def pkt (dst hops : Nat) : Packet := { (default : Packet) with hdr := hdr dst hops }
def wPort (f : Port → Port) : State := { up with ports := setAt up.ports 0 f }

theorem wit_PacketsAreReceived :
    up.portUp 0 = true ∧ up.power.state < 3 ∧ badHeader up.frame.logicalId (hdr 9 0) = true ∧ badHeader up.frame.logicalId (hdr 9 2) = false ∧
    (up.port 0).encrypted = false ∧
    ((wPort fun p => { p with key := some 1, partnerKey := some 1 }).port 0).encrypted = true ∧
    7 ∈ ((wPort fun p => { p with rxSeqs := [7] }).port 0).rxSeqs ∧ 7 ∉ (up.port 0).rxSeqs ∧
    (wPort fun p => { p with lanes := 1 }).portUp 0 = false ∧ (inState 4).power.state ≥ 3 := by decide +kernel

theorem wit_negativeAck :
    ((((wPort fun p => { p with kept := [(pkt 9 2, true, false)] }).port 0).kept.find? fun k => k.1.hdr.seq == 7) = some (pkt 9 2, true, false)) ∧
    ((((wPort fun p => { p with kept := [(pkt 9 2, false, false)], retryLeft := 100000 }).port 0).kept.find? fun k => k.1.hdr.seq == 7) =
      some (pkt 9 2, false, false)) ∧
    wireBytes ((wPort fun p => { p with kept := [(pkt 9 2, false, false)], retryLeft := 100000 }).port 0).encrypted (pkt 9 2) ≤ 100000 ∧
    0 < wireBytes ((wPort fun p => { p with kept := [(pkt 9 2, false, false)] }).port 0).encrypted (pkt 9 2) ∧
    (up.port 0).palSent = [] := by decide +kernel

theorem wit_gateEntryOpen :
    (up.gateList 0)[0]?.isSome = true ∧ wGroup.member.fenced = false ∧
    ({ up with member := { up.member with fenced := true } } : State).member.fenced = true := by decide +kernel

/-! ### Witnesses: network time and members -/

def wPower (f : Power → Power) : State := { up with power := f up.power }
def wTime (f : TimeSt → TimeSt) : State := { up with time := f up.time }

theorem wit_TimeExchanges :
    up.power.state ≠ 4 ∧ ((3 : Int).natAbs ≤ 4 ∧ ({ up.time with goodRun := 63 } : TimeSt).goodRun = 63 ∧ up.time.goodRun < 63) ∧
    (4 < (7 : Int).natAbs ∧ (7 : Int).natAbs ≤ 10) ∧
    (10 < (11 : Int).natAbs ∧ ({ up.time with badRun := 3 } : TimeSt).badRun = 3 ∧ up.time.badRun < 3) := by decide +kernel

/-- An advertisement of node 2 on port 0, better than the node's own rank. -/
def wAdvert : State := { wGroup with time := { wGroup.time with adverts := [(0, 0, 1, 2, 0)] } }

theorem wit_GrandmasterSelection :
    up.frame.joined = false ∧ wAdvert.frame.joined = true ∧ bestAdvert wAdvert.goodAdverts = some (0, 0, 1, 2, 0) ∧
    rankLt (0, 1, 2) wAdvert.ownRank = true := by decide +kernel

/-- A heartbeat of node 3 for frame 0. -/
def beat : Heartbeat := { (default : Heartbeat) with sender := 3, frame := 0, entryDigest := wGroup.activeDigest }
def beatTakeover (issuer : Nat) : Order := { kind := 1, subject := 3, phys := 512, issuer := issuer, frame := 5 }

theorem wit_ControlSlotsAndHeartbeats :
    up.frame.joined = false ∧ ({ beat with frame := 1 } : Heartbeat).frame ≠ wGroup.frame.num ∧ ({ beat with fenced := true } : Heartbeat).fenced = true ∧
    wGroup.frame.joined = true ∧ wGroup.member.shadow = none := ⟨rfl, by decide, rfl, rfl, rfl⟩

theorem wit_validBeat : wGroup.validBeat beat true = true := by
  simp [State.validBeat, beat, wGroup, up, State.reset, EaselSt.reset, FrameSt.reset]
  rfl

/-- Port 0's neighbour, node 3, has missed three heartbeats. -/
def wMiss : State :=
  { wGroup with ports := setAt wGroup.ports 0 fun p => { p with neighbour := 3 }, member := { wGroup.member with miss := [(3, 3)] } }

theorem wit_missReport :
    wMiss.live = true ∧ wMiss.partner 0 = some 3 ∧ 3 ≤ tgetD wMiss.member.miss 3 0 ∧
    (wMiss.member.reports.any fun r => r.witness == wMiss.frame.logicalId && r.missing == 3) = false := by decide +kernel

theorem wit_mergeOrder :
    (beatTakeover 2).kind = 1 ∧
    ([beatTakeover 4].find? fun y => (y.kind == 1 || y.kind == 5) && y.subject == (beatTakeover 2).subject) = some (beatTakeover 4) ∧
    beatTakeover 2 ∉ [beatTakeover 4] ∧ (beatTakeover 4).frame < (beatTakeover 2).frame + 16 ∧
    (beatTakeover 2).issuer < (beatTakeover 4).issuer := by decide +kernel

/-- The takeover of frame 5 without a CONFIRM, in frame 10,000. -/
theorem wit_rollback :
    ((at_ wTakeover 10000).member.orders.find? fun o => o.subject == 3 && (at_ wTakeover 10000).rollbackDue o) = some takeover ∧
    (at_ wTakeover 10000).groupOf 3 = some (0, 8, 512) ∧ (at_ wTakeover 10000).leaderOf (0, 8, 512) = some (at_ wTakeover 10000).frame.logicalId ∧
    (at_ wTakeover 10000).member.fenced = false ∧ (∀ o ∈ up.member.orders, o.subject = 3 → o.kind ≠ 1) := by decide +kernel

theorem wit_MemberEventsTakeEffect :
    wShadow.member.shadow = some { target := 3, port := 6, copied := true, clean := 2000, passed := true, inputs := [], since := 0 } ∧
    wShadow.frame.shadowFrames ≤ 2000 ∧ (0, default) ∉ up.member.announced := ⟨rfl, by decide, by simp [up, State.reset, Member.reset]⟩

/-! ### Witnesses: the stacks and flash -/

/-- Units of slot 1: 1000 and 1001 open; 1002 being zeroed; 1003 free; 4 sealed. -/
def wStack : State :=
  { w2 with dram := { w2.dram with units := [(4, .sealed 1), (1000, .opened 1), (1001, .opened 1), (1002, .zeroing)] } }

theorem wit_NearBankSteps :
    wStack.live = true ∧ oneUnit (nbRows .and 268435456000 268439650304 268703891456) = true ∧
    (∀ x ∈ nbRows .and 268435456000 268439650304 268703891456, ∃ n, wStack.unitKind (daUnit x) = .opened n) ∧
    (∀ x ∈ nbRows .and 268435456000 268439650304 268703891456, rowOf (twinOf x) ≠ rowOf 268703891456) ∧
    wStack.unitKind (daUnit 268972326912) = .zeroing ∧ oneUnit (nbRows .not 1073741824 0 268435456000) = true ∧
    oneUnit (nbRows .and 268435456000 268436480000 268703891456) = false ∧
    ((nbRows .not 1073741824 0 268435456000).find? fun x => match wStack.unitKind (daUnit x) with | .opened _ => false | _ => true) =
      some 1073741824 := by
  refine ⟨rfl, by decide +kernel, fun x h => ⟨1, ?_⟩, ?_, by decide +kernel, by decide +kernel, by decide +kernel, by decide +kernel⟩
  · have a : ((nbRows .and 268435456000 268439650304 268703891456).all fun x => wStack.unitKind (daUnit x) == .opened 1) = true := by
      decide +kernel
    simpa using List.all_eq_true.mp a x h
  · decide +kernel

theorem wit_ZeroingAndScrub :
    wStack.unitKind 1002 = .zeroing ∧ wStack.unitKind 1003 ≠ .zeroing ∧ wStack.unitKind (daUnit 269241000000) = .free ∧
    wStack.unitKind (daUnit 268435456064) = .opened 1 ∧ wStack.unitKind (daUnit 1073741888) = .sealed 1 ∧
    wStack.unitKind (daUnit 268972326912) = .zeroing ∧ rowOf 100 = up.dram.scrubAt ∧ rowOf 268435456064 ≠ up.dram.scrubAt := by
  decide +kernel

theorem wit_OpenMemory :
    1073741823 < [1000].length * 2 ^ 30 ∧ 1073741824 < [1000, 1001].length * 2 ^ 30 ∧ [1000, 1001].Nodup ∧ 1073741823 ≠ 1073741824 ∧
    4096 < 2 ^ 27 := by decide +kernel

def wFlash (f : Flash → Flash) : State := { up with flash := f up.flash }
def read5 : FRead := { id := 5, slot := 1, home := 0, seq := 0, key := 7, die := 0, folio := 0, isFetch := false, at_ := 0, back := 0 }
def prog6 : FProg :=
  { id := 6, kind := 0, folio := 0, die := 0, block := 0, slot := 1, object := hI, row := 0, frame := 0, tries := 0, at_ := 0, data := [],
    ents := [], entries := [] }

/-- What an erase of block 3 of die 0 leaves, in the words of the statement. -/
def wErasing (n : Nat) : State :=
  wFlash fun f => { f with erasing := [(0, 3)], blocks := [(blockKey 0 3, { erases := n, reads := 9, next := 4, retired := false, checked := [] })] }
def afterErase (s : State) : State :=
  let f := { s.flash with erasing := [], eraseAt := tdel s.flash.eraseAt (blockKey 0 3), timeouts := s.flash.timeouts.filter fun t => t.1 != 0 }
  (State.mapFlash { s with flash := f } fun x => Flash.releaseParity (x.erasedPages 0 3)).mapFlash fun x => x.mapBlock 0 3 fun y =>
    { y with erases := y.erases + 1, reads := 0, next := 0, checked := [] }

theorem wit_erased :
    ((afterErase (wErasing 5)).flash.block 0 3).erases < (afterErase (wErasing 5)).flash.profile.peLimit ∧
    (afterErase (wErasing 9999)).flash.profile.peLimit ≤ ((afterErase (wErasing 9999)).flash.block 0 3).erases := by decide +kernel

theorem wit_FlashEventsTakeEffect :
    ((wFlash fun f => { f with reads := [read5] }).flash.reads.find? fun r => r.id == 5) = some read5 ∧
    ((wFlash fun f => { f with progs := [prog6] }).flash.progs.find? fun p => p.id == 6) = some prog6 ∧
    (∀ r ∈ up.flash.reads, r.id ≠ 5) ∧ (∀ p ∈ up.flash.progs, p.id ≠ 6) ∧
    (wFlash fun f => { f with erasing := [(0, 3)] }).flash.erasing.contains (0, 3) = true ∧
    up.flash.erasing.contains (0, 3) = false ∧ up.flash.timeouts = [] ∧
    (wFlash fun f => { f with timeouts := [(0, 2)] }).flash.timeouts = [(0, 2)] ∧
    hasBit (wFlash fun f => { f with live := 0 }).flash.live 3 = false := by decide +kernel

/-! ### Witnesses: starts, stops, supply, power states -/

def running (r : Run) : State := wPower fun p => { p with run := r }
def wBoot (r : Run) (f : Boot → Boot) : State := { running r with boot := f up.boot }
def markEntry : JEntry := { typ := 9, slot := 0, object := 0, frame := 0, body := [], undo := [] }

/-- A node that was stopped in good order, with its stacks refreshed. -/
def wKept (r : Run) : State :=
  { wBoot r fun b => { b with retention := 0xFF } with flash := { up.flash with journal := [markEntry] } }
def found : StartIn :=
  { fail := none, arrayBist := 0, tileBist := [], linear := true, stackCount := 8, stackGib := 36, badPseudo := [],
    flash := (List.range 24).map fun c =>
      (c, { ces := 4, luns := 4, profile := some up.flash.profile, features := true, rate := some 3600 }), mapFound := true, lanes := [], neighbours := [], linkDelays := [], timeNs := 0, heardFrame := none }

theorem wit_StartsAreChosenAndCounted :
    (running .off).power.run = .off ∧ up.power.run ≠ .off ∧ (running .hold).power.run = .hold ∧ up.power.run ≠ .hold ∧
    3 ≤ (wBoot .off fun b => { b with goldenFails := 3 }).boot.goldenFails ∧ up.boot.goldenFails < 3 ∧ up.boot.coldFails < 3 ∧
    3 ≤ (wBoot .off fun b => { b with coldFails := 3 }).boot.coldFails ∧ up.boot.warmFails < 3 ∧ up.stopped = false ∧
    (wKept .off).stopped = true ∧ (wKept .off).boot.retention = stackMask ∧ (wKept .off).boot.startCold = false ∧
    (running (.starting true)).power.run = .starting true ∧ (running (.starting false)).power.run = .starting false ∧
    up.boot.golden = false ∧ (wBoot (.starting false) fun b => { b with golden := true }).boot.golden = true ∧
    (∀ w, up.power.run ≠ .starting w) ∧ (running .recovery).power.run = .recovery ∧ 3 ≠ 0 ∧
    (running (.starting false)).isStarting = true ∧ (wBoot (.starting false) fun b => { b with goldenFails := 3 }).boot.goldenFails = 3 := by
  decide +kernel

theorem wit_StartsReachReady :
    (running (.starting false)).coldFailure found = none ∧ (wKept (.starting true)).warmFailure found = none ∧
    (running (.starting false)).coldFailure { found with fail := some 2 } = some 2 ∧
    (running (.starting false)).coldFailure { found with stackGib := 18 } = some 3 ∧
    (wKept (.starting true)).warmFailure { found with flash := [] } = some 6 ∧
    (running (.starting false)).coldFailure { found with mapFound := false } = none := by decide +kernel

theorem wit_StopsTakeEffect :
    up.power.run ≠ .off ∧ up.power.run ≠ .stopped ∧ up.power.dip = none ∧ (wPower fun p => { p with dip := some (0, 700) }).power.dip ≠ none ∧
    (wPower fun p => { p with run := .stopped, want := some (7, 4) }).flushWaits = true ∧
    (running .stopped).power.run = .stopped ∧ (running .stopped).flushWaits = false ∧ (running .hold).power.run = .hold ∧
    (running (.starting false)).isStarting = true := by decide +kernel

theorem wit_SupplyEventsTakeEffect :
    up.power.dip = none ∧ (wPower fun p => { p with dip := some (0, 700) }).power.dip = some (0, 700) ∧ up.power.want = none ∧
    up.power.pmbusOk = true ∧ (wPower fun p => { p with pmbusOk := false }).power.pmbusOk = false ∧ 0 < 5 ∧ 27 < 28 ∧
    (wPower fun p => { p with state := 1, want := some (1, 0) }).power.want = some (1, 0) ∧ 690 ≤ up.power.vlow + 10 ∧ up.power.vlow ≤ 690 + 10 ∧
    up.power.vlow + 10 < 750 := by decide +kernel

/-- The frames of a dip at its limits: 3 and 4,099 are reported, 2 and 5 are not. -/
theorem wit_supplyDipLong :
    (at_ up 2).frame.num + 1 - 0 = 3 ∧ (at_ up 4098).frame.num + 1 - 0 = 4099 ∧ (at_ up 1).frame.num + 1 - 0 < 3 ∧
    3 < (at_ up 4).frame.num + 1 - 0 ∧ (at_ up 4).frame.num + 1 - 0 < 4099 := by decide +kernel

theorem wit_StandbyAndOffReady :
    (wPower fun p => { p with want := some (3, 0) }).power.want = some (3, 0) ∧ 0 + 8 ≤ (at_ up 8).frame.num ∧ up.programmed = true ∧
    (at_ up 7).frame.num < 0 + 8 ∧ (inState 3).power.state = 3 ∧
    (wPower fun p => { p with want := some (4, 0) }).power.want = some (4, 0) ∧ (at_ up 8).drained 0 = true ∧ (at_ up 7).drained 0 = false := by
  decide +kernel

theorem wit_HostPortEvents :
    up.answers = true ∧ (running .off).answers = false ∧ 63 ≤ 63 ∧ 4 ∈ [8, 4, 2, 1] ∧ 16 ∈ [128, 64, 32, 16] ∧ (1 : Nat) ≠ 0 := by decide +kernel

theorem wit_ImageAndRetention :
    ∃ f, (wBoot .ready fun b => { b with staged := some { version := 2, digest := 0, good := true, verified := false } }).boot.staged = some f ∧
      f.verified = false ∧ up.boot.staged = none := ⟨_, rfl, rfl, rfl⟩

/-! ### Witnesses: numbers, faults, limits -/

theorem wit_CapacitiesOfAFrame :
    200 ≤ up.frame.len ∧ ({ up.frame with len := 50 } : FrameSt).len < 200 := by decide

theorem wit_KeepListsHoldTheSmallest : 0 < 1 ∧ ∀ w ∈ [5, 3, 0xFFFFFFFFFFFFFFFE], w < 0xFFFFFFFFFFFFFFFF := by decide

def chFaults (l : List Nat) : Chan := { ch with faultAt := l }

theorem wit_FaultsAndRings :
    (ch.recentFaults 0).length < 4 ∧ 4 ≤ ((chFaults [1, 2, 3]).recentFaults 65536).length ∧ (chFaults [1, 2, 3]).faultAt = [1, 2, 3] ∧
    65536 < 1 + 65536 ∧ 1 + 65536 ≤ 65537 ∧ ring0.cqTail < 2 ^ ring0.log2 ∧ ring0.cqTail + 1 < 2 ^ ring0.log2 ∧
    ({ ring0 with cqTail := 15 } : Ring).cqTail + 1 = 2 ^ ring0.log2 := by decide +kernel

/-- An index of another slot that holds all rows but 2^20 − 1. -/
def wRows : State :=
  { w1 with indexes := [(objKey 2 hI, { ix with attr := { ix.attr with rows := 3 * 2 ^ 30 - 2 ^ 20 + 1 } })] }

theorem wit_IndexRowsAreLimited :
    wRows.takesGo gIndex ∧ decideRows [inv [gIndex.strayArgs []]] = none ∧ wRows.chanOf 0 gIndex.chan = some (1, ch) ∧ ch.st ≠ .retired ∧
    decideRows (gIndex.pbRows 64) = none ∧ 3 * 2 ^ 30 < wRows.rowsReserved + (indexAttrOf gIndex.pb).rows :=
  ⟨⟨rfl, rfl⟩, by decide +kernel, by decide +kernel, by decide +kernel, by decide +kernel, by decide +kernel⟩

/-! ### Tests: numbers from the spec's worked examples and from published standards -/

/-- "Estimating one slot": h = 64, 128 and 192 under IP, h = 64 under COS and L2SQ. -/
theorem test_estimated_scores :
    estScore 0 256 0x3F440000 0x3D00 64 = 0xBF45FD6A ∧ estScore 0 256 0x3F440000 0x3D00 192 = 0x3F45FD6A ∧
    estScore 0 256 0x3F440000 0x3D00 128 = 0 ∧ estScore 1 256 0x3F440000 0x3D00 64 = 0x3E95F61A ∧
    estScore 2 256 0x3F440000 0x3D00 64 = 0x3F48052C := by decide +kernel

/-- "A duplicate and a tie": the order keys, and the copy that stays. -/
theorem test_order_keys :
    orderKey 0xBF380000 = 0x40C7FFFF ∧ orderKey 0xBF340000 = 0x40CBFFFF ∧ orderKey 0xBF300000 = 0x40CFFFFF ∧
    orderKey 0x80000000 = 0x80000000 := by decide +kernel

def cand (key owner ordinal : Nat) (score : F32) : Cand :=
  { (default : Cand) with key := BitVec.ofNat 64 key, owner := owner, ordinal := ordinal, orderKey := orderKey score, score := score,
                          exact := true }

theorem test_duplicate_and_tie :
    let r := cut false 3 [cand 0x5A1700000C3E 42 0x3810046A 0xBF380000, cand 0x330100009A02 90 0x084800D6 0xBF340000,
      cand 0x5A1700000C3E 73 0x10580025 0xBF320000, cand 0x1C4000000007 42 0x281802BC 0xBF300000,
      cand 0x77E000000311 8 0x30000029 0xBF300000] []
    r.1.map (fun c => (c.key.toNat, c.owner)) = [(0x5A1700000C3E, 42), (0x330100009A02, 90), (0x1C4000000007, 42)] ∧ r.2 = true := by
  decide +kernel

/-- "The arrays of node 42": T of RESCORE's layer 0, of the query sketch and of layer 2. -/
theorem test_array_times :
    (arrayTimes 0 64 (2 ^ 28) [{ k := 1537, n := 1024, m := 6144, e := 1, dram := true }]).foldl max 0 = 10496 ∧
    (arrayTimes 0 64 (2 ^ 28) [{ k := 768, n := 256, m := 48, e := 2, dram := true }]).foldl max 0 = 3332 ∧
    (arrayTimes 0 64 (2 ^ 28) [{ k := 256, n := 1, m := 6144, e := 1, dram := true }]).foldl max 0 = 612 := by decide +kernel

/-- "Two homes train one row": 1.0 − 0.5 × 0.375 = 0.8125 in element 0. -/
def sgd : StepCfg := { dim := 32, fmt := 0, optim := 0, stFmt := 0, mu := 0, beta1 := 0, beta2 := 0, eps := 0x322BCC77 }

theorem test_sgd_step :
    rd (optStep sgd (blk 128 [(0, 4, 0x3F800000)]) (0x3EC00000 :: List.replicate 31 0) 0x3F000000) 0 4 = 0x3F500000 := by decide +kernel

/-- "A query in P8": lo = −96 and hi = 160 in elements 30 and 31 give z = 96; the codes and what they expand to. -/
theorem test_p8 :
    let v : List F32 := [0x3F000000, 0xBE800000, 0x3E9A0000, 0x3FA00000] ++ List.replicate 26 0 ++ [0xBF400000, 0x3FA00000]
    let p := palCompress false [0x3C000000] v
    p.1 = 96 ∧ p.2.1.take 4 = [0xA0, 0x40, 0x86, 0xFF] ∧ p.2.2 = 2 ∧
      (palExpand [0x3C000000] p.1 p.2.1).take 4 = [0x3F000000, 0xBE800000, 0x3E980000, 0x3F9F0000] := by decide +kernel

/-- "A burst": the refill at a frame start gives C = 57,600 and P = 38,400. -/
theorem test_buckets :
    let c := { chPol with cTok := 38400, pTok := 0,
                          bucketNext := { cir := 19200, cbs := 76800, pir := 38400, pbs := 38400, overhead := 64 } }
    (c.frameStart 1).cTok = 57600 ∧ (c.frameStart 1).pTok = 38400 := by decide +kernel

/-- "One frame's visibility" and "One query": landings at cycles 306,250 and 239,750 are eligible in the next frame. -/
theorem test_eligible :
    (at_ up 10000000).eligible 306250 = 10000001 ∧ (at_ up 29999999).eligible 239750 = 30000000 ∧ (at_ up 5).eligible 315001 = 7 := by
  decide +kernel

/-- JOURNAL_WINDOW_MIN of the FETCH example; CW of R20; DIE_CAP of 170 µs. -/
theorem test_frame_limits :
    up.journalWindowMin = 29750 ∧ up.cw = 329000 ∧ up.flash.dieCap 297500 = 104 := by decide +kernel

/-- "One query": the result's size, the record's units and the charges. -/
def marrow : IndexAttr :=
  { ix.attr with regions := 65536, dim := 768, fmt := 0, payloadLen := 256 }
def eMarrow : Bytes := blk 64 [(0, 1, 1), (0x18, 4, 0x1580), (0x1C, 4, 0x00100008), (0x20, 4, 0x04000080), (0x24, 4, 0x00010014)]

theorem test_search_charges :
    searchSize eMarrow 256 = 0x1580 ∧ seWEff eMarrow = 1024 ∧ searchCharges false eMarrow marrow 16 = [1, 128, 0, 0, 0, 1024] ∧
    searchCharges true eMarrow marrow 16 = [1, 256, 0, 0, 0, 1024] := by decide +kernel

/-- The handle of function 3, slot 12, generation 7 (R332). -/
theorem test_handle : chanHandle 12 { ch with fn := 3, gen := 7 } = 0x0307000C := by decide +kernel

/-- "Filter sets": chunk 100,000 of a set in units 1,040 to 1,042, and its twin. -/
theorem test_open_chunk :
    (bitDa [1040, 1041, 1042] 819200000).1 = 0x410C350000 ∧ twinOf 0x410C350000 = 0x410C351000 := by decide +kernel

/-- "Contributions in P4": a vector of 128 elements takes 66 bytes. -/
theorem test_p4_bytes : palBytes true 128 = 66 ∧ palBytes false 768 = 770 := by decide +kernel

/-- "A query in P8" and "Contributions in P4": 870 and 6,778 bytes on the wire; where contribution 47 and its element 64 lie. -/
theorem test_palette_message :
    (palPayload hI 1 0 false 1 (List.replicate 770 0) 0).length + 20 = 870 ∧ palWireBytes 20 6600 (List.range 7) = 6778 ∧
    streamPlace 3102 = (1, 46) ∧ streamPlace 3136 = (1, 80) := by decide +kernel

/-- Philox-4×32-10 of zeros, SHA-256 of "abc", AES-256 of FIPS 197 C.3, CRC-32 and CRC-16 of "123456789". -/
theorem test_philox : philox 0 0 0 0 0 0 = [0x6627E8D5, 0xE169C58D, 0xBC57AC4C, 0x9B00DBD8] := by decide +kernel

def be_ (n w : Nat) : Bytes := (toLe n w).reverse

theorem test_sha256 :
    sha256 [0x61, 0x62, 0x63] = be_ 32 0xba7816bf8f01cfea414140de5dae2223b00361a396177a9cb410ff61f20015ad := by decide +kernel

theorem test_aes256 :
    aes256 (be_ 32 0x000102030405060708090a0b0c0d0e0f101112131415161718191a1b1c1d1e1f) (be_ 16 0x00112233445566778899aabbccddeeff) =
      be_ 16 0x8ea2b7ca516745bfeafc49904b496089 := by decide +kernel

theorem test_crc :
    crc32 (be_ 9 0x313233343536373839) = 0xCBF43926 ∧ crc16 (be_ 9 0x313233343536373839) = 0x29B1 := by decide +kernel

/-! ### Tests: single steps -/

/-- A FRAME_START and a COMMIT_WINDOW with nothing to report. -/
def quiet : CwIn :=
  { busy := [], stuck := false, arrayFail := 0, tileFail := [], tileWork := [], residue := [], arrayWork := [], tileWords := [], partFail := [],
    selfFail := false }

theorem test_frameStart : after (exec .frameStart up) fun t => t.frame.num == 1 && t.frame.cycle == 0 && !t.frame.committed := by
  decide +kernel

theorem test_commitWindow : after (exec (.commitWindow quiet) up) fun t => t.frame.committed && t.frame.version == 0 && t.frame.num == 0 := by
  decide +kernel

/-- The armed easel of A = 4 takes force at the commit window of frame 3. -/
theorem test_easel_switch :
    after (exec (.commitWindow quiet) (at_ wArmed 3)) fun t => t.easel.inForce == some (easelOf easelImg) && t.easel.arm.isNone := by
  decide +kernel

/-- A created channel is there, ACTIVE with its handle, after the commit window, and MB_RESP answers OK. -/
def wCreated : State := { upFree with changes := [.create 1 ch 0] }

theorem test_channel_created :
    after (exec (.commitWindow quiet) wCreated) fun t => (t.chanOf 0 (BitVec.ofNat 32 h1)).isSome && t.changes.isEmpty := by decide +kernel

/-- A SEARCH without its index completes NO_OBJECT, written to the ring. -/
theorem test_search_no_object :
    after (exec (.search 1 0 eSearch (some [vec])) { wLand with indexes := [] }) fun t =>
      (t.work.map fun c => (c.done.map fun d => d.status)) == [some stNoObject] := by decide +kernel

/-- A doorbell of 4 bytes is counted for its function or channel and lands nothing. -/
theorem test_doorbell_size :
    after (exec (.doorbellSubmissionTail 0 0 4 (bellWord 0 3)) w1) fun t => t.landings.isEmpty := by decide +kernel

theorem test_doorbell_lands :
    after (exec (.doorbellSubmissionTail 0 0 8 (bellWord 0 3)) w1) fun t => t.landings.length == 3 := by decide +kernel

/-- A step takes the front command; the rest waits. -/
theorem test_step :
    after (step { up with pending := [.frameStart, .perst] }) fun t => t.frame.num == 1 && t.pending == [.perst] := by decide +kernel

/-- The flag words of the worked examples: EXACT, TIE_AT_K, OWNER 42; ESTIMATED, NO_PAYLOAD, OWNER 42. -/
theorem test_result_flags :
    rd (resultEntry true (cand 7 42 0 0xBF300000)) 12 4 = 0x545 ∧ rd (resultEntry false (cand 7 42 0 0xBF380000)) 12 4 = 0x541 ∧
    rd (resultEntry false { cand 7 42 0 0xBF45FD6A with exact := false, est := true, noPay := true }) 12 4 = 0x552 := by decide +kernel

/-! ### Decoding: the table's rows give no bits -/

theorem test_decode (n w : Nat) : decodeTableWord n w = none := rfl

theorem test_withFetchWord (n w : Nat) : State.withFetchWord up n w = up := rfl

/-! ### Well-formedness: a well-formed command, and one ill-formed operand for every check -/

theorem wf_go : (Instr.identify (go 0 [] cb)).wf = true := by decide +kernel

/-- Function, arguments, tag, cycle, address, length and block of a GO. -/
theorem ill_go :
    (Instr.identify { go 0 [] cb with fn := 64 }).wf = false ∧ (Instr.identify { go 0 [] cb with args := [] }).wf = false ∧
    (Instr.identify { go 0 [] cb with tag := 65536 }).wf = false ∧ (Instr.identify { go 0 [] cb with cycle := 2000000 }).wf = false ∧
    (Instr.identify { go 0 [] cb with pbAddr := 2 ^ 64 }).wf = false ∧ (Instr.identify { go 0 [] cb with pbLen := 2 ^ 32 }).wf = false ∧
    (Instr.identify { go 0 [] cb with pb := [] }).wf = false ∧ (Instr.mbUnlistedCode (go 0 [] cb) 65536).wf = false ∧
    (Instr.overrun 64).wf = false := by decide +kernel

theorem ill_rings :
    (Instr.doorbellSubmissionTail 64 0 8 0).wf = false ∧ (Instr.doorbellSubmissionTail 0 0 3 0).wf = false ∧
    (Instr.doorbellSubmissionTail 0 2000000 8 0).wf = false ∧ (Instr.delete 128 0 eDelete).wf = false ∧
    (Instr.delete 1 16 eDelete).wf = false ∧ (Instr.delete 1 0 []).wf = false ∧ (Instr.hostBufferReadDone 128 0 0 []).wf = false ∧
    (Instr.hostBufferReadDone 1 16 0 []).wf = false ∧ (Instr.hostAccessFailed 128 (.entryRead 0)).wf = false ∧
    (Instr.delete 1 0 eDelete).wf = true := by decide +kernel

theorem ill_registers :
    (Instr.rwaFieldWrite 64 1 4 0).wf = false ∧ (Instr.rwaFieldWrite 0 128 4 0).wf = false ∧ (Instr.rwaFieldWrite 0 1 0x1000 0).wf = false ∧
    (Instr.registerWrite 0 0x10000 4 ⟨0, 0⟩).wf = false ∧ (Instr.frameNumLoRead 64 0).wf = false ∧ (Instr.ntNsLoRead 0 2000000).wf = false ∧
    (Instr.apertureRead 64 0 64 0 false).wf = false ∧ (Instr.apertureRead 0 0 4097 0 false).wf = false ∧
    (Instr.apertureRead 0 (2 ^ 36 - 63) 64 0 false).wf = false ∧ (Instr.apertureWrite 0 (2 ^ 36 - 63) 64).wf = false ∧
    (Instr.registerWrite 0 0x184 4 ⟨2, 0⟩).wf = true := by decide +kernel

theorem ill_windows :
    (Instr.scan ⟨4096, .sound⟩).wf = false ∧ (Instr.stageCutOff 256 0 1 []).wf = false ∧ (Instr.stageCutOff 5 0 128 []).wf = false ∧
    (Instr.generationPublish 128 hI).wf = false ∧ (Instr.scan ⟨0, .sound⟩).wf = true := by decide +kernel

theorem ill_fabric :
    (Instr.packetReceived 8 (pkt 9 2) true true []).wf = false ∧ (Instr.packetReceived 0 (pkt 576 2) true true []).wf = false ∧
    (Instr.packetReceived 0 { pkt 9 2 with hdr := { hdr 9 2 with src := 1022 } } true true []).wf = false ∧
    (Instr.negativeAck 8 0).wf = false ∧ (Instr.ullaHeartbeat 8 beat true).wf = false ∧
    (Instr.ullaHeartbeat 0 { beat with sender := 576 } true).wf = false ∧ (Instr.replicaAcknowledgement 576 1 hI 0 0).wf = false ∧
    (Instr.replicaAcknowledgement 0 128 hI 0 0).wf = false ∧ (Instr.replicaAcknowledgement 0 1 hI 262144 0).wf = false ∧
    (Instr.durabilityReport 576 0 0).wf = false ∧ (Instr.durabilityReport 0 0 576).wf = false ∧ (Instr.rollback 576).wf = false ∧
    (Instr.packetReceived 0 (pkt 9 2) true true []).wf = true := by decide +kernel

theorem ill_stacks_and_flash :
    (Instr.flashEraseComplete 384 0 true).wf = false ∧ (Instr.flashEraseComplete 0 (2 ^ 22) true).wf = false ∧
    (Instr.flashCommandTimeout 24 0 none).wf = false ∧ (Instr.flashCommandTimeout 0 384 none).wf = false ∧
    (Instr.flashCommandTimeout 0 0 (some 2000)).wf = false ∧ (Instr.flashCommandTimeout 0 0 (some 1600)).wf = true ∧
    (Instr.patrolScrub (2 ^ 39) .sound).wf = false ∧ (Instr.nearBankRowStep .and (2 ^ 39) 0 0 true).wf = false ∧
    (Instr.nearBankRowStep .and 0 (2 ^ 39) 0 true).wf = false ∧ (Instr.nearBankRowStep .and 0 0 (2 ^ 39) true).wf = false ∧
    (Instr.nearBankRowStep .and 268435456000 268436480000 268703891456 true).wf = false ∧
    (Instr.nearBankRowStep .and 268435456000 268439650304 268703891456 true).wf = true ∧ (Instr.unitZeroed 1152).wf = false ∧ (Instr.unitZeroed 1151).wf = true := by decide +kernel

theorem ill_host_and_power :
    (Instr.pwrgoodRise 4 false).wf = false ∧ (Instr.numvfsChange 64).wf = false ∧ (Instr.retentionFlagClear 8).wf = false ∧
    (Instr.hostLinkUp 17 64).wf = false ∧ (Instr.hostLinkUp 8 129).wf = false ∧ (Instr.hostLinkUp 8 128).wf = true := by decide +kernel

end Sys2Proof.Tests
end

section
/-! SUPPORT. What a host access, a write to the residency fields, the switches and a function's reset do, case by case, and the
statements on residency fields, switches and the host port's events, settled. -/

namespace Sys2Proof.Machine

/-! ### Commands that ask whether the host port answers -/

theorem whenAnswered_answers (f : State → State) (s : State) (h : s.answers = true) : whenAnswered f s = .next (f s) := by
  simp [whenAnswered, h]

theorem whenAnswered_silent (f : State → State) (s : State) (h : s.answers = false) : whenAnswered f s = .next s := by
  simp [whenAnswered, h]

/-- What changes nothing on a node that runs changes nothing at all. -/
theorem whenLive_fixed (f : State → State) (s : State) (h : f s = s) : whenLive f s = .next s := by
  unfold whenLive
  rw [h, ite_self]

/-! ### The residency fields of a channel block (R8, R335, R341) -/

/-- A block that a function sees is the channel of its slot. -/
theorem tget_of_blockOf {s : State} {fn slot : Nat} {c : Chan} (h : s.blockOf fn slot = some c) : tget s.chans slot = some c := by
  unfold State.blockOf at h
  split at h
  case h_1 x hx =>
    split at h
    · rwa [← h]
    · cases h
  case h_2 => cases h

theorem exec_rwaFieldWrite (fn slot off : Nat) (w : BitVec 32) (s : State) (h : s.answers = true) :
    exec (.rwaFieldWrite fn slot off w) s = .next (s.rwaWrite fn slot off w.toNat) := by
  change execRwaFieldWrite fn slot off w s = _
  exact whenAnswered_answers _ s h

theorem rwaWrite_armed (s : State) (fn slot off v : Nat) (c : Chan) (hb : s.blockOf fn slot = some c) (ha : s.easel.arm.isSome) :
    s.rwaWrite fn slot off v = s.settingRefused slot := by
  simp [State.rwaWrite, hb, ha]

theorem rwaWrite_residency (s : State) (fn slot v : Nat) (c : Chan) (hb : s.blockOf fn slot = some c) (ha : s.easel.arm = none) :
    s.rwaWrite fn slot 0x04 v = (s.writePart slot (bitsOf v 16 9)).writeResidency slot (hasBit v 0) := by
  simp [State.rwaWrite, hb, ha]

theorem rwaWrite_slip (s : State) (fn slot v : Nat) (c : Chan) (hb : s.blockOf fn slot = some c) (ha : s.easel.arm = none) :
    s.rwaWrite fn slot 0x08 v = s.writeSlip slot (bitsOf v 16 9) := by
  simp [State.rwaWrite, hb, ha]

section
variable {s : State} {slot : Nat} {c : Chan} (hc : tget s.chans slot = some c)
include hc

theorem writePart_of_chan (g : Nat) :
    s.writePart slot g = if s.partOk slot g c then s.mapChan slot fun x => { x with pend := { x.pend with partGran := g } }
      else s.settingRefused slot := by
  simp [State.writePart, hc]

theorem writeSlip_of_chan (g : Nat) :
    s.writeSlip slot g = if s.slipOk slot g c && !(c.pend.swapped && g == 0) then
        s.mapChan slot fun x => { x with pend := { x.pend with slipGran := g } }
      else s.settingRefused slot := by
  simp [State.writeSlip, hc]

/-- The residency that is pending already is no change. -/
theorem writeResidency_same (b : Bool) (h : c.pend.swapped = b) : s.writeResidency slot b = s := by
  simp [State.writeResidency, hc, h]

theorem writeResidency_swapped (h : c.pend.swapped = false) :
    s.writeResidency slot true = if 1 ≤ c.pend.slipGran ∧ s.slipOk slot c.pend.slipGran c = true then
        s.mapChan slot fun x => { x with pend := { x.pend with swapped := true, partGran := 0 } }
      else s.settingRefused slot := by
  simp [State.writeResidency, hc, h]

theorem writeResidency_partitioned (h : c.pend.swapped = true) :
    s.writeResidency slot false = if s.partOk slot c.pend.partGran c = true then
        s.mapChan slot fun x => { x with pend := { x.pend with swapped := false, slipGran := 0 } }
      else s.settingRefused slot := by
  simp [State.writeResidency, hc, h]

/-- A write of PART_GRANULES leaves the pending residency as it is, whether it is taken or refused. -/
theorem writePart_keeps_swapped (g : Nat) :
    ∃ d, tget (s.writePart slot g).chans slot = some d ∧ d.pend.swapped = c.pend.swapped := by
  rw [writePart_of_chan hc]
  split
  · exact ⟨_, tget_tmap_some _ _ _ c hc, rfl⟩
  · exact ⟨_, tget_tmap_some _ _ _ c hc, rfl⟩

end

/-- Settles O23, by the cases of `State.rwaWrite`; a write of the pending residency leaves only that of PART_GRANULES. -/
theorem residencyFieldWrites : Obligations.ResidencyFieldWrites := by
  refine ⟨?armed, ?slip, ?part, ?both, ?residency⟩
  case armed =>
    intro fn slot off w s c h hb ha
    rw [exec_rwaFieldWrite _ _ _ _ _ h, rwaWrite_armed _ _ _ _ _ c hb ha, State.settingRefused]
  case slip =>
    intro fn slot w s c h hb ha
    rw [exec_rwaFieldWrite _ _ _ _ _ h, rwaWrite_slip _ _ _ _ c hb ha, writeSlip_of_chan (tget_of_blockOf hb), State.settingRefused]
  case part =>
    intro fn slot w s c h hb ha hs
    have hc := tget_of_blockOf hb
    obtain ⟨d, hd, hsw⟩ := writePart_keeps_swapped hc (bitsOf w.toNat 16 9)
    rw [exec_rwaFieldWrite _ _ _ _ _ h, rwaWrite_residency _ _ _ _ c hb ha, writeResidency_same hd _ (hsw.trans hs),
      writePart_of_chan hc, State.settingRefused]
  case both =>
    intro fn slot w s c h hb ha
    rw [exec_rwaFieldWrite _ _ _ _ _ h, rwaWrite_residency _ _ _ _ c hb ha]
  case residency =>
    intro s slot c hc
    exact ⟨writeResidency_same hc, writeResidency_swapped hc, writeResidency_partitioned hc⟩

/-! ### The easel switch (R35, R8, R40) -/

theorem easelSwitch_due (s : State) (a d : Nat) (harm : s.easel.arm = some (a, d)) (hnum : s.frame.num + 1 = a) :
    s.easelSwitch =
      { s with easel := { s.easel with inForce := s.easel.standby, standby := none, arm := none, lastA := some a,
                                       gates := s.easel.gatesStandby.or s.easel.gates, gatesStandby := none }
               chans := s.chans.map fun p => (p.1, p.2.takePending) } := by
  simp only [State.easelSwitch, harm, if_pos hnum]
  cases s.easel.gatesStandby <;> rfl

theorem easelSwitch_not_due (s : State) (h : ∀ a d, s.easel.arm = some (a, d) → s.frame.num + 1 ≠ a) : s.easelSwitch = s := by
  unfold State.easelSwitch
  split
  case h_1 => rfl
  case h_2 a d harm => rw [if_neg (h a d harm)]

theorem takePending_same (c : Chan) (h : c.pend = c.rwa) : c.takePending.part = c.part ∧ c.takePending.slipcase = c.slipcase := by
  simp [Chan.takePending, h]

theorem takePending_new_residency (c : Chan) (h : c.pend.swapped ≠ c.rwa.swapped) :
    c.takePending.part = [] ∧ c.takePending.slipcase = [] := by
  simp [Chan.takePending, h]

/-! ### The mode switch (R55) -/

theorem applyModes_one_due (s : State) (m : Nat) (x : Bool) (lag : Nat) (hp : s.frame.pendModes = [(m, x, lag)]) (hm : m ≤ s.frame.num) :
    s.applyModes = { s with frame := { s.frame with pendModes := [], exact := x, buddyLag := lag } } := by
  have hn : ¬ s.frame.num < m := Nat.not_lt.mpr hm
  simp [State.applyModes, hp, hm, hn]

theorem applyModes_none_due (s : State) (h : ∀ p ∈ s.frame.pendModes, s.frame.num < p.1) : s.applyModes = s := by
  have hdue : (s.frame.pendModes.filter fun p => decide (p.1 ≤ s.frame.num)) = [] :=
    List.filter_eq_nil_iff.mpr fun p hp => by simpa using h p hp
  have hkept : (s.frame.pendModes.filter fun p => decide (s.frame.num < p.1)) = s.frame.pendModes :=
    List.filter_eq_self.mpr fun p hp => by simpa using h p hp
  simp only [State.applyModes, hdue, hkept, List.foldl_nil]

/-- Settles O35, by whether the arm's frame, or the mode's, has come. -/
theorem easelAndModeSwitches : Obligations.EaselAndModeSwitches := by
  refine ⟨?due, ?notDue, ?pending, ?mode, ?noMode⟩
  case due =>
    intro s a d hl harm hnum
    refine (whenLive_live _ s hl).trans ?_
    rw [easelSwitch_due s a d harm hnum]
    cases s.easel.gatesStandby <;> rfl
  case notDue => exact fun s h => whenLive_fixed _ s (easelSwitch_not_due s h)
  case pending => exact fun c => ⟨rfl, rfl, takePending_same c, takePending_new_residency c⟩
  case mode =>
    intro s m x lag hl hp hm
    exact (whenLive_live _ s hl).trans (congrArg _ (applyModes_one_due s m x lag hp hm))
  case noMode => exact fun s h => whenLive_fixed _ s (applyModes_none_due s h)

/-! ### A function's registers at their defaults (R438) -/

section
variable (s : State) (fn : Nat)

@[simp] theorem resetFn_mb_same : (s.resetFn fn).mb fn = Mailbox.zero := by simp [State.mb, State.resetFn, tgetD]
@[simp] theorem resetFn_ap_same : (s.resetFn fn).ap fn = Aperture.zero := by simp [State.ap, State.resetFn, tgetD]
@[simp] theorem resetFn_evRing_same : (s.resetFn fn).evRing fn = EvRing.zero := by simp [State.evRing, State.resetFn, tgetD]
@[simp] theorem resetFn_fnDiscards_same : tget (s.resetFn fn).host.fnDiscards fn = none := tget_tdel_same _ fn

variable {g : Nat} (h : g ≠ fn)
include h

theorem resetFn_mb_other : (s.resetFn fn).mb g = s.mb g := by simp [State.mb, State.resetFn, tgetD, h]
theorem resetFn_ap_other : (s.resetFn fn).ap g = s.ap g := by simp [State.ap, State.resetFn, tgetD, h]
theorem resetFn_evRing_other : (s.resetFn fn).evRing g = s.evRing g := by simp [State.evRing, State.resetFn, tgetD, h]
theorem resetFn_fnDiscards_other : tget (s.resetFn fn).host.fnDiscards g = tget s.host.fnDiscards g :=
  tget_tdel_other _ fn g h

end

/-! ### The host port's events (R10, R316, R334, R383, R438, R450) -/

theorem exec_perst_silent (s : State) (h : s.answers = false) : exec .perst s = .next (s.mapPower fun p => { p with perst := true }) := by
  simp [exec, execPerst, always, h]

theorem exec_perst_answers (s : State) (h : s.answers = true) :
    let t := (List.range 64).foldl State.resetFn ((s.mapPower fun p => { p with perst := true }).queueDetach fun _ => true)
    exec .perst s = .next { t with host := { t.host with vfs := 0, linkUp := false }, keys := { t.keys with ide := [] } } := by
  simp [exec, execPerst, always, h]

theorem exec_hostLinkDown_silent (s : State) (h : s.answers = false) : exec .hostLinkDown s = .next s := by
  change execHostLinkDown s = _
  exact whenAnswered_silent _ s h

theorem exec_hostLinkDown_answers (s : State) (h : s.answers = true) :
    exec .hostLinkDown s = .next { s.queueDetach (fun _ => true) with host := { s.host with linkUp := false }
                                                                      keys := { s.keys with ide := [] } } := by
  change execHostLinkDown s = _
  exact whenAnswered_answers _ s h

theorem exec_functionLevelReset (s : State) (fn : Nat) (h : s.answers = true) :
    exec (.functionLevelReset fn) s = .next ((s.queueDetach fun c => c.fn == fn).resetFn fn) := by
  change execFunctionLevelReset fn s = _
  exact whenAnswered_answers _ s h

theorem exec_numvfsChange (s : State) (n : Nat) (h : s.answers = true) (hn : n ≤ 63) :
    exec (.numvfsChange n) s = .next { s.queueDetach (fun c => decide (n < c.fn)) with host := { s.host with vfs := n } } := by
  change execNumvfsChange n s = _
  rw [execNumvfsChange, whenAnswered_answers _ s h, if_pos hn]

/-- The link trains to each width and rate of R316. -/
theorem exec_hostLinkUp (s : State) (w r : Nat) (hw : w ∈ [8, 4, 2, 1]) (hr : r ∈ [128, 64, 32, 16]) :
    exec (.hostLinkUp w r) s = .next { s with host := { s.host with linkUp := true, width := w, rate := r } } := by
  have hok : ([8, 4, 2, 1].contains w && [128, 64, 32, 16].contains r) = true := by
    rw [List.contains_iff_mem.mpr hw, List.contains_iff_mem.mpr hr]; rfl
  exact congrArg _ (if_pos hok)

/-- Settles O53, event by event; the defaults of a function's registers by what a table holds where an entry is deleted. -/
theorem hostPortEvents : Obligations.HostPortEvents := by
  refine ⟨?port, ?functionReset, ?vfs, ?trained, ?released, ?registers⟩
  case port =>
    refine fun s => ⟨fun h => ⟨?_, ?_⟩, fun h => ⟨?_, ?_⟩⟩
    · exact exec_perst_answers s h
    · exact exec_hostLinkDown_answers s h
    · exact exec_perst_silent s h
    · exact exec_hostLinkDown_silent s h
  case functionReset => exact fun fn s h => exec_functionLevelReset s fn h
  case vfs => exact fun n s h hn => exec_numvfsChange s n h hn
  case trained => exact fun w r s hw hr => exec_hostLinkUp s w r hw hr
  case released => exact fun s => rfl
  case registers =>
    exact fun s fn => ⟨resetFn_mb_same s fn, resetFn_ap_same s fn, resetFn_evRing_same s fn, resetFn_fnDiscards_same s fn, rfl, rfl,
      fun g h => ⟨resetFn_mb_other s fn h, resetFn_ap_other s fn h, resetFn_evRing_other s fn h, resetFn_fnDiscards_other s fn h⟩⟩

end Sys2Proof.Machine
end

section
/-! SUPPORT. When the window of an easel entry opens, and what a command that runs one does where it does not open or only passes; the
statement on when windows open, settled. -/

namespace Sys2Proof.Machine

/-! ### When a window opens (R26, R28, R33, R39) -/

theorem hasBit_eq_testBit (m i : Nat) : hasBit m i = m.testBit i := by
  rw [hasBit, Nat.testBit_eq_decide_div_mod_eq, Nat.shiftRight_eq_div_pow]
  rfl

theorem takesPart_eq_testBit (e : EaselEntry) (hyper f : Nat) : e.takesPart hyper f = e.phases.testBit (f % hyper) :=
  hasBit_eq_testBit e.phases (f % hyper)

/-- The window that opens is the entry's own, in the easel in force; a window that has opened is among the frame's `ran`. -/
theorem window?_eq_some_iff (s : State) (n stage : Nat) (e : EaselEntry) :
    s.window? n stage = some e ↔
      ∃ ea, s.easel.inForce = some ea ∧ ea.entries[n]? = some e ∧ e.stage = stage ∧ s.windowsOpen = true ∧
        e.phases.testBit (s.frame.num % ea.hyper) = true ∧ n ∉ s.frame.ran := by
  unfold State.window?
  cases hea : s.easel.inForce with
  | none => simp
  | some ea =>
    cases hen : ea.entries[n]? with
    | none => simp [hen]
    | some x =>
      simp only [takesPart_eq_testBit, Option.ite_none_right_eq_some, Option.some.injEq, exists_eq_left', hen]
      constructor
      · rintro ⟨hdue, rfl⟩
        simpa [and_comm, and_left_comm, and_assoc] using hdue
      · rintro ⟨rfl, hstage, hopen, hphase, hran⟩
        simp [hstage, hopen, hphase, hran]

/-- A window opens once in a frame (log entry 43): entering it marks it as run. -/
theorem window?_enter_same (s : State) (n stage : Nat) (e : EaselEntry) : (s.enter n e).window? n stage = none := by
  refine Option.eq_none_iff_forall_ne_some.mpr fun x hx => ?_
  obtain ⟨_, _, _, _, _, _, hran⟩ := (window?_eq_some_iff _ n stage x).mp hx
  exact hran List.mem_cons_self

/-! ### The commands that run a window -/

theorem inNodeWindow_shut (n stage : Nat) (f : EaselEntry → State → State) (s : State) (h : s.window? n stage = none) :
    inNodeWindow n stage f s = .next s :=
  whenLive_fixed _ s (by simp only [h])

section
variable {s : State} {n stage : Nat} {e : EaselEntry} (h : s.opens n stage e)
include h

/-- An entry that claims none of the engines that its stage needs begins no work (log entry 42). -/
theorem inWindow_unable (f : EaselEntry → State → State) (a : s.able e = false) :
    inWindow n stage f s = .next (s.enter n e) := by
  obtain ⟨hlive, hwin⟩ := h
  simp [inWindow, whenLive_live _ s hlive, hwin, a]

theorem inNodeWindow_unable (f : EaselEntry → State → State) (a : s.able e = false) :
    inNodeWindow n stage f s = .next (s.enter n e) := by
  obtain ⟨hlive, hwin⟩ := h
  simp [inNodeWindow, whenLive_live _ s hlive, hwin, a]

theorem inNodeWindow_idle (f : EaselEntry → State → State) (i : (s.enter n e).slotRuns e = false) (hn : e.isNode = false) :
    inNodeWindow n stage f s = .next (s.enter n e) := by
  obtain ⟨hlive, hwin⟩ := h
  simp [inNodeWindow, whenLive_live _ s hlive, hwin, i, hn]

end

/-- Every command that runs a window is its stage's work under one of the two frames: the node too may own FLASH_BACKGROUND and
MIGRATE (R28). -/
theorem exec_of_window {x : Instr} {n stage : Nat} (h : x.window = some (n, stage)) :
    ∃ f, (∀ s, exec x s = inWindow n stage f s) ∨ (∀ s, exec x s = inNodeWindow n stage f s) := by
  cases x with
  | admitWindow _ | route1 _ | scatter _ | route2 _ | scan _ | nominate _ | fetchWindow _ | rank _ | rescore _ | deliver _
  | lookupWindow _ | applyStage _ | updateStage _ | compact _ | buildWindow _ | swapSave _ | swapRestore _ _ | setCombine _ =>
    cases h
    exact ⟨_, .inl fun _ => by unfold exec; exact rfl⟩
  | flashBackground _ | migrateWindow _ =>
    cases h
    exact ⟨_, .inr fun _ => by unfold exec; exact rfl⟩
  | _ => cases h

theorem exec_window_shut {x : Instr} {n stage : Nat} (s : State) (hx : x.window = some (n, stage)) (h : s.window? n stage = none) :
    exec x s = .next s := by
  obtain ⟨f, hf | hf⟩ := exec_of_window hx
  · exact (hf s).trans (inWindow_shut n stage f s h)
  · exact (hf s).trans (inNodeWindow_shut n stage f s h)

section
variable {x : Instr} {n stage : Nat} {e : EaselEntry} {s : State} (hx : x.window = some (n, stage)) (h : s.opens n stage e)
include hx h

theorem exec_window_idle (i : (s.enter n e).slotRuns e = false) (hn : e.isNode = false) : exec x s = .next (s.enter n e) := by
  obtain ⟨f, hf | hf⟩ := exec_of_window hx
  · exact (hf s).trans (inWindow_idle n stage f s e h i)
  · exact (hf s).trans (inNodeWindow_idle h f i hn)

theorem exec_window_unable (a : s.able e = false) : exec x s = .next (s.enter n e) := by
  obtain ⟨f, hf | hf⟩ := exec_of_window hx
  · exact (hf s).trans (inWindow_unable h f a)
  · exact (hf s).trans (inNodeWindow_unable h f a)

end

/-- Settles O28, by the two frames under which every window's command runs. -/
theorem windowsOpenWhenTheyTakePart : Obligations.WindowsOpenWhenTheyTakePart := by
  refine ⟨takesPart_eq_testBit, window?_eq_some_iff, window?_enter_same, ?shut, ?passes⟩
  case shut => exact fun x n stage s hx h => exec_window_shut s hx h
  case passes =>
    rintro x n stage e s hx h (⟨i, hn⟩ | a)
    · exact exec_window_idle hx h i hn
    · exact exec_window_unable hx h a

end Sys2Proof.Machine
end

section
/-! SUPPORT. The lemmas of the commands put together: every command answers and keeps the invariant, and a window leaves what commands from
outside set. The statements on the queue, the invariant and the windows' frame, settled. -/

namespace Sys2Proof.Machine

/-! ### Every command answers, and keeps the invariant -/

section
variable {Q : List Instr} {U : Was}

/-- Every command answers a next state, of which `Fit` holds where it held before: the lemmas of the commands, put together. -/
theorem exec_stays : ∀ (c : Instr) (s : State), Fit Q U s → Stays Q U (exec c s)
  | .identify g => execIdentify_fit g
  | .channelCreate g => execChannelCreate_fit g
  | .channelDestroy g => execChannelDestroy_fit g
  | .channelReset g => execChannelReset_fit g
  | .easelLoad g => execEaselLoad_fit g
  | .easelArm g => execEaselArm_fit g
  | .easelArmCancel g => execEaselArmCancel_fit g
  | .gatesLoad g => execGatesLoad_fit g
  | .indexCreate g => execIndexCreate_fit g
  | .indexDrop g => execIndexDrop_fit g
  | .tableCreate g => execTableCreate_fit g
  | .tableDrop g => execTableDrop_fit g
  | .allowsetCreate g => execAllowsetCreate_fit g
  | .graphLoad g => execGraphLoad_fit g
  | .paletteSet g => execPaletteSet_fit g
  | .buildTrainRegions g => execBuildTrainRegions_fit g
  | .buildLoad g => execBuildLoad_fit g
  | .buildTrainLists g => execBuildTrainLists_fit g
  | .buildPlace g => execBuildPlace_fit g
  | .buildPublish g => execBuildPublish_fit g
  | .migrateRegion g => execMigrateRegion_fit g
  | .migrateShard g => execMigrateShard_fit g
  | .migrateHotRows g => execMigrateHotRows_fit g
  | .powerSetActive g => execPowerSetActive_fit g
  | .powerSetActiveLow g => execPowerSetActiveLow_fit g
  | .powerSetIdle g => execPowerSetIdle_fit g
  | .powerSetStandby g => execPowerSetStandby_fit g
  | .powerSetOffReady g => execPowerSetOffReady_fit g
  | .powerSetService g => execPowerSetService_fit g
  | .sectorGate g => execSectorGate_fit g
  | .modeSet g => execModeSet_fit g
  | .attestReport g => execAttestReport_fit g
  | .keyInstallChannel g key => execKeyInstallChannel_fit g key
  | .keyInstallPort g key => execKeyInstallPort_fit g key
  | .keyInstallIde g key => execKeyInstallIde_fit g key
  | .ownerTake g => execOwnerTake_fit g
  | .arrayJoin g => execArrayJoin_fit g
  | .arrayLeave g => execArrayLeave_fit g
  | .shadowStart g relayNames shadowed encrypt => execShadowStart_fit g relayNames shadowed encrypt
  | .sparePromote g => execSparePromote_fit g
  | .takeoverConfirm g => execTakeoverConfirm_fit g
  | .statsRead g => execStatsRead_fit g
  | .logRead g => execLogRead_fit g
  | .fwStage g => execFwStage_fit g
  | .fwActivateWarm g => execFwActivateWarm_fit g
  | .fwActivateCold g => execFwActivateCold_fit g
  | .mbUnlistedCode g code => execMbUnlistedCode_fit g code
  | .overrun fn => execOverrun_fit fn
  | .mbResp fn => execMbResp_fit fn
  | .doorbellSubmissionTail fn cycle size value => execDoorbellSubmissionTail_fit fn cycle size value
  | .doorbellCompletionHead fn cycle size value => execDoorbellCompletionHead_fit fn cycle size value
  | .search slot ring entry bufs => execSearch_fit slot ring entry bufs
  | .lookup slot ring entry bufs => execLookup_fit slot ring entry bufs
  | .apply slot ring entry bufs => execApply_fit slot ring entry bufs
  | .upsert slot ring entry bufs => execUpsert_fit slot ring entry bufs
  | .delete slot ring entry => execDelete_fit slot ring entry
  | .fetch slot ring entry => execFetch_fit slot ring entry
  | .setEdit slot ring entry bufs => execSetEdit_fit slot ring entry bufs
  | .fence slot ring entry => execFence_fit slot ring entry
  | .snapshot slot ring entry => execSnapshot_fit slot ring entry
  | .replaceRows slot ring entry bufs => execReplaceRows_fit slot ring entry bufs
  | .stats slot ring entry => execStats_fit slot ring entry
  | .invalidOpcode slot ring entry => execInvalidOpcode_fit slot ring entry
  | .hostBufferReadDone slot ring pos bufs => execHostBufferReadDone_fit slot ring pos bufs
  | .hostAccessFailed slot what => execHostAccessFailed_fit slot what
  | .rwaFieldWrite fn slot off value => execRwaFieldWrite_fit fn slot off value
  | .registerWrite fn off size value => execRegisterWrite_fit fn off size value
  | .frameNumLoRead fn cycle => execFrameNumLoRead_fit fn cycle
  | .ntNsLoRead fn cycle => execNtNsLoRead_fit fn cycle
  | .apertureRead fn off len corrected uncorrectable => execApertureRead_fit fn off len corrected uncorrectable
  | .apertureWrite fn off len => execApertureWrite_fit fn off len
  | .frameStart => execFrameStart_fit
  | .admitWindow e => execAdmitWindow_fit e
  | .route1 w => execRoute1_fit w
  | .scatter e => execScatter_fit e
  | .route2 w => execRoute2_fit w
  | .scan w => execScan_fit w
  | .nominate e => execNominate_fit e
  | .fetchWindow w => execFetchWindow_fit w
  | .rank e => execRank_fit e
  | .rescore w => execRescore_fit w
  | .deliver e => execDeliver_fit e
  | .lookupWindow w => execLookupWindow_fit w
  | .applyStage w => execApplyStage_fit w
  | .updateStage w => execUpdateStage_fit w
  | .compact e => execCompact_fit e
  | .flashBackground e => execFlashBackground_fit e
  | .migrateWindow e => execMigrateWindow_fit e
  | .buildWindow e => execBuildWindow_fit e
  | .swapSave e => execSwapSave_fit e
  | .swapRestore e uncorrectable => execSwapRestore_fit e uncorrectable
  | .setCombine e => execSetCombine_fit e
  | .stageCutOff stage entry slot cmds => execStageCutOff_fit stage entry slot cmds
  | .resultWriteDeadline cmds => execResultWriteDeadline_fit cmds
  | .commitWindow x => execCommitWindow_fit x
  | .easelSwitch => execEaselSwitch_fit
  | .modeSwitch => execModeSwitch_fit
  | .generationPublish slot object => execGenerationPublish_fit slot object
  | .graphPublish slot object => execGraphPublish_fit slot object
  | .arrayLeaveEffect => execArrayLeaveEffect_fit
  | .versionRelease => execVersionRelease_fit
  | .checkpointPassStart slot object => execCheckpointPassStart_fit slot object
  | .captureDeadline slot object => execCaptureDeadline_fit slot object
  | .migrationAcceptance id accepted => execMigrationAcceptance_fit id accepted
  | .migrationFlip id => execMigrationFlip_fit id
  | .rebuildComplete id => execRebuildComplete_fit id
  | .packetReceived port p crcOk tagOk words => execPacketReceived_fit port p crcOk tagOk words
  | .negativeAck port seq => execNegativeAck_fit port seq
  | .retransmitTimeout port seq => execRetransmitTimeout_fit port seq
  | .groupResendRequest port dst object gen groups => execGroupResendRequest_fit port dst object gen groups
  | .controlSlot => execControlSlot_fit
  | .timeExchange port t1 t2 t3 t4 pps prio gm hops => execTimeExchange_fit port t1 t2 t3 t4 pps prio gm hops
  | .ullaHeartbeat port hb crcOk => execUllaHeartbeat_fit port hb crcOk
  | .missReport port => execMissReport_fit port
  | .replicaAcknowledgement owner slot object region frame => execReplicaAcknowledgement_fit owner slot object region frame
  | .replicaReceipt owner slot object region frame counts digest => execReplicaReceipt_fit owner slot object region frame counts digest
  | .announcement frame a => execAnnouncement_fit frame a
  | .durabilityReport home seq owner => execDurabilityReport_fit home seq owner
  | .orderInstall => execOrderInstall_fit
  | .rollback subject => execRollback_fit subject
  | .shadowPassed => execShadowPassed_fit
  | .gmAdvertLoss => execGmAdvertLoss_fit
  | .ppsInEdge offset => execPpsInEdge_fit offset
  | .ppsTimeout => execPpsTimeout_fit
  | .nodeUnlockedLimit => execNodeUnlockedLimit_fit
  | .flashReadComplete id o => execFlashReadComplete_fit id o
  | .flashProgramComplete id ok => execFlashProgramComplete_fit id ok
  | .flashEraseComplete die block ok => execFlashEraseComplete_fit die block ok
  | .flashCommandTimeout chan die rate => execFlashCommandTimeout_fit chan die rate
  | .patrolScrub da o => execPatrolScrub_fit da o
  | .nearBankRowStep op a b r allocator => execNearBankRowStep_fit op a b r allocator
  | .unitZeroed u => execUnitZeroed_fit u
  | .pwrgoodRise bootMode cold => execPwrgoodRise_fit bootMode cold
  | .pwrgoodFall => execPwrgoodFall_fit
  | .coldStart x => execColdStart_fit x
  | .warmStart x => execWarmStart_fit x
  | .recovery => execRecovery_fit
  | .startFailure cause => execStartFailure_fit cause
  | .startTimeLimit => execStartTimeLimit_fit
  | .temperatureHoldRelease => execTemperatureHoldRelease_fit
  | .plossN => execPlossN_fit
  | .thermtripN sensor => execThermtripN_fit sensor
  | .thermalWarn sensor milliC => execThermalWarn_fit sensor milliC
  | .supplyDipStart mv => execSupplyDipStart_fit mv
  | .supplyDipEnd mv => execSupplyDipEnd_fit mv
  | .supplyDipLong mv => execSupplyDipLong_fit mv
  | .resetThreshold mv => execResetThreshold_fit mv
  | .pmbAlertN status => execPmbAlertN_fit status
  | .pmbusFailure code => execPmbusFailure_fit code
  | .pmbusRetry ok => execPmbusRetry_fit ok
  | .energyCalibration meas leak model => execEnergyCalibration_fit meas leak model
  | .voutSettled mv => execVoutSettled_fit mv
  | .standbyEntry => execStandbyEntry_fit
  | .standbyExit train => execStandbyExit_fit train
  | .offReadyFlush => execOffReadyFlush_fit
  | .perst => execPerst_fit
  | .functionLevelReset fn => execFunctionLevelReset_fit fn
  | .numvfsChange n => execNumvfsChange_fit n
  | .hostLinkDown => execHostLinkDown_fit
  | .gateEntryOpen port entry => execGateEntryOpen_fit port entry
  | .linkControlSymbols port acks keyId partner => execLinkControlSymbols_fit port acks keyId partner
  | .pePerstNDeassert => execPePerstNDeassert_fit
  | .retentionFlagClear stack => execRetentionFlagClear_fit stack
  | .fwStageEnd ok => execFwStageEnd_fit ok
  | .hostLinkUp width rate => execHostLinkUp_fit width rate

end

/-- Settles O3, by the commands' own lemmas. -/
theorem everyCommandAnswers : Obligations.EveryCommandAnswers := by
  intro c s
  obtain ⟨t, ht, -⟩ := exec_stays c s (fit_self s)
  exact ⟨t, ht⟩

/-- Settles O1, by the equation of `step` where a command waits. -/
theorem stepRunsTheFrontCommand : Obligations.StepRunsTheFrontCommand := by
  intro c rest s h
  simp only [step, h]

/-- Settles O2, by the equation of `step` on an empty queue. -/
theorem emptyQueueIdles : Obligations.EmptyQueueIdles := by
  intro s h
  simp only [step, h]

theorem exec_keeps_inv {c : Instr} {s t : State} (hs : s.Inv) (h : exec c s = .next t) : t.Inv := by
  obtain ⟨u, hu, hfit⟩ := exec_stays c s (fit_self s)
  obtain rfl : t = u := Host.Outcome.next.inj (h.symm.trans hu)
  exact fit_inv hfit hs

/-- Settles O4, by whether the queue is empty; the queue is no part of the invariant. -/
theorem everyStepKeepsTheInvariant : Obligations.EveryStepKeepsTheInvariant := by
  intro s t hs h
  unfold Steps at h
  cases hq : s.pending with
  | nil =>
    obtain rfl := Host.Outcome.next.inj ((emptyQueueIdles s hq).symm.trans h)
    exact hs
  | cons c rest =>
    have hrest : State.Inv { s with pending := rest } := hs
    exact exec_keeps_inv hrest ((stepRunsTheFrontCommand c rest s hq).symm.trans h)

/-- Settles O5: at reset the memory, the log and the channels are empty. -/
theorem resetHasTheInvariant : Obligations.ResetHasTheInvariant := by
  have hlog : logOk [] 0 := by simp [logOk]
  have hshares : sharesOk [] [] := by simp [sharesOk]
  exact ⟨rfl, hlog, hshares⟩

/-! ### What no window touches -/

/-- Every window answers a next state, of which `Calm` holds where it held before. -/
theorem exec_still
    {k : EaselSt × Tbl Mailbox × Tbl EvRing × Tbl Aperture × TimeSt × Keys × Boot × HostPort × Tbl Histo × Tbl Graph × Units × Nat}
    (x : Instr) (s : State) (hx : x.isWindow = true) (h : Calm k s) : Still k (exec x s) := by
  match x, hx with
  | .admitWindow e, _ => exact execAdmitWindow_calm e s h
  | .route1 w, _ => exact execRoute1_calm w s h
  | .scatter e, _ => exact execScatter_calm e s h
  | .route2 w, _ => exact execRoute2_calm w s h
  | .scan w, _ => exact execScan_calm w s h
  | .nominate e, _ => exact execNominate_calm e s h
  | .fetchWindow w, _ => exact execFetchWindow_calm w s h
  | .rank e, _ => exact execRank_calm e s h
  | .rescore w, _ => exact execRescore_calm w s h
  | .deliver e, _ => exact execDeliver_calm e s h
  | .lookupWindow w, _ => exact execLookupWindow_calm w s h
  | .applyStage w, _ => exact execApplyStage_calm w s h
  | .updateStage w, _ => exact execUpdateStage_calm w s h
  | .compact e, _ => exact execCompact_calm e s h
  | .flashBackground e, _ => exact execFlashBackground_calm e s h
  | .migrateWindow e, _ => exact execMigrateWindow_calm e s h
  | .buildWindow e, _ => exact execBuildWindow_calm e s h
  | .swapSave e, _ => exact execSwapSave_calm e s h
  | .swapRestore e uncorrectable, _ => exact execSwapRestore_calm e uncorrectable s h
  | .setCombine e, _ => exact execSetCombine_calm e s h

theorem control_of_calm {s t : State}
    (h : Calm (s.easel, s.mbs, s.evRings, s.aps, s.time, s.keys, s.boot, s.host, s.histos, s.graphs, s.units, s.frame.num) t) :
    t.control = s.control ∧ t.frame.num = s.frame.num := by
  simp only [Calm, CalmOf, Prod.mk.injEq] at h
  simp only [State.control, h, and_self]

/-- Settles O31, by what the windows' own lemmas carry through. -/
theorem windowsKeepControl : Obligations.WindowsKeepControl := by
  intro x s t hx h
  obtain ⟨u, hu, hcalm⟩ := exec_still x s hx (calm_self s)
  obtain rfl : t = u := Host.Outcome.next.inj (h.symm.trans hu)
  exact control_of_calm hcalm

end Sys2Proof.Machine
end

section
/-! SUPPORT. The work of the mailbox commands of the easel, the mode and the array, where their checks pass; the statements on them,
settled. -/

namespace Sys2Proof.Machine

/-! ### Mailbox commands whose work is a checked change (R324, R325) -/

section
variable {g : Go} {s : State} {code : Nat} {body : MbBody} (h : s.takesGo g)
include h

/-- A command that is taken is answered with the end of its work, which may leave an INVALID's offset open (log entry 8). -/
theorem mailbox_taken (b : Bool) {u : State} {r : MbRes} (hb : body (s.begun code g) = (u, r)) :
    mailbox b code g body s = .next (s.answered (u.openOffset r).1 code g (u.openOffset r).2) := by
  obtain ⟨hlive, hfree⟩ := h
  unfold State.begun at hb
  simp only [mailbox, goMb, answers_of_live s hlive, hlive, hfree, hb, Bool.true_or, if_true, State.answered]
  rfl

theorem mailbox_ok (b : Bool) {t : State} {r : MbRes} (hb : body (s.begun code g) = (t, r)) (hr : r.status = 0) :
    mailbox b code g body s = .next (s.answered t code g r) :=
  mailbox_next b code g body s t r h hb fun hbad => absurd (hr.symm.trans hbad.1) (by decide)

theorem mailbox_invalidBare (b : Bool) (hb : body (s.begun code g) = (s.begun code g, MbRes.invalidBare)) :
    ∃ t r, mailbox b code g body s = .next (s.answered t code g r) ∧ r.status = stInvalid ∧ t.easel = s.easel :=
  ⟨_, _, mailbox_taken h b hb, rfl, rfl⟩

end

/-! ### The easel's commands (R34 to R36, R55) -/

section
variable {g : Go} {s : State}

theorem easelLoadBody_armed (hpf : decideRows [g.pfOnly, inv [g.strayArgs []]] = none) (harm : s.easel.arm.isSome) :
    easelLoadBody g s = (s, MbRes.invalidBare) := by
  rw [easelLoadBody, checked_none _ _ _ hpf, if_pos harm]

theorem easelLoadBody_loads (hpf : decideRows [g.pfOnly, inv [g.strayArgs []]] = none) (harm : s.easel.arm = none)
    (hsize : decideRows (g.pbRows 64 ++ easelSizeRows g) = none)
    (himage : decideRows [easelRow s g.pb, s.ownerSigRow g.pb (rd g.pb 0x38 4)] = none) :
    easelLoadBody g s = ({ s with easel := { s.easel with standby := some (easelOf g.pb) } }, MbRes.ok) := by
  rw [easelLoadBody, checked_none _ _ _ hpf, if_neg (by simp [harm]), checked_none _ _ _ hsize]
  simp only [himage]

theorem gatesLoadBody_armed (hpf : decideRows [g.pfOnly, inv [g.strayArgs []]] = none) (harm : s.easel.arm.isSome) :
    gatesLoadBody g s = (s, MbRes.invalidBare) := by
  rw [gatesLoadBody, checked_none _ _ _ hpf, if_pos harm]

theorem gatesLoadBody_loads (hpf : decideRows [g.pfOnly, inv [g.strayArgs []]] = none) (harm : s.easel.arm = none)
    (hlists : decideRows (g.pbRows 128 ++ gatesSizeRows g ++ [gatesRow s g.pb, s.ownerSigRow g.pb (rd g.pb 0x40 4)]) = none) :
    gatesLoadBody g s = ({ s with easel := { s.easel with gatesStandby := some (gatesOf g.pb) } }, MbRes.ok) := by
  rw [gatesLoadBody, checked_none _ _ _ hpf, if_neg (by simp [harm]), checked_none _ _ _ hlists]

theorem armBody_arms (hcancel : g.arg 0x14 4 1 ≠ 1) (hchecks : decideRows [g.pfOnly, inv (armChecks g s)] = none) :
    armBody g s = ({ s with easel := { s.easel with arm := some (g.arg 0x18 0 48, g.arg 0x14 0 4) } }, MbRes.ok) := by
  rw [armBody, if_neg hcancel, checked_none _ _ _ hchecks]

theorem armBody_cancels {a d : Nat} (hcancel : g.arg 0x14 4 1 = 1) (hpf : decideRows [g.pfOnly, inv [g.strayArgs armLayout]] = none)
    (harm : s.easel.arm = some (a, d)) (hearly : s.frame.num + 1 < a) :
    armBody g s = ({ s with easel := { s.easel with arm := none } }, MbRes.ok) := by
  rw [armBody, if_pos hcancel, checked_none _ _ _ hpf]
  simp only [harm, if_neg (Nat.not_le.mpr hearly)]

theorem modeSetBody_keeps (hchecks : decideRows [g.pfOnly, inv [g.strayArgs [(0x14, 0, 1), (0x14, 8, 5), (0x18, 0, 48)],
      (decide (16 < orDefault (g.arg 0x14 8 5) 2), 0x15),
      (g.arg 0x18 0 48 % s.hyperAt (g.arg 0x18 0 48) != 0 || decide (g.arg 0x18 0 48 ≤ s.frame.num + 1), 0x18)]] = none) :
    let l := insertBy (fun a b => decide (a.1 < b.1)) (g.arg 0x18 0 48, g.arg 0x14 0 1 == 1, orDefault (g.arg 0x14 8 5) 2)
      (s.frame.pendModes.filter fun p => p.1 != g.arg 0x18 0 48)
    modeSetBody g s = ({ s with frame := { s.frame with pendModes := l } }, MbRes.ok) := by
  rw [modeSetBody, checked_none _ _ _ hchecks]

end

/-- Settles O10: the checks do not look at the mailboxes, so what passes before BUSY is set passes after. -/
theorem easelCommandsTakeEffect : Obligations.EaselCommandsTakeEffect := by
  refine ⟨?load, ?gates, ?arm, ?cancel, ?mode, ?armed⟩
  case load => exact fun g s h hpf harm hsize himage => mailbox_ok h _ (easelLoadBody_loads hpf harm hsize himage) rfl
  case gates => exact fun g s h hpf harm hlists => mailbox_ok h _ (gatesLoadBody_loads hpf harm hlists) rfl
  case arm => exact fun g s h hcancel hchecks => mailbox_ok h _ (armBody_arms hcancel hchecks) rfl
  case cancel => exact fun g s a d h hcancel hpf harm hearly => mailbox_ok h _ (armBody_cancels hcancel hpf harm hearly) rfl
  case mode => exact fun g s h hchecks => mailbox_ok h _ (modeSetBody_keeps hchecks) rfl
  case armed =>
    rintro c code g s (⟨rfl, rfl⟩ | ⟨rfl, rfl⟩) h hpf harm
    · exact mailbox_invalidBare h _ (easelLoadBody_armed hpf harm)
    · exact mailbox_invalidBare h _ (gatesLoadBody_armed hpf harm)

/-! ### The array's commands (R18, R405 to R412) -/

/-- A field that is not broken decides nothing. -/
theorem decideRows_unbroken (row : CheckRow) (x : Bool × Nat) (o : Nat) :
    decideRows [row, inv [x, (false, o)]] = decideRows [row, inv [x]] := by
  simp only [decideRows, inv, List.filter_cons, Bool.false_eq_true, if_false]

section
variable {g : Go} {s : State}

theorem confirmBody_issues (hchecks : decideRows [g.pfOnly, inv [g.strayArgs [(0x14, 0, 10), (0x18, 0, 48)],
      (!(s.member.orders.any fun o => o.kind == 1 && o.subject == g.arg 0x14 0 10 && o.frame == g.arg 0x18 0 48), 0x14),
      (decide (g.arg 0x18 0 48 + s.holdFrames ≤ s.frame.num), 0x18)]] = none) :
    confirmBody g s = (s.issue { kind := 3, subject := g.arg 0x14 0 10, phys := 0, issuer := s.frame.logicalId,
                                 frame := s.acceptFrame g.cycle }, MbRes.ok) := by
  rw [confirmBody, checked_none _ _ _ hchecks]

theorem promoteBody_issues (hchecks : decideRows [g.pfOnly, inv [g.strayArgs [(0x14, 0, 10), (0x18, 0, 48)],
      (!(match s.member.shadow with | some sh => sh.passed | none => false) || !s.placeOpen (g.arg 0x14 0 10), 0x14),
      (decide (g.arg 0x18 0 48 < s.acceptFrame g.cycle + 16), 0x18)]] = none) :
    promoteBody g s = (s.issue { kind := 4, subject := g.arg 0x14 0 10, phys := s.frame.logicalId, issuer := s.frame.logicalId,
                                 frame := g.arg 0x18 0 48 }, { later := true }) := by
  rw [promoteBody]
  exact checked_none _ _ _ hchecks

theorem shadowBody_begins {encrypt : Bool} {p : Nat} (hport : s.auxPort (g.arg 0x14 0 10) = some p) (hjoined : s.frame.joined = true)
    (hspare : 512 ≤ s.frame.logicalId) (hfenced : s.member.fenced = false)
    (hgroups : (s.member.groups.any fun x => x.2.2 == s.frame.logicalId) = false)
    (hkey : encrypt = true → (s.port p).encrypted = true)
    (hchecks : decideRows [g.pfOnly, inv [g.strayArgs [(0x14, 0, 10)]]] = none) :
    let sh : Shadow := { target := g.arg 0x14 0 10, port := p, copied := false, clean := 0, passed := false, inputs := [], since := 0 }
    shadowBody g false false encrypt s = ({ s with member := { s.member with shadow := some sh } }, MbRes.ok) := by
  have hplain : (encrypt && !(s.port p).encrypted) = false := by
    cases encrypt with
    | false => rfl
    | true => simp [hkey rfl]
  have hlow : decide (s.frame.logicalId < 512) = false := decide_eq_false (Nat.not_lt.mpr hspare)
  simp only [shadowBody, hport, hjoined, hfenced, hgroups, hplain, hlow, Option.isNone_some, Bool.not_true, Bool.or_self,
    checked_none _ _ _ ((decideRows_unbroken ..).trans hchecks), Option.getD_some]

theorem joinBody_keeps (hout : s.frame.joined = false) (hfree : s.frame.join = none) (hservice : s.power.service ≠ 3)
    (hpf : decideRows [g.pfOnly] = none)
    (hchecks : decideRows [inv [g.strayArgs joinLayout, (decide (575 < g.arg 0x14 0 10), 0x14),
          (decide (g.arg 0x14 16 10 < 50) || decide (1000 < g.arg 0x14 16 10), 0x16),
          (s.unlikeHeard (g.arg64 0x18) (g.arg 0x14 16 10), 0x16),
          (g.arg64 0x20 == 0 || g.arg64 0x20 % 64 != 0, 0x20), (decide (16 < orDefault (g.arg 0x28 9 5) 2), 0x29),
          (g.arg64 0x30 == 0 || g.arg64 0x30 % 64 != 0, 0x30)]] = none)
    (hread1 : g.fail1 = none) (hrelay : badRelay g.ext1 = none) (hread2 : g.fail2 = none) (hgroups : badGroups g.ext2 = none) :
    let j : Join :=
      { logicalId := g.arg 0x14 0 10, frameLen := g.arg 0x14 16 10, epoch := g.arg64 0x18, gmPriority := g.arg 0x28 0 8,
        exact := g.arg 0x28 8 1 == 1, buddyLag := orDefault (g.arg 0x28 9 5) 2, takeoverHold := orDefault (g.arg 0x2C 0 16) 100,
        shadowFrames := orDefault (g.arg 0x2C 16 16) 1024, relay := (relayOf g.ext1).map (·.2),
        groups := (groupsOf 64 g.ext2 0).map fun x => (x.1, x.2.1, x.2.2.1) }
    joinBody g s = ({ s with frame := { s.frame with join := some (s.acceptFrame g.cycle, j) } }, { later := true }) := by
  have htaken : (s.frame.joined || s.frame.join.isSome || s.power.service == 3) = false := by simp [hout, hfree, hservice]
  rw [joinBody, checked_none _ _ _ hpf]
  simp only [htaken, Bool.false_eq_true, if_false, checked_none _ _ _ hchecks, hread1, hrelay, hread2, hgroups, Option.none_or]

theorem leaveBody_keeps (hjoined : s.frame.joined = true) (hchecks : decideRows [g.pfOnly, inv [g.strayArgs [(0x18, 0, 48)]]] = none) :
    leaveBody g s = ({ s with frame := { s.frame with leave := some (g.arg 0x18 0 48) } }, { later := true }) := by
  rw [leaveBody, checked_none _ _ _ hchecks, if_neg (by simp [hjoined])]

end

/-- Settles O16: each command by its work where its checks pass, and the join and the leave by what the change of numbering leaves of the
frame's settings. -/
theorem arrayCommandsTakeEffect : Obligations.ArrayCommandsTakeEffect := by
  refine ⟨?confirm, ?promote, ?shadow, ?join, ?leave, ?joined, ?left⟩
  case confirm => exact fun g s h hchecks => mailbox_ok h _ (confirmBody_issues hchecks) rfl
  case promote => exact fun g s h hchecks => mailbox_ok h _ (promoteBody_issues hchecks) rfl
  case shadow =>
    exact fun g encrypt s p h hport hjoined hspare hfenced hgroups hkey hchecks =>
      mailbox_ok h _ (shadowBody_begins hport hjoined hspare hfenced hgroups hkey hchecks) rfl
  case join =>
    exact fun g s h hout hfree hservice hpf hchecks hread1 hrelay hread2 hgroups =>
      mailbox_ok h _ (joinBody_keeps hout hfree hservice hpf hchecks hread1 hrelay hread2 hgroups) rfl
  case leave => exact fun g s h hjoined hchecks => mailbox_ok h _ (leaveBody_keeps hjoined hchecks) rfl
  case joined => exact fun s j => ⟨rfl, rfl, rfl, rfl, rfl, rfl, rfl, rfl, rfl, rfl, rfl⟩
  case left => exact fun s => ⟨rfl, rfl⟩

end Sys2Proof.Machine
end

section
/-! SUPPORT. Doorbells, the frame of eligibility, a frame's capacities and the reads that latch; the statements on them, settled. -/

namespace Sys2Proof.Machine

/-! ### Doorbells (R339, R340) -/

section
variable (fn cycle : Nat) (w : BitVec 64) {s : State} (h : s.live = true)
include h

theorem exec_doorbellSubmissionTail (size : Nat) :
    exec (.doorbellSubmissionTail fn cycle size w) s = .next (s.doorbell fn cycle size w.toNat) :=
  whenLive_live (fun s => s.doorbell fn cycle size w.toNat) s h

theorem exec_doorbellCompletionHead (size : Nat) :
    exec (.doorbellCompletionHead fn cycle size w) s = .next (s.doorbell fn cycle size w.toNat) :=
  whenLive_live (fun s => s.doorbell fn cycle size w.toNat) s h

/-- Both commands write a doorbell; the value's KIND, not the command, says which of the two it is (R339). -/
theorem exec_doorbell (size : Nat) {x : Instr}
    (hx : x = .doorbellSubmissionTail fn cycle size w ∨ x = .doorbellCompletionHead fn cycle size w) :
    exec x s = .next (s.doorbell fn cycle size w.toNat) := by
  obtain rfl | rfl := hx
  · exact exec_doorbellSubmissionTail fn cycle w h size
  · exact exec_doorbellCompletionHead fn cycle w h size

end

section
variable {s : State} {fn v : Nat} {c : Chan} {r : Ring} (cycle : Nat)

theorem doorbell_of_bell (h : s.bell fn v c r) :
    s.doorbell fn cycle 8 v = if dbKind v = 0 then s.submissionTail fn (dbSlot v) (dbRing v) (dbIndex v) cycle r
      else s.completionHead fn (dbSlot v) (dbRing v) (dbIndex v) r := by
  obtain ⟨hslot, hfn, hgen, hring, hactive, hreserved, hindex⟩ := h
  simp [State.doorbell, hslot, hfn, hgen, hring, hactive, hreserved, Nat.not_le.mpr hindex]

theorem doorbell_tail (h : s.bell fn v c r) (hk : dbKind v = 0) :
    s.doorbell fn cycle 8 v = s.submissionTail fn (dbSlot v) (dbRing v) (dbIndex v) cycle r := by
  rw [doorbell_of_bell cycle h, if_pos hk]

theorem doorbell_head (h : s.bell fn v c r) (hk : dbKind v = 1) :
    s.doorbell fn cycle 8 v = s.completionHead fn (dbSlot v) (dbRing v) (dbIndex v) r := by
  rw [doorbell_of_bell cycle h, if_neg (by omega)]

/-- A doorbell that names no channel of the function by SLOT and GEN counts for the function. -/
theorem doorbell_unnamed {size : Nat} (h : size ≠ 8 ∨ ∀ c, tget s.chans (dbSlot v) = some c → c.fn ≠ fn ∨ c.gen ≠ dbGen v) :
    s.doorbell fn cycle size v = s.discardDoorbell fn none := by
  unfold State.doorbell
  by_cases hsize : size = 8
  · rw [if_neg (not_not_intro hsize)]
    have hnone := h.resolve_left (not_not_intro hsize)
    cases hslot : tget s.chans (dbSlot v) with
    | none => rfl
    | some c => exact if_pos (hnone c hslot)
  · rw [if_pos hsize]

/-- A doorbell of a channel of the function that rings none of its rings counts for the channel. -/
theorem doorbell_named (hslot : tget s.chans (dbSlot v) = some c) (hfn : c.fn = fn) (hgen : c.gen = dbGen v)
    (hbad : c.st ≠ .active ∨ dbReserved v = true ∨ ∀ r, c.rings[dbRing v]? = some r → 2 ^ r.log2 ≤ dbIndex v) :
    s.doorbell fn cycle 8 v = s.discardDoorbell fn (some (dbSlot v)) := by
  simp only [State.doorbell, ne_eq, not_true_eq_false, if_false, hslot, hfn, hgen, or_self]
  cases hring : c.rings[dbRing v]? with
  | none => rfl
  | some r => exact if_pos (hbad.imp_right fun h => h.imp_right fun hall => hall r hring)

end

/-- Settles O18, by what the doorbell names: nothing of the function's, no ring, or a ring that takes or does not take the index. -/
theorem doorbellsTakeEffect : Obligations.DoorbellsTakeEffect := by
  refine ⟨?tail, ?full, ?unnamed, ?head, ?beyond, ?named, ?counts⟩
  case tail =>
    intro fn cycle w s c r h hbell hkind size n hroom
    rw [exec_doorbellSubmissionTail fn cycle w h, doorbell_tail cycle hbell hkind]
    exact congrArg _ (if_neg (Nat.not_le.mpr hroom))
  case full =>
    intro fn cycle w s c r h hbell hkind hfull
    rw [exec_doorbellSubmissionTail fn cycle w h, doorbell_tail cycle hbell hkind]
    exact congrArg _ (if_pos hfull)
  case unnamed =>
    intro x fn cycle size w s hx h hbad
    rw [exec_doorbell fn cycle w h size hx, doorbell_unnamed cycle hbad]
  case head =>
    intro fn cycle w s c r h hbell hkind n hread
    rw [exec_doorbellCompletionHead fn cycle w h, doorbell_head cycle hbell hkind]
    exact congrArg _ (if_neg (Nat.not_lt.mpr hread))
  case beyond =>
    intro fn cycle w s c r h hbell hkind hbeyond
    rw [exec_doorbellCompletionHead fn cycle w h, doorbell_head cycle hbell hkind]
    exact congrArg _ (if_pos hbeyond)
  case named =>
    intro x fn cycle w s c hx h hslot hfn hgen hbad
    rw [exec_doorbell fn cycle w h 8 hx, doorbell_named cycle hslot hfn hgen hbad]
  case counts => exact fun s fn slot => ⟨rfl, rfl⟩

/-! ### The frame of eligibility (R21) -/

/-- Where a delay lies between k and k + 1 frames, the first frame that starts after it is the (k + 1)-th. -/
theorem frame_start_after {len delay k : Nat} (above : k * len < delay) (within : delay ≤ (k + 1) * len) (n f : Nat) :
    n + (k + 1) ≤ f ↔ n * len + delay ≤ f * len := by
  constructor
  · intro h
    calc n * len + delay ≤ n * len + (k + 1) * len := Nat.add_le_add_left within _
      _ = (n + (k + 1)) * len := (Nat.add_mul ..).symm
      _ ≤ f * len := Nat.mul_le_mul_right len h
  · intro h
    refine Nat.le_of_not_lt fun hf => ?_
    have hk : f ≤ n + k := by omega
    have : f * len ≤ n * len + k * len := Nat.add_mul n k len ▸ Nat.mul_le_mul_right len hk
    omega

/-- Settles O19, by whether 20 µs of the frame are left when the command lands. -/
theorem eligibleFrame : Obligations.EligibleFrame := by
  intro s cycle f hlen hcycle
  unfold State.eligible
  rw [Nat.add_assoc]
  split
  case isTrue h => exact frame_start_after (k := 0) (by omega) (by omega) _ _
  case isFalse h => exact frame_start_after (k := 1) (by omega) (by omega) _ _

/-! ### A frame's capacities (R56, R57, R272) and the reads that latch (R23, R301) -/

/-- Settles O56, by whether a frame is shorter than 200 µs. -/
theorem capacitiesOfAFrame : Obligations.CapacitiesOfAFrame := by
  intro s
  constructor
  · intro h
    simp only [State.caps, if_pos h]
  · intro h
    simp only [State.caps, if_neg (Nat.not_le.mpr h)]

/-- Settles O25, register by register. -/
theorem frameAndTimeReads : Obligations.FrameAndTimeReads := by
  constructor
  · intro fn cycle s h
    simp only [exec, execFrameNumLoRead, whenAnswered_answers _ s h]
  · intro fn cycle s h
    simp only [exec, execNtNsLoRead, whenAnswered_answers _ s h, State.networkTime]

end Sys2Proof.Machine
end

section
/-! SUPPORT. Windows that run their stage, and the admission of one command; the statements on them, settled. -/

namespace Sys2Proof.Machine

/-! ### The windows of tables, updates, sets, maintenance, builds and swaps (R28) -/

/-- Settles O30, by the two frames under which a window that runs does its stage's work. -/
theorem otherWindowsTakeEffect : Obligations.OtherWindowsTakeEffect := by
  intro n e rf s
  simp only [exec, execLookupWindow, execApplyStage, execUpdateStage, execSetCombine, execCompact, execFlashBackground, execMigrateWindow,
    execBuildWindow, execSwapSave, execSwapRestore]
  refine ⟨?lookup, ?apply, ?update, ?combine, ?compact, ?flash, ?migrate, ?build, ?save, ?restore⟩
  case lookup | apply | update | combine | compact | build | save => exact inWindow_runs n _ _ s e
  case flash | migrate => exact inNodeWindow_runs n _ _ s e
  case restore => exact fun u => inWindow_runs n _ _ s e

/-! ### Admission of one command (R55, R58, R59) -/

section
variable {s : State} {c : Cmd} {ch : Chan}

theorem admitOne_gap (b : Bool) (hgap : s.updateGap = true) (hupd : isUpdate c.op = true) :
    State.admitOne { st := s, stopped := b } c = { st := s, stopped := b } := by
  simp only [State.admitOne, hgap, hupd, Bool.and_self, if_true]

section
variable (hopen : s.updateGap = false ∨ isUpdate c.op = false)
include hopen

theorem admitOne_stopped : State.admitOne { st := s, stopped := true } c = { st := s.deferCmd c, stopped := true } := by
  simp only [State.admitOne, Bool.and_eq_false_iff.mpr hopen, Bool.false_eq_true, if_false, if_true]

theorem admitOne_reading (hread : c.passed = false) :
    State.admitOne { st := s, stopped := false } c = { st := s.deferCmd c, stopped := true } := by
  simp only [State.admitOne, Bool.and_eq_false_iff.mpr hopen, hread, Bool.not_false, Bool.false_eq_true, if_false, if_true]

theorem admitOne_gone (hread : c.passed = true) (hgone : s.objectGone c = true) :
    State.admitOne { st := s, stopped := false } c = { st := s.refuseCmd c stNoObject 0 0, stopped := false } := by
  simp only [State.admitOne, Bool.and_eq_false_iff.mpr hopen, hread, hgone, Bool.not_true, Bool.false_eq_true, if_false, if_true]

/-- A command that is whole and whose object is there is admitted where it fits what is left of its channel's shares. -/
theorem admitOne_whole (hc : tget s.chans c.slot = some ch) (hread : c.passed = true) (hgone : s.objectGone c = false) :
    let charges := s.charges s.frame.exact c.slot c.op c.entry
    State.admitOne { st := s, stopped := false } c =
      if leL (addL ch.homeUsed charges) ch.shares = true then { st := s.admitCmd c charges, stopped := false }
      else { st := s.deferCmd c, stopped := true } := by
  simp only [State.admitOne, Bool.and_eq_false_iff.mpr hopen, hread, hgone, hc, Bool.not_true, Bool.false_eq_true, if_false]

end

variable (hc : tget s.chans c.slot = some ch)
include hc

theorem deferCmd_again (h : c.deferred < ch.deferMax) :
    s.deferCmd c = ({ s with frame := { s.frame with defers := tcount s.frame.defers ch.fn 1 } } : State).mapCmd c.land fun x =>
      { x with deferred := x.deferred + 1, elig := s.frame.num + 1 } := by
  simp only [State.deferCmd, hc, if_neg (Nat.not_le.mpr h)]

theorem deferCmd_late (h : ch.deferMax ≤ c.deferred) : s.deferCmd c = s.refuseCmd c stLate 0 0 := by
  simp only [State.deferCmd, hc, if_pos h]

end

/-- Settles O32, by what holds the command back, in the order in which `State.admitOne` asks. -/
theorem admissionOfOneCommand : Obligations.AdmissionOfOneCommand := by
  refine ⟨?one, ?deferral, fun s c charges => rfl⟩
  case one =>
    intro s c ch b hc charges
    refine ⟨admitOne_gap b, fun hopen => ⟨admitOne_stopped hopen, admitOne_reading hopen, admitOne_gone hopen, ?_⟩⟩
    intro hread hgone
    have hwhole := admitOne_whole hopen hc hread hgone
    constructor
    · exact fun hfits => hwhole.trans (if_pos hfits)
    · exact fun hshort => hwhole.trans (if_neg (Bool.eq_false_iff.mp hshort))
  case deferral => exact fun s c ch hc => ⟨deferCmd_again hc, deferCmd_late hc⟩

end Sys2Proof.Machine
end

section
/-! SUPPORT. The start of a frame, the commit window, STANDBY and OFF-READY; the statements on them, settled. -/

namespace Sys2Proof.Machine

/-! ### The start of a frame and the commit window (R19, R24, R409) -/

theorem nextNumber_advances (s : State) (hjoin : s.frame.join = none) (hleave : s.frame.leave = none) :
    s.nextNumber = { s with frame := { s.frame with num := s.frame.num + 1, cycle := 0, committed := false, ran := [] } } := by
  simp only [State.nextNumber, State.leaveDue, hleave, hjoin]

/-- The buckets of a channel at a frame's start: the tokens grow by the rates where the channel is policed, and are full where it is not. -/
theorem frameStart_tokens (c : Chan) (f : Nat) :
    let b := c.bucketNext
    (c.police = true → (c.frameStart f).cTok = min b.cbs (c.cTok + b.cir) ∧ (c.frameStart f).pTok = min b.pbs (c.pTok + b.pir)) ∧
    (c.police = false → (c.frameStart f).cTok = b.cbs ∧ (c.frameStart f).pTok = b.pbs) := by
  constructor <;> intro h <;> simp [Chan.frameStart, h]

section
variable (i : CwIn) {s : State} (h : s.live = true)
include h

theorem exec_commitWindow :
    exec (.commitWindow i) s = .next (if s.frame.committed then s else (s.shadowRun.commit i).mirrorClose) :=
  whenLive_live (fun s => if s.frame.committed then s else (s.shadowRun.commit i).mirrorClose) s h

theorem exec_commitWindow_again (hc : s.frame.committed = true) : exec (.commitWindow i) s = .next s := by
  rw [exec_commitWindow i h, if_pos hc]

theorem exec_commitWindow_first (hc : s.frame.committed = false) :
    exec (.commitWindow i) s = .next ((s.shadowRun.commit i).mirrorClose) := by
  rw [exec_commitWindow i h, if_neg (by simp [hc])]

end

theorem shadowRun_unshadowed (s : State) (h : s.member.shadow = none) : s.shadowRun = s := by
  simp only [State.shadowRun, h]

theorem mirrorClose_unmirrored (s : State) (h : s.member.mirror = none) : s.mirrorClose = s := by
  simp only [State.mirrorClose, h]

/-- Settles O34: the steps stand in the order in which `State.frameStart` and `State.commit` are written. -/
theorem framesStartAndCommit : Obligations.FramesStartAndCommit := by
  refine ⟨?start, ?number, ?buckets, ?window, ?steps, ?shadow⟩
  case start => exact fun s h => whenLive_live State.frameStart s h
  case number => exact fun s => nextNumber_advances s
  case buckets =>
    intro c f b
    obtain ⟨hpoliced, hfull⟩ := frameStart_tokens c f
    exact ⟨rfl, hpoliced, hfull, rfl, rfl, rfl⟩
  case window => exact fun i s h => ⟨exec_commitWindow_again i h, exec_commitWindow_first i h⟩
  case steps => exact fun i s => rfl
  case shadow => exact fun s => ⟨shadowRun_unshadowed s, mirrorClose_unmirrored s⟩

/-! ### STANDBY and OFF-READY (R39, R418 to R420) -/

section
variable {s : State} {x : Nat}

theorem standbyDue_eq (hwant : s.power.want = some (3, x)) : s.standbyDue = (decide (x + 8 ≤ s.frame.num) && s.programmed) := by
  simp only [State.standbyDue, hwant]

theorem standbyEnter_not_due (h : s.standbyDue = false) : s.standbyEnter = s :=
  if_neg (by simp [h])

theorem exec_standbyEntry_due (hlive : s.live = true) (hcommitted : s.frame.committed = true) (h : s.standbyDue = true) :
    exec .standbyEntry s =
      .next ((((s.mapPower fun p => { p with state := 3, want := none }).unpowered.selfRefresh).setpoint 750).powerEnd) := by
  refine (whenLive_live _ s hlive).trans ?_
  rw [if_pos hcommitted, State.standbyEnter, if_pos h]

theorem exec_standbyEntry_not_due (h : s.standbyDue = false) : exec .standbyEntry s = .next s :=
  whenLive_fixed _ s (by rw [standbyEnter_not_due h, ite_self])

theorem offReady_drained (hwant : s.power.want = some (4, x)) (h : s.drained x = true) :
    s.offReady = (((s.flush true 1).mapPower fun p => { p with state := 4, want := none }).unpowered.setpoint 750).powerEnd := by
  simp only [State.offReady, hwant, h, if_true]

theorem offReady_draining (hwant : s.power.want = some (4, x)) (h : s.drained x = false) : s.offReady = s := by
  simp only [State.offReady, hwant, h, Bool.false_eq_true, if_false]

theorem standbyExit_to_work {st : Nat} (lanes : List Nat) (train : List (Nat × Option Nat)) (hwant : s.power.want = some (st, x))
    (hstandby : s.power.state = 3) (hst : st < 3) :
    let f := s.hyperFrom (s.frame.num + 1)
    let t : State := { s with power := { s.power with state := st, want := none, drainFrom := none }, ports := trainPorts s.ports lanes
                              easel := { s.easel with resume := f }, frame := { s.frame with admitFrom := max s.frame.admitFrom f } }
    s.standbyExit lanes train =
      ((if st = 1 then t.setpoint s.power.vlow else t).trainFlash (train.filter fun c => hasBit s.flash.live c.1)).powerEnd := by
  simp only [State.standbyExit, hwant, hstandby, hst, and_self, if_true]
  rfl

end

/-- Settles O52, by whether the entry, the exit or the flush is due. -/
theorem standbyAndOffReady : Obligations.StandbyAndOffReady := by
  refine ⟨?entry, ?early, ?leave, ?flush, ?draining⟩
  case entry =>
    intro x s hlive hcommitted hwant hframe hprogrammed
    exact exec_standbyEntry_due hlive hcommitted (by simp [standbyDue_eq hwant, hframe, hprogrammed])
  case early =>
    intro x s hwant hframe
    exact exec_standbyEntry_not_due (by simp [standbyDue_eq hwant, Nat.not_le.mpr hframe])
  case leave =>
    intro lanes train st x s hlive hwant hstandby hst
    exact (whenLive_live (fun s => s.standbyExit lanes train) s hlive).trans
      (congrArg _ (standbyExit_to_work lanes train hwant hstandby hst))
  case flush =>
    intro x s hlive hwant hdrained
    exact (whenLive_live _ s hlive).trans (congrArg _ (offReady_drained hwant hdrained))
  case draining => exact fun x s hwant h => whenLive_fixed _ s (offReady_draining hwant h)

end Sys2Proof.Machine
end

section
/-! SUPPORT. Checkpoint passes, captures, leaves and the events of moves; the statement on them, settled. -/

namespace Sys2Proof.Machine

/-! ### Checkpoint passes (R209) -/

theorem passDue_iff (s : State) (t : Table) : s.passDue t = true ↔ 0 < t.attr.ckpt ∧ s.frame.num % t.attr.ckpt = 0 := by
  simp [State.passDue]

section
variable {s : State} {slot : Nat} {h : Handle} {t : Table} (ht : s.table? slot h = some t)
include ht

theorem startPass_idle (hidle : t.pass = none) :
    s.startPass slot h = if t.changed.isEmpty then s.closePass slot h s.frame.num
      else s.mapTable slot h fun y => { y with pass := some (s.frame.num, y.changed), changed := [] } := by
  simp [State.startPass, ht, hidle]

theorem exec_checkpointPassStart_due (hlive : s.live = true) (hcommitted : s.frame.committed = true) (hdue : s.passDue t = true)
    (hidle : t.pass = none) (hclosed : t.closed ≠ s.frame.num) :
    exec (.checkpointPassStart slot h) s = .next (s.startPass slot h) := by
  change execCheckpointPassStart slot h s = _
  simp [execCheckpointPassStart, whenLive_live _ s hlive, ht, hdue, hcommitted, hidle, hclosed]

theorem exec_checkpointPassStart_early (hearly : s.passDue t = false ∨ s.frame.committed = false) :
    exec (.checkpointPassStart slot h) s = .next s := by
  change execCheckpointPassStart slot h s = _
  refine whenLive_fixed _ s ?_
  simp only [ht, Bool.and_eq_false_iff.mpr hearly, Bool.false_and, Bool.false_eq_true, if_false]

end

/-! ### Captures (R217) -/

theorem exec_captureDeadline (slot : Nat) (h : Handle) {s : State} (hlive : s.live = true) (hcommitted : s.frame.committed = true) :
    exec (.captureDeadline slot h) s = .next (s.captureMissed slot h) :=
  (whenLive_live _ s hlive).trans (congrArg _ (if_pos hcommitted))

section
variable {s : State} {slot : Nat} {h : Handle} {t : Table} {c : Capture} (ht : s.table? slot h = some t)
  (hheld : s.power.heldStarts = []) (hcap : t.captures = [c]) (hw : c.written = false)
include ht hheld hcap hw

theorem captureMissed_in_time (hearly : s.frame.num < c.frame + 8) : s.captureMissed slot h = s := by
  simp [State.captureMissed, ht, hheld, hcap, hw, hearly]

theorem captureMissed_late (hlate : c.frame + 8 ≤ s.frame.num) :
    s.captureMissed slot h = if s.frame.exact then s.faultRecord 7 0 0 0
      else (s.mapTable slot h fun y =>
        { y with captures := y.captures.filter (fun c' => c' != c), capElig := insNat c.row y.capElig }).faultRecord 7 0 0 0 := by
  have hne (x : Capture) : (x != c) = !decide (x = c) := rfl
  simp [State.captureMissed, ht, hheld, hcap, hw, hlate, hne]

end

/-! ### Leaving the array (R18) -/

theorem exec_arrayLeaveEffect {s : State} {a : Nat} (hlive : s.live = true) (hcommitted : s.frame.committed = true)
    (hleave : s.frame.leave = some a) :
    exec .arrayLeaveEffect s = .next (if a ≤ s.frame.num + 1 then s.leaveNow else s) := by
  refine (whenLive_live _ s hlive).trans ?_
  simp only [hcommitted, if_true, State.leaveDue, hleave]

/-! ### The events of moves (R89, R90, R397) -/

section
variable {s : State} {id : Nat} {m : Mig}

theorem exec_migrationAcceptance (hlive : s.live = true) (hm : (s.migs.find? fun m => m.id == id && m.source && !m.accepted) = some m)
    (accepted : Bool) :
    exec (.migrationAcceptance id accepted) s =
      .next (if accepted then s.mapMig m fun x => { x with accepted := true } else (s.logMove m 1).dropMig m) := by
  change execMigrationAcceptance id accepted s = _
  simp only [execMigrationAcceptance, whenLive_live _ s hlive, hm]

theorem exec_migrationFlip_some (hlive : s.live = true) (hm : (s.migs.find? fun m => m.id == id && m.source) = some m) :
    exec (.migrationFlip id) s = .next (s.flip m) := by
  change execMigrationFlip id s = _
  simp only [execMigrationFlip, whenLive_live _ s hlive, hm]

theorem exec_rebuildComplete_some (hlive : s.live = true)
    (hm : (s.migs.find? fun m => m.id == id && m.source && m.what == 3) = some m) :
    exec (.rebuildComplete id) s = .next (s.flip m) := by
  change execRebuildComplete id s = _
  simp only [execRebuildComplete, whenLive_live _ s hlive, hm]

section
variable (hnone : (s.migs.find? fun m => m.id == id && m.source) = none)
include hnone

theorem exec_migrationFlip_none : exec (.migrationFlip id) s = .next s := by
  change execMigrationFlip id s = _
  exact whenLive_fixed _ s (by simp only [hnone])

/-- A rebuild is a move: where the node is the source of no move with the ID, it is the source of no such rebuild. -/
theorem exec_rebuildComplete_none : exec (.rebuildComplete id) s = .next s := by
  have hrebuild : (s.migs.find? fun m => m.id == id && m.source && m.what == 3) = none := by
    rw [List.find?_eq_none] at hnone ⊢
    intro x hx
    simp [hnone x hx]
  change execRebuildComplete id s = _
  exact whenLive_fixed _ s (by simp only [hrebuild])

end

section
variable {c : Nat} (hend : m.ended = some c) (hsource : m.source = true) (hnum : s.frame.num = c + 1)
include hend hsource hnum

theorem flip_rebuild_unmirrored (hwhat : m.what = 3) (hmirror : s.mirrorTo m.dest = none) :
    s.flip m = s.announceAll [.holding s.frame.logicalId m.dest m.slot m.object m.number 0] := by
  simp [State.flip, hend, hsource, hnum, hwhat, hmirror]

theorem flip_rebuild_mirrored (hwhat : m.what = 3) (hmirror : (s.mirrorTo m.dest).isSome) : s.flip m = s := by
  simp [State.flip, hend, hsource, hnum, hwhat, hmirror]

theorem flip_move (hwhat : m.what ≠ 3) : s.flip m = s.announceAll (s.moveEntries m fun e => entryMoved e m.role m.dest) := by
  simp [State.flip, hend, hsource, hnum, hwhat]

end

theorem flip_other_frame (h : ∀ c, m.ended = some c → s.frame.num ≠ c + 1) : s.flip m = s := by
  unfold State.flip
  cases hend : m.ended with
  | none => rfl
  | some c => simp [h c hend]

end

/-- Settles O37, event by event, by whether the event's frame has come. -/
theorem passesAndMovesTakeEffect : Obligations.PassesAndMovesTakeEffect := by
  refine ⟨?pass, ?noPass, ?deadline, ?bounded, ?exact, ?leave, ?accepted, ?flip, ?rebuilt, ?none, ?announced, ?silent⟩
  case pass =>
    intro slot h s t hlive hcommitted ht hckpt hframe hidle hclosed
    rw [exec_checkpointPassStart_due ht hlive hcommitted ((passDue_iff s t).mpr ⟨hckpt, hframe⟩) hidle hclosed, startPass_idle ht hidle]
  case noPass =>
    intro slot h s t ht hnot
    have hwait (h : ¬(0 < t.attr.ckpt ∧ s.frame.num % t.attr.ckpt = 0)) : s.passDue t = false :=
      Bool.eq_false_iff.mpr (mt (passDue_iff s t).mp h)
    obtain hnever | hframe | hopen := hnot
    · exact exec_checkpointPassStart_early ht (.inl (hwait fun hdue => Nat.ne_of_gt hdue.1 hnever))
    · exact exec_checkpointPassStart_early ht (.inl (hwait fun hdue => hframe hdue.2))
    · exact exec_checkpointPassStart_early ht (.inr hopen)
  case deadline => exact fun slot h s hlive hcommitted => exec_captureDeadline slot h hlive hcommitted
  case bounded =>
    intro slot h s t c ht hheld hmode hcap hw
    refine ⟨captureMissed_in_time ht hheld hcap hw, fun hlate => ?_⟩
    rw [captureMissed_late ht hheld hcap hw hlate, if_neg (by simp [hmode])]
  case exact =>
    intro slot h s t c ht hheld hmode hcap hw hlate
    rw [captureMissed_late ht hheld hcap hw hlate, if_pos hmode]
  case leave => exact fun s a hlive hcommitted hleave => exec_arrayLeaveEffect hlive hcommitted hleave
  case accepted =>
    exact fun id s m hlive hm => ⟨exec_migrationAcceptance hlive hm true, exec_migrationAcceptance hlive hm false⟩
  case flip => exact fun id s m hlive hm => exec_migrationFlip_some hlive hm
  case rebuilt => exact fun id s m hlive hm => exec_rebuildComplete_some hlive hm
  case none => exact fun id s hnone => ⟨exec_migrationFlip_none hnone, exec_rebuildComplete_none hnone⟩
  case announced =>
    exact fun s m c hend hsource hnum => ⟨flip_rebuild_unmirrored hend hsource hnum, flip_rebuild_mirrored hend hsource hnum,
      flip_move hend hsource hnum⟩
  case silent => exact fun s m h => flip_other_frame h

end Sys2Proof.Machine
end

section
/-! SUPPORT. The work of the mailbox commands of indexes, tables, allow-sets, graphs and palettes, and of BUILD and MIGRATE, where their
checks pass; the statements on them, settled. -/

namespace Sys2Proof.Machine

/-! ### Refusals with INVALID (R458, log entry 8) -/

/-- A row with a broken condition refuses the command. -/
theorem decideRows_inv_broken {l : List (Bool × Nat)} {x : Bool × Nat} (hx : x ∈ l) (hbroken : x.1 = true) :
    ∃ o, decideRows [inv l] = some (stInvalid, o) := by
  have hmem : x.2 ∈ (l.filter (·.1)).map (·.2) := List.mem_map_of_mem (List.mem_filter.mpr ⟨hx, hbroken⟩)
  simp only [decideRows, inv]
  split
  next hnil => simp [hnil] at hmem
  next => exact ⟨_, rfl⟩

@[simp] theorem openOffset_status (s : State) (r : MbRes) : (s.openOffset r).2.status = r.status := by
  unfold State.openOffset; split <;> rfl

@[simp] theorem openOffset_indexes (s : State) (r : MbRes) : (s.openOffset r).1.indexes = s.indexes := by
  unfold State.openOffset; split <;> rfl

/-! ### Indexes and tables (R64, R71, R188, R325) -/

section
variable {g : Go} {s : State} {slot : Nat} {c : Chan}

/-- Rows beyond what the node may reserve break the row's condition of ROWS_RESERVED, its tenth (R64). -/
theorem indexRow_rows_exceeded (b : Bytes) (hover : 3 * 2 ^ 30 < s.rowsReserved + (indexAttrOf b).rows) :
    ∃ o, decideRows [indexRow s slot c b] = some (stInvalid, o) := by
  have hbroken : ((indexAttrOf b).rows == 0 || decide (3 * 2 ^ 30 < s.rowsReserved + (indexAttrOf b).rows) ||
      decide ((s.openLeft slot c).length < bitmapUnits (indexAttrOf b).rows)) = true := by
    rw [decide_eq_true hover, Bool.or_true, Bool.true_or]
  exact decideRows_inv_broken (List.mem_of_getElem? (i := 9) rfl) hbroken

section
variable (hchan : s.chanOf g.fn g.chan = some (slot, c)) (hlive : c.st ≠ .retired)
include hchan hlive

theorem indexCreateBody_refused {p : Nat × Nat} (hargs : decideRows [inv [g.strayArgs []]] = none)
    (hpb : decideRows (g.pbRows 64) = none) (hrow : decideRows [indexRow s slot c g.pb] = some p) :
    indexCreateBody g s = (s, MbRes.refuse p) := by
  rw [indexCreateBody, checked_none _ _ _ hargs, withChan_some _ _ _ _ _ hchan hlive, checked_none _ _ _ hpb]
  simp only [hrow]

theorem indexCreateBody_creates (hargs : decideRows [inv [g.strayArgs []]] = none) (hpb : decideRows (g.pbRows 64) = none)
    (hrow : decideRows [indexRow s slot c g.pb] = none) (hread : g.fail1 = none)
    (hroute : badRoute g.ext1 (indexAttrOf g.pb).regions = none)
    (hfits : indexFits s slot c (indexAttrOf g.pb) (routeOf g.ext1 (indexAttrOf g.pb).regions) = true) :
    let a := indexAttrOf g.pb
    let us := (s.openLeft slot c).take (bitmapUnits a.rows)
    let x : Index :=
      { attr := a, route := routeOf g.ext1 a.regions,
        cur := { blank := some (a.regions, a.listsInit, a.dim, a.tipin), centroids := [], lists := [] }, old := none, next := none,
        rowsUsed := [], rowsFreeable := [], tombUnits := us, tombRows := [], tombLog := [], dropped := none }
    indexCreateBody g s =
      ({ s with indexes := tput s.indexes (objKey slot (BitVec.ofNat 32 (rd g.pb 0 4))) x,
                dram := { s.dram with mem := zeroUnits s.dram.mem us } },
       { handle := (BitVec.ofNat 32 (rd g.pb 0 4) : Handle).toNat }) := by
  rw [indexCreateBody, checked_none _ _ _ hargs, withChan_some _ _ _ _ _ hchan hlive, checked_none _ _ _ hpb]
  simp only [hrow, hread, hroute, hfits, Option.none_or, Bool.not_true, Bool.false_eq_true, if_false]

theorem tableCreateBody_creates (hargs : decideRows [inv [g.strayArgs []]] = none) (hpb : decideRows (g.pbRows 96) = none)
    (hrow : decideRows [tableRow s slot g.pb] = none) (hread : g.fail1 = none)
    (hroute : badRoute g.ext1 (shardCount (tableAttrOf g.pb)) = none)
    (hfits : tableFits s slot c (tableAttrOf g.pb) (routeOf g.ext1 (shardCount (tableAttrOf g.pb))) = true) :
    let a := tableAttrOf g.pb
    let t : Table :=
      { attr := a, route := routeOf g.ext1 (shardCount a), hot := [], rows := [], heat := [], counts := [], top := [], saved := [],
        pass := none, changed := [], closed := 0, capElig := [], captures := [], items := [], fresh := [], dropped := none }
    tableCreateBody g s =
      ({ s.forgetPuts slot (BitVec.ofNat 32 (rd g.pb 0 4)) with
          tables := tput s.tables (objKey slot (BitVec.ofNat 32 (rd g.pb 0 4))) t },
       { handle := (BitVec.ofNat 32 (rd g.pb 0 4) : Handle).toNat }) := by
  rw [tableCreateBody, checked_none _ _ _ hargs, withChan_some _ _ _ _ _ hchan hlive, checked_none _ _ _ hpb]
  simp only [hrow, hread, hroute, hfits, Option.none_or, Bool.not_true, Bool.false_eq_true, if_false]

theorem indexDropBody_plans (hargs : decideRows [inv [g.strayArgs [(0x14, 0, 32)]]] = none)
    (hindex : (s.index? slot (Go.object g)).isSome) :
    indexDropBody g s = (s.plan (s.acceptFrame g.cycle) g.fn (.dropIndex slot (Go.object g)), { later := true }) := by
  obtain ⟨x, hx⟩ := Option.isSome_iff_exists.mp hindex
  rw [indexDropBody, checked_none _ _ _ hargs, withChan_some _ _ _ _ _ hchan hlive]
  simp only [hx]

theorem tableDropBody_plans (hargs : decideRows [inv [g.strayArgs [(0x14, 0, 32)]]] = none)
    (htable : (s.table? slot (Go.object g)).isSome) :
    tableDropBody g s = (s.plan (s.acceptFrame g.cycle) g.fn (.dropTable slot (Go.object g)), { later := true }) := by
  obtain ⟨x, hx⟩ := Option.isSome_iff_exists.mp htable
  rw [tableDropBody, checked_none _ _ _ hargs, withChan_some _ _ _ _ _ hchan hlive]
  simp only [hx]

end
end

/-- Settles O60: the one row of the parameter block is broken, and its refusal leaves the indexes. -/
theorem indexRowsAreLimited : Obligations.IndexRowsAreLimited := by
  intro g s slot c h hargs hchan hlive hpb hover
  obtain ⟨o, hrow⟩ := indexRow_rows_exceeded (slot := slot) (c := c) g.pb hover
  have hbody : indexCreateBody g (s.begun 0x30 g) = (s.begun 0x30 g, MbRes.refuse (stInvalid, o)) :=
    indexCreateBody_refused (s := s.begun 0x30 g) hchan hlive hargs hpb hrow
  exact ⟨_, _, mailbox_taken h false hbody, openOffset_status .., openOffset_indexes ..⟩

/-- Settles O11: the checks do not look at the mailboxes, so what passes before BUSY is set passes after; the lists of a new index are
blank, as the model represents them (log entry 15). -/
theorem indexAndTableCommandsTakeEffect : Obligations.IndexAndTableCommandsTakeEffect := by
  refine ⟨?index, ?table, ?drops⟩
  case index =>
    exact fun g s slot c h hargs hchan hlive hpb hrow hread hroute hfits =>
      mailbox_ok h _ (indexCreateBody_creates hchan hlive hargs hpb hrow hread hroute hfits) rfl
  case table =>
    exact fun g s slot c h hargs hchan hlive hpb hrow hread hroute hfits =>
      mailbox_ok h _ (tableCreateBody_creates hchan hlive hargs hpb hrow hread hroute hfits) rfl
  case drops =>
    exact fun g s slot c h hargs hchan hlive =>
      ⟨fun hindex => mailbox_ok h _ (indexDropBody_plans hchan hlive hargs hindex) rfl,
        fun htable => mailbox_ok h _ (tableDropBody_plans hchan hlive hargs htable) rfl⟩

/-! ### Allow-sets, graphs and palettes (R83, R137, R303, R304) -/

theorem mem_insertBy {α : Type} {lt : α → α → Bool} {x y : α} {l : List α} : y ∈ insertBy lt x l ↔ y = x ∨ y ∈ l := by
  induction l with
  | nil => simp [insertBy]
  | cons z l ih =>
    unfold insertBy
    split
    · simp
    · simp [ih, or_left_comm]

section
variable {act : Nat} {img : Bytes}

/-- What waits beside a new image: the images for other activation frames. -/
theorem mem_withNextGraph_next {x : Graph} {p : Nat × Bytes} :
    p ∈ (withNextGraph (some x) act img).next ↔ p = (act, img) ∨ (p ∈ x.next ∧ p.1 ≠ act) := by
  simp [withNextGraph, mem_insertBy]

theorem mem_withNextGraph_next_act {t : Option Graph} {i : Bytes} : (act, i) ∈ (withNextGraph t act img).next ↔ i = img := by
  cases t with
  | none => simp [withNextGraph]
  | some x => simp [mem_withNextGraph_next]

theorem mem_withNextGraph_next_other {x : Graph} {p : Nat × Bytes} (hp : p.1 ≠ act) :
    p ∈ (withNextGraph (some x) act img).next ↔ p ∈ x.next := by
  have hne : p ≠ (act, img) := fun h => hp (congrArg Prod.fst h)
  simp [mem_withNextGraph_next, hne, hp]

end

section
variable {g : Go} {s : State} {slot : Nat} {c : Chan} (hchan : s.chanOf g.fn g.chan = some (slot, c)) (hlive : c.st ≠ .retired)
include hchan hlive

theorem allowsetCreateBody_plans {x : Index} (hrow : decideRows [setRow g s slot c] = none)
    (hx : s.index? slot (BitVec.ofNat 32 (g.arg 0x18 0 32)) = some x)
    (hsets : g.arg 0x1C 8 1 = 1 →
      ∀ h ∈ (setOperands g).take (((setOps g).take (opCount (setOps g))).length + 1), (s.set? slot h).isSome) :
    let d := g.arg 0x1C 8 1 == 1
    let ops := (setOps g).take (opCount (setOps g))
    let y : AllowSet :=
      { index := BitVec.ofNat 32 (g.arg 0x18 0 32), derived := d, ops := ops,
        sets := if d then (setOperands g).take (ops.length + 1) else [],
        units := (s.openLeft slot c).take (bitmapUnits x.attr.rows), stamp := 0, fresh := true, dirty := [], inits := 0, rows := [],
        bitLog := [], dropped := none }
    allowsetCreateBody g s =
      (s.plan (s.acceptFrame g.cycle) g.fn (.createSet slot (Go.object g) y), { handle := (Go.object g).toNat, later := true }) := by
  have hknown : (g.arg 0x1C 8 1 == 1 && ((setOperands g).take (((setOps g).take (opCount (setOps g))).length + 1)).any
      fun h => (s.set? slot h).isNone) = false := by
    simpa [Option.isSome_iff_ne_none] using hsets
  rw [allowsetCreateBody, withChan_some _ _ _ _ _ hchan hlive]
  simp only [hrow, hx, hknown, Bool.false_eq_true, if_false]

theorem graphLoadBody_waits {x : Index}
    (hargs : decideRows [inv [g.strayArgs [(0x14, 0, 32), (0x18, 0, 48)], (decide (g.arg 0x18 0 48 ≤ s.frame.num + 1), 0x18)]] = none)
    (hx : s.index? slot (Go.object g) = some x)
    (himage : decideRows (g.pbRows 64 ++ graphSizeRows g ++
      [graphRow s slot c x.attr g.pb, s.ownerSigRow g.pb (rd g.pb 0x38 4)]) = none) :
    let y := withNextGraph (tget s.graphs (objKey slot (Go.object g))) (g.arg 0x18 0 48) (g.pb.take (rd g.pb 16 8))
    graphLoadBody g s =
      ({ s with graphs := tput s.graphs (objKey slot (Go.object g)) y }, { handle := 4 * 2 ^ 28 + hNumber (Go.object g) }) := by
  rw [graphLoadBody, checked_none _ _ _ hargs, withChan_some _ _ _ _ _ hchan hlive]
  simp only [hx, checked_none _ _ _ himage]

theorem paletteSetBody_plans (hargs : decideRows [inv [g.strayArgs []]] = none)
    (himage : decideRows (g.pbRows 64 ++ paletteSizeRows g ++ paletteRows s slot g.pb ++ [s.ownerSigRow g.pb (rd g.pb 0x38 4)]) = none) :
    let p : Palette :=
      { gen := rd g.pb 12 2, code := fld g.pb 4 18 1, dim := fld g.pb 16 0 13, limit := fld g.pb 20 0 24, scales := palScales g.pb,
        pub := 0 }
    paletteSetBody g s =
      (s.plan (s.acceptFrame g.cycle + (if s.frame.exact then 2 else 1)) g.fn
        (.palette slot (BitVec.ofNat 32 (rd g.pb 8 4)) (fld g.pb 4 16 2) p), { later := true }) := by
  rw [paletteSetBody, checked_none _ _ _ hargs, withChan_some _ _ _ _ _ hchan hlive, checked_none _ _ _ himage]
  simp only [apply_ite (s.acceptFrame g.cycle + ·)]

end

/-- Settles O12: each command by its work where its checks pass, and a graph's place by the activation frames of those that wait. -/
theorem setGraphAndPaletteCommandsTakeEffect : Obligations.SetGraphAndPaletteCommandsTakeEffect := by
  refine ⟨?set, ?graph, ?beside, ?palette⟩
  case set =>
    exact fun g s slot c x h hchan hlive hrow hx hsets =>
      mailbox_ok h _ (allowsetCreateBody_plans (s := s.begun 0x34 g) hchan hlive hrow hx hsets) rfl
  case graph =>
    exact fun g s slot c x h hargs hchan hlive hx himage => mailbox_ok h _ (graphLoadBody_waits hchan hlive hargs hx himage) rfl
  case beside =>
    intro t act img
    refine ⟨mem_withNextGraph_next_act.mpr rfl, fun i => mem_withNextGraph_next_act.mp, ?some, ?none⟩
    case some =>
      rintro z rfl
      exact ⟨rfl, rfl, fun p hp => mem_withNextGraph_next_other hp⟩
    case none =>
      rintro rfl
      exact ⟨rfl, rfl, rfl⟩
  case palette =>
    exact fun g s slot c h hargs hchan hlive himage => mailbox_ok h _ (paletteSetBody_plans hchan hlive hargs himage) rfl

/-! ### BUILD and MIGRATE (R85, R87, R89, R218, R260) -/

section
variable {g : Go} {s : State} {slot : Nat} {c : Chan} (hchan : s.chanOf g.fn g.chan = some (slot, c)) (hlive : c.st ≠ .retired)
include hchan hlive

theorem buildBody_works {x : Index} (hx : s.index? slot (Go.object g) = some x) (hrow : decideRows [buildRow g s slot c x] = none)
    (hdata : decideRows (buildDataRows g x.attr) = none) : buildBody g s = buildWork g slot x s := by
  rw [buildBody, withChan_some _ _ _ _ _ hchan hlive]
  simp only [hx, hrow, hdata]

theorem migrateBody_region {x : Index} (hwhat : g.arg 0x18 0 2 = 0) (hx : s.index? slot (Go.object g) = some x)
    (hrow : decideRows [migrateRow g s slot c 0 x.route none] = none) :
    migrateBody g s = migrateWork g slot 0 (x.route.getD (g.arg 0x20 0 32) 0) none s := by
  have hcold : ¬(0 : Nat) = 2 := by decide
  rw [migrateBody, withChan_some _ _ _ _ _ hchan hlive]
  simp only [hwhat, hx, hrow, if_true, Option.isNone_some, Bool.false_eq_true, if_false, hcold]

theorem migrateBody_table {x : Table} (hwhat : g.arg 0x18 0 2 ≠ 0) (hx : s.table? slot (Go.object g) = some x)
    (hrow : decideRows [migrateRow g s slot c (g.arg 0x18 0 2) x.route (some x)] = none)
    (hrows : g.arg 0x18 0 2 = 2 → g.fail1 = none ∧ badHotRow s g x = none) :
    migrateBody g s = migrateWork g slot (g.arg 0x18 0 2)
      (if g.arg 0x18 0 2 = 2 then x.entry ((migRows g).headD 0) else x.route.getD (g.arg 0x20 0 32) 0) (some x) s := by
  have hgood : (if g.arg 0x18 0 2 = 2 then g.fail1.or (badHotRow s g x) else none) = none := by
    split
    next hhot =>
      obtain ⟨hread, hbad⟩ := hrows hhot
      rw [hread, hbad, Option.none_or]
    next => rfl
  rw [migrateBody, withChan_some _ _ _ _ _ hchan hlive]
  simp only [hwhat, hx, hrow, hgood, if_false, Option.isNone_some, Bool.false_eq_true]

end

/-- Settles O13: where the checks pass, a command does `buildWork` or `migrateWork`. That the journal's entry of a move is 0x12 is log
entry 11, the move's identifier 58, the reserved space of a region 84, and what BUILD keeps 33. -/
theorem buildAndMigrateCommandsTakeEffect : Obligations.BuildAndMigrateCommandsTakeEffect := by
  refine ⟨?build, ?region, ?table⟩
  case build =>
    intro i g s slot c x hi h hchan hlive hx hrow hdata
    have hexec : exec i s = mailbox false 0x37 g (buildBody g) s := by
      obtain rfl | rfl | rfl | rfl | rfl := hi
      all_goals rfl
    rw [hexec]
    exact ⟨mailbox_ok h _ (buildBody_works (s := s.begun 0x37 g) hchan hlive hx hrow hdata) rfl, rfl, rfl, rfl⟩
  case region =>
    rintro i g s slot c x ⟨rfl, hwhat⟩ h hchan hlive hx hrow
    exact mailbox_ok h _ (migrateBody_region (s := s.begun 0x38 g) hchan hlive hwhat hx hrow) rfl
  case table =>
    intro i g s slot c x hi h hchan hlive hx hrow hrows
    have hexec : exec i s = mailbox false 0x38 g (migrateBody g) s := by
      obtain ⟨rfl, -⟩ | ⟨rfl, -⟩ := hi
      all_goals rfl
    have hwhat : g.arg 0x18 0 2 ≠ 0 := by omega
    rw [hexec]
    exact mailbox_ok h _ (migrateBody_table (s := s.begun 0x38 g) hchan hlive hwhat hx hrow hrows) rfl

end Sys2Proof.Machine
end

section
/-! SUPPORT. The windows of a query that run their stage; the statement on them, settled. -/

namespace Sys2Proof.Machine

/-! ### The ten windows of a query (R97 to R119) -/

/-- Settles O29, by the one frame under which a window that runs does its stage's work. The meeting of the reads' faults, the cut-offs,
the fill and the replay are parts of that work. -/
theorem queryWindowsTakeEffect : Obligations.QueryWindowsTakeEffect := by
  intro n e rf s
  simp only [exec, execAdmitWindow, execRoute1, execScatter, execRoute2, execScan, execNominate, execFetchWindow, execRank, execRescore,
    execDeliver]
  refine ⟨?admission, ?route1, ?scatter, ?route2, ?scan, ?nominate, ?fetch, ?rank, ?rescore, ?deliver⟩
  case admission | route1 | scatter | route2 | scan | nominate | fetch | rank | rescore | deliver => exact inWindow_runs n _ _ s e

end Sys2Proof.Machine
end

section
/-! SUPPORT. Normalised scores and their order keys; the statement on them, settled. -/

namespace Sys2Proof.Machine

/-! ### Scores and order keys (R122, R148) -/

/-- A pattern is a NaN's where its magnitude is above that of infinity. -/
theorem isNan_eq (a : F32) : isNan a = decide (0x7F800000 < a.toNat % 0x80000000) := by
  have hsign : fmt32.signBit = 0x80000000 := rfl
  have hinf : fmt32.inf = 0x7F800000 := rfl
  have htop : fmt32.top = 0x7F7FFFFF := rfl
  simp only [isNan, f32, fval, hsign, hinf, htop]
  rcases Nat.lt_trichotomy (a.toNat % 0x80000000) 0x7F800000 with hfin | hinfinite | hnan
  · rw [if_neg (by omega), if_neg (by omega), decide_eq_false (Nat.lt_asymm hfin)]
    by_cases hsub : a.toNat % 0x80000000 / 2 ^ fmt32.mb = 0
    · rw [if_pos hsub]
    · rw [if_neg hsub]
  · rw [if_pos hinfinite, decide_eq_false (Nat.not_lt_of_le (Nat.le_of_eq hinfinite))]
  · rw [if_neg (by omega), if_pos (by omega), decide_eq_true hnan]

theorem normScore_toNat_cases (x : F32) :
    (normScore x).toNat ≤ 0x7F800000 ∨ 0x80000000 < (normScore x).toNat ∧ (normScore x).toNat ≤ 0xFF800000 := by
  unfold normScore
  split
  case isTrue => exact .inl (by decide)
  case isFalse hnan =>
    split
    case isTrue => exact .inl (by decide)
    case isFalse hzero =>
      have hmag : x.toNat % 0x80000000 ≤ 0x7F800000 := by simpa [isNan_eq] using hnan
      have hne : x.toNat ≠ 0x80000000 := fun h => hzero (BitVec.eq_of_toNat_eq h)
      have := x.isLt
      omega

@[simp] theorem isNan_normScore (x : F32) : isNan (normScore x) = false := by
  have := normScore_toNat_cases x
  simp only [isNan_eq, decide_eq_false_iff_not]
  omega

theorem flt_normScore (x y : F32) : flt (normScore x) (normScore y) = true ↔ fkey (normScore x) < fkey (normScore y) := by
  simp [flt]

theorem fkey_normScore_bounds (x : F32) : -0x7F800000 ≤ fkey (normScore x) ∧ fkey (normScore x) ≤ 0x7F800000 := by
  have := normScore_toNat_cases x
  unfold fkey
  split <;> omega

/-- An order key is the score's order number moved up by 2^31, a negative one by one less: its pattern was complemented. -/
theorem orderKey_eq_fkey (x : F32) :
    (orderKey x : Int) = fkey (normScore x) + if fkey (normScore x) < 0 then 0x7FFFFFFF else 0x80000000 := by
  have hcases := normScore_toNat_cases x
  unfold orderKey fkey
  by_cases hpos : (normScore x).toNat < 0x80000000
  · rw [if_pos hpos, if_neg (Nat.not_le_of_lt hpos), if_neg (by omega)]
    omega
  · rw [if_neg hpos, if_pos (Nat.le_of_not_lt hpos), if_pos (by omega)]
    omega

/-- Exclusive or with the sign bit adds it where it is 0. -/
theorem toNat_xor_signBit {u : F32} (h : u.toNat < 0x80000000) : (u ^^^ 0x80000000).toNat = u.toNat + 0x80000000 := by
  have hdiv : (u.toNat ^^^ 0x80000000) / 2 ^ 31 = 1 := by rw [Nat.xor_div_two_pow, Nat.div_eq_of_lt h]; rfl
  have hmod : (u.toNat ^^^ 0x80000000) % 2 ^ 31 = u.toNat := by
    rw [Nat.xor_mod_two_pow, Nat.mod_eq_of_lt h]
    exact Nat.xor_zero _
  rw [BitVec.toNat_xor, show (0x80000000 : F32).toNat = 0x80000000 from rfl]
  omega

theorem orderKey_pattern (x : F32) : BitVec.ofNat 32 (orderKey x) =
    if (normScore x).getMsbD 0 = false then normScore x ^^^ 0x80000000 else ~~~ normScore x := by
  have hsign : (normScore x).getMsbD 0 = decide (0x80000000 ≤ (normScore x).toNat) := BitVec.msb_eq_decide _
  have hu := (normScore x).isLt
  apply BitVec.eq_of_toNat_eq
  simp only [orderKey, hsign, decide_eq_false_iff_not, Nat.not_le, BitVec.toNat_ofNat]
  split
  case isTrue hpos => rw [toNat_xor_signBit hpos]; omega
  case isFalse hneg => rw [BitVec.toNat_not]; omega

/-- Settles O55: an order key is a score's order number on a scale without a sign. -/
theorem scoresAreOrdered : Obligations.ScoresAreOrdered := by
  refine ⟨fun _ => rfl, orderKey_pattern, ?order, ?range⟩
  case order =>
    intro x y
    have hx := orderKey_eq_fkey x
    have hy := orderKey_eq_fkey y
    rw [flt_normScore]
    omega
  case range =>
    intro x
    have hkey := orderKey_eq_fkey x
    have hbounds := fkey_normScore_bounds x
    omega

end Sys2Proof.Machine
end

section
/-! SUPPORT. Sorted words and the keep list of a core; the statement on it, settled. -/

namespace Sys2Proof.Machine

/-! ### Sorting by insertion -/

/-- What holds of the empty list and is kept by one more element at the end holds of every list: the folds of the model take their list in
this order. -/
theorem concat_induction {α : Type} {motive : List α → Prop} (nil : motive [])
    (append_singleton : ∀ (l : List α) (x : α), motive l → motive (l ++ [x])) (l : List α) : motive l := by
  rw [← List.reverse_reverse l]
  induction l.reverse with
  | nil => exact nil
  | cons x r ih =>
    rw [List.reverse_cons]
    exact append_singleton r.reverse x ih

theorem insertBy_perm {α : Type} (lt : α → α → Bool) (x : α) (l : List α) : (insertBy lt x l).Perm (x :: l) := by
  induction l with
  | nil => exact .refl _
  | cons y l ih =>
    unfold insertBy
    split
    · exact .refl _
    · exact (ih.cons y).trans (.swap x y l)

theorem sortBy_concat {α : Type} (lt : α → α → Bool) (l : List α) (x : α) : sortBy lt (l ++ [x]) = insertBy lt x (sortBy lt l) :=
  List.foldl_append

theorem sortBy_perm {α : Type} (lt : α → α → Bool) (l : List α) : (sortBy lt l).Perm l := by
  induction l using concat_induction with
  | nil => exact .refl _
  | append_singleton l x ih =>
    rw [sortBy_concat]
    exact (insertBy_perm lt x _).trans ((ih.cons x).trans (List.perm_append_singleton x l).symm)

/-- What an insertion leaves in the first n places depends on what stood there. -/
theorem take_insertBy {α : Type} (lt : α → α → Bool) (x : α) (n : Nat) (l : List α) :
    (insertBy lt x l).take n = (insertBy lt x (l.take n)).take n := by
  induction l generalizing n with
  | nil => rw [List.take_nil]
  | cons y l ih =>
    cases n with
    | zero => rfl
    | succ n =>
      rw [List.take_succ_cons]
      unfold insertBy
      split
      · cases n <;> simp [List.take_take]
      · simp [ih n]

/-! ### The best words (R153) -/

/-- Words in ascending order. -/
def sortWords (ws : List Nat) : List Nat := sortBy (fun a b => decide (a < b)) ws

theorem bestWords_eq_take (n : Nat) (ws : List Nat) : bestWords n ws = (sortWords ws).take n := rfl

theorem sortWords_perm (ws : List Nat) : (sortWords ws).Perm ws := sortBy_perm _ ws

theorem insertBy_ascending (w : Nat) {l : List Nat} (h : l.Pairwise (· ≤ ·)) :
    (insertBy (fun a b => decide (a < b)) w l).Pairwise (· ≤ ·) := by
  induction l with
  | nil => exact List.pairwise_singleton _ _
  | cons y l ih =>
    obtain ⟨hy, hl⟩ := List.pairwise_cons.mp h
    unfold insertBy
    split
    case isTrue hlt =>
      have hwy : w ≤ y := Nat.le_of_lt (of_decide_eq_true hlt)
      exact List.pairwise_cons.mpr ⟨List.forall_mem_cons.mpr ⟨hwy, fun b hb => Nat.le_trans hwy (hy b hb)⟩, h⟩
    case isFalse hge =>
      have hyw : y ≤ w := by simpa using hge
      refine List.pairwise_cons.mpr ⟨fun b hb => ?_, ih hl⟩
      obtain rfl | hb := mem_insertBy.mp hb
      · exact hyw
      · exact hy b hb

theorem sortWords_ascending (ws : List Nat) : (sortWords ws).Pairwise (· ≤ ·) := by
  induction ws using concat_induction with
  | nil => exact .nil
  | append_singleton ws w ih =>
    rw [sortWords, sortBy_concat]
    exact insertBy_ascending w ih

/-- Ascending words are known by what they are. -/
theorem eq_of_perm_of_ascending {as bs : List Nat} (h : as.Perm bs) (ha : as.Pairwise (· ≤ ·)) (hb : bs.Pairwise (· ≤ ·)) : as = bs :=
  h.eq_of_pairwise (fun _ _ _ _ => Nat.le_antisymm) ha hb

theorem sortWords_of_ascending {ws : List Nat} (h : ws.Pairwise (· ≤ ·)) : sortWords ws = ws :=
  eq_of_perm_of_ascending (sortWords_perm ws) (sortWords_ascending ws) h

theorem bestWords_ascending (n : Nat) (ws : List Nat) : (bestWords n ws).Pairwise (· ≤ ·) :=
  (sortWords_ascending ws).take

theorem bestWords_length (n : Nat) (ws : List Nat) : (bestWords n ws).length = min n ws.length := by
  rw [bestWords_eq_take, List.length_take, (sortWords_perm ws).length_eq]

theorem bestWords_congr (n : Nat) {as bs : List Nat} (h : as.Perm bs) : bestWords n as = bestWords n bs := by
  have hsort : sortWords as = sortWords bs :=
    eq_of_perm_of_ascending ((sortWords_perm as).trans (h.trans (sortWords_perm bs).symm)) (sortWords_ascending as)
      (sortWords_ascending bs)
  rw [bestWords_eq_take, bestWords_eq_take, hsort]

theorem bestWords_of_ascending {n : Nat} {ws : List Nat} (h : ws.Pairwise (· ≤ ·)) (hn : ws.length ≤ n) : bestWords n ws = ws := by
  rw [bestWords_eq_take, sortWords_of_ascending h, List.take_of_length_le hn]

theorem bestWords_bestWords (n : Nat) (ws : List Nat) : bestWords n (bestWords n ws) = bestWords n ws :=
  bestWords_of_ascending (bestWords_ascending n ws) (by rw [bestWords_length]; omega)

/-- One word more changes the best words by what it does to them alone. -/
theorem bestWords_concat (n : Nat) (ws : List Nat) (w : Nat) :
    bestWords n (ws ++ [w]) = (insertBy (fun a b => decide (a < b)) w (bestWords n ws)).take n := by
  rw [bestWords, sortBy_concat, take_insertBy, bestWords]

/-- Lists with the same best words have the same also with more words. -/
theorem bestWords_append_congr {n : Nat} {as bs : List Nat} (h : bestWords n as = bestWords n bs) (ws : List Nat) :
    bestWords n (as ++ ws) = bestWords n (bs ++ ws) := by
  induction ws using concat_induction with
  | nil => simpa using h
  | append_singleton ws w ih => rw [← List.append_assoc, ← List.append_assoc, bestWords_concat, bestWords_concat, ih]

/-- The best words and the others: what the best words are (R153). -/
theorem bestWords_split (n : Nat) (ws : List Nat) :
    ∃ rest, (bestWords n ws ++ rest).Perm ws ∧ ∀ a ∈ bestWords n ws, ∀ b ∈ rest, a ≤ b := by
  refine ⟨(sortWords ws).drop n, ?_, ?_⟩
  · rw [bestWords_eq_take, List.take_append_drop]
    exact sortWords_perm ws
  · have hasc := sortWords_ascending ws
    rw [← List.take_append_drop n (sortWords ws)] at hasc
    obtain ⟨-, -, hbest⟩ := List.pairwise_append.mp hasc
    exact hbest

/-! ### The pass of a core (R153) -/

/-- What holds of a core after the words `seen`: the keep list ascends within its length, and with the stage it has the best words. -/
structure KeepState.Keeps (kc : Nat) (seen : List Nat) (k : KeepState) : Prop where
  ascends : k.keep.Pairwise (· ≤ ·)
  fits    : k.keep.length ≤ kc
  best    : bestWords kc (k.keep ++ k.stage) = bestWords kc seen

theorem KeepState.keeps_start (kc : Nat) : KeepState.Keeps kc [] { keep := [], stage := [] } where
  ascends := .nil
  fits := Nat.zero_le _
  best := rfl

section
variable {kc w : Nat} {seen : List Nat} {k : KeepState}

theorem KeepState.Keeps.staged (h : k.Keeps kc seen) (w : Nat) : KeepState.Keeps kc (seen ++ [w]) { k with stage := k.stage ++ [w] } where
  ascends := h.ascends
  fits := h.fits
  best := by
    rw [← List.append_assoc]
    exact bestWords_append_congr h.best [w]

theorem KeepState.Keeps.merged (h : k.Keeps kc seen) : (k.merge kc).Keeps kc seen where
  ascends := bestWords_ascending kc _
  fits := Nat.le_trans (Nat.le_of_eq (bestWords_length kc _)) (Nat.min_le_left _ _)
  best := by
    rw [KeepState.merge, List.append_nil, bestWords_bestWords]
    exact h.best

/-- A word that does not pass below the threshold meets a full keep list of words that are no larger. -/
theorem KeepState.full_of_threshold_le (hasc : k.keep.Pairwise (· ≤ ·)) (hkc : 0 < kc) (hw : w < 0xFFFFFFFFFFFFFFFF)
    (hthr : k.threshold kc ≤ w) : k.keep.length = kc ∧ ∀ a ∈ k.keep, a ≤ w := by
  unfold KeepState.threshold at hthr
  split at hthr
  case isFalse => omega
  case isTrue hlen =>
    refine ⟨hlen, fun a ha => ?_⟩
    have hlast : kc - 1 < k.keep.length := by omega
    rw [List.getD_eq_getElem?_getD, List.getElem?_eq_getElem hlast, Option.getD_some] at hthr
    obtain ⟨i, hi, rfl⟩ := List.getElem_of_mem ha
    obtain heq | hlt : i = kc - 1 ∨ i < kc - 1 := by omega
    · subst heq
      exact hthr
    · exact Nat.le_trans (List.pairwise_iff_getElem.mp hasc i (kc - 1) hi hlast hlt) hthr

theorem bestWords_concat_of_full (hasc : seen.Pairwise (· ≤ ·)) (hle : ∀ a ∈ seen, a ≤ w) :
    bestWords seen.length (seen ++ [w]) = bestWords seen.length seen := by
  have happ : (seen ++ [w]).Pairwise (· ≤ ·) :=
    List.pairwise_append.mpr ⟨hasc, List.pairwise_singleton _ _, by simpa using hle⟩
  rw [bestWords_eq_take, sortWords_of_ascending happ, bestWords_eq_take, sortWords_of_ascending hasc]
  simp

theorem KeepState.Keeps.passed (h : k.Keeps kc seen) (hlen : k.keep.length = kc) (hle : ∀ a ∈ k.keep, a ≤ w) :
    k.Keeps kc (seen ++ [w]) where
  ascends := h.ascends
  fits := h.fits
  best := by
    have hfull : bestWords kc k.keep = bestWords kc (k.keep ++ [w]) := by
      rw [← hlen, bestWords_concat_of_full h.ascends hle]
    have hswap : (k.keep ++ [w] ++ k.stage).Perm (k.keep ++ k.stage ++ [w]) := by
      rw [List.append_assoc, List.append_assoc]
      exact List.perm_append_comm.append_left k.keep
    calc bestWords kc (k.keep ++ k.stage)
      _ = bestWords kc (k.keep ++ [w] ++ k.stage) := bestWords_append_congr hfull _
      _ = bestWords kc (k.keep ++ k.stage ++ [w]) := bestWords_congr kc hswap
      _ = bestWords kc (seen ++ [w]) := bestWords_append_congr h.best [w]

theorem KeepState.Keeps.offer (h : k.Keeps kc seen) (hkc : 0 < kc) (hw : w < 0xFFFFFFFFFFFFFFFF) :
    (k.offer kc w).Keeps kc (seen ++ [w]) := by
  unfold KeepState.offer
  split
  case isTrue =>
    split
    · exact (h.staged w).merged
    · exact h.staged w
  case isFalse hthr =>
    obtain ⟨hlen, hle⟩ := KeepState.full_of_threshold_le h.ascends hkc hw (Nat.le_of_not_lt hthr)
    exact h.passed hlen hle

end

theorem keeps_foldl_offer {kc : Nat} (hkc : 0 < kc) (ws : List Nat) (hws : ∀ w ∈ ws, w < 0xFFFFFFFFFFFFFFFF) :
    KeepState.Keeps kc ws (ws.foldl (KeepState.offer kc) { keep := [], stage := [] }) := by
  induction ws using concat_induction with
  | nil => exact KeepState.keeps_start kc
  | append_singleton ws w ih =>
    rw [List.foldl_append]
    exact (ih fun v hv => hws v (List.mem_append_left _ hv)).offer hkc (hws w (by simp))

theorem keepList_eq_bestWords {kc : Nat} (hkc : 0 < kc) {ws : List Nat} (hws : ∀ w ∈ ws, w < 0xFFFFFFFFFFFFFFFF) :
    keepList kc ws = bestWords kc ws :=
  (keeps_foldl_offer hkc ws hws).best

/-- Settles O57: each word offered keeps the best words so far in the keep list and its stage, which the last merge puts together. -/
theorem keepListsHoldTheSmallest : Obligations.KeepListsHoldTheSmallest := by
  intro n ws hn hws
  have hkeep : keepList (min n 64) ws = bestWords (min n 64) ws := keepList_eq_bestWords (by omega) hws
  rw [hkeep]
  exact ⟨rfl, bestWords_length _ ws, bestWords_ascending _ ws, bestWords_split _ ws⟩

end Sys2Proof.Machine
end

section
/-! SUPPORT. The twins of an open byte, one byte written on both, and the bits of an open bitmap; the statement on open memory, settled. -/

namespace Sys2Proof.Machine

/-! ### One bit of a mask (R3) -/

theorem hasBit_setBit (m i j : Nat) : hasBit (setBit m i) j = if j = i then true else hasBit m j := by
  simp only [hasBit_eq_testBit, setBit, Nat.one_shiftLeft, Nat.testBit_or, Nat.testBit_two_pow]
  by_cases h : j = i
  · simp [h]
  · simp [h, Ne.symm h]

/-- A set bit cleared: what stands above the bit and what stands below it stay where they are. -/
theorem testBit_sub_two_pow {m i : Nat} (hset : m.testBit i = true) (j : Nat) :
    (m - 2 ^ i).testBit j = if j = i then false else m.testBit j := by
  obtain ⟨high, low, hlow, hm⟩ : ∃ high low, low < 2 ^ i ∧ m = 2 ^ (i + 1) * high + (2 ^ i + low) := by
    refine ⟨m / 2 ^ i / 2, m % 2 ^ i, Nat.mod_lt _ (Nat.two_pow_pos i), ?_⟩
    have hbit : m / 2 ^ i % 2 = 1 := by simpa [Nat.testBit_eq_decide_div_mod_eq] using hset
    calc m = 2 ^ i * (m / 2 ^ i) + m % 2 ^ i := (Nat.div_add_mod m (2 ^ i)).symm
      _ = 2 ^ i * (2 * (m / 2 ^ i / 2) + 1) + m % 2 ^ i := by rw [show 2 * (m / 2 ^ i / 2) + 1 = m / 2 ^ i by omega]
      _ = _ := by rw [Nat.pow_succ, Nat.mul_add, Nat.mul_one, ← Nat.mul_assoc, Nat.add_assoc]
  have hpow : 2 ^ (i + 1) = 2 ^ i + 2 ^ i := Nat.two_pow_succ i
  rw [hm, show 2 ^ (i + 1) * high + (2 ^ i + low) - 2 ^ i = 2 ^ (i + 1) * high + low by omega,
    Nat.testBit_two_pow_mul_add _ (by omega), Nat.testBit_two_pow_mul_add _ (by omega)]
  rcases Nat.lt_trichotomy j i with hlt | rfl | hgt
  · rw [if_neg (Nat.ne_of_lt hlt), if_pos (Nat.lt_succ_of_lt hlt), if_pos (Nat.lt_succ_of_lt hlt), Nat.testBit_two_pow_add_gt hlt]
  · rw [if_pos rfl, if_pos (Nat.lt_succ_self j), Nat.testBit_lt_two_pow hlow]
  · rw [if_neg (Nat.ne_of_gt hgt), if_neg (Nat.not_lt_of_le hgt), if_neg (Nat.not_lt_of_le hgt)]

theorem hasBit_clearBit (m i j : Nat) : hasBit (clearBit m i) j = if j = i then false else hasBit m j := by
  simp only [clearBit, hasBit_eq_testBit, Nat.one_shiftLeft]
  split
  case isTrue hset => exact testBit_sub_two_pow hset j
  case isFalse hclear =>
    split
    case isTrue h => simpa [h] using hclear
    case isFalse => rfl

/-- A byte's bit after one of its bits is set or cleared. -/
theorem hasBit_byte_written (w i j : Nat) (b : Bool) (hj : j < 8) :
    hasBit (BitVec.ofNat 8 (if b then setBit w i else clearBit w i)).toNat j = if j = i then b else hasBit w j := by
  rw [hasBit_eq_testBit, BitVec.testBit_toNat, BitVec.getLsbD_ofNat, ← hasBit_eq_testBit, decide_eq_true hj, Bool.true_and]
  cases b
  · exact hasBit_clearBit w i j
  · exact hasBit_setBit w i j

/-! ### Twins (R224, R225) -/

theorem hasBit_twelve (d : Nat) : hasBit d 12 = decide (d / 4096 % 2 = 1) := by
  rw [hasBit, Nat.shiftRight_eq_div_pow]
  rfl

theorem firstTwin_eq (d : Nat) : firstTwin d = d / 8192 * 8192 + d % 4096 := by
  simp only [firstTwin, hasBit_twelve, decide_eq_true_eq]
  split <;> omega

theorem twinOf_eq (d : Nat) : twinOf d = if d / 4096 % 2 = 1 then d - 0x1000 else d + 0x1000 := by
  simp only [twinOf, hasBit_twelve, decide_eq_true_eq]

/-- A byte written on both twins, as it reads everywhere (R224). -/
theorem memRead_twinWrite_eq (m : List Host.Cell) (da d : Nat) (b : Byte) :
    memRead (twinWrite m da b) d = if d = firstTwin da ∨ d = firstTwin da + 0x1000 then b else memRead m d := by
  obtain ⟨hfirst, hsecond⟩ := memRead_twinWrite m da b
  split
  case isTrue h =>
    rcases h with rfl | rfl
    · exact hfirst
    · exact hsecond
  case isFalse h =>
    obtain ⟨hne, hne'⟩ := not_or.mp h
    rw [twinWrite, memRead_memWrite_other _ _ _ _ hne', memRead_memWrite_other _ _ _ _ hne]

section
variable {u o : Nat}

theorem firstTwin_openDa : firstTwin (openDa u o) = openDa u o := by
  rw [firstTwin_eq, openDa]
  omega

theorem twinOf_openDa : twinOf (openDa u o) = openDa u o + 0x1000 := by
  rw [twinOf_eq, openDa, if_neg (by omega)]

theorem twinOf_openDa_twin : twinOf (openDa u o + 0x1000) = openDa u o := by
  rw [twinOf_eq, openDa, if_pos (by omega), Nat.add_sub_cancel]

section
variable (ho : o < 2 ^ 27)
include ho

theorem daUnit_openDa : daUnit (openDa u o) = u := by
  rw [daUnit, openDa]
  omega

/-- Usable offsets and the DAs of their first twins name each other (R225). -/
theorem openDa_inj {v p : Nat} (hp : p < 2 ^ 27) : openDa u o = openDa v p ↔ u = v ∧ o = p := by
  simp only [openDa]
  omega

end
end

/-! ### Open bitmaps (R225, R232, R233) -/

/-- A bitmap's chunks lie one behind the other: the bit of row r is bit r mod 8 of the object's byte r ÷ 8. -/
theorem bitDa_eq (us : List Nat) (r : Nat) :
    bitDa us r = (openDa (us.getD (r / 8 / 2 ^ 27) 0) (r / 8 % 2 ^ 27), r % 8) := by
  have hbyte : r / 8192 * 1024 + r % 8192 / 8 = r / 8 := by omega
  simp only [bitDa, hbyte]

theorem firstTwin_bitDa (us : List Nat) (r : Nat) : firstTwin (bitDa us r).1 = (bitDa us r).1 := by
  rw [bitDa_eq]
  exact firstTwin_openDa

theorem bitRead_eq (m : List Host.Cell) (us : List Nat) (r : Nat) :
    bitRead m us r = hasBit (memRead m (bitDa us r).1).toNat (r % 8) := by
  rw [bitRead, bitDa_eq]

/-- The byte of a bitmap's row, and its twin, after the row's bit is written. -/
theorem memRead_bitWrite (m : List Host.Cell) (us : List Nat) (r d : Nat) (b : Bool) :
    memRead (bitWrite m us r b) d =
      if d = (bitDa us r).1 ∨ d = (bitDa us r).1 + 0x1000 then
        BitVec.ofNat 8 (if b then setBit (memRead m (bitDa us r).1).toNat (r % 8) else clearBit (memRead m (bitDa us r).1).toNat (r % 8))
      else memRead m d := by
  rw [bitWrite, memRead_twinWrite_eq, firstTwin_bitDa]
  simp only [bitDa_eq]

theorem bitRead_bitWrite_same (m : List Host.Cell) (us : List Nat) (r : Nat) (b : Bool) : bitRead (bitWrite m us r b) us r = b := by
  simp only [bitRead_eq, memRead_bitWrite, true_or, if_true, hasBit_byte_written _ _ _ _ (Nat.mod_lt r (by decide : 0 < 8))]

theorem memRead_bitWrite_twin (m : List Host.Cell) (us : List Nat) (r : Nat) (b : Bool) :
    memRead (bitWrite m us r b) ((bitDa us r).1 + 0x1000) = memRead (bitWrite m us r b) (bitDa us r).1 := by
  simp only [memRead_bitWrite, true_or, or_true, if_true]

/-- Rows of a bitmap over distinct units share a byte where they stand in the same one of the object, and never lie on each other's
second twin. -/
theorem bitDa_eq_or_twin_iff {us : List Nat} (hus : us.Nodup) {q r : Nat} (hq : q < us.length * 2 ^ 30) (hr : r < us.length * 2 ^ 30) :
    ((bitDa us q).1 = (bitDa us r).1 ∨ (bitDa us q).1 = (bitDa us r).1 + 0x1000) ↔ q / 8 = r / 8 := by
  have hqu : q / 8 / 2 ^ 27 < us.length := by omega
  have hru : r / 8 / 2 ^ 27 < us.length := by omega
  have htwin : (bitDa us q).1 ≠ (bitDa us r).1 + 0x1000 := by
    simp only [bitDa_eq, openDa]
    omega
  rw [or_iff_left htwin, bitDa_eq, bitDa_eq, openDa_inj (Nat.mod_lt _ (by decide)) (Nat.mod_lt _ (by decide)),
    List.getD_inj hqu hru hus]
  omega

theorem bitRead_bitWrite_other (m : List Host.Cell) {us : List Nat} (hus : us.Nodup) {q r : Nat} (b : Bool)
    (hq : q < us.length * 2 ^ 30) (hr : r < us.length * 2 ^ 30) (hne : q ≠ r) : bitRead (bitWrite m us r b) us q = bitRead m us q := by
  simp only [bitRead_eq, memRead_bitWrite, bitDa_eq_or_twin_iff hus hq hr]
  split
  case isTrue hbyte =>
    have hbit : q % 8 ≠ r % 8 := by omega
    have hda : (bitDa us q).1 = (bitDa us r).1 := by rw [bitDa_eq, bitDa_eq, hbyte]
    rw [hasBit_byte_written _ _ _ _ (Nat.mod_lt q (by decide)), if_neg hbit, hda]
  case isFalse => rfl

/-- Settles O46: two rows of a bitmap lie in one byte of the object, and then at different bits, or in bytes that are not each other's
twins. -/
theorem openMemory : Obligations.OpenMemory := by
  refine ⟨memRead_twinWrite_eq, ?same, ?other, ?address⟩
  case same => exact fun m us r b _ => ⟨bitRead_bitWrite_same m us r b, memRead_bitWrite_twin m us r b⟩
  case other => exact fun m us r q b hus hr hq hne => bitRead_bitWrite_other m hus b hq hr hne
  case address => exact fun u o ho => ⟨rfl, firstTwin_openDa, twinOf_openDa, twinOf_openDa_twin, daUnit_openDa ho⟩

end Sys2Proof.Machine
end

section
/-! SUPPORT. A near-bank row written, the cases of a near-bank step, the zeroing of a unit and the visits of patrol scrub; the statements
on near-bank steps, zeroing and scrub, settled. -/

namespace Sys2Proof.Machine

/-! ### The row of a twin (R224) -/

theorem twinOf_apart (d : Nat) : twinOf d = d + 0x1000 ∨ twinOf d + 0x1000 = d := by
  rw [twinOf_eq]
  split <;> omega

theorem rowOf_twinOf_ne (r : Nat) : rowOf (twinOf r) ≠ rowOf r := by
  have := twinOf_apart r
  unfold rowOf
  omega

/-! ### A row written by a near-bank step (R227) -/

section
variable {m : List Host.Cell} {op : NbOp} {a b r : Nat}

theorem memRead_nbWrite_outside {d : Nat} (h : d < rowOf r ∨ rowOf r + 1024 ≤ d) : memRead (nbWrite m op a b r) d = memRead m d :=
  memRead_memWriteN_other _ m _ d (by simpa using h)

theorem memRead_nbWrite_row {i : Nat} (hi : i < 1024) :
    memRead (nbWrite m op a b r) (rowOf r + i) = nbByte op (memRead m (rowOf a + i)) (memRead m (rowOf b + i)) i := by
  rw [nbWrite, memRead_memWriteN_same _ m _ i (by simpa using hi)]
  simp

theorem memRead_nbWrite_other_row {x i : Nat} (hx : rowOf x ≠ rowOf r) (hi : i < 1024) :
    memRead (nbWrite m op a b r) (rowOf x + i) = memRead m (rowOf x + i) :=
  memRead_nbWrite_outside (by unfold rowOf at hx ⊢; omega)

/-- An operation's byte depends on the rows that the step names alone. -/
theorem nbByte_congr {f g : Nat → Byte} (h : ∀ x ∈ nbRows op a b r, f x = g x) (i : Nat) :
    nbByte op (f a) (f b) i = nbByte op (g a) (g b) i := by
  cases op with
  | init => rfl
  | copy | not => simp only [nbByte, h a (.head _)]
  | and | or | xor | andnot => simp only [nbByte, h a (.head _), h b (.tail _ (.head _))]

end

/-- A step on both twins of its rows (R231). -/
def nbTwinWrite (m : List Host.Cell) (op : NbOp) (a b r : Nat) : List Host.Cell :=
  nbWrite (nbWrite m op a b r) op (twinOf a) (twinOf b) (twinOf r)

section
variable {m : List Host.Cell} {op : NbOp} {a b r : Nat}

theorem memRead_nbTwinWrite_outside {d : Nat} (hrow : d < rowOf r ∨ rowOf r + 1024 ≤ d)
    (htwin : d < rowOf (twinOf r) ∨ rowOf (twinOf r) + 1024 ≤ d) : memRead (nbTwinWrite m op a b r) d = memRead m d := by
  rw [nbTwinWrite, memRead_nbWrite_outside htwin, memRead_nbWrite_outside hrow]

theorem memRead_nbTwinWrite_row {i : Nat} (hi : i < 1024) :
    memRead (nbTwinWrite m op a b r) (rowOf r + i) = nbByte op (memRead m (rowOf a + i)) (memRead m (rowOf b + i)) i := by
  rw [nbTwinWrite, memRead_nbWrite_other_row (rowOf_twinOf_ne r).symm hi, memRead_nbWrite_row hi]

/-- The twin's row is the operation on the twins of the operands, where the first write has not touched them. -/
theorem memRead_nbTwinWrite_twin (hx : ∀ x ∈ nbRows op a b r, rowOf (twinOf x) ≠ rowOf r) {i : Nat} (hi : i < 1024) :
    memRead (nbTwinWrite m op a b r) (rowOf (twinOf r) + i) =
      nbByte op (memRead m (rowOf (twinOf a) + i)) (memRead m (rowOf (twinOf b) + i)) i := by
  rw [nbTwinWrite, memRead_nbWrite_row hi]
  exact nbByte_congr (f := fun x => memRead (nbWrite m op a b r) (rowOf (twinOf x) + i)) (g := fun x => memRead m (rowOf (twinOf x) + i))
    (fun x h => memRead_nbWrite_other_row (hx x h) hi) i

end

/-! ### The cases of a near-bank step (R227 to R229) -/

section
variable {op : NbOp} {a b r : Nat} {s : State}

theorem exec_nearBankRowStep_apart (al : Bool) (hunit : oneUnit (nbRows op a b r) = false) :
    exec (.nearBankRowStep op a b r al) s = .next s := by
  change execNearBankRowStep op a b r al s = _
  unfold execNearBankRowStep
  exact whenLive_fixed _ s (if_pos (by simp [hunit]))

variable (hlive : s.live = true)
include hlive

theorem exec_nearBankRowStep_init (p : BitVec 64) (hzero : s.unitKind (daUnit r) = .zeroing) :
    exec (.nearBankRowStep (.init p) 0 0 r true) s =
      .next { s with dram := { s.dram with mem := nbWrite s.dram.mem (.init p) 0 0 r } } := by
  change execNearBankRowStep _ 0 0 r true s = _
  rw [execNearBankRowStep, whenLive_live _ s hlive]
  simp [nbRows, oneUnit, hzero]

variable (hunit : oneUnit (nbRows op a b r) = true)
include hunit

theorem exec_nearBankRowStep_open (al : Bool) (hopen : ∀ x ∈ nbRows op a b r, ∃ n, s.unitKind (daUnit x) = .opened n) :
    exec (.nearBankRowStep op a b r al) s = .next { s with dram := { s.dram with mem := nbTwinWrite s.dram.mem op a b r } } := by
  change execNearBankRowStep op a b r al s = _
  unfold execNearBankRowStep
  rw [whenLive_live _ s hlive, if_neg (by simp [hunit])]
  refine congrArg _ (if_pos (List.all_eq_true.mpr ?_))
  simp only [List.forall_mem_map]
  intro x hx
  obtain ⟨n, hn⟩ := hopen x hx
  rw [hn]

/-- A row outside the open units refuses the step, where no allocator sends it. -/
theorem exec_nearBankRowStep_refused {x : Nat}
    (hx : ((nbRows op a b r).find? fun x => match s.unitKind (daUnit x) with | .opened _ => false | _ => true) = some x) :
    exec (.nearBankRowStep op a b r false) s = .next (s.nbRefuse (nbCode op) x) := by
  change execNearBankRowStep op a b r false s = _
  unfold execNearBankRowStep
  rw [whenLive_live _ s hlive, if_neg (by simp [hunit])]
  refine congrArg _ ((if_neg ?notAllOpen).trans ((if_neg (by simp)).trans ?refuse))
  case notAllOpen =>
    intro hall
    simp only [List.all_eq_true, List.forall_mem_map] at hall
    have hxOpen := hall x (List.mem_of_find?_eq_some hx)
    have hxShut := List.find?_some hx
    cases hk : s.unitKind (daUnit x) <;> simp [hk] at hxOpen hxShut
  case refuse =>
    split
    case h_1 y hy => rw [Option.some.inj (hy.symm.trans hx)]
    case h_2 hnone => cases hnone.symm.trans hx

end

/-! ### What a refused step writes (R229, R391), and the rows of one unit (R227) -/

@[simp] theorem faultRecord_dram (s : State) (kind unit action affected : Nat) :
    (s.faultRecord kind unit action affected).dram = s.dram := by
  rw [State.faultRecord, State.faultRecordOf, logAdd_dram]

@[simp] theorem selfSuspect_dram (s : State) (kind unit : Nat) : (s.selfSuspect kind unit).dram = s.dram := by
  unfold State.selfSuspect
  split
  case isTrue => rfl
  case isFalse => simp only [faultRecord_dram]

theorem nbRefuse_dram (s : State) (op da : Nat) :
    (s.nbRefuse op da).dram = { s.dram with nbRefused := s.dram.nbRefused + 1, nbLog := s.dram.nbLog ++ [(op, da)] } := by
  rw [State.nbRefuse, selfSuspect_dram, logAdd_dram]

theorem oneUnit_three_iff (a b r : Nat) :
    oneUnit [a, b, r] = true ↔ daStack b = daStack a ∧ daStack r = daStack a ∧ daPseudo b = daPseudo a ∧
      daPseudo r = daPseudo a ∧ daBank b / 2 = daBank a / 2 ∧ daBank r / 2 = daBank a / 2 := by
  simp only [oneUnit, List.all_cons, List.all_nil, Bool.and_true, Bool.and_eq_true, beq_iff_eq]
  constructor
  · rintro ⟨⟨⟨hstackB, hpseudoB⟩, hbankB⟩, ⟨hstackR, hpseudoR⟩, hbankR⟩
    exact ⟨hstackB, hstackR, hpseudoB, hpseudoR, hbankB, hbankR⟩
  · rintro ⟨hstackB, hstackR, hpseudoB, hpseudoR, hbankB, hbankR⟩
    exact ⟨⟨⟨hstackB, hpseudoB⟩, hbankB⟩, ⟨hstackR, hpseudoR⟩, hbankR⟩

/-- Settles O44, by where the rows of a step lie: in open units, in a zeroing one, outside, or in no one bank pair. -/
theorem nearBankSteps : Obligations.NearBankSteps := by
  refine ⟨?opened, ?zeroing, ?refused, fun _ _ _ _ al _ hunit => exec_nearBankRowStep_apart al hunit, oneUnit_three_iff⟩
  case opened =>
    intro op a b r al s hlive hunit hopen
    exact ⟨_, exec_nearBankRowStep_open hlive hunit al hopen, fun d hrow htwin => memRead_nbTwinWrite_outside hrow htwin,
      fun i hi => memRead_nbTwinWrite_row hi, fun hx i hi => memRead_nbTwinWrite_twin hx hi⟩
  case zeroing =>
    intro p r s hlive hzero
    exact ⟨_, exec_nearBankRowStep_init hlive p hzero, fun d hd => memRead_nbWrite_outside hd, fun i hi => memRead_nbWrite_row hi⟩
  case refused =>
    intro op a b r x s hlive hunit hx
    refine ⟨exec_nearBankRowStep_refused hlive hunit hx, ?_⟩
    rw [nbRefuse_dram]
    exact ⟨rfl, rfl, rfl⟩

/-! ### Zeroed units (R226) -/

/-- A table filtered by number. -/
theorem tget_filter_number {α : Type} (t : Tbl α) (keep : Nat → Bool) (k : Nat) :
    tget (t.filter fun p => keep p.1) k = if keep k then tget t k else none := by
  induction t with
  | nil => simp [tget]
  | cons c t ih =>
    obtain ⟨j, v⟩ := c
    by_cases hj : j = k
    · subst hj
      cases hkeep : keep j <;> simp [tget, hkeep, ih]
    · rw [List.filter_cons]
      split <;> simp [tget, hj, ih]

theorem memRead_zeroUnits (m : List Host.Cell) (u d : Nat) : memRead (zeroUnits m [u]) d = if daUnit d = u then 0 else memRead m d := by
  rw [memRead, zeroUnits, tgetD, tget_filter_number _ fun j => !([u] : List Nat).contains (daUnit j)]
  by_cases h : daUnit d = u
  · simp [h, memDefault]
  · simp [h, memRead, tgetD]

section
variable {u : Nat} {s : State}

theorem exec_unitZeroed_zeroing (hlive : s.live = true) (h : s.unitKind u = .zeroing) :
    exec (.unitZeroed u) s = .next (State.setKinds { s with dram := { s.dram with mem := zeroUnits s.dram.mem [u] } } [u] .free) := by
  change execUnitZeroed u s = _
  rw [execUnitZeroed, whenLive_live _ s hlive, if_pos (by simp [h])]

theorem exec_unitZeroed_other (h : s.unitKind u ≠ .zeroing) : exec (.unitZeroed u) s = .next s :=
  whenLive_fixed _ s (if_neg (by simpa using h))

end

/-! ### Patrol scrub (R236, R238) -/

section
variable {da : Nat} {s : State}

theorem exec_patrolScrub_next (o : ScrubOutcome) (hlive : s.live = true) (h : rowOf da = s.dram.scrubAt) :
    exec (.patrolScrub da o) s = .next ((s.scrubPast (rowOf da)).scrubRow da o) := by
  change execPatrolScrub da o s = _
  rw [execPatrolScrub, whenLive_live _ s hlive, if_pos h]

theorem exec_patrolScrub_not_next (o : ScrubOutcome) (h : rowOf da ≠ s.dram.scrubAt) : exec (.patrolScrub da o) s = .next s :=
  whenLive_fixed _ s (if_neg h)

theorem scrubRow_zeroing (o : ScrubOutcome) (h : s.unitKind (daUnit da) = .zeroing) : s.scrubRow da o = s := by
  simp [State.scrubRow, h]

theorem scrubRow_open_twinsDiffer {n : Nat} (h : s.unitKind (daUnit da) = .opened n) :
    s.scrubRow da .twinsDiffer = s.twinMismatch (firstTwin da) := by
  simp [State.scrubRow, h]

theorem scrubRow_sound : s.scrubRow da .sound = s := by
  unfold State.scrubRow
  cases s.unitKind (daUnit da) <;> rfl

section
variable (hopen : ∀ n, s.unitKind (daUnit da) ≠ .opened n) (hzero : s.unitKind (daUnit da) ≠ .zeroing)
include hopen hzero

theorem scrubRow_corrected (n : Nat) :
    s.scrubRow da (.corrected n) =
      State.faultRecord { s with dram := { s.dram with corrected := s.dram.corrected + n } } 4 da 0 0 := by
  unfold State.scrubRow
  cases hk : s.unitKind (daUnit da) with
  | zeroing => exact absurd hk hzero
  | opened n => exact absurd hk (hopen n)
  | free | node | sealed => rfl

theorem scrubRow_uncorrectable :
    s.scrubRow da .uncorrectable =
      if s.unitKind (daUnit da) = .free then
        { s.wordLost da with dram := { (s.wordLost da).dram with kept := insNat (daUnit da) (s.wordLost da).dram.kept } }
      else s.wordLost da := by
  unfold State.scrubRow
  cases hk : s.unitKind (daUnit da) with
  | zeroing => exact absurd hk hzero
  | opened n => exact absurd hk (hopen n)
  | free | node | sealed => rfl

end
end

/-- Settles O45: a filter by unit keeps every byte of another unit, and a scrubbed row's visit goes by the kind of its unit. -/
theorem zeroingAndScrub : Obligations.ZeroingAndScrub := by
  refine ⟨fun _ _ hlive h => exec_unitZeroed_zeroing hlive h, memRead_zeroUnits, fun _ _ h => exec_unitZeroed_other h, fun _ _ => rfl,
    fun _ o _ h => exec_patrolScrub_not_next o h, fun _ o _ hlive h => exec_patrolScrub_next o hlive h, fun _ _ => rfl, ?row⟩
  intro da s
  refine ⟨fun n h => scrubRow_open_twinsDiffer h, ?closed, scrubRow_sound, fun o h => scrubRow_zeroing o h⟩
  intro hopen hzero
  refine ⟨scrubRow_corrected hopen hzero, fun hfree => ?_, fun hfree => ?_⟩
  · rw [scrubRow_uncorrectable hopen hzero, if_neg hfree]
  · rw [scrubRow_uncorrectable hopen hzero, if_pos hfree]

end Sys2Proof.Machine
end

section
/-! SUPPORT. Accesses through the aperture, case by case; the statements on the aperture's writes and reads, settled. -/

namespace Sys2Proof.Machine

/-! ### Writes (R241) -/

/-- Settles O26: a write through BAR2 does nothing but count (R241). -/
theorem apertureWritesAreDiscarded : Obligations.ApertureWritesAreDiscarded := by
  intro fn off len s hlive
  change execApertureWrite fn off len s = _
  rw [execApertureWrite, whenLive_live _ s hlive]

/-! ### Reads (R236, R240, R242) -/

section
variable {fn off len k : Nat} {u : Bool} {s : State} (hlive : s.live = true) (hlen : 0 < len)
include hlive hlen

theorem exec_apertureRead : exec (.apertureRead fn off len k u) s = .next (s.apertureRead fn off len k u) := by
  change execApertureRead fn off len k u s = _
  rw [execApertureRead, whenLive_live _ s hlive, if_neg (Nat.ne_of_gt hlen)]

theorem exec_apertureRead_fails {st : Nat} {tw : Bool}
    (h : s.apertureCheck fn ((s.ap fn).unitNo * 2 ^ 28 + off) len (s.ap fn).openPath = some (st, tw)) :
    exec (.apertureRead fn off len k u) s = .next (s.apertureFail fn off st tw) := by
  rw [exec_apertureRead hlive hlen, State.apertureRead, h]
  rfl

theorem exec_apertureRead_passes {path : Bool} (hpath : (s.ap fn).openPath = path)
    (h : s.apertureCheck fn ((s.ap fn).unitNo * 2 ^ 28 + off) len path = none) :
    exec (.apertureRead fn off len k u) s = .next (s.apertureServe fn off len k u ((s.ap fn).unitNo * 2 ^ 28 + off) none) := by
  rw [exec_apertureRead hlive hlen, State.apertureRead, hpath, h]

end

/-- An aperture read whose checks pass and whose words all decode: its corrections are added, its owner charged and its bytes answered. -/
def State.apertureAnswer (s : State) (fn off len k da : Nat) (bytes : Bytes) : State :=
  ((s.setAp fn { s.ap fn with corrected := (s.ap fn).corrected + BitVec.ofNat 32 k }).account
    ((s.unitOwner (daUnit da)).getD 0xFFFF) 2 len).emit (.readBytes fn off bytes)

section
variable {fn off len k da : Nat} {u : Bool} {s : State}

section
variable (hopen : (s.ap fn).openPath = true)
include hopen

theorem apertureServe_open_sound (hbad : s.badTwins da len = []) :
    s.apertureServe fn off len k u da none = s.apertureAnswer fn off len k da (s.apertureBytes da len) := by
  simp [State.apertureServe, State.apertureAnswer, hopen, hbad]

theorem apertureServe_open_twinsDiffer (hbad : s.badTwins da len ≠ []) :
    s.apertureServe fn off len k u da none =
      (((s.badTwins da len).filter fun x => !twinsEqual s.dram.mem x).foldl State.twinMismatch s).apertureFail fn off stMedia true := by
  simp [State.apertureServe, hopen, hbad]

end

section
variable (hsealed : (s.ap fn).openPath = false)
include hsealed

theorem apertureServe_sealed_lost (hlost : s.meetsLost da len = true) :
    s.apertureServe fn off len k u da none = s.apertureFail fn off stMedia false := by
  simp [State.apertureServe, hsealed, hlost]

theorem apertureServe_sealed_uncorrectable (hlost : s.meetsLost da len = false) :
    s.apertureServe fn off len k true da none = (s.wordLost da).apertureFail fn off stMedia false := by
  simp [State.apertureServe, hsealed, hlost]

theorem apertureServe_sealed_sound (hlost : s.meetsLost da len = false) :
    s.apertureServe fn off len k false da none = s.apertureAnswer fn off len k da (s.apertureBytes da len) := by
  simp [State.apertureServe, State.apertureAnswer, hsealed, hlost]

end

theorem apertureBytes_open {n : Nat} (h : s.unitKind (daUnit da) = .opened n) : s.apertureBytes da len = memReadN s.dram.mem da len := by
  simp [State.apertureBytes, h]

end

/-- The rows that meet the bytes from da up are those that start in the last row at or before da and before the end. -/
theorem mem_rowsOf_range_iff {da len x : Nat} (hlen : 0 < len) :
    x ∈ (List.range ((da + len - 1) / 1024 + 1 - da / 1024)).map (fun i => (da / 1024 + i) * 1024) ↔
      da / 1024 * 1024 ≤ x ∧ x < da + len ∧ x % 1024 = 0 := by
  simp only [List.mem_map, List.mem_range]
  constructor
  case mp =>
    rintro ⟨i, hi, rfl⟩
    omega
  case mpr =>
    rintro ⟨hlo, hhi, hrow⟩
    exact ⟨x / 1024 - da / 1024, by omega, by omega⟩

/-- A row that an open read finds bad: its twins differ, or its chunk is suspect already. -/
theorem mem_badTwins_iff {s : State} {da len x : Nat} (hlen : 0 < len) :
    x ∈ s.badTwins da len ↔ da / 1024 * 1024 ≤ x ∧ x < da + len ∧ x % 1024 = 0 ∧
      (twinsEqual s.dram.mem x = false ∨ ∃ key i, s.openObject x = some (key, i) ∧ s.isSuspect key i = true) := by
  rw [State.badTwins, List.mem_filter, mem_rowsOf_range_iff hlen, and_assoc, and_assoc, Bool.or_eq_true, Bool.not_eq_true']
  cases hx : s.openObject x with
  | none => simp
  | some p =>
    obtain ⟨key, i⟩ := p
    have hchunk : (∃ k c, some (key, i) = some (k, c) ∧ s.isSuspect k c = true) ↔ s.isSuspect key i = true :=
      ⟨fun ⟨_, _, heq, hsus⟩ => by cases heq; exact hsus, fun hsus => ⟨key, i, rfl, hsus⟩⟩
    rw [hchunk]

/-- Settles O27, by the aperture's path and then by what its read meets there. -/
theorem apertureReads : Obligations.ApertureReads := by
  rintro fn off len k da u s hlive hlen rfl
  refine ⟨fun st tw => exec_apertureRead_fails hlive hlen, ?opened, ?closed⟩
  case opened =>
    intro hopen hpass
    rw [exec_apertureRead_passes hlive hlen hopen hpass]
    refine ⟨fun hbad n hkind => ?_, fun hbad => ?_, fun x => mem_badTwins_iff hlen⟩
    · rw [apertureServe_open_sound hopen hbad, apertureBytes_open hkind, State.apertureAnswer]
    · rw [apertureServe_open_twinsDiffer hopen hbad]
  case closed =>
    intro hsealed hpass
    rw [exec_apertureRead_passes hlive hlen hsealed hpass]
    refine ⟨fun hlost => ?_, fun hlost hu => ?_, fun hlost hu => ?_⟩
    · rw [apertureServe_sealed_lost hsealed hlost]
    · rw [hu, apertureServe_sealed_uncorrectable hsealed hlost]
    · rw [hu, apertureServe_sealed_sound hsealed hlost, State.apertureAnswer]

end Sys2Proof.Machine
end

section
/-! SUPPORT. What becomes of a packet received, check by check; the statement on it, settled. -/

namespace Sys2Proof.Machine

/-! ### The checks on a packet received (R285 to R287, R312, R313) -/

section
variable {s : State} {port : Nat} {p : Packet} {crcOk tagOk : Bool} {words : List (Nat × Nat)}

theorem exec_packetReceived (hlive : s.live = true) :
    exec (.packetReceived port p crcOk tagOk words) s =
      .next ((s.receive port p crcOk tagOk words).settleMoved.installLate.replayNow.settleAll) := by
  change execPacketReceived port p crcOk tagOk words s = _
  exact whenLive_live _ s hlive

theorem receive_deaf (h : s.portUp port = false ∨ 3 ≤ s.power.state) : s.receive port p crcOk tagOk words = s :=
  if_pos (by simpa using h)

section
variable (hup : s.portUp port = true) (hpower : s.power.state < 3)
include hup hpower

theorem receive_bad (h : crcOk = false ∨ badHeader s.frame.logicalId p.hdr = true) :
    s.receive port p crcOk tagOk words = s.crcFail port p.hdr.seq words := by
  rw [State.receive, if_neg (by simp [hup, hpower]), if_pos (by simpa using h)]

variable (hcrc : crcOk = true) (hheader : badHeader s.frame.logicalId p.hdr = false)
include hcrc hheader

theorem receive_unauthentic (hencrypted : (s.port port).encrypted = true) (htag : tagOk = false) :
    s.receive port p crcOk tagOk words = s.authFail port p.hdr.seq := by
  rw [State.receive, if_neg (by simp [hup, hpower]), if_neg (by simp [hcrc, hheader]), if_pos (by simp [hencrypted, htag])]

variable (htag : (s.port port).encrypted = false ∨ tagOk = true)
include htag

/-- A packet that passes every check is acknowledged. Its first copy is remembered, then consumed here or passed on with one hop less. -/
theorem receive_authentic :
    s.receive port p crcOk tagOk words =
      if p.hdr.seq ∈ (s.port port).rxSeqs then s.emit (.acked port p.hdr.seq)
      else
        let t := (s.emit (.acked port p.hdr.seq)).mapPort port fun x =>
          { x with rxSeqs := (x.rxSeqs ++ [p.hdr.seq]).drop (x.rxSeqs.length + 1 - 4096) }
        if p.hdr.dst = s.frame.logicalId ∨ p.hdr.dst = 0x3FF then (t.mirrorPacket p).consume port p
        else t.forwardPacket true { p with hdr := { p.hdr with hops := p.hdr.hops - 1 } } := by
  have hauthentic : ((s.port port).encrypted && !tagOk) = false := by
    cases htag with
    | inl hplain => rw [hplain, Bool.false_and]
    | inr hok => rw [hok, Bool.not_true, Bool.and_false]
  rw [State.receive, if_neg (by simp [hup, hpower]), if_neg (by simp [hcrc, hheader]), hauthentic, if_neg Bool.false_ne_true]
  simp only [List.contains_iff_mem]

end

end

/-- Settles O38, by the link's checks in their order. -/
theorem packetsAreReceived : Obligations.PacketsAreReceived := by
  refine ⟨fun port p crcOk tagOk words s => exec_packetReceived, fun port p crcOk tagOk words s => ⟨receive_deaf, fun hup hpower => ?up⟩⟩
  case up =>
    refine ⟨receive_bad hup hpower, fun hcrc hheader => ⟨receive_unauthentic hup hpower hcrc hheader, fun htag => ?_⟩⟩
    have hreceive := receive_authentic (words := words) hup hpower hcrc hheader htag
    exact ⟨fun hknown => hreceive.trans (if_pos hknown), fun hnew => hreceive.trans (if_neg hnew)⟩

end Sys2Proof.Machine
end

section
/-! SUPPORT. The grandmaster that a node selects, and the commands after which it selects anew; the statement on them, settled. -/

namespace Sys2Proof.Machine

/-! ### The choice of a grandmaster (R297) -/

section
variable {s : State}

theorem selectGm_unjoined (h : s.frame.joined = false) :
    s.selectGm.time.isGm = true ∧ s.selectGm.time.gmId = s.frame.logicalId ∧ s.selectGm.time.hops = 0 := by
  simp [State.selectGm, h]

theorem selectGm_follows {a : Nat × Nat × Nat × Nat × Nat} (hjoined : s.frame.joined = true) (hbest : bestAdvert s.goodAdverts = some a)
    (hrank : rankLt (a.2.1, a.2.2.1, a.2.2.2.1) s.ownRank = true) :
    s.selectGm.time.isGm = false ∧ s.selectGm.time.gmId = a.2.2.2.1 ∧ s.selectGm.time.hops = a.2.2.2.2 + 1 ∧
      s.selectGm.time.upPort = a.1 := by
  simp [State.selectGm, hjoined, hbest, hrank]

/-! ### The events of network time (R300, R391) -/

variable (hlive : s.live = true)
include hlive

theorem exec_gmAdvertLoss : exec .gmAdvertLoss s = .next s.advertLoss := by
  change execGmAdvertLoss s = _
  exact whenLive_live _ s hlive

theorem exec_ppsTimeout :
    exec .ppsTimeout s = .next (State.selectGm { s with time := { s.time with ppsRun := 0, ppsLocked := false } }) := by
  change execPpsTimeout s = _
  exact whenLive_live _ s hlive

theorem exec_ppsInEdge (off : Int) : exec (.ppsInEdge off) s = .next (s.ppsEdge off) := by
  change execPpsInEdge off s = _
  exact whenLive_live _ s hlive

theorem exec_nodeUnlockedLimit :
    exec .nodeUnlockedLimit s = .next (if s.time.locked then s else s.selfSuspect 13 s.frame.logicalId) := by
  change execNodeUnlockedLimit s = _
  exact whenLive_live _ s hlive

end

/-- Settles O41, by the two outcomes of the selection and the work of each event. -/
theorem grandmasterSelection : Obligations.GrandmasterSelection := by
  refine ⟨fun _ => selectGm_unjoined, fun _ _ => selectGm_follows, ?anew, ?edge, fun _ => exec_nodeUnlockedLimit⟩
  case anew => exact fun _ hlive => ⟨exec_gmAdvertLoss hlive, exec_ppsTimeout hlive⟩
  case edge => exact fun off _ hlive => exec_ppsInEdge hlive off

end Sys2Proof.Machine
end

section
/-! SUPPORT. The queue and the making of the node under every command, the mailbox of a command that is busy or done, and the count of a
channel's faults with the tail of its completion ring; the statements on them, settled. -/

namespace Sys2Proof.Machine

/-! ### The queue and what the node is made as (R320, R374) -/

/-- Settles O6: `Fit` holds of a state with its own queue and making, and every command keeps it. -/
theorem commandsKeepQueueAndIdentity : Obligations.CommandsKeepQueueAndIdentity := by
  intro c s t h
  obtain ⟨u, hu, hqueue, hmade, -⟩ := exec_stays c s (fit_self s)
  obtain rfl : t = u := Host.Outcome.next.inj (h.symm.trans hu)
  exact ⟨hqueue, hmade⟩

/-! ### GO, OVERRUN and MB_RESP (R321, R323, R324) -/

/-- Every command that goes through the mailbox is a body under the mailbox's one frame. -/
theorem exec_of_goes {x : Instr} {code : Nat} {g : Go} (h : x.goes = some (code, g)) :
    ∃ b body, ∀ s, exec x s = mailbox b code g body s := by
  cases x with
  | identify _ | channelCreate _ | channelDestroy _ | channelReset _ | easelLoad _ | easelArm _ | easelArmCancel _ | gatesLoad _
  | indexCreate _ | indexDrop _ | tableCreate _ | tableDrop _ | allowsetCreate _ | graphLoad _ | paletteSet _ | buildTrainRegions _
  | buildLoad _ | buildTrainLists _ | buildPlace _ | buildPublish _ | migrateRegion _ | migrateShard _ | migrateHotRows _
  | powerSetActive _ | powerSetActiveLow _ | powerSetIdle _ | powerSetStandby _ | powerSetOffReady _ | powerSetService _ | sectorGate _
  | modeSet _ | attestReport _ | keyInstallChannel _ _ | keyInstallPort _ _ | keyInstallIde _ _ | ownerTake _ | arrayJoin _
  | arrayLeave _ | shadowStart _ _ _ _ | sparePromote _ | takeoverConfirm _ | statsRead _ | logRead _ | fwStage _ | fwActivateWarm _
  | fwActivateCold _ | mbUnlistedCode _ _ =>
    cases h
    exact ⟨_, _, fun _ => by unfold exec; exact rfl⟩
  | _ => cases h

/-- Settles O7: all mailbox commands share the frame that looks at BUSY first. -/
theorem goWhileBusyOverruns : Obligations.GoWhileBusyOverruns := by
  intro c code g s hgoes hlive hbusy
  obtain ⟨b, body, hexec⟩ := exec_of_goes hgoes
  exact (hexec s).trans (mailbox_busy b code g body s hlive hbusy)

theorem exec_overrun {s : State} {fn : Nat} (h : (s.mb fn).busy = true) :
    exec (.overrun fn) s = .next (s.setMb fn { s.mb fn with overrun := true }) :=
  congrArg _ (if_pos h)

theorem exec_mbResp {s : State} {fn : Nat} {r : Resp} (h : (s.mb fn).ready = some r) :
    exec (.mbResp fn) s =
      .next ((s.setMb fn { s.mb fn with resp := r, ready := none, busy := false, done := true }).emit (.msix fn 0)) := by
  simp only [exec, execMbResp, h]

theorem exec_mbUnlistedCode {s : State} {g : Go} (code : Nat) (h : s.takesGo g) :
    exec (.mbUnlistedCode g code) s = .next (s.answered (s.begun code g) code g { status := stInvalid, offset := 0 }) :=
  mailbox_next true code g _ s _ _ h rfl (by decide)

/-- Settles O8, event by event. -/
theorem mailboxEvents : Obligations.MailboxEvents :=
  ⟨fun _ _ => exec_overrun, fun _ _ _ => exec_mbResp, fun _ code _ => exec_mbUnlistedCode code⟩

/-! ### The faults of a channel (R362) -/

section
variable (c : Chan) (f cause : Nat) (dead : List Nat)

theorem afterFault_faulted (h : (c.recentFaults f).length < 4) : (c.afterFault f cause dead).st = .faulted :=
  if_neg (Nat.not_le.mpr h)

theorem afterFault_retired (h : 4 ≤ (c.recentFaults f).length) : (c.afterFault f cause dead).st = .retired :=
  if_pos h

variable {c f} {a b d : Nat} (h : c.faultAt = [a, b, d])
include h

/-- Three faults of which none lies 65,536 frames back make this one the fourth. -/
theorem recentFaults_fourth (ha : f < a + 65536) (hb : f < b + 65536) (hd : f < d + 65536) : 4 ≤ (c.recentFaults f).length := by
  simp [Chan.recentFaults, h, ha, hb, hd]

/-- Of three faults the first of which lies 65,536 frames back, at most two count with this one. -/
theorem recentFaults_aged (ha : a + 65536 ≤ f) : (c.recentFaults f).length < 4 := by
  have hkept : (c.faultAt.filter fun x => decide (f < x + 65536)).length ≤ 2 := by
    rw [h, List.filter_cons_of_neg (by simpa using ha)]
    exact List.length_filter_le _ [b, d]
  rw [Chan.recentFaults, List.length_append, List.length_singleton]
  omega

end

/-! ### The tail of a completion ring (R342) -/

section
variable {r : Ring}

theorem advance_inside (h : r.cqTail + 1 < 2 ^ r.log2) : r.advance.cqTail = r.cqTail + 1 ∧ r.advance.phase = r.phase :=
  ⟨Nat.mod_eq_of_lt h, if_neg (Nat.ne_of_lt h)⟩

theorem advance_wraps (h : r.cqTail + 1 = 2 ^ r.log2) : r.advance.cqTail = 0 ∧ r.advance.phase = !r.phase :=
  ⟨by rw [Ring.advance, h, Nat.mod_self], if_pos h⟩

end

/-- Settles O59, by which faults still count at the frame and by whether the tail reaches the ring's end. -/
theorem faultsAndRings : Obligations.FaultsAndRings := by
  refine ⟨?states, ?fourth, ?aged, ?ring⟩
  case states => exact fun c f cause dead => ⟨afterFault_faulted c f cause dead, afterFault_retired c f cause dead, rfl, rfl⟩
  case fourth => exact fun c f a b d h => recentFaults_fourth h
  case aged => exact fun c f a b d h => recentFaults_aged h
  case ring => exact fun r _ => ⟨advance_inside, advance_wraps, rfl⟩

end Sys2Proof.Machine
end

section
/-! SUPPORT. The work of the mailbox commands of channels where their checks pass, and what step 5 of the commit window makes of the channels;
the statement on them, settled. -/

namespace Sys2Proof.Machine

/-! ### The commands' work (R320, R325, R336, R338) -/

section
variable {g : Go} {s : State}

theorem identifyBody_writes (hrows : decideRows ([inv [g.strayArgs []]] ++ g.outRows 256) = none) :
    identifyBody g s = (s.emit (.write g.pbAddr (s.identity g.fn)), MbRes.ok) :=
  checked_none _ _ _ hrows

theorem channelCreateBody_creates
    (hrows : decideRows ([g.pfOnly, inv [g.strayArgs []]] ++ g.pbRows 128 ++ [inv (ringsRow g ++ createChecks g s)]) = none) :
    channelCreateBody g s = createWork g s :=
  checked_none _ _ _ hrows

variable {slot : Nat} {c : Chan} (hchan : s.chanOf g.fn g.chan = some (slot, c))
include hchan

theorem channelDestroyBody_queues (hrows : decideRows [g.pfOnly, inv [g.strayArgs []]] = none) :
    channelDestroyBody g s = ({ s with changes := s.changes ++ [.destroy slot g.fn] }, { later := true }) := by
  rw [channelDestroyBody, checked_none _ _ _ hrows]
  simp only [hchan]

theorem channelResetBody_queues (hargs : decideRows [inv [g.strayArgs []]] = none) (hlive : c.st ≠ .retired)
    (hrows : decideRows (g.pbRows 128 ++ [inv (ringsRow g ++ resetChecks g)]) = none) :
    channelResetBody g s = ({ s with changes := s.changes ++ [.reset slot (ringsOf g.pb) g.fn] }, { later := true }) := by
  rw [channelResetBody, checked_none _ _ _ hargs, withChan_some _ _ _ _ _ hchan hlive, checked_none _ _ _ hrows]

end

/-! ### Step 5 of the commit window (R26, R338, R356, R363) -/

section
variable (s : State) (slot fn : Nat) (c : Chan)

theorem applyCreate_chan : tget (s.applyCreate slot c fn).chans slot = some c := by
  rw [State.applyCreate, mbEnd_chans, tget_tput_same]

/-- The counters of a new channel are at zero from the frame of its creation. -/
theorem applyCreate_acct : tget (s.applyCreate slot c fn).accts slot = some { Acct.zero with first := s.frame.num } := by
  rw [State.applyCreate, mbEnd_accts, tget_tput_same]

variable {s slot c} (hchan : tget s.chans slot = some c)
include hchan

theorem applyDestroy_chan : tget (s.applyDestroy slot fn).chans slot = none := by
  simp only [State.applyDestroy, hchan, mbEnd_chans, tget_tdel_same]

theorem applyReset_chan (rings : List Ring) (hlive : c.st ≠ .retired) :
    tget (s.applyReset slot rings fn).chans slot =
      some { c with rings := rings, part := [], cTok := c.bucket.cbs, pTok := c.bucket.pbs, st := .active } := by
  simp only [State.applyReset, hchan, if_neg hlive, mbEnd_chans, tget_tput_same]

end

/-- Settles O9: each command by its work where its checks pass, which do not look at the mailboxes, and step 5 by what it leaves in the
slot. -/
theorem channelCommandsTakeEffect : Obligations.ChannelCommandsTakeEffect := by
  refine ⟨?identify, ?create, ?destroy, ?reset, ?made, ?created, ?destroyed, ?restored⟩
  case identify => exact fun g s h hrows => mailbox_ok h true (identifyBody_writes (s := s.begun 0x01 g) hrows) rfl
  case create => exact fun g s h hrows => mailbox_ok h false (channelCreateBody_creates (s := s.begun 0x10 g) hrows) rfl
  case destroy =>
    exact fun g s slot c h hrows hchan => mailbox_ok h false (channelDestroyBody_queues (s := s.begun 0x11 g) hchan hrows) rfl
  case reset =>
    exact fun g s slot c h hargs hchan hlive hrows =>
      mailbox_ok h false (channelResetBody_queues (s := s.begun 0x12 g) hchan hargs hlive hrows) rfl
  case made => exact fun b gen x y z => ⟨rfl, rfl, rfl, rfl, rfl, rfl, rfl, rfl, rfl⟩
  case created => exact fun s slot fn c => ⟨applyCreate_chan s slot fn c, applyCreate_acct s slot fn c⟩
  case destroyed => exact fun s slot fn c hchan => applyDestroy_chan fn hchan
  case restored => exact fun s slot fn rings c hchan hlive => applyReset_chan fn hchan rings hlive

end Sys2Proof.Machine
end

section
/-! SUPPORT. The work of the mailbox commands of attestation, keys, owners and firmware, where their checks pass; the statement on them,
settled. -/

namespace Sys2Proof.Machine

/-! ### Rows with a field that is not broken (R458) -/

/-- A field that is not broken decides nothing, wherever it stands in its row and the row among the rows. -/
theorem decideRows_omit (before after : List CheckRow) (l r : List (Bool × Nat)) (o : Nat) :
    decideRows (before ++ inv (l ++ (false, o) :: r) :: after) = decideRows (before ++ inv (l ++ r) :: after) := by
  induction before with
  | nil => simp only [List.nil_append, decideRows, inv, List.filter_append, List.filter_cons, Bool.false_eq_true, if_false]
  | cons row before ih => simp only [List.cons_append, decideRows, ih]

theorem decideRows_omit_last (before : List CheckRow) (l : List (Bool × Nat)) (o : Nat) :
    decideRows (before ++ [inv (l ++ [(false, o)])]) = decideRows (before ++ [inv l]) := by
  rw [decideRows_omit before [] l [] o, List.append_nil]

/-! ### Attestation and firmware (R370, R375 to R378) -/

section
variable {g : Go} {s : State}

theorem attestReportBody_reports (hindex : s.sigIndex ≤ 1048575)
    (hargs : decideRows (inv [g.strayArgs [(0x18, 0, 256)]] :: g.outRows (6612 + 40 * (s.measurements g.fn).length)) = none) :
    attestReportBody g s =
      (s.useIndex.emit (.write g.pbAddr (s.report_ g)), { value := 6612 + 40 * (s.measurements g.fn).length }) := by
  simp only [attestReportBody, checked_none _ _ _ hargs, if_neg (Nat.not_lt.mpr hindex)]

/-- FW_ACTIVATE of a verified image on a running node: the kind of start is awaited from the frame of acceptance, and a drain that stands
goes on. -/
theorem fwActivateBody_waits {f : FwImage} (hargs : decideRows [g.pfOnly, inv [g.strayArgs [(0x14, 0, 1)]]] = none)
    (hstaged : s.boot.staged = some f) (hverified : f.verified = true) (hrun : s.power.run = .ready) :
    let d := match s.power.drainFrom with | some x => x | none => s.acceptFrame g.cycle + 1
    fwActivateBody g s =
      ({ s with power := { s.power with want := some (if g.arg 0x14 0 1 == 1 then 6 else 5, s.acceptFrame g.cycle), drainFrom := some d } },
        MbRes.ok) := by
  have hready : s.power.run ≠ .recovery := by simp [hrun]
  rw [fwActivateBody, checked_none _ _ _ hargs]
  simp only [hstaged, hverified, if_neg hready, Bool.not_true, Bool.false_eq_true, if_false]
  rfl

theorem fwActivateBody_activates {f : FwImage} (hargs : decideRows [g.pfOnly, inv [g.strayArgs [(0x14, 0, 1)]]] = none)
    (hstaged : s.boot.staged = some f) (hverified : f.verified = true) (hrun : s.power.run = .recovery) :
    fwActivateBody g s = (s.activate (g.arg 0x14 0 1 == 1), MbRes.ok) := by
  rw [fwActivateBody, checked_none _ _ _ hargs]
  simp only [hstaged, hverified, hrun, Bool.not_true, Bool.false_eq_true, if_false, if_true]

/-- The two kinds of start that an activation waits for are told by one bit. -/
theorem activation_kind (h : g.arg 0x14 0 1 = 0 ∨ g.arg 0x14 0 1 = 1) : (if g.arg 0x14 0 1 == 1 then 6 else 5) = 5 + g.arg 0x14 0 1 := by
  obtain h | h := h
  · rw [h]; rfl
  · rw [h]; rfl

/-- A command that recovery accepts is answered there as a running node answers it (R436). -/
theorem mailbox_recovery {code : Nat} {body : MbBody} {u : State} {r : MbRes} (hrun : s.power.run = .recovery)
    (hfree : (s.mb g.fn).busy = false) (hbody : body (s.begun code g) = (u, r)) (hr : r.status = 0) :
    mailbox true code g body s = .next (s.answered u code g r) := by
  have hanswers : s.answers = true := by simp [State.answers, hrun]
  have hbad : ¬(r.status = stInvalid ∧ r.offset = 0xFFFFFFFF) := fun hbad => absurd (hr.symm.trans hbad.1) (by decide)
  unfold State.begun at hbody
  simp only [mailbox, goMb, hanswers, hrun, hfree, hbody, State.openOffset, if_neg hbad, beq_self_eq_true, Bool.and_self, Bool.or_true,
    Bool.true_or, Bool.false_eq_true, if_true, if_false, State.answered]

/-! ### Owners (R371) -/

theorem ownerTakeBody_takes (hchans : s.chans = []) (harm : s.easel.arm = none)
    (hrows : decideRows (g.pfOnly :: inv [g.strayArgs []] :: g.pbRows 0x60 ++
      (match s.boot.ownerHash with
        | some _ => [inv [(decide (g.pbLen < 0x60 + 16 + 1840 * rd g.pb 0x64 1), 0x1064)]]
        | none => []) ++ [inv (ownerRow g s)]) = none) :
    let b := { s.boot with ownerHash := (if allZero (slice g.pb 0x20 56) then none else some (digest (slice g.pb 0x20 56))),
                           ownerSeq := rd g.pb 0x18 4, devSeq := s.boot.devSeq + 1 }
    ownerTakeBody g s = ({ s with boot := b }, MbRes.ok) := by
  have hclear : ¬(!s.chans.isEmpty || s.easel.arm.isSome) = true := by simp [hchans, harm]
  rw [ownerTakeBody]
  exact (checked_none _ _ _ hrows).trans (if_neg hclear)

/-! ### Keys (R380 to R383) -/

variable {key : Bytes}

theorem keyInstallBody_channel {slot : Nat} {c : Chan} (htarget : g.arg 0x14 0 2 = 0)
    (hargs : decideRows [inv [g.strayArgs [(0x14, 0, 2), (0x14, 4, 7)]]] = none) (hchan : s.chanOf g.fn g.chan = some (slot, c))
    (hlive : c.st ≠ .retired)
    (hpackage : decideRows (g.pbRows 1708 ++ [inv (packageRow g (some key) 0 s ++
        [(!c.encrypt, 0x04), (c.key.isSome && c.keyBytes != key, 0x165C),
         ((match c.checkValue with | some v => v.2 != checkValueOf key | none => false), 0x165C)])]) = none) :
    keyInstallBody g (some key) s = (s.installKey slot (rd g.pb 0xC 4) key, MbRes.ok) := by
  have hargs' : decideRows [inv [g.strayArgs [(0x14, 0, 2), (0x14, 4, 7)], (false, 0x14), (false, 0x14)]] = none :=
    (decideRows_omit [] [] [_] [_] 0x14).trans ((decideRows_omit [] [] [_] [] 0x14).trans hargs)
  simp only [keyInstallBody, htarget, if_true]
  exact (checked_none _ _ _ hargs').trans ((withChan_some _ _ _ _ _ hchan hlive).trans (checked_none _ _ _ hpackage))

theorem keyInstallBody_port (htarget : g.arg 0x14 0 2 = 1)
    (hrows : decideRows (g.pfOnly :: inv [g.strayArgs [(0x14, 0, 2), (0x14, 4, 7)], (decide (7 < g.arg 0x14 4 7), 0x14)] ::
      g.pbRows 1708 ++ [inv (packageRow g (some key) 1 s ++
        [((match s.ports[g.arg 0x14 4 7]? with | some p => p.keyIds.contains (rd g.pb 0xC 4) | none => false), 0x100C)])]) = none) :
    keyInstallBody g (some key) s =
      (s.mapPort (g.arg 0x14 4 7) fun p =>
        { p with keyNext := some (rd g.pb 0xC 4), keyIds := p.keyIds ++ [rd g.pb 0xC 4] }, MbRes.ok) := by
  have hrows' := (decideRows_omit [g.pfOnly] _ [_] [_] 0x14).trans hrows
  rw [keyInstallBody, htarget]
  exact (if_neg (by decide)).trans ((checked_none _ _ _ hrows').trans (if_pos rfl))

theorem keyInstallBody_ide (htarget : g.arg 0x14 0 2 = 2)
    (hrows : decideRows (g.pfOnly :: inv [g.strayArgs [(0x14, 0, 2), (0x14, 4, 7)], (decide (7 < g.arg 0x14 4 7), 0x14)] ::
      g.pbRows 1708 ++ [inv (packageRow g (some key) 2 s)]) = none) :
    keyInstallBody g (some key) s =
      ({ s with keys := { s.keys with ide := tput s.keys.ide (g.arg 0x14 4 7) (le (key.take 32)) } }, MbRes.ok) := by
  have hrows' : decideRows (g.pfOnly ::
      inv [g.strayArgs [(0x14, 0, 2), (0x14, 4, 7)], (false, 0x14), (decide (7 < g.arg 0x14 4 7), 0x14)] ::
      g.pbRows 1708 ++ [inv (packageRow g (some key) 2 s ++ [(false, 0x100C)])]) = none := by
    rw [decideRows_omit_last]
    exact (decideRows_omit [g.pfOnly] _ [_] [_] 0x14).trans hrows
  rw [keyInstallBody, htarget]
  exact (if_neg (by decide)).trans ((checked_none _ _ _ hrows').trans (if_neg (by decide)))

end

/-- Settles O15: each command by its work where its checks pass, which do not look at the mailboxes. -/
theorem securityCommandsTakeEffect : Obligations.SecurityCommandsTakeEffect := by
  refine ⟨?attest, ?channelKey, ?portKey, ?ideKey, ?owner, ?stage, ?activate⟩
  case attest => exact fun g s h hindex hargs => mailbox_ok h _ (attestReportBody_reports (s := s.begun 0x50 g) hindex hargs) rfl
  case channelKey =>
    exact fun g key s slot c h htarget hargs hchan hlive hpackage =>
      mailbox_ok h _ (keyInstallBody_channel (s := s.begun 0x51 g) htarget hargs hchan hlive hpackage) rfl
  case portKey => exact fun g key s h htarget hrows => mailbox_ok h _ (keyInstallBody_port (s := s.begun 0x51 g) htarget hrows) rfl
  case ideKey => exact fun g key s h htarget hrows => mailbox_ok h _ (keyInstallBody_ide (s := s.begun 0x51 g) htarget hrows) rfl
  case owner => exact fun g s h hchans harm hrows => mailbox_ok h _ (ownerTakeBody_takes (s := s.begun 0x52 g) hchans harm hrows) rfl
  case stage => exact fun g s h hrows => mailbox_ok h _ (checked_none _ _ _ hrows) rfl
  case activate =>
    intro i g s f hi hfree hargs hstaged hverified
    have hexec : exec i s = mailbox true 0x81 g (fwActivateBody g) s := by
      obtain ⟨rfl, -⟩ | ⟨rfl, -⟩ := hi
      all_goals rfl
    have hkind : g.arg 0x14 0 1 = 0 ∨ g.arg 0x14 0 1 = 1 := hi.imp And.right And.right
    rw [hexec]
    refine ⟨fun hrun => ?ready, fun hrun => ?recovery⟩
    case ready =>
      have h : s.takesGo g := ⟨by simp [State.live, hrun], hfree⟩
      rw [← activation_kind hkind]
      exact mailbox_ok h _ (fwActivateBody_waits (s := s.begun 0x81 g) hargs hstaged hverified hrun) rfl
    case recovery => exact mailbox_recovery hrun hfree (fwActivateBody_activates (s := s.begun 0x81 g) hargs hstaged hverified hrun) rfl

end Sys2Proof.Machine
end

section
/-! SUPPORT. What STATS_READ writes and clears, class by class, and which records LOG_READ examines; the statement on them, settled. -/

namespace Sys2Proof.Machine

/-! ### The classes of STATS_READ (R330, R355) -/

section
variable {g : Go} {s : State} {bs : Bytes}

theorem statsTo_writes (clear : State → State) (hout : decideRows (g.outRows bs.length) = none) :
    statsTo g bs clear s = (if g.arg 0x14 8 1 = 1 then clear (s.statsOut g bs).1 else (s.statsOut g bs).1, { value := bs.length }) :=
  checked_none _ _ _ hout

/-- CLEAR of a class whose SELECT is a channel clears counters in class 0 alone. -/
theorem statsTo_statsClear {slot cls : Nat} (hout : decideRows (g.outRows bs.length) = none) :
    statsTo g bs (fun s => s.statsClear slot cls) s =
      (if g.arg 0x14 8 1 = 1 ∧ cls = 0 then (s.statsOut g bs).1.mapAcct slot fun a => a.clear s.frame.num else (s.statsOut g bs).1,
        { value := bs.length }) := by
  rw [statsTo_writes _ hout]
  by_cases hclear : g.arg 0x14 8 1 = 1
  · simp only [hclear, true_and, if_true]
    rfl
  · simp only [hclear, false_and, if_false]

theorem nodeRead_writes :
    nodeRead g s = statsTo g (acctBytes s.nodeTotals (min ((s.chans.map fun p => p.2.faults).sum) 0xFFFF) 0) (fun s =>
      { s with nodeAcct := s.nodeAcct.clear s.frame.num, accts := s.accts.map fun p => (p.1, p.2.clear s.frame.num) }) s :=
  rfl

theorem chanRead_writes {cls slot : Nat} {c : Chan} (hchan : s.chanOf g.fn (BitVec.ofNat 32 (g.arg 0x18 0 32)) = some (slot, c))
    (hlive : c.st ≠ .retired) :
    chanRead g cls s = statsTo g (s.statsData slot c cls (chanHandle slot c)) (fun s => s.statsClear slot cls) s := by
  simp only [chanRead, hchan, if_neg hlive]

/-- SELECT names a queue that has a histogram and that the function may read: of a ring, of a port's queue, or of a flash channel. -/
def State.histoSeen (s : State) (g : Go) (ch : Chan) : Prop :=
  let sel := g.arg 0x18 0 32
  (sel / 2 ^ 24 = 0 ∧ tget s.chans (sel % 2 ^ 16 / 16) = some ch ∧ (g.fn = 0 ∨ ch.fn = g.fn) ∧ sel % 2 ^ 16 % 16 < ch.rings.length) ∨
    (sel / 2 ^ 24 = 1 ∧ g.fn = 0 ∧ sel % 2 ^ 16 / 8 < 8 ∧ sel % 2 ^ 16 % 8 < 5) ∨
    (sel / 2 ^ 24 = 2 ∧ g.fn = 0 ∧ sel % 2 ^ 16 < 24)

theorem histoRead_writes {ch : Chan} (hzero : g.arg 0x18 0 32 / 2 ^ 16 % 2 ^ 8 = 0) (hseen : s.histoSeen g ch) :
    histoRead g s = statsTo g (s.histo (g.arg 0x18 0 32)).bytes (fun s => { s with histos := tdel s.histos (g.arg 0x18 0 32) }) s := by
  unfold histoRead
  obtain ⟨hkind, hchan, hfn, hring⟩ | ⟨hkind, hfn, hport, hqueue⟩ | ⟨hkind, hfn, hflash⟩ := hseen
  · have hown : (g.fn == 0 || ch.fn == g.fn) = true := by simpa using hfn
    simp only [hkind, hzero, hchan, hown, decide_eq_true hring]
    rfl
  · simp only [hkind, hzero, hfn, decide_eq_true hport, decide_eq_true hqueue]
    rfl
  · simp only [hkind, hzero, hfn, decide_eq_true hflash]
    rfl

theorem objectRead_writes {cls slot : Nat} {c : Chan} (hchan : s.chanOf g.fn g.chan = some (slot, c)) (hlive : c.st ≠ .retired)
    (hsize : (statsSize s slot c cls (BitVec.ofNat 32 (g.arg 0x18 0 32))).isSome) :
    objectRead g cls s = statsTo g (s.statsData slot c cls (BitVec.ofNat 32 (g.arg 0x18 0 32))) id s := by
  rw [objectRead, withChan_some _ _ _ _ _ hchan hlive]
  exact if_neg (by simpa [Option.isSome_iff_ne_none] using hsize)

section
variable (hargs : decideRows [inv [g.strayArgs statsArgLayout, (decide (4 < g.arg 0x14 0 8), 0x14)]] = none)
include hargs

theorem statsReadBody_node (hcls : g.arg 0x14 0 8 = 0) (hsel : g.arg 0x18 0 32 = 0) (hfn : g.fn = 0) :
    statsReadBody g s = nodeRead g s := by
  have hpf : decideRows [g.pfOnly] = none := by simp [Go.pfOnly, hfn, decideRows, inv]
  rw [statsReadBody, checked_none _ _ _ hargs]
  simp only [hcls, hsel, if_true, hpf]

theorem statsReadBody_chan (h : (g.arg 0x14 0 8 = 0 ∧ g.arg 0x18 0 32 ≠ 0) ∨ g.arg 0x14 0 8 = 4) :
    statsReadBody g s = chanRead g (g.arg 0x14 0 8) s := by
  rw [statsReadBody, checked_none _ _ _ hargs]
  obtain ⟨hcls, hsel⟩ | hcls := h
  · simp only [hcls, if_neg hsel]
  · simp only [hcls]

theorem statsReadBody_histo (hcls : g.arg 0x14 0 8 = 1) : statsReadBody g s = histoRead g s := by
  rw [statsReadBody, checked_none _ _ _ hargs]
  simp only [hcls]

theorem statsReadBody_object (h : g.arg 0x14 0 8 = 2 ∨ g.arg 0x14 0 8 = 3) : statsReadBody g s = objectRead g (g.arg 0x14 0 8) s := by
  rw [statsReadBody, checked_none _ _ _ hargs]
  obtain hcls | hcls := h
  · simp only [hcls]
  · simp only [hcls]

end

/-- STATS_READ of a running node whose mailbox is free ends as its body does. -/
theorem exec_statsRead {u : State} {r : MbRes} (h : s.takesGo g) (hbody : statsReadBody g (s.begun 0x70 g) = (u, r)) (hr : r.status = 0) :
    exec (.statsRead g) s = .next (s.answered u 0x70 g r) :=
  mailbox_ok h false hbody hr

end

/-! ### LOG_READ (R331) -/

section
variable (fn : Nat)

theorem examine_records (n next : Nat) (l : List LogRec) : (examine fn n next l).1 = (l.filter fun r => r.seenBy fn).take n := by
  fun_induction examine fn n next l with
  | case1 => simp
  | case2 => simp
  | case3 n next r rest hseen t ih => simp [hseen, ih, t]
  | case4 n next r rest hseen ih => simp [hseen, ih]

/-- The SEQ that LOG_READ answers with follows a record of the log, or is where it began. -/
theorem examine_next (n next : Nat) (l : List LogRec) :
    (examine fn n next l).2 = next ∨ ∃ r ∈ l, (examine fn n next l).2 = r.seq + 1 := by
  fun_induction examine fn n next l with
  | case1 => exact .inl rfl
  | case2 => exact .inl rfl
  | case3 n next r rest hseen t ih =>
    obtain hfirst | ⟨x, hx, hseq⟩ := ih
    · exact .inr ⟨r, List.mem_cons_self, hfirst⟩
    · exact .inr ⟨x, List.mem_cons_of_mem r hx, hseq⟩
  | case4 n next r rest hseen ih =>
    obtain hfirst | ⟨x, hx, hseq⟩ := ih
    · exact .inr ⟨r, List.mem_cons_self, hfirst⟩
    · exact .inr ⟨x, List.mem_cons_of_mem r hx, hseq⟩

/-- Where fewer records are seen than asked for, all are examined. -/
theorem examine_all (n next : Nat) (l : List LogRec) (h : (l.filter fun r => r.seenBy fn).length < n) :
    (examine fn n next l).2 = (l.map fun r => r.seq + 1).getLastD next := by
  fun_induction examine fn n next l with
  | case1 => rfl
  | case2 => omega
  | case3 n next r rest hseen t ih =>
    simp only [List.filter_cons, hseen, if_true, List.length_cons] at h
    rw [List.map_cons, List.getLastD_cons]
    exact ih (by omega)
  | case4 n next r rest hseen ih =>
    simp only [List.filter_cons, hseen, Bool.false_eq_true, if_false] at h
    rw [List.map_cons, List.getLastD_cons]
    exact ih h

theorem getLastD_map_succ {l : List LogRec} (next : Nat) (h : l ≠ []) :
    (l.map fun r => r.seq + 1).getLastD next = (l.map (·.seq)).getLastD next + 1 := by
  obtain ⟨init, r, rfl⟩ := (List.eq_nil_or_concat l).resolve_left h
  simp

end

/-- Settles O17: a class by the read that it selects, LOG_READ by what it examines. That LAST_CAUSE of the totals is 0 is log entry 25, and
that less than 64 bytes read no record is 46. -/
theorem readCommandsTakeEffect : Obligations.ReadCommandsTakeEffect := by
  refine ⟨?stats, ?log, ?examined⟩
  case stats =>
    intro g s h hargs t out sel clears
    refine ⟨?node, ?chan, ?histo, ?object⟩
    case node =>
      rintro bs rfl hcls hsel hfn hout u
      exact exec_statsRead h ((statsReadBody_node hargs hcls hsel hfn).trans
        ((nodeRead_writes (s := t)).trans (statsTo_writes _ hout))) rfl
    case chan =>
      rintro slot c bs rfl hsel hchan hlive hout
      exact exec_statsRead h ((statsReadBody_chan hargs hsel).trans
        ((chanRead_writes (s := t) hchan hlive).trans (statsTo_statsClear hout))) rfl
    case histo =>
      rintro ch bs rfl hcls hzero hseen hout u
      exact exec_statsRead h ((statsReadBody_histo hargs hcls).trans
        ((histoRead_writes (s := t) hzero hseen).trans (statsTo_writes _ hout))) rfl
    case object =>
      rintro slot c bs rfl hcls hchan hlive hsize hout
      exact exec_statsRead h ((statsReadBody_object hargs hcls).trans
        ((objectRead_writes (s := t) hchan hlive hsize).trans ((statsTo_writes _ hout).trans (by rw [id, ite_self]; rfl)))) rfl
  case log => exact fun g s h hargs => mailbox_ok h true (checked_none _ _ _ hargs) rfl
  case examined =>
    exact fun fn n next l => ⟨examine_records fn n next l, examine_next fn n next l,
      fun hl _ hfew => (examine_all fn n next l hfew).trans (getLastD_map_succ next hl)⟩

end Sys2Proof.Machine
end

section
/-! SUPPORT. The landing of a ring command that is refused, policed or lost, the end of its buffers' reads, and host accesses that failed;
the statements on them, settled. -/

namespace Sys2Proof.Machine

/-! ### The checks of a landed command (R350, R458) -/

section
variable {s : State} {ch : Chan} {c : Cmd} {bs : List Bytes}

theorem checkCmd_refused {r : Nat × Nat × Nat} (h : decideBuf (landingRows s c.slot ch c.op c.entry bs) = some r) :
    s.checkCmd ch c bs = s.refuseCmd c r.1 r.2.1 r.2.2 := by
  simp only [State.checkCmd, h]

theorem checkCmd_passed (h : decideBuf (landingRows s c.slot ch c.op c.entry bs) = none) : s.checkCmd ch c bs = s.police ch c := by
  simp only [State.checkCmd, h]

theorem police_off (h : ch.police = false) : s.police ch c = s.mapCmd c.land fun x => { x with passed := true } :=
  if_neg (by simp [h])

theorem police_on (h : ch.police = true) :
    let n := 64 + s.policedBytes c.slot c.op c.entry + ch.bucket.overhead
    s.police ch c = if n ≤ ch.cTok ∧ n ≤ ch.pTok then
        (s.mapChan c.slot fun x => { x with cTok := x.cTok - n, pTok := x.pTok - n }).mapCmd c.land fun x => { x with passed := true }
      else (s.mapChan c.slot fun x => { x with policed := x.policed + 1 }).refuseCmd c stPoliced 0 0 :=
  if_pos h

end

/-! ### Ring commands that are refused, policed or lost (R343, R350, R360, R391, R458) -/

/-- Every ring command of the table but FENCE, which also writes the fences that are due, is a landing. -/
theorem exec_of_lands {x : Instr} {op slot ring : Nat} {e : Bytes} {b : Option (List Bytes)}
    (h : x.lands = some (op, slot, ring, e, b)) {s : State} (hlive : s.live = true) : exec x s = .next (s.land op slot ring e b) := by
  refine .trans ?_ (whenLive_live (fun s => s.land op slot ring e b) s hlive)
  cases x with
  | search _ _ _ _ | lookup _ _ _ _ | apply _ _ _ _ | upsert _ _ _ _ | delete _ _ _ | fetch _ _ _ | setEdit _ _ _ _
  | snapshot _ _ _ | replaceRows _ _ _ _ | stats _ _ _ =>
    cases h
    rfl
  | _ => cases h

theorem nextLanding_slot {s : State} {slot ring : Nat} {l : Landing} (h : s.nextLanding slot ring = some l) : l.slot = slot := by
  unfold State.nextLanding at h
  split at h
  case h_1 x hfind =>
    obtain ⟨-, hx⟩ := Option.ite_none_right_eq_some.mp h
    obtain rfl := Option.some.inj hx
    simpa using List.find?_some hfind
  case h_2 => cases h

/-- The one row of an opcode that the table does not list is broken at OPCODE. -/
theorem decideBuf_unlisted (s : State) (slot : Nat) (ch : Chan) (e : Bytes) (bs : List Bytes) :
    decideBuf (landingRows s slot ch 0x00 e bs) = some (stInvalid, 0x00, 0) := rfl

section
variable {s : State} {slot ring : Nat} {l : Landing} {ch : Chan} (op : Nat) (e : Bytes)

theorem landsNext_slot (h : s.landsNext slot ring l ch) : l.slot = slot := by
  obtain ⟨-, hnext, -⟩ := h
  exact nextLanding_slot hnext

theorem land_checks (bs : List Bytes) (h : s.landsNext slot ring l ch) :
    s.land op slot ring e (some bs) = (s.takeEntry l op e (some bs)).2.checkCmd ch (s.takeEntry l op e (some bs)).1 bs := by
  obtain ⟨-, hnext, hchan, hlost⟩ := h
  simp only [State.land, hnext, hchan, hlost]

theorem land_lost (b : Option (List Bytes)) {st : Nat} (hnext : s.nextLanding slot ring = some l) (hchan : tget s.chans slot = some ch)
    (hlost : s.lostLanding ch l = some st) :
    s.land op slot ring e b =
      (s.takeEntry l op e b).2.settle l.land (s.frame.num + 1) ((s.takeEntry l op e b).1.outcome s st) := by
  simp only [State.land, hnext, hchan, hlost]

variable {op e} {bs : List Bytes} (h : s.landsNext slot ring l ch)
include h

theorem land_refused {r : Nat × Nat × Nat}
    (hrows : decideBuf (landingRows (s.takeEntry l op e (some bs)).2 slot ch op e bs) = some r) :
    s.land op slot ring e (some bs) =
      (s.takeEntry l op e (some bs)).2.refuseCmd (s.takeEntry l op e (some bs)).1 r.1 r.2.1 r.2.2 := by
  obtain rfl := landsNext_slot h
  exact (land_checks op e bs h).trans (checkCmd_refused (c := (s.takeEntry l op e (some bs)).1) hrows)

theorem land_policed (hpolice : ch.police = true)
    (hrows : decideBuf (landingRows (s.takeEntry l op e (some bs)).2 slot ch op e bs) = none) :
    let p := s.takeEntry l op e (some bs)
    let n := 64 + p.2.policedBytes slot op e + ch.bucket.overhead
    s.land op slot ring e (some bs) = if n ≤ ch.cTok ∧ n ≤ ch.pTok then
        (p.2.mapChan slot fun c => { c with cTok := c.cTok - n, pTok := c.pTok - n }).mapCmd l.land fun c => { c with passed := true }
      else (p.2.mapChan slot fun c => { c with policed := c.policed + 1 }).refuseCmd p.1 stPoliced 0 0 := by
  obtain rfl := landsNext_slot h
  exact (land_checks op e bs h).trans
    ((checkCmd_passed (c := (s.takeEntry l op e (some bs)).1) hrows).trans (police_on hpolice))

end

theorem lostLanding_faulted (s : State) (l : Landing) {ch : Chan} (h : ch.st = .faulted ∨ ch.st = .retired) :
    s.lostLanding ch l = some stFault :=
  if_pos h

theorem lostLanding_fenced {s : State} {l : Landing} {ch : Chan} (hf : ch.st ≠ .faulted) (hr : ch.st ≠ .retired)
    (hfenced : s.member.fenced = true) (hland : l.land < s.member.fenceLand) : s.lostLanding ch l = some stAbandoned :=
  (if_neg (not_or.mpr ⟨hf, hr⟩)).trans (if_pos ⟨hfenced, hland⟩)

/-- Settles O21: a landing is lost, or its first broken check refuses it, or the buckets decide. -/
theorem ringCommandsAreRefusedOrPoliced : Obligations.RingCommandsAreRefusedOrPoliced := by
  refine ⟨?refused, ?unlisted, ?policed, ?lost, ?losses⟩
  case refused =>
    intro x op slot ring e bs s l ch r hx h p hrows
    exact (exec_of_lands hx h.1).trans (congrArg _ (land_refused h hrows))
  case unlisted =>
    intro slot ring e s l ch h p
    have hrefused := land_refused (op := 0x00) (e := e) (bs := []) h (decideBuf_unlisted _ slot ch e [])
    exact (whenLive_live (fun s => s.land 0x00 slot ring e (some [])) s h.1).trans (congrArg _ hrefused)
  case policed =>
    intro x op slot ring e bs s l ch hx h hpolice p hrows n
    exact (exec_of_lands hx h.1).trans (congrArg _ (land_policed h hpolice hrows))
  case lost =>
    intro x op slot ring e b s l ch st hx hlive hnext hchan hlost p
    exact (exec_of_lands hx hlive).trans (congrArg _ (land_lost op e b hnext hchan hlost))
  case losses => exact fun s l ch => ⟨lostLanding_faulted s l, lostLanding_fenced⟩

/-! ### The end of a command's buffer reads (R458) -/

section
variable {s : State} {slot ring pos : Nat}

/-- The state in which the checks of a command run whose buffers have been read: the buffers kept, their bytes counted. -/
def State.buffersRead (s : State) (slot : Nat) (c : Cmd) (bs : List Bytes) : State :=
  (s.mapCmd c.land fun x => { x with bufs := some bs }).account slot 6 ((bs.map (·.length)).sum)

theorem bufferDone_none (bs : List Bytes) (h : s.reading slot ring pos = none) : s.bufferDone slot ring pos bs = s := by
  simp only [State.bufferDone, h]

variable {c : Cmd} {ch : Chan} {bs : List Bytes} (hread : s.reading slot ring pos = some c) (hchan : tget s.chans slot = some ch)
include hread hchan

theorem bufferDone_checks :
    s.bufferDone slot ring pos bs = (s.buffersRead slot c bs).checkCmd ch { c with bufs := some bs } bs := by
  simp only [State.bufferDone, hread, hchan, State.buffersRead]

theorem bufferDone_refused {r : Nat × Nat × Nat}
    (hrows : decideBuf (landingRows (s.buffersRead slot c bs) c.slot ch c.op c.entry bs) = some r) :
    s.bufferDone slot ring pos bs = (s.buffersRead slot c bs).refuseCmd { c with bufs := some bs } r.1 r.2.1 r.2.2 :=
  (bufferDone_checks hread hchan).trans (checkCmd_refused (c := { c with bufs := some bs }) hrows)

theorem bufferDone_passed (hpolice : ch.police = false)
    (hrows : decideBuf (landingRows (s.buffersRead slot c bs) c.slot ch c.op c.entry bs) = none) :
    s.bufferDone slot ring pos bs = (s.buffersRead slot c bs).mapCmd c.land fun x => { x with passed := true } :=
  (bufferDone_checks hread hchan).trans ((checkCmd_passed (c := { c with bufs := some bs }) hrows).trans (police_off hpolice))

end

/-! ### Host accesses that failed (R349, R359, R458) -/

section
variable {s : State} {slot : Nat}

theorem accessFailed_entryRead (ring : Nat) {ch : Chan} (hchan : tget s.chans slot = some ch) :
    s.accessFailed slot (.entryRead ring) = s.fault slot 2 ring := by
  simp only [State.accessFailed, hchan, Option.isSome_some, if_true]

/-- The ring's pending interrupt goes with the write that failed (log entry 45). -/
theorem accessFailed_write (ring : Nat) {ch : Chan} (hchan : tget s.chans slot = some ch) :
    s.accessFailed slot (.write ring) = (s.unsignal slot ring).fault slot 2 ring := by
  simp only [State.accessFailed, hchan, Option.isSome_some, if_true]

theorem accessFailed_buffer {ring pos : Nat} {c : Cmd} (field byte : Nat) (hread : s.reading slot ring pos = some c) :
    s.accessFailed slot (.buffer ring pos field byte) = s.refuseCmd c stInvalid (min (0x1000 + byte) 0xFFFFFFFE) field := by
  simp only [State.accessFailed, hread]

theorem exec_hostAccessFailed (what : AccessFail) (h : s.live = true) :
    exec (.hostAccessFailed slot what) s = .next (s.accessFailed slot what) :=
  whenLive_live (fun s => s.accessFailed slot what) s h

theorem exec_hostBufferReadDone (ring pos : Nat) (bs : List Bytes) (h : s.live = true) :
    exec (.hostBufferReadDone slot ring pos bs) s = .next (s.bufferDone slot ring pos bs) :=
  whenLive_live (fun s => s.bufferDone slot ring pos bs) s h

end

/-- Settles O22: the ends of reads by the checks, the failures by what the access was. That nothing happens without a command that reads is
log entry 1. -/
theorem hostAccesses : Obligations.HostAccesses := by
  refine ⟨?passed, ?refused, ?idle, ?ring, ?buffer, ?event⟩
  case passed =>
    intro slot ring pos bs s c ch hlive hread hchan hpolice t hrows
    exact (exec_hostBufferReadDone ring pos bs hlive).trans (congrArg _ (bufferDone_passed hread hchan hpolice hrows))
  case refused =>
    intro slot ring pos bs s c ch r hlive hread hchan t hrows
    exact (exec_hostBufferReadDone ring pos bs hlive).trans (congrArg _ (bufferDone_refused hread hchan hrows))
  case idle =>
    intro slot ring pos bs s hread
    exact whenLive_fixed (fun s => s.bufferDone slot ring pos bs) s (bufferDone_none bs hread)
  case ring =>
    intro slot ring s ch hlive hchan
    exact ⟨(exec_hostAccessFailed _ hlive).trans (congrArg _ (accessFailed_entryRead ring hchan)),
      (exec_hostAccessFailed _ hlive).trans (congrArg _ (accessFailed_write ring hchan))⟩
  case buffer =>
    intro slot ring pos field byte s c hlive hread
    exact (exec_hostAccessFailed _ hlive).trans (congrArg _ (accessFailed_buffer field byte hread))
  case event => exact fun slot fn s hlive => exec_hostAccessFailed _ hlive

end Sys2Proof.Machine
end

section
/-! SUPPORT. The end of FW_STAGE's work by what is staged, and one retention flag cleared; the statement on them, settled. -/

namespace Sys2Proof.Machine

section
variable (ok : Bool) {s : State}

/-- An image awaiting verification stays staged, verified, where its write and its checks were good, and is dropped where not. -/
theorem exec_fwStageEnd_unverified {f : FwImage} (hstaged : s.boot.staged = some f) (hunverified : f.verified = false) :
    let b := { s.boot with staged := if ok && f.good then some { f with verified := true } else none }
    exec (.fwStageEnd ok) s =
      .next (State.logAdd { s with boot := b } 0x0A 0 0 f.version (if ok && f.good then stOk else stInvalid)) := by
  simp only [exec, execFwStageEnd, always, hstaged, hunverified, Bool.false_eq_true, if_false]

theorem exec_fwStageEnd_unstaged (hstaged : s.boot.staged = none) : exec (.fwStageEnd ok) s = .next s := by
  simp only [exec, execFwStageEnd, always, hstaged]

end

theorem exec_retentionFlagClear (n : Nat) (s : State) :
    exec (.retentionFlagClear n) s = .next { s with boot := { s.boot with retention := clearBit s.boot.retention n } } := rfl

/-- The bits of a mask with bit n clear, as one Boolean expression. -/
theorem hasBit_clearBit_eq_and (m n i : Nat) : hasBit (clearBit m n) i = (hasBit m i && i != n) := by
  rw [hasBit_clearBit]
  split
  case isTrue hsame => simp [hsame]
  case isFalse hother => simp [hother]

/-- Settles O54: the end of FW_STAGE by what is staged, and a flag cleared by its bit alone. That a failure's status is INVALID is log
entry 9. -/
theorem imageAndRetention : Obligations.ImageAndRetention := by
  refine ⟨?verified, ?unstaged, ?cleared, ?bits⟩
  case verified => exact fun ok s f hstaged hunverified => exec_fwStageEnd_unverified ok hstaged hunverified
  case unstaged => exact fun ok s hstaged => exec_fwStageEnd_unstaged ok hstaged
  case cleared => exact exec_retentionFlagClear
  case bits => exact hasBit_clearBit_eq_and

end Sys2Proof.Machine
end

section
/-! SUPPORT. Work taken back, the training of flash channels, and what a cold and a warm start leave; the statement on starts that reach
READY, settled. -/

namespace Sys2Proof.Machine

/-! ### Work taken back (log entry 31) -/

section
variable {K : EaselSt × Tbl Mailbox × Tbl EvRing × Tbl Aperture × TimeSt × Keys × Boot × HostPort × Tbl Histo × Tbl Graph × Units × Nat}
variable {s : State} (h : Calm K s)
include h

theorem touch_calm (key row : Nat) : Calm K (s.touch key row) := by
  unfold State.touch
  exact calm_ite h (readChunk_calm _ _ _ h)

theorem setBitTo_calm (slot : Nat) (set : Handle) (x : AllowSet) (row : Nat) (b : Bool) : Calm K (s.setBitTo slot set x row b) := by
  have htouched := touch_calm h (objKey slot set) row
  unfold State.setBitTo
  exact calm_ite htouched htouched

theorem clearRow_calm (slot : Nat) (index : Handle) (row : Nat) : Calm K (s.clearRow slot index row) :=
  calm_foldl (tombBit_calm _ _ _ _ _ (touch_calm h _ _)) fun _ _ ha => setBitTo_calm ha _ _ _ _ _

theorem undoEntry_calm (e : JEntry) : Calm K (s.undoEntry e) := by
  unfold State.undoEntry
  split
  case h_1 => exact mapIndex_calm _ _ _ _ h
  case h_2 => exact mapIndex_calm _ _ _ _ (clearRow_calm h _ _ _)
  case h_3 => exact mapIndex_calm _ _ _ _ (tombBit_calm _ _ _ _ _ h)
  case h_4 =>
    split
    · exact setBitTo_calm h _ _ _ _ _
    · exact h
  case h_5 => exact mapTable_calm _ _ _ _ (mapIndex_calm _ _ _ _ h)
  case h_6 => exact mapTable_calm _ _ _ _ h
  case h_7 => exact mapIndex_calm _ _ _ _ h
  case h_8 => exact h

theorem takeBack_calm : Calm K s.takeBack :=
  calm_foldl h fun _ e ha => undoEntry_calm ha e

end

theorem keys_of_calm {s t : State}
    (h : Calm (s.easel, s.mbs, s.evRings, s.aps, s.time, s.keys, s.boot, s.host, s.histos, s.graphs, s.units, s.frame.num) t) :
    t.keys = s.keys := by
  simp only [Calm, CalmOf, Prod.mk.injEq] at h
  obtain ⟨_, _, _, _, _, hkeys, _⟩ := h
  exact hkeys

theorem takeBack_keys (s : State) : s.takeBack.keys = s.keys := keys_of_calm (takeBack_calm (calm_self s))

/-! ### The training of flash channels (R251, R276) -/

/-- `t` is `s` but for what the training of flash channels may write: the flash, the rows that the next pass of a table writes, the mark
of a degraded node, the log and the events. -/
def State.TrainsTo (s t : State) : Prop :=
  ∃ f tables degraded log next events,
    t = { s with flash := f, tables := tables, power := { s.power with degraded := degraded }, log := log, logNext := next, events := events }

namespace State.TrainsTo

theorem refl (s : State) : s.TrainsTo s := ⟨_, _, _, _, _, _, rfl⟩

theorem trans {s t u : State} (hst : s.TrainsTo t) (htu : t.TrainsTo u) : s.TrainsTo u := by
  obtain ⟨_, _, _, _, _, _, rfl⟩ := hst
  obtain ⟨_, _, _, _, _, _, rfl⟩ := htu
  exact ⟨_, _, _, _, _, _, rfl⟩

theorem foldl {α : Type} {f : State → α → State} (hf : ∀ (s : State) x, s.TrainsTo (f s x)) (l : List α) (s : State) :
    s.TrainsTo (l.foldl f s) := by
  induction l generalizing s with
  | nil => exact refl s
  | cons x l ih => exact (hf s x).trans (ih (f s x))

end State.TrainsTo

theorem mapFlash_trainsTo (s : State) (f : Flash → Flash) : s.TrainsTo (s.mapFlash f) := ⟨_, _, _, _, _, _, rfl⟩

theorem setMap_trainsTo (s : State) (folio : Nat) (e : Option MapEntry) : s.TrainsTo (s.setMap folio e) := by
  unfold State.setMap State.nodeEntry
  exact (mapFlash_trainsTo _ _).trans (mapFlash_trainsTo _ _)

theorem logAdd_trainsTo (s : State) (typ chan object d0 data : Nat) : s.TrainsTo (s.logAdd typ chan object d0 data) :=
  ⟨_, _, _, _, _, _, rfl⟩

theorem raiseNode_trainsTo (s : State) (code d0 d1 d2 : Nat) : s.TrainsTo (s.raiseNode code d0 d1 d2) := ⟨_, _, _, _, _, _, rfl⟩

theorem tables_trainsTo (s : State) (tables : Tbl Table) : s.TrainsTo { s with tables := tables } := ⟨_, _, _, _, _, _, rfl⟩

theorem degraded_trainsTo (s : State) (b : Bool) : s.TrainsTo { s with power := { s.power with degraded := b } } :=
  ⟨_, _, _, _, _, _, rfl⟩

theorem loseDies_trainsTo (s : State) (ds : List Nat) : s.TrainsTo (s.loseDies ds) := by
  have hmap : ∀ (a : State) (p : Nat × MapEntry), a.TrainsTo (a.setMap p.1 (some { p.2 with state := 2 })) :=
    fun a p => setMap_trainsTo a _ _
  exact (State.TrainsTo.foldl hmap _ s).trans ((mapFlash_trainsTo _ _).trans (tables_trainsTo _ _))

theorem retireFlash_trainsTo (s : State) (chan cause : Nat) : s.TrainsTo (s.retireFlash chan cause) := by
  unfold State.retireFlash
  split
  case isTrue => exact .refl s
  case isFalse =>
    exact (loseDies_trainsTo s _).trans ((mapFlash_trainsTo _ _).trans ((degraded_trainsTo _ true).trans
      ((raiseNode_trainsTo _ _ _ _ _).trans (logAdd_trainsTo _ _ _ _ _ _))))

theorem trainFlash_trainsTo (s : State) (l : List (Nat × Option Nat)) : s.TrainsTo (s.trainFlash l) := by
  refine State.TrainsTo.foldl (fun a c => ?_) l s
  split
  · split
    · exact mapFlash_trainsTo a _
    · exact retireFlash_trainsTo a _ _
  · exact retireFlash_trainsTo a _ _

theorem trainFlash_keeps (s : State) (l : List (Nat × Option Nat)) :
    (s.trainFlash l).chans = s.chans ∧ (s.trainFlash l).dram = s.dram ∧ (s.trainFlash l).keys = s.keys := by
  obtain ⟨_, _, _, _, _, _, h⟩ := trainFlash_trainsTo s l
  rw [h]
  exact ⟨rfl, rfl, rfl⟩

/-! ### READY (R415, R432, R435) -/

/-- Records kept for the log change the log alone. -/
theorem foldl_logAdd (l : List (Nat × Nat × Nat)) (s : State) :
    ∃ log next, l.foldl (fun acc c => acc.logAdd c.1 0 0 c.2.1 c.2.2) s = { s with log := log, logNext := next } := by
  induction l generalizing s with
  | nil => exact ⟨_, _, rfl⟩
  | cons c l ih =>
    obtain ⟨log, next, h⟩ : ∃ log next, s.logAdd c.1 0 0 c.2.1 c.2.2 = { s with log := log, logNext := next } := ⟨_, _, rfl⟩
    rw [List.foldl_cons, h]
    exact ih _

/-- READY writes the log, the time with its grandmaster and the boot part alone; nothing is held for the log any more. -/
theorem reachReady_writes (s : State) (i : StartIn) (warm : Bool) :
    ∃ log next time boot, boot.warmFails = 0 ∧ boot.heldCauses = [] ∧
      s.reachReady i warm = { s with log := log, logNext := next, time := time, boot := boot } := by
  obtain ⟨log, next, hlog⟩ := foldl_logAdd s.boot.heldCauses s
  unfold State.reachReady
  dsimp only
  rw [hlog]
  exact ⟨log, next, _, _, rfl, rfl, rfl⟩

theorem reachReady_keeps (s : State) (i : StartIn) (warm : Bool) :
    let t := s.reachReady i warm
    t.chans = s.chans ∧ t.indexes = s.indexes ∧ t.tables = s.tables ∧ t.graphs = s.graphs ∧ t.streams = s.streams ∧ t.dram = s.dram ∧
      t.keys = s.keys := by
  obtain ⟨_, _, _, _, _, _, h⟩ := reachReady_writes s i warm
  rw [h]
  exact ⟨rfl, rfl, rfl, rfl, rfl, rfl, rfl⟩

/-! ### What every start leaves (R433 to R439) -/

/-- The node runs in ACTIVE, in frame 0, with no easel, no work and no queued change. -/
def State.AtStart (t : State) : Prop :=
  t.live = true ∧ t.power.state = 0 ∧ t.frame.num = 0 ∧ t.easel.inForce = none ∧ t.work = [] ∧ t.landings = [] ∧ t.changes = []

theorem started_atStart (s : State) (i : StartIn) : (s.started i).AtStart := ⟨rfl, rfl, rfl, rfl, rfl, rfl, rfl⟩

theorem State.TrainsTo.atStart {s t : State} (htrains : s.TrainsTo t) (h : s.AtStart) : t.AtStart := by
  obtain ⟨_, _, _, _, _, _, rfl⟩ := htrains
  exact h

/-- READY is reached with the fail counter 0 and nothing held for the log. -/
theorem reachReady_atStart {s : State} (i : StartIn) (warm : Bool) (h : s.AtStart) :
    let t := s.reachReady i warm
    t.AtStart ∧ t.boot.warmFails = 0 ∧ t.boot.heldCauses = [] := by
  obtain ⟨_, _, _, _, hfails, hheld, heq⟩ := reachReady_writes s i warm
  rw [heq]
  exact ⟨h, hfails, hheld⟩

/-- A channel without an attachment, a key or rings. -/
def Chan.Unattached (c : Chan) : Prop := c.st ≠ .active ∧ c.key = none ∧ ∀ r ∈ c.rings, r = Ring.lost

theorem Chan.detached_unattached (c : Chan) : c.detached.Unattached := by
  refine ⟨?_, rfl, ?_⟩
  · unfold Chan.detached
    split
    · simp
    · assumption
  · intro r hr
    obtain ⟨_, _, rfl⟩ := List.mem_map.mp hr
    rfl

theorem Chan.restored_unattached (c : Chan) : c.restored.Unattached := c.detached_unattached

/-! ### The cold start (R433) -/

/-- What a cold start works on once its steps found no fault: what was not programmed taken back, the flash map loaded, the channels of
the flash trained, the device section written. -/
def State.coldLoaded (s : State) (i : StartIn) : State :=
  (((((s.takeBack.mapFlash Flash.loadMap).rebase fun _ => 0).tested i).trainFlash
    (trainings i.flash (channelMask ((topology i.flash).map (·.1))))).writeDevice)

/-- What the flash holds is restored; where no map is found the flash is formatted. -/
def State.coldRestored (s : State) (i : StartIn) : State := if i.mapFound then (s.coldLoaded i).restore else (s.coldLoaded i).format

section
variable (s : State) (i : StartIn)

theorem coldRestored_found (h : i.mapFound = true) : s.coldRestored i = (s.coldLoaded i).restore := if_pos h

theorem coldRestored_formatted (h : i.mapFound = false) : s.coldRestored i = (s.coldLoaded i).format := if_neg (by simp [h])

theorem coldLoaded_keys : (s.coldLoaded i).keys = s.keys := by
  obtain ⟨_, _, hkeys⟩ := trainFlash_keeps (((s.takeBack.mapFlash Flash.loadMap).rebase fun _ => 0).tested i)
    (trainings i.flash (channelMask ((topology i.flash).map (·.1))))
  exact hkeys.trans (takeBack_keys s)

theorem coldRestored_keys : (s.coldRestored i).keys = s.keys := by
  unfold State.coldRestored
  split <;> exact coldLoaded_keys s i

theorem coldRestored_lost : (s.coldRestored i).graphs = [] ∧ (s.coldRestored i).streams = [] := by
  unfold State.coldRestored
  split <;> exact ⟨rfl, rfl⟩

theorem coldRestored_unattached : ∀ p ∈ (s.coldRestored i).chans, p.2.Unattached := by
  cases hfound : i.mapFound with
  | true =>
    intro p hp
    rw [coldRestored_found s i hfound] at hp
    obtain ⟨q, _, rfl⟩ := List.mem_map.mp hp
    exact q.2.restored_unattached
  | false =>
    rw [coldRestored_formatted s i hfound]
    exact List.forall_mem_nil _

/-- The state in which a cold start reaches READY: one in frame 0 with what was restored or formatted. -/
theorem coldStart_ready (h : s.coldFailure i = none) :
    ∃ u : State, s.coldStart i = u.reachReady i false ∧ u.AtStart ∧ u.keys.pufEpoch = s.keys.pufEpoch + 1 ∧
      u.chans = (s.coldRestored i).chans ∧ u.indexes = (s.coldRestored i).indexes ∧ u.tables = (s.coldRestored i).tables ∧
      u.graphs = (s.coldRestored i).graphs ∧ u.streams = (s.coldRestored i).streams ∧ u.dram.mem = (s.coldRestored i).dram.mem := by
  rw [State.coldStart, h]
  have hepoch := congrArg (fun k => k.pufEpoch + 1) (coldRestored_keys s i)
  exact ⟨_, rfl, started_atStart (s.coldRestored i) i, hepoch, rfl, rfl, rfl, rfl, rfl, rfl⟩

end

section
variable {s : State} {i : StartIn} (hrun : s.power.run = .starting false)
include hrun

theorem exec_coldStart : exec (.coldStart i) s = .next (s.regulatorOn.coldStart i) := congrArg _ (if_pos hrun)

theorem exec_coldStart_fails {c : Nat} (h : s.coldFailure i = some c) : exec (.coldStart i) s = .next (s.regulatorOn.startFailed c) := by
  have hfail : s.regulatorOn.coldFailure i = some c := h
  rw [exec_coldStart hrun, State.coldStart, hfail]

end

/-! ### The warm start (R434) -/

/-- The state in which a warm start reaches READY: one in frame 0 with the stacks kept and the channels detached. -/
theorem warmStart_ready {s : State} {i : StartIn} (h : s.warmFailure i = none) :
    ∃ u : State, s.warmStart i = u.reachReady i true ∧ u.AtStart ∧ u.keys.pufEpoch = s.keys.pufEpoch ∧ u.dram.mem = s.dram.mem ∧
      u.chans = (s.rebase fun _ => 0).chans.map fun p => (p.1, p.2.detached) := by
  rw [State.warmStart, h]
  obtain ⟨hchans, hdram, hkeys⟩ := trainFlash_keeps (State.started { s.rebase fun _ => 0 with
    chans := (s.rebase fun _ => 0).chans.map fun p => (p.1, p.2.detached) } i) (trainings i.flash s.flash.live)
  exact ⟨_, rfl, (trainFlash_trainsTo _ _).atStart (started_atStart _ i), congrArg (·.pufEpoch) hkeys, congrArg (·.mem) hdram, hchans⟩

section
variable {s : State} {i : StartIn} (hrun : s.power.run = .starting true)
include hrun

theorem exec_warmStart : exec (.warmStart i) s = .next (s.regulatorOn.warmStart i) := congrArg _ (if_pos hrun)

theorem exec_warmStart_fails {c : Nat} (h : s.warmFailure i = some c) : exec (.warmStart i) s = .next (s.regulatorOn.startFailed c) := by
  have hfail : s.regulatorOn.warmFailure i = some c := h
  rw [exec_warmStart hrun, State.warmStart, hfail]

end

/-- Settles O49: both starts end in `State.reachReady`, which changes the log, the time and the boot part alone; the cold one on what it
restored or formatted, the warm one on its detached channels. -/
theorem startsReachReady : Obligations.StartsReachReady := by
  refine ⟨?cold, ?warm, ?coldFails, ?warmFails, ?regulator, ?notStarting⟩
  case cold =>
    intro i s hrun h
    obtain ⟨u, hu, hstart, hepoch, huchans, huindexes, hutables, hugraphs, hustreams, humem⟩ := coldStart_ready s.regulatorOn i h
    obtain ⟨⟨hlive, hstate, hnum, heasel, hwork, hland, hchanges⟩, hfails, hheld⟩ := reachReady_atStart i false hstart
    obtain ⟨hchans, hindexes, htables, hgraphs, hstreams, hdram, hkeys⟩ := reachReady_keeps u i false
    obtain ⟨hnoGraphs, hnoStreams⟩ := coldRestored_lost s.regulatorOn i
    refine ⟨_, (exec_coldStart hrun).trans (congrArg _ hu), hlive, hstate, hnum, heasel, hwork, hland, hchanges,
      (congrArg (·.pufEpoch) hkeys).trans hepoch, hfails, hheld, hgraphs.trans (hugraphs.trans hnoGraphs),
      hstreams.trans (hustreams.trans hnoStreams), ?_, fun hnone => ?_⟩
    · rw [hchans, huchans]
      exact coldRestored_unattached s.regulatorOn i
    · rw [hchans, hindexes, htables, hdram, huchans, huindexes, hutables, humem, coldRestored_formatted _ _ hnone]
      exact ⟨rfl, rfl, rfl, rfl⟩
  case warm =>
    intro i s hrun h
    obtain ⟨u, hu, hstart, hepoch, humem, huchans⟩ := warmStart_ready (s := s.regulatorOn) h
    obtain ⟨⟨hlive, hstate, hnum, heasel, hwork, hland, hchanges⟩, hfails, hheld⟩ := reachReady_atStart i true hstart
    obtain ⟨hchans, _, _, _, _, hdram, hkeys⟩ := reachReady_keeps u i true
    refine ⟨_, (exec_warmStart hrun).trans (congrArg _ hu), hlive, hstate, hnum, heasel, hwork, hland, hchanges,
      (congrArg (·.mem) hdram).trans humem, (congrArg (·.pufEpoch) hkeys).trans hepoch, hfails, hheld, ?_, ?_⟩
    · simp only [hchans, huchans, State.rebase, State.regulatorOn, emit_chans, List.map_map, Function.comp_def]
    · intro p hp
      rw [hchans, huchans] at hp
      obtain ⟨q, _, rfl⟩ := List.mem_map.mp hp
      exact q.2.detached_unattached
  case coldFails => exact fun i s c hrun h => exec_coldStart_fails hrun h
  case warmFails => exact fun i s c hrun h => exec_warmStart_fails hrun h
  case regulator => exact fun s => rfl
  case notStarting => exact fun i s h => ⟨congrArg _ (if_neg (h false)), congrArg _ (if_neg (h true))⟩

end Sys2Proof.Machine
end

section
/-! SUPPORT. A request of a power or a service state, and SECTOR_GATE, where their checks pass; the statement on them, settled. -/

namespace Sys2Proof.Machine

/-! ### Requests of a power or a service state (R418, R422) -/

/-- A request of a service state that is to be kept. -/
def State.wantService (s : State) (g : Go) : State :=
  if g.arg 0x14 6 1 == 1 || g.arg 0x14 4 2 == s.power.service then s
  else s.mapPower fun p => { p with wantService := some (g.arg 0x14 4 2, s.acceptFrame g.cycle) }

/-- A request of a power state that is to be kept after it. -/
def State.wantPower (s : State) (g : Go) : State :=
  if g.arg 0x14 0 3 = 7 ∨ g.arg 0x14 0 3 = s.power.state ∨ s.power.want.isSome then s.wantService g
  else (s.wantService g).wantState (g.arg 0x14 0 3) (s.acceptFrame g.cycle)

/-- A request that leaves nothing waiting is complete. -/
def State.powerRes (s : State) : MbRes := if s.power.want.isNone && s.power.wantService.isNone then MbRes.ok else { later := true }

/-- A VOUT_COMMAND leaves what is waited for as it is. -/
@[simp] theorem setpoint_want (s : State) (mv : Nat) : (s.setpoint mv).power.want = s.power.want := by
  unfold State.setpoint
  split <;> rfl

theorem wantState_want (s : State) (st x : Nat) : (s.wantState st x).power.want = some (st, x) := by
  unfold State.wantState
  split
  · rfl
  · split
    · exact setpoint_want _ _
    · rfl

theorem wantState_drains (s : State) (x : Nat) {st : Nat} (hst : 3 ≤ st) (hdrain : s.power.drainFrom = none) :
    (s.wantState st x).power.drainFrom = some (x + 1) := by
  simp only [State.wantState, if_pos hst, mapPower_power, hdrain]

theorem powerRes_status (s : State) : s.powerRes.status = 0 := by
  unfold State.powerRes
  split <;> rfl

theorem powerRes_waits {s : State} (h : s.power.want.isSome ∨ s.power.wantService.isSome) : s.powerRes = { later := true } := by
  refine if_neg ?_
  rw [Bool.and_eq_true, Option.isNone_iff_eq_none, Option.isNone_iff_eq_none]
  rintro ⟨hwant, hservice⟩
  simp [hwant, hservice] at h

section
variable {g : Go} {s : State}

theorem wantService_kept (h : g.arg 0x14 6 1 = 1) : s.wantService g = s := if_pos (by simp [h])

theorem wantService_asked (hkeep : g.arg 0x14 6 1 ≠ 1) (hservice : g.arg 0x14 4 2 ≠ s.power.service) :
    s.wantService g = s.mapPower fun p => { p with wantService := some (g.arg 0x14 4 2, s.acceptFrame g.cycle) } :=
  if_neg (by simp [hkeep, hservice])

theorem wantPower_serviceAlone (h : g.arg 0x14 0 3 = 7) : s.wantPower g = s.wantService g := if_pos (.inl h)

theorem wantPower_asked (hst : g.arg 0x14 0 3 ≠ 7) (hstate : g.arg 0x14 0 3 ≠ s.power.state) (hwant : s.power.want = none) :
    s.wantPower g = (s.wantService g).wantState (g.arg 0x14 0 3) (s.acceptFrame g.cycle) :=
  if_neg (by simp [hst, hstate, hwant])

theorem powerSetBody_wants
    (h : decideRows [g.pfOnly, inv [g.strayArgs [(0x14, 0, 3), (0x14, 4, 3)],
      (s.stateBroken (g.arg 0x14 0 3) || (!(g.arg 0x14 6 1 == 1) && s.serviceBroken (g.arg 0x14 4 2)), 0x14)]] = none) :
    powerSetBody g s = (s.wantPower g, (s.wantPower g).powerRes) := by
  rw [powerSetBody, checked_none _ _ _ h]
  rfl

/-- The six commands of POWER_STATE_SET do one work. -/
theorem exec_powerSet {i : Instr} (hi : i = .powerSetActive g ∨ i = .powerSetActiveLow g ∨ i = .powerSetIdle g ∨ i = .powerSetStandby g ∨
      i = .powerSetOffReady g ∨ i = .powerSetService g) (htakes : s.takesGo g)
    (h : decideRows [g.pfOnly, inv [g.strayArgs [(0x14, 0, 3), (0x14, 4, 3)],
      (s.stateBroken (g.arg 0x14 0 3) || (!(g.arg 0x14 6 1 == 1) && s.serviceBroken (g.arg 0x14 4 2)), 0x14)]] = none) :
    exec i s = .next (s.answered ((s.begun 0x40 g).wantPower g) 0x40 g ((s.begun 0x40 g).wantPower g).powerRes) := by
  have hwork := mailbox_ok htakes false (powerSetBody_wants (s := s.begun 0x40 g) h) (powerRes_status _)
  obtain rfl | rfl | rfl | rfl | rfl | rfl := hi <;> exact hwork

/-- A request of a service state alone breaks no rule of the power states. -/
theorem stateBroken_service : s.stateBroken 7 = false := rfl

theorem sectorGateBody_plans
    (h : decideRows [g.pfOnly, inv [g.strayArgs [(0x14, 0, 16)], (s.gateBroken (g.arg 0x14 0 16), 0x14)]] = none) :
    sectorGateBody g s = (s.plan (s.acceptFrame g.cycle) g.fn (.sectors (g.arg 0x14 0 16)), { later := true }) := by
  rw [sectorGateBody, checked_none _ _ _ h]

end

/-- Settles O14: the six commands run one body, of which the requests of a state alone and of a service state alone are cases. That a state
asked for while another is waited for is not taken up is log entry 46. -/
theorem powerCommandsTakeEffect : Obligations.PowerCommandsTakeEffect := by
  refine ⟨?state, ?want, ?service, ?both, ?gate⟩
  case state =>
    intro i g s hi htakes hrows hkeep hstate hwant
    have hst : g.arg 0x14 0 3 ≠ 7 := by omega
    have hcommand : i = .powerSetActive g ∨ i = .powerSetActiveLow g ∨ i = .powerSetIdle g ∨ i = .powerSetStandby g ∨
        i = .powerSetOffReady g ∨ i = .powerSetService g := by
      obtain ⟨rfl, _⟩ | ⟨rfl, _⟩ | ⟨rfl, _⟩ | ⟨rfl, _⟩ | ⟨rfl, _⟩ := hi <;> simp
    have hasked : (s.begun 0x40 g).wantPower g = (s.begun 0x40 g).wantState (g.arg 0x14 0 3) (s.acceptFrame g.cycle) := by
      rw [wantPower_asked (s := s.begun 0x40 g) hst hstate hwant, wantService_kept hkeep]
      rfl
    rw [exec_powerSet hcommand htakes (by simpa [hkeep] using hrows), hasked, powerRes_waits (.inl (by simp [wantState_want]))]
  case want => exact fun s st x => ⟨wantState_want s st x, fun hst hdrain => wantState_drains s x hst hdrain⟩
  case service =>
    intro g s htakes hst hkeep hservice hrows
    have hasked : (s.begun 0x40 g).wantPower g =
        (s.begun 0x40 g).mapPower fun p => { p with wantService := some (g.arg 0x14 4 2, s.acceptFrame g.cycle) } :=
      (wantPower_serviceAlone hst).trans (wantService_asked hkeep hservice)
    have hgiven : (g.arg 0x14 6 1 == 1) = false := beq_eq_false_iff_ne.mpr hkeep
    rw [exec_powerSet (by simp) htakes (by simpa [hst, stateBroken_service, hgiven] using hrows), hasked, powerRes_waits (.inr rfl)]
  case both => exact fun i g s hi htakes hrows => exec_powerSet hi htakes hrows
  case gate =>
    exact fun g s htakes hrows => mailbox_ok htakes false (sectorGateBody_plans (s := s.begun 0x41 g) hrows) rfl

end Sys2Proof.Machine
end

section
/-! SUPPORT. The choice of a start, the count of those that failed, and recovery; the statement on them, settled. -/

namespace Sys2Proof.Machine

/-! ### The choice of a start (R432, R438) -/

section
variable (s : State) (m : Nat)

/-- The host port at its defaults, with the sampled BOOT_MODE. -/
def State.sampled : State :=
  { s with mbs := [], aps := [], evRings := [], boot := { s.boot with bootMode := m }, host := { s.host with vfs := 0, fnDiscards := [] } }

/-- A start of an image and a kind under way. -/
def State.startsAs (golden warm : Bool) : State :=
  { s.sampled m with boot := { s.boot with bootMode := m, golden := golden }
                     power := { s.power with run := .starting warm, faultN := false } }

variable {s m}

theorem chooseStart_recovery (h : m = 3 ∨ 3 ≤ s.boot.goldenFails) : s.chooseStart m = (s.sampled m).enterRecovery := if_pos h

variable (hrecovery : ¬(m = 3 ∨ 3 ≤ s.boot.goldenFails))
include hrecovery

theorem chooseStart_golden (h : m = 2 ∨ 3 ≤ s.boot.coldFails) : s.chooseStart m = s.startsAs m true false :=
  (if_neg hrecovery).trans (if_pos h)

variable (hgolden : ¬(m = 2 ∨ 3 ≤ s.boot.coldFails))
include hgolden

theorem chooseStart_cold (h : m = 1 ∨ 3 ≤ s.boot.warmFails ∨ s.stopped = false ∨ s.boot.retention ≠ stackMask ∨ s.boot.startCold = true) :
    s.chooseStart m = s.startsAs m false false :=
  (if_neg hrecovery).trans ((if_neg hgolden).trans (if_pos (by simpa using h)))

theorem chooseStart_warm
    (h : ¬(m = 1 ∨ 3 ≤ s.boot.warmFails ∨ s.stopped = false ∨ s.boot.retention ≠ stackMask ∨ s.boot.startCold = true)) :
    s.chooseStart m = s.startsAs m false true :=
  (if_neg hrecovery).trans ((if_neg hgolden).trans (if_neg (by simpa using h)))

end

/-- One image and one kind of start, or recovery: no other choice. -/
theorem chooseStart_cases (s : State) (m : Nat) :
    s.chooseStart m = (s.sampled m).enterRecovery ∨ ∃ golden warm, s.chooseStart m = s.startsAs m golden warm := by
  by_cases hrecovery : m = 3 ∨ 3 ≤ s.boot.goldenFails
  · exact .inl (chooseStart_recovery hrecovery)
  by_cases hgolden : m = 2 ∨ 3 ≤ s.boot.coldFails
  · exact .inr ⟨_, _, chooseStart_golden hrecovery hgolden⟩
  by_cases hcold : m = 1 ∨ 3 ≤ s.boot.warmFails ∨ s.stopped = false ∨ s.boot.retention ≠ stackMask ∨ s.boot.startCold = true
  · exact .inr ⟨_, _, chooseStart_cold hrecovery hgolden hcold⟩
  · exact .inr ⟨_, _, chooseStart_warm hrecovery hgolden hcold⟩

theorem chooseStart_defaults (s : State) (m : Nat) :
    (s.chooseStart m).mbs = [] ∧ (s.chooseStart m).aps = [] ∧ (s.chooseStart m).evRings = [] ∧ (s.chooseStart m).host.vfs = 0 ∧
      (s.chooseStart m).boot.bootMode = m := by
  obtain h | ⟨golden, warm, h⟩ := chooseStart_cases s m
  · rw [h]; exact ⟨rfl, rfl, rfl, rfl, rfl⟩
  · rw [h]; exact ⟨rfl, rfl, rfl, rfl, rfl⟩

/-! ### Starts that fail, and recovery (R435, R436, R452) -/

section
variable {s : State} (c : Nat)

/-- The record of a start's failure kept for the next log, and its retry with BOOT_MODE as 0. -/
def State.retried (s : State) (b : Boot) : State :=
  (State.writeDevice { s with boot := { b with heldCauses := b.heldCauses ++ [(0x08, c, 0)] } }).chooseStart 0

theorem startFailed_warm (h : s.power.run = .starting true) :
    s.startFailed c = s.retried c { s.boot with warmFails := s.boot.warmFails + 1 } := by
  simp only [State.startFailed, h, if_true, State.retried]

theorem startFailed_cold (h : s.power.run = .starting false) (hgolden : s.boot.golden = false) :
    s.startFailed c = s.retried c { s.boot with coldFails := s.boot.coldFails + 1 } := by
  simp only [State.startFailed, h, hgolden, Bool.false_eq_true, if_false, State.retried]

theorem startFailed_golden (h : s.power.run = .starting false) (hgolden : s.boot.golden = true) :
    s.startFailed c = s.retried c { s.boot with goldenFails := s.boot.goldenFails + 1 } := by
  simp only [State.startFailed, h, hgolden, Bool.false_eq_true, if_false, if_true, State.retried]

theorem startFailed_notStarting (h : ∀ w, s.power.run ≠ .starting w) : s.startFailed c = s := by
  unfold State.startFailed
  split
  case h_1 w hrun => exact absurd hrun (h w)
  case h_2 => rfl

end

/-- Settles O48, in the order of the choice. That a release, a failure or a rise of PWRGOOD that does not apply changes nothing is log
entry 1. -/
theorem startsAreChosenAndCounted : Obligations.StartsAreChosenAndCounted := by
  refine ⟨?rise, ?up, fun m s => chooseStart_defaults s m, ?release, ?noHold, ?toRecovery, ?golden, ?kinds, ?warmFails, ?coldFails,
    ?goldenFails, ?limit, ?notStarting, ?recovery⟩
  case rise => exact fun m s h => ⟨congrArg _ (if_pos h), congrArg _ (if_pos h)⟩
  case up => exact fun m c s h => congrArg _ (if_neg h)
  case release => exact fun s h => congrArg _ (if_pos h)
  case noHold => exact fun s h => congrArg _ (if_neg h)
  case toRecovery =>
    intro m s h
    rw [chooseStart_recovery h]
    exact ⟨rfl, rfl⟩
  case golden =>
    intro m s hmode hfails h
    rw [chooseStart_golden (by omega) h]
    exact ⟨rfl, rfl⟩
  case kinds =>
    intro m s hmode3 hmode2 hgoldenFails hcoldFails
    have hrecovery : ¬(m = 3 ∨ 3 ≤ s.boot.goldenFails) := by omega
    have hgolden : ¬(m = 2 ∨ 3 ≤ s.boot.coldFails) := by omega
    by_cases hkind : m = 1 ∨ 3 ≤ s.boot.warmFails ∨ s.stopped = false ∨ s.boot.retention ≠ stackMask ∨ s.boot.startCold = true
    · rw [chooseStart_cold hrecovery hgolden hkind]
      refine ⟨rfl, rfl, fun _ => rfl, fun hmode hwarm hstopped hretention hstart => ?_⟩
      simp [hmode, hstopped, hretention, hstart, Nat.not_le.mpr hwarm] at hkind
    · rw [chooseStart_warm hrecovery hgolden hkind]
      exact ⟨rfl, rfl, fun h => absurd h hkind, fun _ _ _ _ _ => rfl⟩
  case warmFails => exact fun c s h => congrArg _ (startFailed_warm c h)
  case coldFails => exact fun c s h hgolden => congrArg _ (startFailed_cold c h hgolden)
  case goldenFails => exact fun c s h hgolden => congrArg _ (startFailed_golden c h hgolden)
  case limit => exact fun s => rfl
  case notStarting => exact fun c s h => congrArg _ (startFailed_notStarting c h)
  case recovery => exact fun s h => congrArg _ (if_pos h)

end Sys2Proof.Machine
end

section
/-! SUPPORT. What stops the node; the statement on it, settled. -/

namespace Sys2Proof.Machine

/-! ### Stops (R426 to R431) -/

theorem flushWaits_iff (s : State) : s.flushWaits = true ↔ ∃ f, s.power.want = some (7, f) := by
  unfold State.flushWaits
  split
  case h_1 f hwant => simp [hwant]
  case h_2 hother => simpa using hother

section
variable {s : State}

theorem stopFor_stops (cause data : Nat) (hon : s.power.run ≠ .off) (hstopped : s.power.run = .stopped → s.flushWaits = true) :
    s.stopFor cause data =
      { s with power := { s.power with run := .stopped, faultN := true, want := none }
               boot := { s.boot with startCold := true, retention := 0, heldCauses := s.boot.heldCauses ++ [(0x0E, cause, data)] } } := by
  refine if_neg ?_
  rintro (hoff | ⟨hrun, hwaits⟩)
  · exact hon hoff
  · exact Bool.false_ne_true (hwaits.symm.trans (hstopped hrun))

theorem stopFor_stopped (cause data : Nat) (hstopped : s.power.run = .stopped) (hwaits : s.flushWaits = false) :
    s.stopFor cause data = s :=
  if_pos (.inr ⟨hstopped, hwaits⟩)

theorem exec_resetThreshold (mv : Nat) : exec (.resetThreshold mv) s = .next (s.stopFor 4 (mv % 65536)) := rfl

theorem exec_thermtripN (sensor : Nat) (hon : s.power.run ≠ .off) :
    exec (.thermtripN sensor) s = .next ((s.stopFor 5 (sensor % 256)).mapPower fun p => { p with thermtripN := true }) :=
  congrArg _ (if_neg hon)

/-- A running node as PLOSS_N stops it: its work is discarded. -/
def State.plossStopped (s : State) : State :=
  { s with power := { s.power with run := .stopped, plossN := true }
           landings := [], work := [], ownerQs := [], scanParts := [], ownerFs := [], updIn := [], heldUpd := [], staged := [], took := [] }

theorem ploss_running (hrun : s.power.run = .ready) :
    s.ploss = if s.power.dip.isSome then s.plossStopped.mapPower fun p => { p with want := some (7, s.frame.num) }
      else s.plossStopped.plossFlush := by
  simp only [State.ploss, hrun]
  rfl

/-- A start, a hold and recovery are abandoned. -/
theorem ploss_notYetRunning (h : s.isStarting = true ∨ s.power.run = .hold ∨ s.power.run = .recovery) :
    s.ploss = s.mapPower fun p => { p with run := .stopped, plossN := true } := by
  unfold State.isStarting at h
  unfold State.ploss
  cases hrun : s.power.run <;> simp [hrun] at h ⊢

end

/-- The retention flags stand where the stacks refreshed themselves (log entry 32). -/
theorem pwrgoodFall_eq (s : State) :
    let p := { s.power with run := .off, faultN := false, supplyWarnN := false, thermtripN := false, dip := none, dipTail := 0, want := none }
    let kept := (s.power.run == .stopped && !s.flushWaits) || decide (3 ≤ s.power.state)
    { s with power := p, boot := { s.boot with retention := if kept then s.boot.retention else 0 } } =
      if (s.power.run = .stopped ∧ s.flushWaits = false) ∨ 3 ≤ s.power.state then { s with power := p }
      else { s with power := p, boot := { s.boot with retention := 0 } } := by
  intro p kept
  have hkept : kept = true ↔ (s.power.run = .stopped ∧ s.flushWaits = false) ∨ 3 ≤ s.power.state := by simp [kept]
  by_cases h : kept = true
  · rw [if_pos h, if_pos (hkept.mp h)]
  · rw [if_neg h, if_neg (mt hkept.mpr h)]


/-- Settles O50. That the power-loss flush waits for the end of a dip as a whole is log entry 61. -/
theorem stopsTakeEffect : Obligations.StopsTakeEffect := by
  refine ⟨?stops, ?stopped, flushWaits_iff, ?ploss, ?plossStart, ?fall⟩
  case stops =>
    intro mv sensor s hon hstopped
    refine ⟨?_, ?_⟩
    · rw [exec_resetThreshold, stopFor_stops 4 _ hon hstopped]
    · rw [exec_thermtripN sensor hon, stopFor_stops 5 _ hon hstopped]
      rfl
  case stopped =>
    intro mv sensor s hstopped hwaits
    have hon : s.power.run ≠ .off := by simp [hstopped]
    refine ⟨?_, ?_⟩
    · rw [exec_resetThreshold, stopFor_stopped 4 _ hstopped hwaits]
    · rw [exec_thermtripN sensor hon, stopFor_stopped 5 _ hstopped hwaits]
      rfl
  case ploss =>
    intro s hlive
    have hrun : s.power.run = .ready := eq_of_beq hlive
    exact ⟨fun hdip => congrArg _ ((ploss_running hrun).trans (if_neg (by simp [hdip]))),
      fun hdip => congrArg _ ((ploss_running hrun).trans (if_pos (Option.isSome_iff_ne_none.mpr hdip)))⟩
  case plossStart => exact fun s h => congrArg _ (ploss_notYetRunning h)
  case fall => exact fun s => congrArg _ (pwrgoodFall_eq s)

end Sys2Proof.Machine
end
